-- ==== Sys2Proof/Word.lean ====
section
/-! DEFINITION. The word types of the package and the names of its units. -/
namespace Sys2Proof

/-- One byte. -/
abbrev Byte := BitVec 8

/-- One register of BAR0, one lane of a vector register (R59, R415). -/
abbrev Word := BitVec 32

/-- One 64-bit register pair, one time stamp f:t (R6, R420). -/
abbrev Dword := BitVec 64

/-- Lattice core number (R8). -/
abbrev CoreId := Fin 2448

/-- Saiga engine index 68 x stack + engine (R129). -/
abbrev EngineId := Fin 1632

/-- Memory stack S00-S23. -/
abbrev StackId := Fin 24

/-- Fabric link index (Table 7-1). -/
abbrev LinkId := Fin 6

/-- Mailbox slot 8 x class + slot (Table 10-2). -/
abbrev SlotId := Fin 32

/-- Context number. -/
abbrev CtxId := Fin 16

/-- A unit that runs programs: a lattice core or a Saiga engine. -/
inductive UnitId where
  /-- Lattice core. -/
  | core (n : CoreId)
  /-- Saiga engine. -/
  | engine (e : EngineId)
deriving DecidableEq, Repr

/-- The two frame-reference inputs (R160). -/
inductive RefInput where
  | a
  | b
deriving DecidableEq, Repr

/-- The two Ibex units (R264). -/
inductive IbexUnit where
  | a
  | b
deriving DecidableEq, Repr

/-- The alias of a BAR0 access, offset bits [27:26] (R415). -/
inductive RegAlias where
  | normal
  | set
  | clear
  | toggle
deriving DecidableEq, Repr

end Sys2Proof
end

