-- ==== Sys2Proof/Syntax.lean ====
section
/-! DEFINITION. The commands: one constructor per row of spec/opcode_table.json. The table gives no
operands; the operands are the model's (log 9). Core and Saiga instructions carry the operand bits as
fetched (Table 3-5, Table 4-2); events carry the item they concern and the physical quantities that
the package measures (log 10). -/
namespace Sys2Proof

/-- The eight words of a Saiga command (R105), word 0 without its operation byte [63:56], and the number of symbols in
error that its fetch meets (R124, log 10). -/
structure SgaWords where
  w0 : BitVec 56
  w1 : Dword
  w2 : Dword
  w3 : Dword
  w4 : Dword
  w5 : Dword
  w6 : Dword
  w7 : Dword
  symbols : Nat := 0
deriving DecidableEq, Repr

/-- A host access to BAR0 (R391): its byte offset, length in DW and the byte enables of its DW. -/
structure Bar0Access where
  off : BitVec 28
  dws : Nat := 1
  enables : BitVec 4 := 0xF
deriving DecidableEq, Repr

/-- Where a datagram to port 47,460 came from, and the address it was sent to (R400). -/
structure Peer where
  addr : BitVec 128
  port : BitVec 16
  sentTo : BitVec 128
deriving DecidableEq, Repr

/-- A change of the management port's link (R397), and which of the package's addresses another node answers for when duplicate
address detection asks (RFC 4862). -/
structure PortLink where
  up : Bool
  dupLocal : Bool := false
  dupUnicast : Bool := false
deriving DecidableEq, Repr

/-- The unicast address of BEACON_CFG, and whether another node answers for it when duplicate address detection asks (R397). -/
structure Unicast where
  addr : BitVec 128
  dup : Bool := false
deriving DecidableEq, Repr

/-- Set Endpoint ID (R401): the operation and the identifier of DSP0236. -/
structure SetEid where
  op : BitVec 2 := 0
  eid : Byte
deriving DecidableEq, Repr

/-- Symbols in error that a reader meets: (line index, number of symbols) (R142, log 10). -/
abbrev Upsets := List (Nat × Nat)

/-- A mark word as received (R160, R161): the high times of its 56 cycles in 0.1 ns, cycle 0 first, the cycles since the input's previous valid mark edge, the
grid intervals begun since the last mark that the target model took, the distance of the mark
edge from the nearest tick period boundary that begins a grid interval and from the locked input's
mark edge with the measured skew taken out, both in 0.1 ns. -/
structure MarkWord where
  highs : List Nat
  cycles : Nat
  intervals : Nat
  gridError : Int
  skewError : Int
  measuredSkew : BitVec 16
deriving DecidableEq, Repr

/-- One codeword as decoded (R192): its lane, the symbols corrected (none: uncorrectable or on a
lane out of lock), its 20-bit header and its ten flits of 64 bytes. -/
structure Codeword where
  lane : Fin 16
  corrected : Option Nat
  header : BitVec 20
  flits : List (List Byte)
deriving DecidableEq, Repr

/-- One packet: a header flit of 64 bytes and its payload flits (R214). `refused` says that a read response answers a
request that its target refused (R154), which no field of the header carries (log 22). -/
structure Packet where
  hdr : List Byte
  flits : List (List Byte)
  refused : Bool := false
deriving DecidableEq, Repr

/-- What one receiving lane measured over a qualification window of 5 x 10^10 bits (R201): corrected bits and symbols,
uncorrectable codewords, the codewords with 0 to 15 corrected symbols, clock lock and polarity, and the equalisation
parameters it adapted to. -/
structure LaneMeasure where
  corrBits : Nat
  corrSymbols : Nat
  uncorrectable : Nat
  hist : List Nat
  locked : Bool
  inverted : Bool
  params : Word
deriving DecidableEq, Repr

/-- What a training attempt or a requalification found (R200-R203, R207). -/
structure TrainResult where
  signal : Bool
  aligned : Bool
  lanes : List LaneMeasure
  peerGood : BitVec 16
  reversed : Bool
  neighbour : BitVec 16
deriving DecidableEq, Repr

/-- A thermal reading in units of 0.0625 degrees C (R371, R372). -/
inductive SensorReading where
  /-- The two sensors of a core. -/
  | core (n : CoreId) (t0 t1 : BitVec 16)
  /-- The stack base at a Saiga engine. -/
  | engine (e : EngineId) (t : BitVec 16)
  /-- The base and the hottest DRAM die of a stack. -/
  | stack (s : StackId) (base dram : BitVec 16)
  /-- A link die, the IOD or the bridge. -/
  | other (t : BitVec 16)
deriving DecidableEq, Repr

/-- A unit that a thermal action lowers or raises (Table 14-5): a core, one engine for its base temperature, all
engines of a stack for its DRAM. -/
inductive ThermalUnit where
  | core (n : CoreId)
  | engine (e : EngineId)
  | stack (s : StackId)
deriving DecidableEq, Repr

/-- The regulator that left regulation, as REG_FAULT names it (Table 14-7). -/
inductive Regulator where
  | ld0
  | ld1
  | engineRail (s : StackId)
  | memoryRail (s : StackId)
  | linkDie
  | bridge
  | iod
deriving DecidableEq, Repr

/-- A page of a frame-end copy as it arrives at the standby: the fields of its header (page number, LFN, the first 16 bytes of
SHAKE256 over the page), and its 4 KiB (R266). -/
structure CopyPage where
  number : Fin 8192
  lfn : BitVec 16
  digest : List Byte
  data : List Byte
deriving DecidableEq, Repr

/-- A seal record with the pages that came before it (R266): LFN, page count, the first 24 bytes of SHAKE256 over all page headers
in sending order. -/
structure SealRecord where
  pages : List CopyPage
  lfn : BitVec 16
  count : Nat
  digest : List Byte
deriving DecidableEq, Repr

/-- What the package measured over the frame that ends (R312, R368): energy per context and unowned in mJ, draws per block class
in W, the conversion losses estimated for the next frame and the demands of LD0, LD1 and Saiga at full speed in W, mean and
highest power, Ibex load; and the contexts whose restore
from the undo log is not complete (R259), the pages of the frame's delta (R268), the pages sent to a unit that is being
resynchronised (R274), and the symbols in error that the loads of the boundary meet (R142). -/
structure FrameMeasure where
  energy : List Nat
  energyPkg : Nat
  draws : List (BitVec 16)
  losses : BitVec 16
  demands : List (BitVec 16)
  meanPower : BitVec 16
  peakPower : BitVec 16
  load : Fin 101
  paced : Bool
  slowUndo : BitVec 16 := 0
  deltaPages : Nat := 0
  resyncPages : Nat := 0
  ups : Upsets := []
deriving DecidableEq, Repr

/-- What the power manager's calibrated model chose and measured for one power window (R369, R370,
R382): ceilings in 5 MHz units, duties in sixteenths, the pacing figure, the blocks' own mean input
current and the ballast current the waiting cores can add, both in 0.01 A. -/
structure WindowMeasure where
  ceiling0 : BitVec 8
  ceiling1 : BitVec 8
  duty0 : Fin 16
  duty1 : Fin 16
  sgaDuty : List (BitVec 5)
  pace : BitVec 16
  ownCurrent : Nat
  ballastRoom : Nat
deriving DecidableEq, Repr

/-- Outcome of the start-up test of one site (Table 13-3): `test` is the failing test's code of
Table 13-5, 0 when the site passed. -/
structure SiteTest where
  isCore : Bool
  site : Nat
  test : BitVec 8
  subtest : BitVec 16
deriving DecidableEq, Repr

/-- Outcome of the DRAM test for one row (R148). -/
structure RowTest where
  stack : StackId
  column : Fin 64
  bank : Fin 32
  row : Fin 24576
  fails : Bool
deriving DecidableEq, Repr

/-- The commands. -/
inductive Instr where
  -- lattice cores, chapter 3
  | nop (n : CoreId) (w : BitVec 54)
  | halt (n : CoreId) (w : BitVec 54)
  | seta (n : CoreId) (w : BitVec 54)
  | adda (n : CoreId) (w : BitVec 54)
  | loop (n : CoreId) (w : BitVec 54)
  | br (n : CoreId) (w : BitVec 54)
  | bnz (n : CoreId) (w : BitVec 54)
  | ifence (n : CoreId) (w : BitVec 54)
  | moveQ (n : CoreId) (w : BitVec 54)
  | moveF (n : CoreId) (w : BitVec 54)
  | moveFResume (n : CoreId)
  | mma (n : CoreId) (w : BitVec 54)
  | vld (n : CoreId) (w : BitVec 54)
  | vst (n : CoreId) (w : BitVec 54)
  | vadd (n : CoreId) (w : BitVec 54)
  | vsub (n : CoreId) (w : BitVec 54)
  | vmul (n : CoreId) (w : BitVec 54)
  | vfma (n : CoreId) (w : BitVec 54)
  | vmax (n : CoreId) (w : BitVec 54)
  | vmin (n : CoreId) (w : BitVec 54)
  | vexp2 (n : CoreId) (w : BitVec 54)
  | vlog2 (n : CoreId) (w : BitVec 54)
  | vrcp (n : CoreId) (w : BitVec 54)
  | vrsq (n : CoreId) (w : BitVec 54)
  | vcmp (n : CoreId) (w : BitVec 54)
  | vsel (n : CoreId) (w : BitVec 54)
  | vsum (n : CoreId) (w : BitVec 54)
  | vmaxr (n : CoreId) (w : BitVec 54)
  | vomul (n : CoreId) (w : BitVec 54)
  | vmova (n : CoreId) (w : BitVec 54)
  | ledgClr (n : CoreId) (w : BitVec 54)
  | ledgCvt (n : CoreId) (w : BitVec 54)
  | ledgFlg (n : CoreId) (w : BitVec 54)
  | ledgSave (n : CoreId) (w : BitVec 54)
  | ledgLoad (n : CoreId) (w : BitVec 54)
  | ledgDig (n : CoreId) (w : BitVec 54)
  | setc (n : CoreId) (w : BitVec 54)
  | addc (n : CoreId) (w : BitVec 54)
  | subc (n : CoreId) (w : BitVec 54)
  | syncWait (n : CoreId) (w : BitVec 54)
  | syncWaitResume (n : CoreId)
  | syncTimeout (u : UnitId)
  | arrive (n : CoreId) (w : BitVec 54)
  | rdc (n : CoreId) (w : BitVec 54)
  | tickWait (n : CoreId) (w : BitVec 54)
  | tickNext (n : CoreId) (w : BitVec 54)
  | tickResume (u : UnitId)
  | tickRd (n : CoreId) (w : BitVec 54)
  | moveStart (n : CoreId)
  | ldGranuleArrival (n : CoreId) (mv : Nat) (g : BitVec 16) (ups : Upsets)
  | stAck (n : CoreId) (mv : Nat) (g : BitVec 16)
  | cpGranuleArrival (n : CoreId) (mv : Nat) (g : BitVec 16)
  | arriveDelivery (i : Nat)
  | wakeTokenGrant (die : Fin 2)
  | coreIdle (n : CoreId)
  -- Saiga engines, chapter 4
  | sgaNop (e : EngineId) (c : SgaWords)
  | sgaEnd (e : EngineId) (c : SgaWords)
  | sgaWait (e : EngineId) (c : SgaWords)
  | sgaWaitResume (e : EngineId)
  | sgaTick (e : EngineId) (c : SgaWords)
  | signal (e : EngineId) (c : SgaWords)
  | sgaSetc (e : EngineId) (c : SgaWords)
  | jump (e : EngineId) (c : SgaWords)
  | attn (e : EngineId) (c : SgaWords) (ups : Upsets)
  | reduce (e : EngineId) (c : SgaWords) (ups : Upsets)
  | scan (e : EngineId) (c : SgaWords) (ups : Upsets)
  | gather (e : EngineId) (c : SgaWords) (ups : Upsets)
  -- memory stacks, chapter 5
  | patrolScrub (s : StackId) (symbols : Nat)
  | bandClearDone (b : Fin 48)
  | bar4Read (x : BitVec 36) (n : Nat) (ups : Upsets)
  | bar4Write (x : BitVec 36) (data : List Byte) (ups : Upsets)
  | bar4Resize (size : Fin 7)
  | stkWBaseHighWrite (a : RegAlias) (d : Word)
  | stkWBaseLowWrite (a : RegAlias) (d : Word)
  -- frame clock, chapter 6
  | markReceived (i : RefInput) (m : MarkWord)
  | refEdgeLoss (i : RefInput)
  | frameLock
  | freerunEntry
  | slipApply
  | frameBoundary (m : FrameMeasure)
  | verdict
  | frmCtlDis (a : RegAlias) (d : Word)
  | frmSlipmapWrite (i : Fin 128) (a : RegAlias) (d : Word)
  -- links, chapter 7
  | codewordReceive (l : LinkId) (group : List Codeword)
  | controlReplay (l : LinkId)
  | linkTraining (l : LinkId) (cold : Bool)
  | linkTrainComplete (l : LinkId) (r : TrainResult)
  | autoRetrain (l : LinkId)
  | linkSignalDetect (l : LinkId)
  | laneCdrLoss (l : LinkId) (lane : Fin 16)
  | laneBerCheck (l : LinkId) (errs : List (Fin 16 × Nat × Nat))
  | laneDrop (l : LinkId) (good : BitVec 16) (lfn : BitVec 12)
  | laneAdd (l : LinkId) (good : BitVec 16) (lfn : BitVec 12)
  | goodbye (l : LinkId)
  | neighbour (l : LinkId) (rec : BitVec 16)
  | linkLos (l : LinkId)
  | linkDisable (l : LinkId)
  | linkEnable (l : LinkId)
  | requal (l : LinkId)
  | requalDone (l : LinkId) (r : TrainResult)
  | loopback (l : LinkId) (on : Bool)
  | planWidth (l : LinkId) (w : BitVec 2)
  -- routing, chapter 8
  | data (l : LinkId) (p : Packet)
  | rdReq (l : LinkId) (p : Packet) (ups : Upsets)
  | rdResp (l : LinkId) (p : Packet)
  | wr (l : LinkId) (p : Packet)
  | wrAck (l : LinkId) (p : Packet)
  | arrivePacket (l : LinkId) (p : Packet)
  | digest (l : LinkId) (p : Packet)
  | loss (l : LinkId) (p : Packet)
  | credit (l : LinkId) (p : Packet)
  | forwardSend (die : Fin 2) (i : Nat)
  | controlWindowOpen
  | rteDrainSet (mask : BitVec 6)
  | rteDrainClear (mask : BitVec 6)
  | linkDrained (l : LinkId)
  | rteRouteWrite (p : Fin 49) (a : RegAlias) (d : Word)
  | rteIdWrite (a : RegAlias) (d : Word)
  | tombExpire (circuit : BitVec 16)
  -- Ibex units, chapter 10
  | heartbeat
  | heartbeatMiss (by_ : IbexUnit)
  | intentAck (s : SlotId)
  | sealRecord (r : SealRecord)
  | copySeal
  | copyDeadline
  | ibexTakeover
  | ibexUnitReset
  | resyncDone
  | roleSwap
  | swapHandover
  | ibexMemUe
  | ibexWatchdog (u : IbexUnit)
  -- mailbox, chapters 10 and 11
  | slotPost (off : BitVec 20) (data : List (Option Byte))
  | getInfo (s : SlotId)
  | getState (s : SlotId)
  | readFaultMap (s : SlotId)
  | readDossier (s : SlotId)
  | readDefects (s : SlotId)
  | attest (s : SlotId)
  | setCap (s : SlotId)
  | computeReset (s : SlotId)
  | fwStage (s : SlotId)
  | fwActivate (s : SlotId)
  | stageWrite (s : SlotId)
  | stageRead (s : SlotId)
  | planLoad (s : SlotId)
  | planCancel (s : SlotId)
  | planStatus (s : SlotId)
  | ctxCreate (s : SlotId)
  | ctxTeardown (s : SlotId)
  | ctxReset (s : SlotId)
  | ctxHold (s : SlotId)
  | ctxResume (s : SlotId)
  | checkLoad (s : SlotId)
  | ctxStatus (s : SlotId)
  | stepDefine (s : SlotId)
  | stepRun (s : SlotId)
  | stepStatus (s : SlotId)
  | progLoad (s : SlotId)
  | uci1Info (s : SlotId)
  | uci1Stage (s : SlotId)
  | uci1Plan (s : SlotId)
  | openJob (s : SlotId)
  | closeJob (s : SlotId)
  | resetJob (s : SlotId)
  | uci1Run (s : SlotId)
  | stepState (s : SlotId)
  | uci1Replay (s : SlotId)
  | faults (s : SlotId)
  | ringWrite
  | mbxRingHeadWrite (a : RegAlias) (d : Word)
  -- faults and recovery, chapter 12
  | stepWatchdog (u : UnitId)
  | moverWatchdog (n : CoreId)
  | contextResetWatchdog (c : CtxId)
  | engineResetWatchdog
  | computeResetWatchdog
  | packageResetWatchdog
  | engineReset
  | engineResetComplete
  | computeDomainReset (failed : List UnitId)
  | recoveryEnd (ms : Nat)
  | packageReset
  | fltPkgrstWrite (a : RegAlias) (d : Word)
  | pkgrstSeqTimeout
  | trialEnd
  | unitQuarantine (u : UnitId)
  | beaconRepeat
  | markhorResetRelease
  -- bring-up, chapter 13
  | runTo (a : RegAlias) (d : Word)
  | bruRestart (a : RegAlias) (d : Word)
  | bruRails (ok : Bool) (ms : BitVec 16)
  | bruClockLock (ok : Bool) (ms : BitVec 16)
  | bruFuseNor (majority : Bool) (badRecords : List (Fin 8)) (ms : BitVec 16)
  | bruD2dTraining (ok : Bool) (ms : BitVec 16)
  | bruMemoryTraining (failed : BitVec 24) (ms : BitVec 16)
  | bruDefectTest (sites : List SiteTest) (fmax : List (CoreId × BitVec 5)) (rows : List RowTest)
      (cols : List (StackId × Fin 2048)) (stks : BitVec 24) (ms : BitVec 16)
  | bruFirmwareLoad (activeOk otherOk startA startB : Bool) (bad : List UnitId) (ms : BitVec 16)
  | bruLinkTraining (ms : BitVec 16)
  | bruFrameLock (ms : BitVec 16)
  | bruReady (ms : BitVec 16)
  | bruStepTimeout
  -- power and thermal, chapters 14 and 17
  | powerOn (activeOk otherOk : Bool)
  | powerLoss
  | powerSample (centivolts centiamps : BitVec 16)
  | powerWindow (m : WindowMeasure)
  | sensorRead (r : SensorReading)
  | throttleStep (u : ThermalUnit)
  | shutdownRelease (seconds : Nat)
  | hsThermistorRead (t0 t1 : Option (BitVec 16))
  | inletStale
  | thetaUpdate (meanPower : BitVec 16)
  | airflowFailAssert
  | airflowFailRelease
  | pwrStoreLowAssert
  | pwrStoreLowRelease
  | pwrHardcapWrite (a : RegAlias) (d : Word)
  | pwrTheta0Write (a : RegAlias) (d : Word)
  | parity (v : BitVec 2)
  | ballastEn (on : Bool)
  | derateEn (on : Bool)
  | regFault (r : Regulator)
  -- host, management port, I3C, registers, chapters 15 and 16
  | pcieLinkLoss
  | msixMessage (v : Fin 8)
  | pkgIrqStatusClear (a : RegAlias) (d : Word)
  | dossierRead (src : Peer) (payload : List Byte)
  | stateRead (src : Peer) (payload : List Byte)
  | mgmtDatagramDrop (src : Peer) (payload : List Byte)
  | neighborSolicitation (target : BitVec 128)
  | echoRequest (dst : BitVec 128) (payload : List Byte)
  | entdaa (addr : BitVec 7)
  | setEndpointId (eid : SetEid)
  | getEndpointId
  | getMctpVersionSupport
  | getMessageTypeSupport
  | telemetry (tag : BitVec 16)
  | inlet (tag : BitVec 16) (tin : BitVec 16) (airflow : BitVec 16)
  | mctpAttest (tag : BitVec 16) (nonce : List Byte) (off : Word)
  | mctpFwStage (tag : BitVec 16) (off len : Word) (chunk : List Byte)
  | mctpFwActivate (tag : BitVec 16)
  | mctpDossierRead (tag : BitVec 16) (index : BitVec 16) (off : Word)
  | beaconCfg (tag : BitVec 16) (d1 d2 : BitVec 128) (unicast : Unicast) (hop : Byte) (key : BitVec 256)
  | reg64LowRead (off : Bar0Access)
  | registerWrite (off : Bar0Access) (d : Word)
  | cfgParitySweep (upsets : List (Nat × BitVec 33))
  | missingMark (i : RefInput)
  | portTrainingLost (s : StackId)
  | mgmtPortLink (up : PortLink)
deriving DecidableEq, Repr

end Sys2Proof
end

