-- ==== Sys2Proof/Machine/Tab.lean ====
section
/-! DEFINITION. Sparse tables in one canonical form: keys strictly rising, no entry equal to the
default of its key, so that equal tables are equal data. Memories are tables of bytes. -/
namespace Sys2Proof.Machine

/-- A sparse table by Nat key. -/
abbrev Tab (α : Type) := List (Nat × α)

/-- A memory: (address, byte) pairs. An unlisted address reads as zero (log 3). -/
abbrev Mem := Tab Byte

/-- The entry of key `i`; `d` is what an unlisted key holds. -/
def tget {α : Type} (d : α) : Tab α → Nat → α
  | [], _ => d
  | (k, v) :: t, i => if k = i then v else if i < k then d else tget d t i

/-- The table with `v` at key `i`, in canonical form. -/
def tset {α : Type} [DecidableEq α] (d : α) : Tab α → Nat → α → Tab α
  | [], i, v => if v = d then [] else [(i, v)]
  | (k, x) :: t, i, v =>
    if k < i then (k, x) :: tset d t i v
    else if k = i then (if v = d then t else (i, v) :: t)
    else (if v = d then (k, x) :: t else (i, v) :: (k, x) :: t)

/-- Every key of the table is above `b`, keys rise strictly and no entry is the default. -/
def twfAbove {α : Type} [DecidableEq α] (d : α) : Nat → Tab α → Bool
  | _, [] => true
  | b, (k, v) :: t => decide (b ≤ k) && (decide (v ≠ d) && twfAbove d (k + 1) t)

/-- The canonical form of a table. -/
def twf {α : Type} [DecidableEq α] (d : α) (t : Tab α) : Bool := twfAbove d 0 t

/-- The table with `f` applied at key `i`. -/
def tmod {α : Type} [DecidableEq α] (d : α) (t : Tab α) (i : Nat) (f : α → α) : Tab α :=
  tset d t i (f (tget d t i))

/-- The table without its keys in the half-open range from `lo` to `hi`. -/
def tclear {α : Type} (t : Tab α) (lo hi : Nat) : Tab α :=
  t.filter (fun p => decide (p.1 < lo) || decide (hi ≤ p.1))

/-- One byte of a memory. -/
def rdByte (m : Mem) (a : Nat) : Byte := tget 0 m a

/-- The memory with one byte written. -/
def wrByte (m : Mem) (a : Nat) (b : Byte) : Mem := tset 0 m a b

/-- `n` bytes from address `a`. -/
def rdBytes (m : Mem) (a : Nat) : Nat → List Byte
  | 0 => []
  | n + 1 => rdByte m a :: rdBytes m (a + 1) n

/-- The memory with the bytes written from address `a` up. -/
def wrBytes (m : Mem) (a : Nat) : List Byte → Mem
  | [] => m
  | b :: bs => wrBytes (wrByte m a b) (a + 1) bs

/-- The canonical form of a memory. -/
def memWf (m : Mem) : Bool := twf 0 m

end Sys2Proof.Machine
end

