-- ==== Sys2Proof/Machine/Bits.lean ====
section
/-! DEFINITION. Bit fields, bytes in little-endian order, and the access-code rules of registers
(R5, R418). -/
namespace Sys2Proof.Machine

/-- Bits [hi:lo] of a word as a number. -/
def bits {n : Nat} (w : BitVec n) (hi lo : Nat) : Nat := (w.toNat >>> lo) % 2 ^ (hi + 1 - lo)

/-- Bit `i` of a word. -/
def bit {n : Nat} (w : BitVec n) (i : Nat) : Bool := w.getLsbD i

/-- A flag as a number. -/
def b2n (b : Bool) : Nat := if b then 1 else 0

/-- A flag placed at bit `i` of a 32-bit register. -/
def flag (b : Bool) (i : Nat) : Word := if b then BitVec.ofNat 32 (2 ^ i) else 0

/-- A number placed at bit `i` of a 32-bit register. -/
def fld (v i : Nat) : Word := BitVec.ofNat 32 (v <<< i)

/-- The word with bit `i` set. -/
def setBit (w : Word) (i : Nat) : Word := w ||| BitVec.ofNat 32 (2 ^ i)

/-- The word with bit `i` set when `c` holds. -/
def setBitIf (c : Bool) (w : Word) (i : Nat) : Word := if c then setBit w i else w

/-- The word with bit `i` cleared. -/
def clrBit (w : Word) (i : Nat) : Word := w &&& ~~~ (BitVec.ofNat 32 (2 ^ i))

/-- A number read as two's complement of `w` bits. -/
def sgn (w v : Nat) : Int := if v < 2 ^ (w - 1) then (v : Int) else (v : Int) - (2 ^ w : Nat)

/-- A 32-bit counter that saturates at 0xFFFF_FFFF (R427). -/
def satInc (w : Word) (k : Nat) : Word :=
  if 0xFFFFFFFF ≤ w.toNat + k then 0xFFFFFFFF else BitVec.ofNat 32 (w.toNat + k)

/-- A 64-bit counter that saturates. -/
def satInc64 (w : Dword) (k : Nat) : Dword :=
  if 2 ^ 64 - 1 ≤ w.toNat + k then BitVec.ofNat 64 (2 ^ 64 - 1) else BitVec.ofNat 64 (w.toNat + k)

/-- The first `n` bytes of a number, little-endian. -/
def leBytes : Nat → Nat → List Byte
  | 0, _ => []
  | n + 1, v => BitVec.ofNat 8 v :: leBytes n (v / 256)

/-- The number that bytes hold, little-endian. -/
def unle : List Byte → Nat
  | [] => 0
  | b :: bs => b.toNat + 256 * unle bs

/-- Byte `i` of a list, zero beyond its end. -/
def byteAt (l : List Byte) (i : Nat) : Byte := l.getD i 0

/-- `n` bytes of a list from offset `i`, zero beyond its end. -/
def slice (l : List Byte) (i n : Nat) : List Byte := (List.range n).map (fun k => byteAt l (i + k))

/-- The little-endian number in `n` bytes from offset `i`. -/
def leAt (l : List Byte) (i n : Nat) : Nat := unle (slice l i n)

/-- The bytes of an ASCII string. -/
def ascii (s : String) : List Byte := s.toList.map (fun c => BitVec.ofNat 8 c.toNat)

/-- The list padded with zero bytes, or cut, to `n` bytes. -/
def padTo (l : List Byte) (n : Nat) : List Byte := slice l 0 n

/-- The list with bytes put over it from offset `i`. -/
def overlay (l : List Byte) (i : Nat) (bs : List Byte) : List Byte :=
  (List.range l.length).map (fun k => if i ≤ k ∧ k < i + bs.length then byteAt bs (k - i) else byteAt l k)

/-- The number of one bits among the lowest `n` bits of `v`. -/
def popCount : Nat → Nat → Nat
  | 0, _ => 0
  | n + 1, v => v % 2 + popCount n (v / 2)

/-- The numbers below `n` whose bit of `v` is set, rising. -/
def onesOf (n v : Nat) : List Nat := (List.range n).filter (fun i => v.testBit i)

/-- Replace element `i` of a list. -/
def setAt {α : Type} (l : List α) (i : Nat) (v : α) : List α := l.set i v

/-- Remove element `i` of a list. -/
def dropAt {α : Type} (l : List α) (i : Nat) : List α := l.eraseIdx i

/-- What a normal, set, clear or toggle write makes of an RW field word (Table 16-2). -/
def aliasRw (a : RegAlias) (old d : Word) : Word :=
  match a with
  | .normal => d
  | .set => old ||| d
  | .clear => old &&& ~~~ d
  | .toggle => old ^^^ d

/-- What a write makes of a W1C word: normal and clear writes clear the bits written 1 (Table 16-2). -/
def aliasW1c (a : RegAlias) (old d : Word) : Word :=
  match a with
  | .normal => old &&& ~~~ d
  | .clear => old &&& ~~~ d
  | .set => old
  | .toggle => old

end Sys2Proof.Machine
end

