-- ==== Sys2Proof/Machine/Num.lean ====
section
/-! DEFINITION. Exact values, the conventional formats (FP32, BF16, E4M3, E5M2) and the FP32 lane
arithmetic of the vector unit (R51, R52, R54, R74-R76). -/
namespace Sys2Proof.Machine

/-- An exact value: the poison NaN (NaR in octave formats), an ordinary NaN, an infinity, or
(-1)^neg x m x 2^e. -/
inductive Val where
  | poison
  | nan
  | inf (neg : Bool)
  | num (neg : Bool) (m : Nat) (e : Int)
deriving DecidableEq, Repr

/-- The conventional formats of chapter 2. -/
inductive CFmt where
  | e4m3
  | e5m2
  | bf16
  | fp32
deriving DecidableEq, Repr

/-- Mantissa field width. -/
def CFmt.man : CFmt → Nat
  | .e4m3 => 3
  | .e5m2 => 2
  | .bf16 => 7
  | .fp32 => 23

/-- Exponent field width. -/
def CFmt.exp : CFmt → Nat
  | .e4m3 => 4
  | .e5m2 => 5
  | .bf16 => 8
  | .fp32 => 8

/-- Exponent bias. -/
def CFmt.bias : CFmt → Nat
  | .e4m3 => 7
  | .e5m2 => 15
  | .bf16 => 127
  | .fp32 => 127

/-- Magnitude code of the largest finite value. -/
def CFmt.maxCode : CFmt → Nat
  | .e4m3 => 0x7E
  | .e5m2 => 0x7B
  | .bf16 => 0x7F7F
  | .fp32 => 0x7F7FFFFF

/-- The poison NaN (R51). -/
def CFmt.poison : CFmt → Nat
  | .e4m3 => 0x7F
  | .e5m2 => 0x7F
  | .bf16 => 0x7FC1
  | .fp32 => 0x7FC00001

/-- The canonical NaN (R51). -/
def CFmt.canonical : CFmt → Nat
  | .e4m3 => 0xFF
  | .e5m2 => 0x7E
  | .bf16 => 0x7FC0
  | .fp32 => 0x7FC00000

/-- Total width in bits. -/
def CFmt.width (f : CFmt) : Nat := 1 + f.exp + f.man

/-- The code of an infinity, or of the largest finite value where the format has none (R54). -/
def CFmt.infCode : CFmt → Nat
  | .e4m3 => 0x7E
  | .e5m2 => 0x7C
  | .bf16 => 0x7F80
  | .fp32 => 0x7F800000

/-- The sign bit placed on a magnitude code. -/
def CFmt.signed (f : CFmt) (neg : Bool) (c : Nat) : Nat := b2n neg * 2 ^ (f.exp + f.man) + c

/-- The value of a code (IEEE 754, OCP FP8; R51, R52). -/
def CFmt.decode (f : CFmt) (code : Nat) : Val :=
  let man := code % 2 ^ f.man
  let ex := code / 2 ^ f.man % 2 ^ f.exp
  let neg := code / 2 ^ (f.exp + f.man) % 2 == 1
  let isNan := if f = .e4m3 then ex == 15 && man == 7 else ex == 2 ^ f.exp - 1 && man != 0
  let isInf := f != .e4m3 && ex == 2 ^ f.exp - 1 && man == 0
  if isNan then (if code = f.poison then .poison else .nan)
  else if isInf then .inf neg
  else if ex = 0 then .num neg man (1 - (f.bias : Int) - f.man)
  else .num neg (2 ^ f.man + man) ((ex : Int) - f.bias - f.man)

/-- `m x 2^k` rounded to an integer, nearest, ties to even. -/
def roundShift (m : Nat) (k : Int) : Nat :=
  if 0 ≤ k then m * 2 ^ k.toNat
  else
    let s := (-k).toNat
    let q := m / 2 ^ s
    let r := m % 2 ^ s
    let half := 2 ^ (s - 1)
    if half < r ∨ (r = half ∧ q % 2 = 1) then q + 1 else q

/-- The magnitude code of m x 2^e in a format whose exponent is unbounded above (R51). -/
def CFmt.magCode (f : CFmt) (m : Nat) (e : Int) : Nat :=
  if m = 0 then 0
  else
    let emin : Int := 1 - (f.bias : Int)
    let q := max ((Nat.log2 m : Int) + e - f.man) (emin - f.man)
    let r := roundShift m (e - q)
    if r < 2 ^ f.man then r
    else ((q + f.man + f.bias) * 2 ^ f.man + (r : Int) - 2 ^ f.man).toNat

/-- The code of a value and whether SAT is reported (R51, R54). -/
def CFmt.encode (f : CFmt) (v : Val) : Nat × Bool :=
  match v with
  | .poison => (f.poison, false)
  | .nan => (f.canonical, false)
  | .inf neg => (f.signed neg f.infCode, f == .e4m3)
  | .num neg m e =>
    let c := f.magCode m e
    if f.maxCode < c then (f.signed neg (if f = .e5m2 then f.maxCode else f.infCode), true)
    else (f.signed neg c, false)

/-- An FP32 lane as a value. -/
def ofFp32 (w : Word) : Val := CFmt.fp32.decode w.toNat

/-- A value rounded to an FP32 lane. -/
def toFp32 (v : Val) : Word := BitVec.ofNat 32 (CFmt.fp32.encode v).1

/-- Signed significand of a number at exponent `q`, for `q` at or below its own. -/
def atExp (neg : Bool) (m : Nat) (e q : Int) : Int :=
  let x : Int := (m : Int) * 2 ^ (e - q).toNat
  if neg then -x else x

/-- The sign of an exact sum: of two zeros it is negative only when both are. -/
def ofInt (zneg : Bool) (x : Int) (q : Int) : Val :=
  if x = 0 then .num zneg 0 0 else .num (decide (x < 0)) x.natAbs q

/-- Exact sum of two values, NaN rules of R75. -/
def vadd2 (a b : Val) : Val :=
  match a, b with
  | .poison, _ => .poison
  | _, .poison => .poison
  | .nan, _ => .nan
  | _, .nan => .nan
  | .inf x, .inf y => if x = y then .inf x else .nan
  | .inf x, .num _ _ _ => .inf x
  | .num _ _ _, .inf y => .inf y
  | .num n1 m1 e1, .num n2 m2 e2 =>
    let q := min e1 e2
    if m1 = 0 ∧ m2 = 0 then .num (n1 && n2) 0 0
    else ofInt false (atExp n1 m1 e1 q + atExp n2 m2 e2 q) q

/-- The value with its sign changed. -/
def vneg : Val → Val
  | .poison => .poison
  | .nan => .nan
  | .inf n => .inf (!n)
  | .num n m e => .num (!n) m e

/-- Exact product of two values. -/
def vmul2 (a b : Val) : Val :=
  match a, b with
  | .poison, _ => .poison
  | _, .poison => .poison
  | .nan, _ => .nan
  | _, .nan => .nan
  | .inf x, .inf y => .inf (x != y)
  | .inf x, .num n m _ => if m = 0 then .nan else .inf (x != n)
  | .num n m _, .inf y => if m = 0 then .nan else .inf (n != y)
  | .num n1 m1 e1, .num n2 m2 e2 => .num (n1 != n2) (m1 * m2) (e1 + e2)

/-- VADD lane (R74). -/
def fAdd (a b : Word) : Word := toFp32 (vadd2 (ofFp32 a) (ofFp32 b))

/-- VSUB lane: a - b; a poison operand gives the poison NaN (R75). -/
def fSub (a b : Word) : Word := toFp32 (vadd2 (ofFp32 a) (vneg (ofFp32 b)))

/-- VMUL lane. -/
def fMul (a b : Word) : Word := toFp32 (vmul2 (ofFp32 a) (ofFp32 b))

/-- VFMA lane: a x b + c rounded once; a poison lane among the three gives the poison NaN. -/
def fFma (a b c : Word) : Word :=
  match ofFp32 c with
  | .poison => toFp32 .poison
  | z => toFp32 (vadd2 (vmul2 (ofFp32 a) (ofFp32 b)) z)

/-- Order of two numbers as values: negative, zero or positive difference. -/
def numCmp (a b : Val) : Ordering :=
  match a, b with
  | .inf x, .inf y => if x = y then .eq else if x then .lt else .gt
  | .inf x, _ => if x then .lt else .gt
  | _, .inf y => if y then .gt else .lt
  | .num n1 m1 e1, .num n2 m2 e2 =>
    let q := min e1 e2
    compare (atExp n1 m1 e1 q) (atExp n2 m2 e2 q)
  | _, _ => .eq

/-- Sign of a value. -/
def vsign : Val → Bool
  | .inf n => n
  | .num n _ _ => n
  | _ => false

/-- Whether a value is a NaN of either kind. -/
def isNanVal : Val → Bool
  | .poison => true
  | .nan => true
  | _ => false

/-- a is below b, with -0 below +0 (R75). -/
def totalLt (a b : Val) : Bool :=
  match numCmp a b with
  | .lt => true
  | .gt => false
  | .eq => vsign a && !vsign b

/-- VMAX lane (R75). -/
def fMax (a b : Word) : Word :=
  let x := ofFp32 a
  let y := ofFp32 b
  if x = .poison ∨ y = .poison then toFp32 .poison
  else if isNanVal x ∨ isNanVal y then toFp32 .nan
  else if totalLt x y then b else a

/-- VMIN lane (R75). -/
def fMin (a b : Word) : Word :=
  let x := ofFp32 a
  let y := ofFp32 b
  if x = .poison ∨ y = .poison then toFp32 .poison
  else if isNanVal x ∨ isNanVal y then toFp32 .nan
  else if totalLt x y then a else b

/-- VCMP lane result: SUB 0 EQ, 1 LT, 2 LE, 3 NE; a comparison with a NaN is false except NE (R75).
A lane mask is no NaN result: the poison rule of R75 is read as one for arithmetic results (log 16). -/
def fCmp (sub : Nat) (a b : Word) : Word :=
  let x := ofFp32 a
  let y := ofFp32 b
  let un := isNanVal x || isNanVal y
  let c := numCmp x y
  let r : Bool := match sub with
    | 0 => !un && c == .eq
    | 1 => !un && c == .lt
    | 2 => !un && (c == .lt || c == .eq)
    | _ => un || c != .eq
  if r then 0xFFFFFFFF else 0

/-- Exact sum of lanes rounded once (R76). -/
def fSum (ls : List Word) : Word :=
  match ls.map ofFp32 with
  | [] => 0
  | v :: vs => toFp32 (vs.foldl vadd2 v)

/-- The largest of the lanes (R75). -/
def fMaxAll (ls : List Word) : Word :=
  match ls with
  | [] => 0
  | x :: xs => xs.foldl fMax x

/-- Integer square root, bits `k` down to 0 still to be tried. -/
def isqrtAux : Nat → Nat → Nat → Nat
  | 0, _, r => r
  | k + 1, n, r =>
    let c := r + 2 ^ k
    isqrtAux k n (if c * c ≤ n then c else r)

/-- Floor of the square root of a number. -/
def isqrt (n : Nat) : Nat := isqrtAux (Nat.log2 n / 2 + 1) n 0

/-- m with a sticky bit below it: the exact value lies above `m` when `s` holds. -/
def sticky (m : Nat) (s : Bool) : Nat := 2 * m + b2n s

/-- Correctly rounded 1/x (R74). -/
def fRcp (a : Word) : Word :=
  match ofFp32 a with
  | .poison => toFp32 .poison
  | .nan => toFp32 .nan
  | .inf n => toFp32 (.num n 0 0)
  | .num n m e =>
    if m = 0 then toFp32 (.inf n)
    else
      let k := Nat.log2 m + 40
      let q := 2 ^ k / m
      toFp32 (.num n (sticky q (2 ^ k % m != 0)) (-(k : Int) - e - 1))

/-- Correctly rounded 1/sqrt x (R74; IEEE 754 rSqrt: of a zero an infinity of its sign). -/
def fRsq (a : Word) : Word :=
  match ofFp32 a with
  | .poison => toFp32 .poison
  | .nan => toFp32 .nan
  | .inf n => if n then toFp32 .nan else toFp32 (.num false 0 0)
  | .num n m e =>
    if m = 0 then toFp32 (.inf n)
    else if n then toFp32 .nan
    else
      let m2 := if e % 2 = 0 then m else 2 * m
      let e2 := if e % 2 = 0 then e else e - 1
      let k := Nat.log2 m2 + 60
      let s := isqrt (2 ^ (2 * k) / m2)
      toFp32 (.num false (sticky s (s * s * m2 != 2 ^ (2 * k))) (-(k : Int) - e2 / 2 - 1))

/-- 2^f for a fraction f of 64 bits, as an integer scaled by 2^128, bits of `f` from the top;
`c` is 2^(2^-i) scaled by 2^128. -/
def exp2Frac : Nat → Nat → Nat → Nat → Nat
  | 0, _, _, y => y
  | k + 1, f, c, y =>
    exp2Frac k f (isqrt (c * 2 ^ 128)) (if f.testBit k then y * c / 2 ^ 128 else y)

/-- Correctly rounded 2^x (R74), worked to 2^-120 (log 17). -/
def vExp2 (v : Val) : Val :=
  match v with
  | .poison => .poison
  | .nan => .nan
  | .inf n => if n then .num false 0 0 else .inf false
  | .num n m e =>
    if m = 0 then .num false 1 0
    else
      let mag := (Nat.log2 m : Int) + e
      if mag ≥ 10 then (if n then .num false 0 0 else .num false 1 1000)
      else if mag < -40 then .num false (if n then 2 ^ 60 - 1 else 2 ^ 60 + 1) (-60)
      else
        let x : Int := atExp n m e (-64)
        let i := x / 2 ^ 64
        let f := (x % 2 ^ 64).toNat
        if f = 0 then .num false 1 i
        else .num false (sticky (exp2Frac 64 f (isqrt (2 ^ 257)) (2 ^ 128)) true) (i - 129)

/-- VEXP2 lane. -/
def fExp2 (a : Word) : Word := toFp32 (vExp2 (ofFp32 a))

/-- `k` binary digits of log2 of y / 2^320, for y / 2^320 in [1, 2). -/
def log2Frac : Nat → Nat → Nat → Nat
  | 0, _, r => r
  | k + 1, y, r =>
    let z := y * y / 2 ^ 320
    if 2 ^ 321 ≤ z then log2Frac k (z / 2) (2 * r + 1) else log2Frac k z (2 * r)

/-- Correctly rounded log2 x (R74), worked to 128 digits (log 17). -/
def fLog2 (a : Word) : Word :=
  match ofFp32 a with
  | .poison => toFp32 .poison
  | .nan => toFp32 .nan
  | .inf n => if n then toFp32 .nan else toFp32 (.inf false)
  | .num n m e =>
    if m = 0 then toFp32 (.inf true)
    else if n then toFp32 .nan
    else
      let l := Nat.log2 m
      let ex : Int := (l : Int) + e
      if m = 2 ^ l then toFp32 (ofInt false ex 0)
      else
        let fr := log2Frac 128 (m * 2 ^ 320 / 2 ^ l) 0
        toFp32 (ofInt false (2 * (ex * 2 ^ 128 + (fr : Int)) + 1) (-129))

end Sys2Proof.Machine
end

