-- ==== Sys2Proof/Machine/Octave.lean ====
section
/-! DEFINITION. Octave formats, products, the octave rounding rule, and the format codes of Table 3-6
(chapter 2). -/
namespace Sys2Proof.Machine

/-- T8 (Table 2-2). -/
def tab8 : List Nat := [1024, 1117, 1218, 1328, 1448, 1579, 1722, 1878]

/-- T12 (Table 2-3). -/
def tab12 : List Nat :=
  [8192, 8371, 8555, 8742, 8933, 9129, 9329, 9533, 9742, 9955, 10173, 10396, 10624, 10856, 11094, 11337] ++
  [11585, 11839, 12098, 12363, 12634, 12910, 13193, 13482, 13777, 14079, 14387, 14702, 15024, 15353, 15689, 16033]

/-- T16 (Table 2-4). -/
def tab16 : List Nat :=
  [32768, 32946, 33125, 33305, 33486, 33667, 33850, 34034, 34219, 34405, 34591, 34779, 34968, 35158, 35349, 35541] ++
  [35734, 35928, 36123, 36319, 36516, 36715, 36914, 37114, 37316, 37518, 37722, 37927, 38133, 38340, 38548, 38757] ++
  [38968, 39180, 39392, 39606, 39821, 40037, 40255, 40473, 40693, 40914, 41136, 41360, 41584, 41810, 42037, 42265] ++
  [42495, 42726, 42958, 43191, 43425, 43661, 43898, 44137, 44376, 44617, 44859, 45103, 45348, 45594, 45842, 46091] ++
  [46341, 46593, 46846, 47100, 47356, 47613, 47871, 48131, 48393, 48655, 48920, 49185, 49452, 49721, 49991, 50262] ++
  [50535, 50810, 51085, 51363, 51642, 51922, 52204, 52488, 52773, 53059, 53347, 53637, 53928, 54221, 54515, 54811] ++
  [55109, 55408, 55709, 56012, 56316, 56622, 56929, 57238, 57549, 57861, 58176, 58491, 58809, 59128, 59449, 59772] ++
  [60097, 60423, 60751, 61081, 61413, 61746, 62081, 62419, 62757, 63098, 63441, 63785, 64132, 64480, 64830, 65182]

/-- The octave formats (Table 2-1). -/
inductive OFmt where
  | o8
  | o12
  | o16
deriving DecidableEq, Repr

/-- log2 of the number of table entries: the fraction field's width. -/
def OFmt.fw : OFmt → Nat
  | .o8 => 3
  | .o12 => 5
  | .o16 => 7

/-- Width of a code. -/
def OFmt.width : OFmt → Nat
  | .o8 => 8
  | .o12 => 12
  | .o16 => 16

/-- Table scale exponent t. -/
def OFmt.t : OFmt → Nat
  | .o8 => 10
  | .o12 => 13
  | .o16 => 15

/-- Exponent bias. -/
def OFmt.bias : OFmt → Nat
  | .o8 => 8
  | .o12 => 32
  | .o16 => 128

/-- The table. -/
def OFmt.tab : OFmt → List Nat
  | .o8 => tab8
  | .o12 => tab12
  | .o16 => tab16

/-- Number of table entries n. -/
def OFmt.n (f : OFmt) : Nat := 2 ^ f.fw

/-- Largest value of the e field. -/
def OFmt.emax (f : OFmt) : Nat := 2 ^ (f.width - 1 - f.fw) - 1

/-- Entry k of the table. -/
def OFmt.entry (f : OFmt) (k : Nat) : Nat := f.tab.getD k 0

/-- The NaR code. -/
def OFmt.nar (f : OFmt) : Nat := 2 ^ (f.width - 1)

/-- Magnitude code of a code. -/
def OFmt.mag (f : OFmt) (c : Nat) : Nat := c % 2 ^ (f.width - 1)

/-- Sign of a code. -/
def OFmt.sign (f : OFmt) (c : Nat) : Bool := c / 2 ^ (f.width - 1) % 2 == 1

/-- A block exponent byte as a signed number; 0x80 marks a NaR block (R34). -/
def bexp (b : Byte) : Int := b.toInt

/-- A signed block exponent as a byte. -/
def ofBexp (i : Int) : Byte := BitVec.ofInt 8 i

/-- The value of a code with block exponent `b` (R33, R34). -/
def OFmt.decode (f : OFmt) (c : Nat) (b : Byte) : Val :=
  let m := f.mag c
  if b = 0x80 then .poison
  else if m = 0 then (if f.sign c then .poison else .num false 0 0)
  else .num (f.sign c) (f.entry (m % f.n)) ((m / f.n : Nat) - (f.bias : Int) + bexp b - f.t)

/-- A product that reaches a ledger (R38, R39, R52): NaR, zero, or (-1)^neg x sig x 2^p. -/
inductive Prod where
  | nar
  | zero
  | val (neg : Bool) (sig : Nat) (p : Int)
deriving DecidableEq, Repr

/-- The octave product of R38 and R39. -/
def OFmt.product (f : OFmt) (a : Nat) (ba : Byte) (b : Nat) (bb : Byte) : Prod :=
  if a = f.nar ∨ b = f.nar ∨ ba = 0x80 ∨ bb = 0x80 then .nar
  else if f.mag a = 0 ∨ f.mag b = 0 then .zero
  else
    let mp := f.mag a + f.mag b
    .val (f.sign a != f.sign b) (f.entry (mp % f.n))
      ((mp / f.n : Nat) - 2 * (f.bias : Int) - f.t + bexp ba + bexp bb)

/-- The largest k with T[k] at or below q, q given as `x / y`. -/
def OFmt.findK (f : OFmt) (x y : Nat) : Nat :=
  (List.range f.n).foldl (fun k i => if f.entry i * y ≤ x then i else k) 0

/-- Steps 2 and 3 of R49 for m x 2^e with m > 0: the fraction k and the exponent x of the rounded value. -/
def OFmt.roundLog (f : OFmt) (m : Nat) (e : Int) : Nat × Int :=
  let lg := Nat.log2 m
  let num := m * 2 ^ f.t
  let den := 2 ^ lg
  let k := f.findK num den
  let up := if k + 1 < f.n then f.entry (k + 1) else 2 ^ (f.t + 1)
  let lhs := num * num
  let rhs := f.entry k * up * (den * den)
  let k2 := if rhs < lhs ∨ (lhs = rhs ∧ k % 2 = 1) then k + 1 else k
  let x : Int := (lg : Int) + e - f.t
  if k2 = f.n then (0, x + 1) else (k2, x)

/-- The code built from sign, e and f. -/
def OFmt.code (f : OFmt) (neg : Bool) (e k : Nat) : Nat := b2n neg * 2 ^ (f.width - 1) + e * f.n + k

/-- The octave rounding rule R49: the code and whether SAT is reported. -/
def OFmt.round (f : OFmt) (bo : Int) (v : Val) : Nat × Bool :=
  match v with
  | .poison => (f.nar, false)
  | .nan => (f.nar, false)
  | .inf _ => (f.nar, false)
  | .num neg m e =>
    if m = 0 then (0, false)
    else
      let r := f.roundLog m e
      let ee : Int := r.2 + f.t + f.bias - bo
      if (f.emax : Int) < ee then (f.code neg f.emax (f.n - 1), true)
      else if 0 ≤ ee ∧ 1 ≤ ee.toNat * f.n + r.1 then (f.code neg ee.toNat r.1, false)
      else
        let q : Int := bo - f.bias - f.t - 1
        let lo := min e q
        if atExp false (f.entry 1) q lo < atExp false m e lo then (f.code neg 0 1, false) else (0, false)

/-- The automatic block exponent of R50 over the values of a block. -/
def OFmt.autoExp (f : OFmt) (vs : List Val) : Int :=
  let es := vs.filterMap (fun v => match v with
    | .num _ m e => if m = 0 then none else some ((f.roundLog m e).2 + f.t + f.bias)
    | _ => none)
  match es with
  | [] => 0
  | x :: xs => min 127 (max (-127) (xs.foldl max x - f.emax))

/-- VOMUL lane (R40, R78): output code and output block exponent. -/
def OFmt.vomul (f : OFmt) (a : Nat) (ba : Byte) (b : Nat) (bb : Byte) : Nat × Byte × Bool :=
  let s := bexp ba + bexp bb
  let bo : Int := min 127 (max (-127) s)
  if ba = 0x80 ∨ bb = 0x80 then (f.nar, 0x80, false)
  else match f.product a ba b bb with
    | .nar => (f.nar, ofBexp bo, false)
    | .zero => (0, ofBexp bo, false)
    | .val neg sig p =>
      let mp := f.mag a + f.mag b
      let e : Int := (mp / f.n : Nat) - (f.bias : Int)
      let k := mp % f.n
      if s = bo ∧ 0 ≤ e ∧ e ≤ f.emax ∧ 1 ≤ e.toNat * f.n + k then (f.code neg e.toNat k, ofBexp bo, false)
      else
        let r := f.round bo (.num neg sig p)
        (r.1, ofBexp bo, r.2)

/-- A format of Table 3-6, codes 0-6. -/
inductive Fmt where
  | oct (f : OFmt)
  | conv (f : CFmt)
deriving DecidableEq, Repr

/-- The format of a code of Table 3-6, codes 0-6. -/
def fmtOf : Nat → Option Fmt
  | 0 => some (.oct .o8)
  | 1 => some (.oct .o12)
  | 2 => some (.oct .o16)
  | 3 => some (.conv .e4m3)
  | 4 => some (.conv .e5m2)
  | 5 => some (.conv .bf16)
  | 6 => some (.conv .fp32)
  | _ => none

/-- The octave format of a raw code 7-9 (R78). -/
def rawOf : Nat → Option OFmt
  | 7 => some .o8
  | 8 => some .o12
  | 9 => some .o16
  | _ => none

/-- Element width in bits. -/
def Fmt.width : Fmt → Nat
  | .oct f => f.width
  | .conv f => f.width

/-- Bytes of 32 elements: 32 x w of R64. -/
def Fmt.blockBytes (f : Fmt) : Nat := 4 * f.width

/-- Ledger MODE that accepts the format's products (Table 3-6); FP32 has none. -/
def Fmt.mode : Fmt → BitVec 3
  | .oct .o8 => 0
  | .oct .o12 => 1
  | .oct .o16 => 2
  | .conv .e4m3 => 3
  | .conv .e5m2 => 3
  | .conv .bf16 => 4
  | .conv .fp32 => 7

/-- The value of an element with its block exponent (R33, R52, R54). -/
def Fmt.value (f : Fmt) (c : Nat) (b : Byte) : Val :=
  match f with
  | .oct o => o.decode c b
  | .conv o =>
    if b = 0x80 then .poison
    else match o.decode c with
      | .num n m e => .num n m (e + bexp b)
      | v => v

/-- One operand of a linear lane (R52): NaN and infinity read as NaR. -/
def CFmt.operand (f : CFmt) (c : Nat) (b : Byte) : Prod :=
  if b = 0x80 then .nar
  else match f.decode c with
    | .num n m e => if m = 0 then .zero else .val n m (e + bexp b)
    | _ => .nar

/-- The product of two elements (R38, R52). -/
def Fmt.product (f g : Fmt) (a : Nat) (ba : Byte) (b : Nat) (bb : Byte) : Prod :=
  match f, g with
  | .oct x, .oct _ => x.product a ba b bb
  | .conv x, .conv y =>
    match x.operand a ba, y.operand b bb with
    | .nar, _ => .nar
    | _, .nar => .nar
    | .zero, _ => .zero
    | _, .zero => .zero
    | .val n1 s1 p1, .val n2 s2 p2 => .val (n1 != n2) (s1 * s2) (p1 + p2)
  | _, _ => .nar

/-- A value written in a format with block exponent `bo` (R49, R51, R54). -/
def Fmt.encode (f : Fmt) (bo : Int) (v : Val) : Nat × Bool :=
  match f with
  | .oct o => o.round bo v
  | .conv o => o.encode v

/-- The 32 codes packed in a block's bytes (R35). -/
def unpackBlock (width : Nat) (bs : List Byte) : List Nat :=
  let v := unle bs
  (List.range 32).map (fun i => v / 2 ^ (width * i) % 2 ^ width)

/-- The bytes of 32 packed codes (R35). -/
def packBlock (width : Nat) (cs : List Nat) : List Byte :=
  leBytes (4 * width) (cs.foldr (fun c acc => c % 2 ^ width + 2 ^ width * acc) 0)

end Sys2Proof.Machine
end

