-- ==== Sys2Proof/Machine/Ledger.lean ====
section
/-! DEFINITION. Ledgers: their state, the group rule, parity and residue, and conversion out of a
ledger (R41-R51, R240, R241). -/
namespace Sys2Proof.Machine

/-- The state of one ledger (Table 2-5) with the residue of R240. -/
structure Ledger where
  acc : BitVec 96
  g : BitVec 11
  mode : BitVec 3
  count : BitVec 49
  nar : Bool
  low : Bool
  range : Bool
  ovf : Bool
  cnt : Bool
  modef : Bool
  par : BitVec 4
  res : BitVec 16
deriving DecidableEq, Repr

/-- A cleared ledger in MODE O8 with G = 0 (Table 3-1). -/
def Ledger.zero : Ledger :=
  { acc := 0, g := 0, mode := 0, count := 0, nar := false, low := false, range := false, ovf := false,
    cnt := false, modef := false, par := 0, res := 0 }

/-- Even parity of the lowest `n` bits of a number. -/
def parBit (n v : Nat) : Bool := popCount n v % 2 == 1

/-- The flags as Table 9-2 orders them. -/
def Ledger.flags (l : Ledger) : Nat :=
  b2n l.nar + 2 * b2n l.low + 4 * b2n l.range + 8 * b2n l.ovf + 16 * b2n l.cnt + 32 * b2n l.modef

/-- The parity of R41: one bit per 32-bit word of L, one over the other fields. Which of the four bits of PAR covers
which word is the model's choice (log 78). -/
def Ledger.parity (l : Ledger) : BitVec 4 :=
  let v := l.acc.toNat
  let rest := l.g.toNat + 2 ^ 11 * (l.mode.toNat + 8 * (l.count.toNat + 2 ^ 49 * l.flags))
  BitVec.ofNat 4 (b2n (parBit 32 v) + 2 * b2n (parBit 32 (v / 2 ^ 32)) + 4 * b2n (parBit 32 (v / 2 ^ 64))
    + 8 * b2n (parBit 70 rest))

/-- The ledger with its parity regenerated, as every write does (R46). -/
def Ledger.seal (l : Ledger) : Ledger := { l with par := l.parity }

/-- L mod 65,535 with L signed (R240). -/
def Ledger.residue (l : Ledger) : BitVec 16 := BitVec.ofNat 16 (l.acc.toInt % 65535).toNat

/-- The ledger conditions that a use can raise (R73, R241). -/
structure Raised where
  mode : Bool := false
  range : Bool := false
  count : Bool := false
  ovf : Bool := false
  parity : Bool := false
  residue : Bool := false
deriving DecidableEq, Repr

/-- Both sets of conditions together. -/
def Raised.or (a b : Raised) : Raised :=
  { mode := a.mode || b.mode, range := a.range || b.range, count := a.count || b.count,
    ovf := a.ovf || b.ovf, parity := a.parity || b.parity, residue := a.residue || b.residue }

/-- Nothing raised. -/
def Raised.none : Raised := {}

/-- Any condition raised. -/
def Raised.any (r : Raised) : Bool := r.mode || r.range || r.count || r.ovf || r.parity || r.residue

/-- Whether a MODE value is defined (Table 2-5). -/
def modeDefined (m : BitVec 3) : Bool := m.toNat < 5

/-- S_max of a mode (Table 2-6). -/
def smax (m : BitVec 3) : Int :=
  match m.toNat with
  | 0 => 36
  | 1 => 33
  | 2 => 79
  | 3 => 87
  | _ => 79

/-- Modes in which overflow of L is checked (Table 2-6). -/
def modeChecked (m : BitVec 3) : Bool := m = 2 || m = 3 || m = 4

/-- A ledger clear (R41). -/
def Ledger.clear (mode : BitVec 3) (g : BitVec 11) : Ledger × Raised :=
  let bad := !modeDefined mode
  (Ledger.seal { Ledger.zero with mode := mode, g := g, modef := bad, nar := bad },
   { mode := bad })

/-- A read of ledger state: parity is checked, and the residue with ledger protection on (R46, R241). -/
def Ledger.read (lprot : Bool) (l : Ledger) : Ledger × Raised :=
  let p := l.par != l.parity
  let r := lprot && l.res != l.residue
  if p || r then (Ledger.seal { l with nar := true }, { parity := true, residue := r })
  else (l, {})

/-- A read for a conversion out of the ledger (R241): with ledger protection on the two converters are compared, and where they
disagree the ledger becomes NaR. -/
def Ledger.conv (lprot disagree : Bool) (l : Ledger) : Ledger × Raised :=
  let r := l.read lprot
  if lprot && disagree then (Ledger.seal { r.1 with nar := true }, r.2.or { parity := true, residue := true }) else r

/-- What one product of a group does by itself (R42, R45): its addend if accepted. -/
structure Addend where
  add : Option Int
  nar : Bool := false
  low : Bool := false
  range : Bool := false
  mode : Bool := false
deriving DecidableEq, Repr

/-- One product taken through R42 and R45; `m` is the MODE of its format. Each condition met sets its own flag (R44
step 1, R47): a product of another format is tested against the window too, but for a reserved MODE, which has no
window. -/
def Ledger.addend (l : Ledger) (m : BitVec 3) (p : Prod) : Addend :=
  let other := m != l.mode || !modeDefined l.mode
  match p with
  | .nar => { add := none, nar := true, mode := other }
  | .zero => { add := if other then none else some 0, mode := other }
  | .val neg sig pe =>
    let s := pe - l.g.toInt
    if modeDefined l.mode && decide (smax l.mode < s) then { add := none, range := true, mode := other }
    else
      let mag : Nat := if 0 ≤ s then sig * 2 ^ s.toNat else sig / 2 ^ (-s).toNat
      { add := if other then none else some (if neg then -(mag : Int) else mag), low := decide (s < 0), mode := other }

/-- One group of products reaches a ledger (R43, R44, R47). Conditions set their flags whatever the
ledger's state, so that flags do not depend on the order of groups (log 18). -/
def Ledger.group (l0 : Ledger) (lprot : Bool) (m : BitVec 3) (ps : List Prod) : Ledger × Raised :=
  let rd := l0.read lprot
  let l := rd.1
  let as := ps.map (l.addend m)
  let beyond := decide (2 ^ 48 < l.count.toNat + ps.length)
  let low := as.any (·.low)
  let range := as.any (·.range)
  let mode := as.any (·.mode)
  let bad := beyond || range || mode || as.any (·.nar)
  let sum : Int := as.foldl (fun x a => x + a.add.getD 0) l.acc.toInt
  let ovf := !l.nar && !bad && modeChecked l.mode && (decide (sum < -(2 ^ 95 : Int)) || decide ((2 ^ 95 : Int) ≤ sum))
  let keep := l.nar || bad || ovf
  let acc := if keep then l.acc else BitVec.ofInt 96 sum
  let l1 : Ledger := { l with
    acc := acc
    count := if beyond then BitVec.ofNat 49 (2 ^ 48) else BitVec.ofNat 49 (l.count.toNat + ps.length)
    nar := keep, low := l.low || low, range := l.range || range, ovf := l.ovf || ovf
    cnt := l.cnt || beyond, modef := l.modef || mode }
  let l2 := if keep then l1 else
    { l1 with res := BitVec.ofNat 16 (((l.res.toNat : Int) + (sum - l.acc.toInt)) % 65535).toNat }
  (l2.seal, Raised.or rd.2 { mode := mode, range := range, count := beyond, ovf := ovf })

/-- The value of a ledger (R41, R49). -/
def Ledger.value (l : Ledger) : Val :=
  if l.nar then .poison else ofInt false l.acc.toInt l.g.toInt

/-- LEDG.FLG's word (R72). -/
def Ledger.flagWord (l : Ledger) : Word := BitVec.ofNat 32 (l.flags + 64 * l.mode.toNat)

/-- The ledger record of Table 9-2. -/
def Ledger.record (l : Ledger) (k : Nat) : List Byte :=
  leBytes 12 l.acc.toNat ++ leBytes 7 l.count.toNat ++ leBytes 2 (l.g.signExtend 16).toNat
    ++ [BitVec.ofNat 8 l.flags, l.mode.setWidth 8, BitVec.ofNat 8 k]

end Sys2Proof.Machine
end

