-- ==== Sys2Proof/Config.lean ====
section
/-! DEFINITION. What the spec leaves to an implementation or does not state: constants without a body,
so that no proof can see a value of them (logs 8, 11). -/
namespace Sys2Proof

/-- A free value of 32 bits, by the number of the value taken. -/
opaque Config.freeWord : Nat → Word

/-- Frames that the clearing of a band row still needs (R300), as one 16-bit number, by the free values taken and the
uptime at which it is asked for (log 25). -/
opaque Config.clearFrames : Nat → Nat → Word

/-- The substitute temperature of a core when no sensor is sound (R371), by the core, the free values taken and the
uptime (log 57). -/
opaque Config.blindTemp : Nat → Nat → Nat → BitVec 16

/-- The number of the ledger, of an engine's 16, that held output `k` of segment `j` of an ATTN for head `h`: the same in
every run of the same command (R126, R244, log 34). -/
opaque Config.attnLedger : Nat → Nat → Nat → Byte

/-- A free byte. -/
opaque Config.freeByte : Nat → Byte

/-- A free bit. -/
opaque Config.freeBit : Nat → Bool

/-- Whether an ML-DSA-65 signature verifies: public key, context string, message, signature (R407). -/
opaque Config.mldsaVerify : List Byte → List Byte → List Byte → List Byte → Bool

/-- The ML-DSA-65 signature that the identity key makes over a message under a context string (R405). -/
opaque Config.mldsaSign : List Byte → List Byte → List Byte

/-- Whether a certificate chains to the Beldeni root (R407). -/
opaque Config.chains : List Byte → Bool

/-- The public key that a certificate certifies. -/
opaque Config.certKey : List Byte → List Byte

/-- A byte of the identity public key. -/
opaque Config.identityKeyByte : Nat → Byte

/-- The identity public key: 1,952 bytes (R405). -/
def Config.identityKey : List Byte := (List.range 1952).map Config.identityKeyByte

/-- The device certificate, which a Beldeni intermediate key has signed (R405). -/
opaque Config.deviceCertificate : List Byte

/-- The intermediate certificate, which the Beldeni root key has signed (R405). -/
opaque Config.intermediateCertificate : List Byte

/-- The chain of the two certificates of the identity key, in the order of Table 15-7. -/
def Config.chain : List Byte := Config.deviceCertificate ++ Config.intermediateCertificate

/-- The firmware image as delivered in the NOR, whose contents the spec does not give (log 4). -/
opaque Config.factoryImage : List Byte

/-- The MAC address of the management port (R397). -/
opaque Config.mac : BitVec 48

/-- The device serial number (Table 15-8). -/
opaque Config.serial : Dword

/-- The PCI vendor ID of the endpoint (R401). -/
opaque Config.vendorId : BitVec 16

/-- The PCI device ID of the endpoint (R390). -/
opaque Config.deviceId : BitVec 16

/-- The PCI revision ID of the endpoint (R390). -/
opaque Config.revisionId : Byte

end Sys2Proof
end

