-- ==== Sys2Proof/Machine/Hash.lean ====
section
/-! DEFINITION. The hashes and checks the package computes: CRC-8 of mark words and management
messages (R161, R199), CRC-32 of packets (R216), SHAKE256 (Table 0-2) and KMAC256 (R399). -/
namespace Sys2Proof.Machine

/-- One step of CRC-8, polynomial x^8 + x^2 + x + 1 (R161). -/
def crc8Step (crc : Nat) (b : Bool) : Nat :=
  let top := (crc / 128 % 2 == 1) != b
  let sh := crc * 2 % 256
  if top then sh ^^^ 7 else sh

/-- CRC-8 over the bits [hi:lo] of a word, most significant first, initial value 0. -/
def crc8 {n : Nat} (w : BitVec n) (lo : Nat) (len : Nat) : Nat :=
  (List.range len).foldl (fun c i => crc8Step c (w.getLsbD (lo + len - 1 - i))) 0

/-- One bit of the reflected CRC-32 (R216). -/
def crc32Bit (c : BitVec 32) : BitVec 32 :=
  if c.getLsbD 0 then (c >>> 1) ^^^ 0xEDB88320 else c >>> 1

/-- One byte of CRC-32. -/
def crc32Byte (c : BitVec 32) (b : Byte) : BitVec 32 :=
  crc32Bit (crc32Bit (crc32Bit (crc32Bit (crc32Bit (crc32Bit (crc32Bit (crc32Bit
    (c ^^^ b.setWidth 32))))))))

/-- PCRC of R216 over bytes in order. -/
def crc32 (bs : List Byte) : BitVec 32 := (bs.foldl crc32Byte 0xFFFFFFFF) ^^^ 0xFFFFFFFF

/-- Round constants of Keccak-f[1600]. -/
def keccakRc : List (BitVec 64) :=
  [0x0000000000000001, 0x0000000000008082, 0x800000000000808A, 0x8000000080008000,
   0x000000000000808B, 0x0000000080000001, 0x8000000080008081, 0x8000000000008009,
   0x000000000000008A, 0x0000000000000088, 0x0000000080008009, 0x000000008000000A] ++
  [0x000000008000808B, 0x800000000000008B, 0x8000000000008089, 0x8000000000008003,
   0x8000000000008002, 0x8000000000000080, 0x000000000000800A, 0x800000008000000A,
   0x8000000080008081, 0x8000000000008080, 0x0000000080000001, 0x8000000080008008]

/-- Rotation offsets of Keccak, lane x + 5 y. -/
def keccakRot : List Nat :=
  [0, 1, 62, 28, 27, 36, 44, 6, 55, 20, 3, 10, 43, 25, 39, 41, 45, 15, 21, 8, 18, 2, 61, 56, 14]

/-- Lane `i` of a Keccak state. -/
def lane (s : List (BitVec 64)) (i : Nat) : BitVec 64 := s.getD i 0

/-- One round of Keccak-f[1600]. -/
def keccakRound (s : List (BitVec 64)) (rc : BitVec 64) : List (BitVec 64) :=
  let c := (List.range 5).map (fun x =>
    lane s x ^^^ lane s (x + 5) ^^^ lane s (x + 10) ^^^ lane s (x + 15) ^^^ lane s (x + 20))
  let d := (List.range 5).map (fun x => lane c ((x + 4) % 5) ^^^ (lane c ((x + 1) % 5)).rotateLeft 1)
  let t := (List.range 25).map (fun i => lane s i ^^^ lane d (i % 5))
  let b := (List.range 25).map (fun i =>
    let y := i / 5
    let x := i % 5
    let src := ((x + 3 * y) % 5) + 5 * x
    (lane t src).rotateLeft (keccakRot.getD src 0))
  let e := (List.range 25).map (fun i =>
    let y := i / 5
    let x := i % 5
    lane b i ^^^ (~~~ (lane b (5 * y + (x + 1) % 5)) &&& lane b (5 * y + (x + 2) % 5)))
  match e with
  | [] => []
  | h :: r => (h ^^^ rc) :: r

/-- Keccak-f[1600]. -/
def keccakF (s : List (BitVec 64)) : List (BitVec 64) := keccakRc.foldl keccakRound s

/-- A byte list of one rate block as 25 lanes. -/
def blockLanes (bs : List Byte) : List (BitVec 64) :=
  (List.range 25).map (fun i => BitVec.ofNat 64 (leAt bs (8 * i) 8))

/-- Absorb whole blocks of 136 bytes, `n` of them. -/
def keccakAbsorb : Nat → List (BitVec 64) → List Byte → List (BitVec 64)
  | 0, s, _ => s
  | n + 1, s, bs =>
    let blk := blockLanes (bs.take 136)
    keccakAbsorb n (keccakF ((List.range 25).map (fun i => lane s i ^^^ lane blk i))) (bs.drop 136)

/-- Squeeze `n` blocks of 136 bytes. -/
def keccakSqueeze : Nat → List (BitVec 64) → List Byte
  | 0, _ => []
  | n + 1, s => ((s.take 17).flatMap (fun l => leBytes 8 l.toNat)) ++ keccakSqueeze n (keccakF s)

/-- The sponge with rate 136 and domain byte `dom` (FIPS 202), `n` bytes of output. -/
def sponge (dom : Nat) (msg : List Byte) (n : Nat) : List Byte :=
  let blocks := msg.length / 136 + 1
  let padded := padTo (msg ++ [BitVec.ofNat 8 dom]) (136 * blocks)
  let lastIx := 136 * blocks - 1
  let full := padded.take lastIx ++ [byteAt padded lastIx ||| 0x80]
  let st := keccakAbsorb blocks (List.replicate 25 0) full
  (keccakSqueeze (n / 136 + 1) st).take n

/-- SHAKE256 (FIPS 202). -/
def shake256 (msg : List Byte) (n : Nat) : List Byte := sponge 0x1F msg n

/-- The first 24 bytes of SHAKE256, the form the package uses throughout. -/
def shake24 (msg : List Byte) : List Byte := shake256 msg 24

/-- left_encode of SP 800-185 for values below 2^16. -/
def leftEncode (v : Nat) : List Byte :=
  if v < 256 then [1, BitVec.ofNat 8 v] else [2, BitVec.ofNat 8 (v / 256), BitVec.ofNat 8 v]

/-- right_encode of SP 800-185 for values below 2^16. -/
def rightEncode (v : Nat) : List Byte :=
  if v < 256 then [BitVec.ofNat 8 v, 1] else [BitVec.ofNat 8 (v / 256), BitVec.ofNat 8 v, 2]

/-- encode_string of SP 800-185. -/
def encodeString (bs : List Byte) : List Byte := leftEncode (8 * bs.length) ++ bs

/-- bytepad to the rate of 136 bytes. -/
def bytepad (bs : List Byte) : List Byte :=
  let x := leftEncode 136 ++ bs
  padTo x (136 * ((x.length + 135) / 136))

/-- KMAC256 of SP 800-185 with an output of 16 bytes (R399). -/
def kmac128bit (key msg : List Byte) (custom : List Byte) : List Byte :=
  sponge 0x04 (bytepad (encodeString (ascii "KMAC") ++ encodeString custom)
    ++ bytepad (encodeString key) ++ msg ++ rightEncode 128) 16

end Sys2Proof.Machine
end

