-- ==== Sys2Proof/Machine/StateCore.lean ====
section
/-! DEFINITION. State of the lattice cores, the Saiga engines and the memory stacks (chapters 3-5). -/
namespace Sys2Proof.Machine

/-- STATE of a core (Table 3-11) or an engine (Table 4-10). -/
inductive UnitState where
  | none
  | idle
  | run
  | waitSync
  | waitTick
  | halted
  | stopped
  | spare
  | quarantined
deriving DecidableEq, Repr

/-- The code of a unit state. -/
def UnitState.code : UnitState → Nat
  | .none => 0
  | .idle => 1
  | .run => 2
  | .waitSync => 3
  | .waitTick => 4
  | .halted => 5
  | .stopped => 6
  | .spare => 7
  | .quarantined => 8

/-- What a unit waits for (R92, R93, R67 MOVE.F). `left` counts the frame boundaries of TO still to
pass, none without a timeout. -/
inductive Wait where
  | none
  | sync (ctr : Byte) (value : Word) (left : Option Nat)
  | tick (t : BitVec 12)
  | next (t : BitVec 12)
  | fence
deriving DecidableEq, Repr

/-- One level of the loop stack (R84): first and last instruction of the body, repetitions left. -/
structure LoopLevel where
  first : BitVec 20
  last : BitVec 20
  count : Word
deriving DecidableEq, Repr

/-- A move descriptor (Table 3-9). -/
structure MoveDesc where
  w0 : Dword
  w1 : Dword
  w2 : Dword
  w3 : Dword
deriving DecidableEq, Repr

/-- A descriptor in the mover queue, with the frame in which MOVE.Q took it (FRAME_SEL counts from it). -/
structure QueuedMove where
  desc : MoveDesc
  frame : Nat
deriving DecidableEq, Repr

/-- 64 bytes and their poison bit. -/
structure Granule where
  data : List Byte
  poison : Bool
deriving DecidableEq, Repr

/-- A move in flight (R85, R88): its descriptor, context and generation, the STEP whose program queued it, the frame it
started, what it read from the local source, and the granules already done. -/
structure Flight where
  desc : MoveDesc
  ctx : Option CtxId
  gen : BitVec 16
  step : Option Word
  frame : Nat
  src : List Granule
  done : List Nat
deriving DecidableEq, Repr

/-- A digest lane (R242): the records absorbed since it was opened. -/
structure Lane where
  isOpen : Bool
  step : Word
  job : Word
  recs : List Byte
  nrec : Nat
  digest : Option (List Byte)
deriving DecidableEq, Repr

/-- A closed lane. -/
def Lane.zero : Lane := { isOpen := false, step := 0, job := 0, recs := [], nrec := 0, digest := none }

/-- The frame record of a unit (Table 3-2, Table 4-1): completion reported, a stop reported, final
status of discarded moves, final status of engine commands (0 done, 1 not done, 2 FAULTED); `laterNotDone` says that every
command after the last one listed has the status not done (R128). -/
structure FrameRecord where
  completed : Bool
  stopped : Bool
  discarded : List MoveDesc
  statuses : List Byte
  laterNotDone : Bool
deriving DecidableEq, Repr

/-- An empty frame record. -/
def FrameRecord.zero : FrameRecord := { completed := false, stopped := false, discarded := [], statuses := [], laterNotDone := false }

/-- The step a unit runs (R60, R322): its number, the frame it started and the boundaries passed. -/
structure StepRun where
  step : Word
  boundaries : Nat
deriving DecidableEq, Repr

/-- Clocking of a core (Table 3-13, R372, R373, R380). `limit` is the thermal limit T_c in 5 MHz units,
`gatedFrame` says that the clock was gated for a part of the present frame, `off` that the array clocks are
stopped. -/
structure CoreClock where
  fmax : Byte
  limit : Byte
  gated : Bool
  gatedFrame : Bool
  off : Bool
deriving DecidableEq, Repr

/-- Sensors of a core (Table 3-10, R371): readings, faulty pair, effective temperature. -/
structure Therm where
  t0 : BitVec 16
  t1 : BitVec 16
  bad : Bool
  eff : BitVec 16
deriving DecidableEq, Repr

/-- Readings of zero. -/
def Therm.zero : Therm := { t0 := 0, t1 := 0, bad := false, eff := 0 }

/-- What the slack of a frame is computed from (R384): `ticks` spent in the waits of the frame that have ended, the tick period
`since` which the wait in progress counts, the greatest lateness of a tick wait, and whether the core ran in the frame. -/
structure WaitLog where
  since : Nat
  ticks : Nat
  late : Nat
  ran : Bool
deriving DecidableEq, Repr

/-- No wait in the frame, and no program. -/
def WaitLog.zero : WaitLog := { since := 0, ticks := 0, late := 0, ran := false }

/-- A lattice core (Tables 3-1, 3-2, 3-10 to 3-14). `sram` holds the ledger save area and the context area byte by byte;
the firmware region holds the broadcast region where `fw` says so (R24, R356), the frame record is `frec` and `lane`, the
control area `ctx`, `gen` and `err`; `quarSite` says that a site that served the number has been quarantined since the
last start-up test (R12, R336); `poison` and `sramErr` cover all of the SRAM. SRAM errors not yet met by a read are
kept per 64-bit word as the number of bits in error (R62). `wakeNo` and `wakeAt` are the order and the tick period
in which a held wake token was asked for (R381). `stale` holds the bytes that fetch still sees where a store of the program has
replaced them and no IFENCE has followed (R83); `convBad` says that its two converters disagree (R241, log 110). -/
structure Core where
  a : Tab Word
  v : Tab Word
  ledgers : Tab Ledger
  ctr : Tab Word
  pc : BitVec 20
  loops : List LoopLevel
  mq : List QueuedMove
  flights : List Flight
  sram : Mem
  poison : Tab Bool
  sramErr : Tab Nat
  state : UnitState
  wait : Wait
  ballast : Bool
  ballastLevel : Nat
  wakeHold : Bool
  wakeNo : Nat
  wakeAt : Nat
  err : Word
  ctx : Option CtxId
  gen : BitVec 16
  clock : CoreClock
  therm : Therm
  servedBy : Option (BitVec 12)
  serves : Option (BitVec 12)
  cntCe : Word
  cntSat : Word
  cntTickLate : Word
  cntMoveLate : Word
  cntStale : Word
  cntPoison : Word
  lane : Lane
  frec : FrameRecord
  step : Option StepRun
  stale : Tab (Option Byte)
  convBad : Bool
  fw : Bool
  quarSite : Bool
  slack : WaitLog
deriving DecidableEq, Repr

/-- A core right after a package reset. FMAX is fused: 140, the nominal 700 MHz (log 4). -/
def Core.zero : Core :=
  { a := [], v := [], ledgers := [], ctr := [], pc := 0, loops := [], mq := [], flights := []
    sram := [], poison := [], sramErr := [], state := .none, wait := .none, ballast := false, ballastLevel := 0
    wakeHold := false, wakeNo := 0, wakeAt := 0, err := 0, ctx := none, gen := 0
    clock := { fmax := 140, limit := 164, gated := false, gatedFrame := false, off := false }
    therm := Therm.zero, servedBy := none, serves := none
    cntCe := 0, cntSat := 0, cntTickLate := 0, cntMoveLate := 0, cntStale := 0, cntPoison := 0
    lane := Lane.zero, frec := FrameRecord.zero, step := none, stale := [], convBad := false, fw := false, quarSite := false
    slack := WaitLog.zero }

/-- A completion signal held by a full origin queue (R227): destination package, number, counter, amount. -/
structure Signal where
  dpkg : BitVec 6
  dcore : BitVec 12
  ctr : Byte
  val : Byte
deriving DecidableEq, Repr

/-- The working store of an engine (Table 4-1): query copies, scores and weights of the segment in work. How they lie in
the 56 KiB is not stated (log 80). -/
structure WorkStore where
  queries : List Byte
  scores : List Word
  weights : List Nat
deriving DecidableEq, Repr

/-- A cleared working store. -/
def WorkStore.zero : WorkStore := { queries := [], scores := [], weights := [] }

/-- A Saiga engine (Tables 4-9 to 4-12). `sig` is the signal of the WAIT or TICK in progress; `held` the
signal of a completed command that waits for room in the origin queue (R227), with the next program counter and
whether the program ends. `temp` is the stack base temperature at the engine, `down` the sixteenths by which
thermal actions lower its duty (R372), `gated` that a thermal shutdown has gated it (R374). Of its scratch (Table 4-1)
`fw` says that the firmware region holds the broadcast region (R356), `work` is what the last command left in the working
store, `quarSite` and `convBad` are as for a core, `late` is the greatest lateness of a tick wait in the frame (R384), and the control area is `ctx`, `gen`, `err`, `frec` and `lane`. -/
structure Engine where
  state : UnitState
  wait : Wait
  op : Byte
  err : Word
  pc : BitVec 25
  ctx : Option CtxId
  gen : BitVec 16
  servedBy : Option (BitVec 7)
  serves : Option (BitVec 7)
  winBase : BitVec 25
  winLimit : BitVec 25
  gated : Bool
  temp : BitVec 16
  down : Nat
  cntPoison : Word
  cntSat : Word
  cntTickLate : Word
  cntStale : Word
  cntCmds : Word
  ctr : Tab Word
  ledgers : Tab Ledger
  lane : Lane
  frec : FrameRecord
  step : Option StepRun
  sig : Option Signal
  held : Option (Signal × BitVec 25 × Bool)
  fw : Bool
  region : List Byte
  work : WorkStore
  quarSite : Bool
  convBad : Bool
  late : Nat
deriving DecidableEq, Repr

/-- An engine right after a package reset. -/
def Engine.zero : Engine :=
  { state := .none, wait := .none, op := 0, err := 0, pc := 0, ctx := none, gen := 0, servedBy := none
    serves := none, winBase := 0, winLimit := 0, gated := false, temp := 0, down := 0, cntPoison := 0, cntSat := 0, cntTickLate := 0
    cntStale := 0, cntCmds := 0, ctr := [], ledgers := [], lane := Lane.zero, frec := FrameRecord.zero
    step := none, sig := none, held := none, fw := false, region := [], work := WorkStore.zero, quarSite := false, convBad := false, late := 0 }

/-- STATE of a stack (Table 5-8). -/
inductive StackState where
  | none
  | training
  | up
  | selfRefresh
  | failed
deriving DecidableEq, Repr

/-- The code of a stack state. -/
def StackState.code : StackState → Nat
  | .none => 0
  | .training => 1
  | .up => 2
  | .selfRefresh => 3
  | .failed => 4

/-- A memory stack (Tables 5-7 to 5-9). Rows are named column x 32 x 24576 + bank x 24576 + row (R131).
`base` and `dram` are the temperatures of the base and of the hottest DRAM die in 0.0625 degrees C; `dramHot` says
that the latter has reached 95 and not yet fallen to 90 (R372). -/
structure Stack where
  state : StackState
  scrub : Bool
  plogNext : BitVec 5
  plogWritten : Tab Bool
  plog : Tab (Dword × BitVec 42)
  err : Word
  cntCe : Word
  cntUe : Word
  cntRefused : Word
  cntScrub : Word
  pending : List Nat
  retired : List Nat
  rowCe : Tab Nat
  repairRows : BitVec 16
  repairCols : BitVec 16
  base : BitVec 16
  dram : BitVec 16
  dramHot : Bool
  scrubPos : Nat
deriving DecidableEq, Repr

/-- A stack right after a package reset. -/
def Stack.zero : Stack :=
  { state := .none, scrub := false, plogNext := 0, plogWritten := [], plog := [], err := 0
    cntCe := 0, cntUe := 0, cntRefused := 0, cntScrub := 0, pending := [], retired := [], rowCe := []
    repairRows := 0, repairCols := 0, base := 0, dram := 0, dramHot := false, scrubPos := 0 }

/-- An entry of the band table (Table 5-10). -/
structure Band where
  valid : Bool
  column : Bool
  clearing : Bool
  owner : CtxId
deriving DecidableEq, Repr

/-- An unowned band row. -/
def Band.zero : Band := { valid := false, column := false, clearing := false, owner := 0 }

/-- An undo log entry (R257): context, LFN of the frame that overwrote the line, line index, old line. -/
structure UndoEntry where
  ctx : CtxId
  lfn : BitVec 16
  line : Nat
  old : Granule
deriving DecidableEq, Repr

/-- A memory error as reported to Markhor (R144): when, the stack, the local address of the line, and where in the stack the
line lies (Table 5-1). -/
structure MemReport where
  time : Dword
  stack : StackId
  addr : BitVec 42
  column : Nat
  die : Nat
  bank : Nat
  row : Nat
deriving DecidableEq, Repr

/-- The memory of all stacks and the memory-wide registers (chapter 5). A line index is
(stack x 64 + column) x 25165824 + column offset; its bytes are at 64 x line index. `waiting` lists the
released band rows still to be cleared, in order; `report` is the last memory error reported to Markhor (R144). -/
structure MemSys where
  dram : Mem
  tag : Tab Bool
  bands : Tab Band
  waiting : List (Fin 48)
  ilvMap : Bool
  wBase : Dword
  wStage : Option Word
  wbaseErr : Bool
  woff : Bool
  cntRefused : Word
  undo : List UndoEntry
  report : Option MemReport
deriving DecidableEq, Repr

/-- Memory right after a package reset. -/
def MemSys.zero : MemSys :=
  { dram := [], tag := [], bands := [], waiting := [], ilvMap := false, wBase := 0, wStage := none
    wbaseErr := false, woff := false, cntRefused := 0, undo := [], report := none }

end Sys2Proof.Machine
end

