-- ==== Sys2Proof/Machine/StateFabric.lean ====
section
/-! DEFINITION. State of the frame clock, the fabric links, the plan and circuits, routing, digests and
commit (chapters 6-9). -/
namespace Sys2Proof.Machine

/-- The parity of a word: whether an odd number of its bits is set (R424). -/
def parityOf (w : Word) : Bool := (List.range 32).foldl (fun p i => p ^^ w.getLsbD i) false

/-- A configuration word (R424, R425): the bits stored, the last good value, the parity bit, and whether it is held because its
parity did not match. -/
structure CfgWord where
  stored : Word
  good : Word
  parity : Bool
  held : Bool
deriving DecidableEq, Repr

/-- A configuration word as a write leaves it, its parity generated anew. -/
def CfgWord.of (w : Word) : CfgWord := { stored := w, good := w, parity := parityOf w, held := false }

/-- The parity of the stored bits does not match. -/
def CfgWord.bad (c : CfgWord) : Bool := parityOf c.stored != c.parity

/-- The value in force: the last good value (R425). -/
def CfgWord.val (c : CfgWord) : Word := c.good

/-- STATE of the frame clock (Table 6-10). -/
inductive FrmState where
  | unlocked
  | acquiring
  | locked
  | holdover
  | freerun
deriving DecidableEq, Repr

/-- The code of a frame-clock state. -/
def FrmState.code : FrmState → Nat
  | .unlocked => 0
  | .acquiring => 1
  | .locked => 2
  | .holdover => 3
  | .freerun => 4

/-- The fields of a valid mark (Table 6-2). -/
structure Mark where
  lfn : BitVec 16
  aoff : BitVec 13
  slip : Int
  hold : Bool
deriving DecidableEq, Repr

/-- One frame-reference input (R162, R167, R168): `extra` is the part of earlier SLIPs that lengthens the frame
its last mark names, `edges` says that its mark grid is known, `carrier` that it has rising edges, `agree` counts consecutive agreeing marks, `await` holds the
grid intervals of a mark that waits to be compared with the locked input's mark of the same interval. -/
structure RefIn where
  good : Bool
  hold : Bool
  edges : Bool
  agree : Nat
  mark : Option Mark
  extra : Int
  await : Option Nat
  carrier : Bool
deriving DecidableEq, Repr

/-- An input with nothing received; it has its carrier until REF_EDGE_LOSS says otherwise (log 117). -/
def RefIn.zero : RefIn :=
  { good := false, hold := false, edges := false, agree := 0, mark := none, extra := 0, await := none, carrier := true }

/-- A slip that waits for grid tick 128 (R182): its amount and the boundary it belongs to. -/
structure PendingSlip where
  slip : Int
  lfn : BitVec 16
deriving DecidableEq, Repr

/-- The frame clock (chapter 6). `model` is the last mark the target model took and `extra` what earlier SLIPs
add to the frame it names (R165); `next` the LFN and offset of the frame that follows a broken one (R184);
`second` says that a held tick is in its second period; `slipNow` is what the present frame absorbs. `gridPeriod` is the
tick period of the grid interval, `endIn` the tick periods that a broken frame still lasts, `carry` a slip that joins the debt
when it ends, `skipEnd` the first tick of the run of skipped ticks with which the frame before ended (4,096 for none), `lockWait` the tick periods for which lock still waits for the preferred input (R167). -/
structure Frm where
  state : FrmState
  srcB : Bool
  inA : RefIn
  inB : RefIn
  broken : Bool
  holdFrames : Nat
  err : Word
  ctl : CfgWord
  valid : Bool
  frame : Nat
  tick : Nat
  second : Bool
  elapsed : Nat
  lfn : BitVec 16
  lfn0 : BitVec 16
  aoff : Nat
  debt : Int
  slipNow : Int
  planSlip : Option PendingSlip
  gridPeriod : Nat
  model : Option Mark
  extra : Int
  next : Option (BitVec 16 × Nat)
  endIn : Nat
  carry : Int
  skipEnd : Nat
  lockWait : Option Nat
  skew : BitVec 16
  cntFailover : Word
  cntMarkA : Word
  cntMarkB : Word
  cntHoldover : Word
  cntRealign : Word
  slipMap : Tab CfgWord
deriving DecidableEq, Repr

/-- Reset value of slip-map word `i` (R180). -/
def slipMapReset (i : Nat) : Word := if i % 2 = 1 then 0xC0000000 else 0

/-- The frame clock right after a package reset. -/
def Frm.zero : Frm :=
  { state := .unlocked, srcB := false, inA := RefIn.zero, inB := RefIn.zero, broken := false, holdFrames := 0, err := 0
    ctl := CfgWord.of 0, valid := false, frame := 0, tick := 0, second := false, elapsed := 0, lfn := 0, lfn0 := 0
    aoff := 0, debt := 0, slipNow := 0, planSlip := none, gridPeriod := 0, model := none, extra := 0, next := none, endIn := 0, carry := 0
    skipEnd := 4096, lockWait := none, skew := 0
    cntFailover := 0, cntMarkA := 0, cntMarkB := 0, cntHoldover := 0, cntRealign := 0, slipMap := [] }

/-- STATE of a link (Table 7-9). -/
inductive LinkState where
  | none
  | disabled
  | training
  | qualifying
  | up
  | down
deriving DecidableEq, Repr

/-- The code of a link state. -/
def LinkState.code : LinkState → Nat
  | .none => 0
  | .disabled => 1
  | .training => 2
  | .qualifying => 3
  | .up => 4
  | .down => 5

/-- LNK_LANE_STAT of one receiving lane (Table 7-14): STATE code, polarity, lock, BER_EXP. -/
structure LaneStat where
  state : BitVec 4
  inv : Bool
  cdr : Bool
  ber : BitVec 16
deriving DecidableEq, Repr

/-- A lane that is off. -/
def LaneStat.zero : LaneStat := { state := 0, inv := false, cdr := false, ber := 0xFFFF }

/-- A lane change that waits for the frame it names (R206, R207): whether it concerns this end's
receivers, the GOOD mask, and the low 12 bits of the LFN. -/
structure LaneChange where
  rx : Bool
  good : BitVec 16
  lfn : BitVec 12
deriving DecidableEq, Repr

/-- A packet of which part has been read from a flit stream (R193). -/
structure Partial where
  hdr : List Byte
  left : Nat
  flits : List (List Byte)
deriving DecidableEq, Repr

/-- A control codeword accepted and not yet delivered (R194, R196): its CSEQ, the width of the group it came in, its
flits. -/
structure RxCw where
  cseq : Byte
  width : Nat
  flits : List (List Byte)
deriving DecidableEq, Repr

/-- A training attempt in progress (R200, R204, R209): cold or warm, how many attempts may follow, whether it is a retry of a
link in service, its phase 1 to 5 of Table 7-6, and the tick period in which it began. -/
structure Attempt where
  cold : Bool
  more : Nat
  retry : Bool
  phase : Nat
  since : Nat
deriving DecidableEq, Repr

/-- A management message that a link sends (R199): its 64 bits, the frame whose boundary ends it, if it names one, and the
tick period in which it began. -/
structure MgmtOut where
  word : Dword
  til : Option (BitVec 12)
  since : Nat
deriving DecidableEq, Repr

/-- An unacknowledged control codeword (R196): its CSEQ, how often it was requested, its flits. -/
structure HeldCw where
  cseq : Byte
  asked : Nat
  flits : List (List Byte)
deriving DecidableEq, Repr

/-- A packet held in an input packet buffer, or waiting for an output (R224-R226). `inLink` is the
link it arrived on, none for a packet this package originates. -/
structure QPacket where
  pkt : Packet
  inLink : Option LinkId
deriving DecidableEq, Repr

/-- A fabric link (chapter 7, R225, R235). `planNext` lists the PLAN_WIDTH values written and the boundaries until each is
in force; `losFrame` a loss of signal whose shortness waits one more boundary when true; `goodSent` the newest good receive
lanes, of which the peer has been told; `win` the receive window (frame, start) that the last data group fell in; `rxBase`
the CSEQ that begins the next control group; `rxReady` packets received and not yet handled, `transit` control packets in its
input packet buffers, `freed` buffers freed since the last CREDIT. Transmit side: `ctlOut` control flits queued, `dataQ`
circuit packets of this package queued for their windows; `ctlUsed` groups used in the control window `ctlWin`, `txUsed` those
in the transmit window `txWin`, `txPart` the flits of the data group still open in the present tick period; `resent` codewords of
`held` that a resending has sent so far. `eq` holds each lane's equalisation parameters, `loop` groups on their way in loopback
(R210), `drained` that LINK_DRAINED has been seen since the link began to drain. `nakWin` is the control-class window in which the NAK came
that a resending answers (R196), `sentNow` a tick period and the groups sent in it, `requalAt` when a requalification began (R207).
`mgmt` lists the messages that the link repeats, each until the boundary that it names (R199). -/
structure Link where
  state : LinkState
  width : Nat
  short : Bool
  reversed : Bool
  cause : BitVec 4
  loopback : Bool
  err : Word
  ctl : CfgWord
  usedRx : BitVec 16
  goodRx : BitVec 16
  goodTx : BitVec 16
  goodSent : BitVec 16
  peer : BitVec 16
  est : BitVec 16
  cntCw : Dword
  cntCorr : Dword
  cntUcw : Word
  cntReplay : Word
  cntCtlLost : Word
  cntLoss : Word
  cntDown : Word
  cntWidth : Word
  cntMisplaced : Word
  hist : Tab Word
  laneSe : Tab Dword
  lanes : Tab LaneStat
  ucwFrame : Tab Nat
  planWidth : Nat
  planNext : List (Nat × Nat)
  changes : List LaneChange
  attempt : Option Attempt
  requal : Bool
  upNext : Bool
  losFrame : Option Bool
  txSeq : Byte
  held : List HeldCw
  rxSeq : Byte
  rxBase : Byte
  rxSeen : List RxCw
  nakDue : Bool
  resend : Bool
  resent : Nat
  ctlPart : Option Partial
  dataPart : Option Partial
  discard : Bool
  win : Option (Nat × Nat)
  rxReady : List Packet
  credits : Nat
  freed : Nat
  transit : List QPacket
  draining : Bool
  drained : Bool
  mgmt : List MgmtOut
  mgmtRx : Tab Dword
  ctlOut : List (List Byte)
  ctlWin : Option Nat
  ctlUsed : Nat
  dataQ : List Packet
  txWin : Option Nat
  txUsed : Nat
  txPart : List (List Byte)
  eq : Tab Word
  loop : List (List Codeword)
  nakWin : Option Nat
  sentNow : Nat × Nat
  requalAt : Nat
deriving DecidableEq, Repr

/-- A link right after a package reset; LNK_EST without a window yet is a design choice (log 2). -/
def Link.zero : Link :=
  { state := .none, width := 0, short := false, reversed := false, cause := 0, loopback := false, err := 0
    ctl := CfgWord.of 0x1A, usedRx := 0, goodRx := 0, goodTx := 0, goodSent := 0, peer := 0, est := 0xFFFF, cntCw := 0, cntCorr := 0
    cntUcw := 0, cntReplay := 0, cntCtlLost := 0, cntLoss := 0, cntDown := 0, cntWidth := 0, cntMisplaced := 0
    hist := [], laneSe := [], lanes := [], ucwFrame := [], planWidth := 16, planNext := [], changes := []
    attempt := none, requal := false, upNext := false, losFrame := none, txSeq := 0, held := [], rxSeq := 0xFF
    rxBase := 0, rxSeen := [], nakDue := false, resend := false, resent := 0, ctlPart := none, dataPart := none, discard := false
    win := none, rxReady := [], credits := 8, freed := 0, transit := [], draining := false, drained := false
    mgmt := [], mgmtRx := [], ctlOut := [], ctlWin := none, ctlUsed := 0, dataQ := [], txWin := none, txUsed := 0
    txPart := [], eq := [], loop := [], nakWin := none, sentNow := (0, 0), requalAt := 0 }

/-- A plan entry (Table 6-5). -/
structure PlanEntry where
  link : Nat
  kind : Nat
  rx : Bool
  ctx : Nat
  circuit : Nat
  len : Nat
  start : Nat
deriving DecidableEq, Repr

/-- A frame plan with the circuit records of its bundle (R175, R445). -/
structure PlanImage where
  actLfn : BitVec 16
  entries : List PlanEntry
  circs : Tab Word
deriving DecidableEq, Repr

/-- The plan banks and the circuit table (R174, R218, R232). `tombAge` counts the boundaries since TOMB
was set, `stopped` says that FREERUN stopped the plan (R170). -/
structure Plan where
  active : Option PlanImage
  pending : Option PlanImage
  circ : Tab Word
  tombAge : Tab Nat
  stopped : Bool
deriving DecidableEq, Repr

/-- No plan. -/
def Plan.zero : Plan := { active := none, pending := none, circ := [], tombAge := [], stopped := false }

/-- What the destination keeps of one origin's messages (R231). -/
structure Dedup where
  seen : Bool
  epoch : Byte
  highest : Nat
  marks : List Nat
deriving DecidableEq, Repr

/-- A packet in a forwarding buffer (R222), the link it leaves on, and when its header arrived: frame x 4096 +
tick. -/
structure Forwarded where
  pkt : Packet
  out : LinkId
  since : Nat
deriving DecidableEq, Repr

/-- An arrival on its way inside the package (R88, R91, R112): to a core or engine number, the counter,
the amount, context and generation, and for a granule its destination address and bytes. -/
structure Arrival where
  dcore : BitVec 12
  ctr : Byte
  amount : Word
  ctx : CtxId
  gen : BitVec 16
deriving DecidableEq, Repr

/-- A loss that has been notified (R198, R222): its circuit, the package told, the REASON, the frame charged, or, where `drop` is true, the
frame in which a forwarding buffer dropped packets of the circuit. -/
structure LossKey where
  drop : Bool
  circuit : Nat
  dst : Nat
  reason : Nat
  lfn : Nat
deriving DecidableEq, Repr

/-- Routing (chapter 8). -/
structure Rte where
  id : CfgWord
  idWritten : Bool
  ctl : CfgWord
  err : Word
  cntLate : Word
  cntOrphan : Word
  cntWindow : Word
  cntDup : Word
  cntTtl : Word
  cntTurn : Word
  cntUnreach : Word
  cntResetDrop : Word
  cntFwdDrop : Word
  cntPcrc : Word
  epoch : Byte
  route : Tab Word
  rmem : Tab (BitVec 16)
  llog : Tab Dword
  llogWritten : Tab Bool
  llogNext : BitVec 4
  llogged : List (Nat × Nat)
  origin : List QPacket
  fwd0 : List Forwarded
  fwd1 : List Forwarded
  dedup : Tab Dedup
  flowSeq : Tab (BitVec 24)
  respSeq : Tab (BitVec 24)
  msgSeq : BitVec 24
  arrivals : List Arrival
  lossSent : List LossKey
  notices : List (Nat × Dword)
  opened : Option Nat
deriving DecidableEq, Repr

/-- Reset value of a route entry (Table 8-5). -/
def routeReset : Word := 0x7E000000

/-- Routing right after a package reset. -/
def Rte.zero : Rte :=
  { id := CfgWord.of 0, idWritten := false, ctl := CfgWord.of 0, err := 0, cntLate := 0, cntOrphan := 0, cntWindow := 0
    cntDup := 0, cntTtl := 0, cntTurn := 0, cntUnreach := 0, cntResetDrop := 0, cntFwdDrop := 0, cntPcrc := 0
    epoch := 0, route := [], rmem := [], llog := [], llogWritten := [], llogNext := 0, llogged := [], origin := []
    fwd0 := [], fwd1 := [], dedup := [], flowSeq := [], respSeq := [], msgSeq := 0, arrivals := []
    lossSent := [], notices := [], opened := none }

/-- A digest record received (Table 9-4): the frame it belongs to and its fields. -/
structure DigRecord where
  lfn : BitVec 16
  group : BitVec 16
  kind : Byte
  member : Nat
  arg : Word
  value : List Byte
deriving DecidableEq, Repr

/-- A digest of an own tagged or untagged step (R243, R248), with the template that gives its unit list. -/
structure OwnDigest where
  template : Byte
  lfn : BitVec 16
  group : BitVec 16
  step : Word
  digest : List Byte
deriving DecidableEq, Repr

/-- A transfer sum (R245): peer package, LFN, value modulo 2^192. -/
structure XferSum where
  pkg : Nat
  lfn : BitVec 16
  sum : Nat
deriving DecidableEq, Repr

/-- STATE of FLT_DIG_CTX (Table 9-10). -/
inductive DigState where
  | run
  | restarting
  | held
  | replay
deriving DecidableEq, Repr

/-- The code of a digest state. -/
def DigState.code : DigState → Nat
  | .run => 0
  | .restarting => 1
  | .held => 2
  | .replay => 3

/-- The ROLLBACK records in force that name one frame (R253): the latest restart LFN, and whether any carries HOLD. -/
structure Notice where
  lfn : BitVec 16
  restart : BitVec 16
  hold : Bool
deriving DecidableEq, Repr

/-- Commit state of one context (R251-R255, R260). `losses` and `stops` name the frames charged
(R251 cases 4 and 5), `faults` the frames after which the context is held with FAULT (R315, R318).
`consumed` names the frame of the last consumption of poison announced. `cause` is the cause of the
decision to roll back the present frame, none to commit; `decided` says that its verdict has been taken,
`forced` that a notice decided it. `prevOpen` says that the previous frame is committed and not confirmed,
`notices` are the ROLLBACK records in force, `rbSteps` the first open steps of the runs at the last rollback (R260), `rolled` the frames rolled back or revoked, the one last named first, `lateCause`
the lowest cause of the ROLLBACK records queued in the present frame for the frame before. `restartAt` is the restart LFN of the
last rollback. `first` holds the digests kept for replay, `failed` the steps whose digests disagreed in the last run, `circuitSteps`
steps that have read a circuit, `xferSent` the TRANSFER groups whose record of the present frame has been queued,
`verdicts` the verdicts of the last 4 frames, newest first, true for roll-back. -/
structure DigCtx where
  state : DigState
  rbRun : Nat
  confirmed : BitVec 16
  recs : List DigRecord
  own : List OwnDigest
  outSums : List XferSum
  inSums : List XferSum
  losses : List (BitVec 16)
  stops : List (BitVec 16)
  faults : List (BitVec 16)
  consumed : Option (BitVec 16)
  decided : Bool
  cause : Option Nat
  prevOpen : Bool
  rolled : List (BitVec 16)
  forced : Bool
  notices : List Notice
  lateCause : Option Nat
  restartAt : Option (BitVec 16)
  first : List OwnDigest
  failed : List Word
  circuitSteps : List Word
  mismatchRun : Nat
  xferSent : List (BitVec 16)
  verdicts : List (BitVec 16 × Bool)
  rbSteps : List Word
deriving DecidableEq, Repr

/-- A context with nothing recorded. -/
def DigCtx.zero : DigCtx :=
  { state := .run, rbRun := 0, confirmed := 0, recs := [], own := [], outSums := [], inSums := [], losses := []
    stops := [], faults := [], consumed := none, decided := false, cause := none, prevOpen := false, rolled := [], forced := false
    notices := [], lateCause := none, restartAt := none, first := [], failed := [], circuitSteps := [], mismatchRun := 0
    xferSent := [], verdicts := [], rbSteps := [] }

/-- A digest record waiting to be sent (R250): destination, context, job, frame, the 32 bytes. -/
structure SendRecord where
  dst : Nat
  ctx : CtxId
  job : Word
  lfn : BitVec 16
  rollback : Bool
  bytes : List Byte
deriving DecidableEq, Repr

/-- Digests and commit (chapter 9). -/
structure Dig where
  err : Word
  cntRollback : Word
  cntRevoke : Word
  cntMismatch : Word
  cntMissing : Word
  cntResidue : Word
  cntReplay : Word
  sendQ : List SendRecord
  inbound : Nat
deriving DecidableEq, Repr

/-- Digest state right after a package reset. -/
def Dig.zero : Dig :=
  { err := 0, cntRollback := 0, cntRevoke := 0, cntMismatch := 0, cntMissing := 0, cntResidue := 0, cntReplay := 0
    sendQ := [], inbound := 0 }

end Sys2Proof.Machine
end

