-- ==== Sys2Proof/Machine/StateCtl.lean ====
section
/-! DEFINITION. State of the Ibex units, the mailbox, contexts, faults, NOR, bring-up, power, thermal and
the host side (chapters 10-16). -/
namespace Sys2Proof.Machine

/-- State of a context (Table 11-4). -/
inductive CtxState where
  | none
  | creating
  | loaded
  | running
  | held
  | resetting
  | tearingDown
deriving DecidableEq, Repr

/-- The code of a context state. -/
def CtxState.code : CtxState → Nat
  | .none => 0xFF
  | .creating => 1
  | .loaded => 2
  | .running => 3
  | .held => 4
  | .resetting => 5
  | .tearingDown => 6

/-- A command as its completion names it (Table 10-4, Table 10-7). -/
structure Cmd where
  slot : SlotId
  ver1 : Bool
  opcode : BitVec 16
  ctx : Byte
  tag : Word
  ctag : Word
  notify : Bool
deriving DecidableEq, Repr

/-- A final status that waits for the seal of the copy of frame `frame` (R270), or when `boundary` holds
for the boundary after that seal (R300). -/
structure Final where
  cmd : Cmd
  ring : Bool
  boundary : Bool
  frame : Nat
  status : BitVec 16
  detail : Word
  arg : Word
  resp : List Byte
deriving DecidableEq, Repr

/-- The blocks outside the active unit that its firmware writes for a command (R264, R269). -/
inductive FwBlock where
  | bandTable
  | engineWindows
  | bindings
  | planBank
  | circuitBank
  | unitState
  | undoRow
  | powerCap
  | resetOrder
  | firmware
deriving DecidableEq, Repr

/-- An intent record (R269): the command with its header and slot, its payload with the SHAKE256 digest, the block writes that it
will make, the refusal that it will get instead of them (status and DETAIL), and the frame in which it was acknowledged. -/
structure Intent where
  cmd : Cmd
  payload : List Byte
  digest : List Byte
  writes : List FwBlock
  refusal : Option (BitVec 16 × Nat)
  frame : Nat
deriving DecidableEq, Repr

/-- A unit of a step template and its start address (R290). -/
structure TemplateUnit where
  unit : BitVec 12
  start : Word
deriving DecidableEq, Repr

/-- A step run (R290, R306, R307): `base` is step number 0 of the run, `next` the index of the next step
to start, `committed` the first index not committed, `at_` the LFN of the boundary that starts `next`,
`running` the index of the step in progress, `replayed` that its units are those of the replay map. -/
structure Run where
  template : Byte
  group : BitVec 16
  base : Word
  count : Nat
  interval : Nat
  next : Nat
  committed : Nat
  confirmed : Nat
  at_ : BitVec 16
  running : Option Nat
  replayed : Bool
  cmd : Cmd
deriving DecidableEq, Repr

/-- Status of one STEP (Table 11-8). -/
structure StepStatus where
  step : Word
  code : Byte
  flags : Byte
  lfn : BitVec 16
  notDone : BitVec 16
  unit : BitVec 16
  err : Word
deriving DecidableEq, Repr

/-- A group of a check table (Table 9-3). -/
structure CheckGroup where
  group : BitVec 16
  kind : Byte
  mask : BitVec 48
deriving DecidableEq, Repr

/-- A check table (Table 9-3, Table 9-3a). -/
structure CheckTable where
  check : Bool
  lprot : Bool
  undoRow : Nat
  groups : List CheckGroup
  replay : List (BitVec 16 × BitVec 16)
deriving DecidableEq, Repr

/-- An entry of a load list (R290; layout log 12). -/
structure LoadEntry where
  unit : BitVec 12
  dest : Word
  src : BitVec 42
  len : BitVec 16
deriving DecidableEq, Repr

/-- A context (chapter 11). `holdNext` are hold reasons that take effect at the next boundary, `waiting`
the commands whose ring entries are owed (CTX_HOLD, CTX_RESET, CTX_TEARDOWN), `loads` the load entries
still to be carried out, `loadCmd` the PROG_LOAD they belong to, `loadsFirst` earlier ones that are still owed, `replay` a step replay that UCI-1 asked for (R261); `stopNext` orders the runs to
end with FAULTED at the next boundary; `justReset` says that it has been reset at the present boundary, `resetSince` since its last PROG_LOAD;
`unpaid` completions that wait until
the memory accesses of the context have taken effect (R287). -/
structure Ctx where
  state : CtxState
  held : BitVec 16
  holdNext : BitVec 16
  tray : Bool
  contain : BitVec 2
  span : Nat
  job : Word
  bands : BitVec 48
  bmode : BitVec 48
  winFirst : Nat
  winLast : Nat
  stks : BitVec 24
  columns : Dword
  cores : BitVec 2448
  templates : Tab (List TemplateUnit)
  runs : List Run
  replay : Option Run
  check : Option CheckTable
  loadList : List LoadEntry
  loads : List LoadEntry
  loadCmd : Option Cmd
  loadsFirst : List (Cmd × List LoadEntry)
  needReload : Bool
  energy : Dword
  tchange : Dword
  statuses : List StepStatus
  holdCmds : List Cmd
  resetCmds : List Cmd
  teardownCmds : List Cmd
  slackLog : List (Option Int)
  stopNext : Bool
  unpaid : List Final
  justReset : Bool
  resetSince : Bool
deriving DecidableEq, Repr

/-- A context number that names no context. -/
def Ctx.zero : Ctx :=
  { state := .none, held := 0, holdNext := 0, tray := false, contain := 0, span := 0, job := 0, bands := 0, bmode := 0
    winFirst := 0, winLast := 0, stks := 0, columns := 0, cores := 0, templates := [], runs := [], replay := none, check := none
    loadList := [], loads := [], loadCmd := none, loadsFirst := [], needReload := false, energy := 0, tchange := 0, statuses := []
    holdCmds := [], resetCmds := [], teardownCmds := [], slackLog := [], stopNext := false
    unpaid := [], justReset := false, resetSince := false }

/-- The control image (R264): contexts, staging buffer, final statuses that wait for a seal, held
completions, the digest store and the next completion tag. -/
structure Image where
  ctxs : Tab Ctx
  staging : Mem
  finals : List Final
  held : List Final
  digs : Tab DigCtx
  nextCtag : Word
deriving DecidableEq, Repr

/-- An empty image. -/
def Image.zero : Image := { ctxs := [], staging := [], finals := [], held := [], digs := [], nextCtag := 1 }

/-- A frame-end copy in flight (R266). -/
structure Copy where
  frame : Nat
  lfn : BitVec 16
  image : Image
  acked : Bool
deriving DecidableEq, Repr

/-- One Ibex unit: running, failed (R264, R271). -/
structure Ibex where
  running : Bool
  failed : Bool
deriving DecidableEq, Repr

/-- The device states (Table 10-8a). -/
inductive DState where
  | off
  | bringup
  | ready
  | service
  | recovering
  | degraded
  | quarantined
deriving DecidableEq, Repr

/-- The code of a device state. -/
def DState.code : DState → Nat
  | .off => 0
  | .bringup => 1
  | .ready => 2
  | .service => 3
  | .recovering => 4
  | .degraded => 5
  | .quarantined => 6

/-- The mailbox and the Ibex units (chapter 10). `posted` lists the posted slots, earliest first, with
the frame of the post; `waitAck` is the S command whose intent has not been acknowledged. `standby` is the image of the last
sealed copy, `resyncing` that a unit is being resynchronised, with `resync` pages still to send; `swapCopy` is the image at the
end of a swap frame, `lastBeat` the control-class window of the last heartbeat, `linkBytes` what heartbeats and intents have taken
of the private link in the present frame (R267). -/
structure Mbx where
  store : Mem
  posted : List (SlotId × Nat)
  dstate : DState
  fwRun : Bool
  shed : BitVec 2
  load : Byte
  err : Word
  ctl : CfgWord
  ringTail : BitVec 11
  ringHead : BitVec 11
  phase : Bool
  copyLfn : BitVec 16
  cntTaken : Word
  cntShed : Word
  cntOwned : Word
  cntTakeover : Word
  cntDigDrop : Word
  activeB : Bool
  unitA : Ibex
  unitB : Ibex
  synced : Bool
  resyncing : Bool
  resync : BitVec 16
  standby : Image
  sealedFrame : Option Nat
  copy : Option Copy
  waitAck : Option Intent
  intents : List Intent
  pages : Nat
  swapping : Bool
  swapDue : Bool
  swapCopy : Option Copy
  lastBeat : Option Nat
  linkBytes : Nat
  failFrame : Option Nat
deriving DecidableEq, Repr

/-- The mailbox right after a package reset. -/
def Mbx.zero : Mbx :=
  { store := [], posted := [], dstate := .off, fwRun := false, shed := 0, load := 0, err := 0, ctl := CfgWord.of 0
    ringTail := 0, ringHead := 0, phase := true, copyLfn := 0, cntTaken := 0, cntShed := 0, cntOwned := 0
    cntTakeover := 0, cntDigDrop := 0, activeB := false, unitA := { running := false, failed := false }
    unitB := { running := false, failed := false }, synced := false, resyncing := false, resync := 0, standby := Image.zero
    sealedFrame := none, copy := none, waitAck := none, intents := [], pages := 0, swapping := false
    swapDue := false, swapCopy := none, lastBeat := none, linkBytes := 0, failFrame := none }

/-- A full dossier: sections 0 to 9 as bytes (R328). -/
structure Dossier where
  seq : Word
  domain : Byte
  bytes : List Byte
deriving DecidableEq, Repr

/-- An event announced by beacons (R338): code, severity, time, unit, contexts, dossier, suppressed
count, ARG, ADDR, sequence number and the copies still to send. -/
structure Beacon where
  code : BitVec 16
  severity : Byte
  time : Dword
  unit : BitVec 16
  ctxMask : BitVec 16
  dossier : Word
  suppressed : BitVec 16
  arg : Word
  addr : Word
  seq : Word
  left : Nat
deriving DecidableEq, Repr

/-- Faults and recovery (chapter 12). `resetDue` says that a compute-domain reset is ordered, `reason` why,
`resetPending` that a package reset is ordered, `pkgReason` why; `waiting` and `running` are the engine resets
waiting and in progress, with true for a reset of the mover; `resetTimes` the tick periods of Markhor's package
resets within 24 hours; `quarCause` why the package is to be quarantined; `outage` that a package reset ordered by Markhor has begun and
READY has not been reached since (R339); `keptOff` that only a power cycle
helps; `absorbed` lists the resets preempted by a larger one and reported as absorbed, newest first: the domain of Table 12-4
and the unit, 0xFFFF for none (R26, log 89); `unitSuspects` the units that step replays reported as suspects (R260). `dog` is the row
of Table 12-2 of the watchdog that fired last, `escal` the resets that hung and those that followed with their times, `trigUnit` the unit
that hung or was quarantined first (0xFFFF none), all three since the last reset that ended (R328); `guilty` the contexts found guilty and
not reset since (R334), `since` the frame in which phase D began (R330), `silent` the units that do not answer a collection (log 110). -/
structure Flt where
  rphase : BitVec 4
  rdomain : BitVec 3
  resetDue : Bool
  pkgReason : Nat
  reason : Nat
  regFault : Bool
  err : Word
  ctl : CfgWord
  pkgrst : Bool
  lastTime : Dword
  lastCode : BitVec 16
  suspect : BitVec 16
  trial : Option CtxId
  trialLeft : Nat
  cntEngine : Word
  cntCompute : Word
  cntPackage : Word
  cntHang : Word
  cntQuar : Word
  cntPoison : Word
  cntBeacon : Word
  cntSuppr : Word
  service : Dword
  unavail : Dword
  waiting : List (UnitId × Bool)
  running : Option (UnitId × Bool)
  dossiers : List Dossier
  shorts : List Dossier
  dossierSeq : Word
  beacons : List Beacon
  beaconSeq : Word
  thisSecond : Nat
  suppressed : BitVec 16
  resetTimes : List Nat
  quarCause : Nat
  keptOff : Bool
  resetPending : Bool
  outage : Bool
  computeCmds : List Cmd
  absorbed : List (Byte × BitVec 16)
  unitSuspects : List UnitId
  dog : Byte
  escal : List (Byte × Dword)
  trigUnit : BitVec 16
  guilty : BitVec 16
  since : Nat
  silent : List (BitVec 16)
deriving DecidableEq, Repr

/-- Fault state at power-on. -/
def Flt.zero : Flt :=
  { rphase := 0, rdomain := 0, resetDue := false, pkgReason := 0, reason := 0, regFault := false, err := 0
    ctl := CfgWord.of 0x1040, pkgrst := false, lastTime := 0, lastCode := 0, suspect := 0, trial := none
    trialLeft := 0, cntEngine := 0, cntCompute := 0, cntPackage := 0
    cntHang := 0, cntQuar := 0, cntPoison := 0, cntBeacon := 0, cntSuppr := 0, service := 0, unavail := 0
    waiting := [], running := none, dossiers := [], shorts := [], dossierSeq := 0, beacons := [], beaconSeq := 0
    thisSecond := 0, suppressed := 0, resetTimes := [], quarCause := 0, keptOff := false, resetPending := false
    outage := false, computeCmds := [], absorbed := [], unitSuspects := [], dog := 0, escal := [], trigUnit := 0xFFFF
    guilty := 0, since := 0, silent := [] }

/-- The variants (R1). -/
inductive Variant where
  | f
  | m
  | t
deriving DecidableEq, Repr

/-- A defect list entry (Table 13-5). -/
structure Defect where
  kind : Byte
  test : Byte
  site : BitVec 16
  boot : Word
  detail : BitVec 16
  fuse : Byte
deriving DecidableEq, Repr

/-- An image slot of the NOR: its bytes, whether it has verified after staging (R407, R408), and whether it holds
what was delivered. Of that, `bytes` holds SVN, FLAGS and VARIANTS only; the spec gives none of the rest (log 4). -/
structure FwSlot where
  bytes : Mem
  size : Nat
  staged : Bool
  factory : Bool
deriving DecidableEq, Repr

/-- A slot as delivered: SVN 0, no flags, every variant bit set (log 4). -/
def FwSlot.delivered : FwSlot := { bytes := [(18, 0x0E)], size := 0, staged := false, factory := true }

/-- Where beacons go (R398, R399, Table 15-4). -/
structure BeaconCfg where
  dest1 : BitVec 128
  dest2 : BitVec 128
  unicast : BitVec 128
  hop : Byte
  key : BitVec 256
deriving DecidableEq, Repr

/-- One of the two copies of the defect list in the NOR companion (R353). -/
structure DefectCopy where
  entries : List Defect
  boots : Word
deriving DecidableEq, Repr

/-- The NOR companion (R336, R353, R358, R407). `defects` and `boots` are the defect list in force and its BOOTS, `copy0` and `copy1`
the two copies of it. `fmax` holds the lowered values of the Fmax table,
`repairs` the rows and `columns` the
banks whose bit columns are mapped, `retired` the retired rows, per stack, `pending` the sites to be retested (R336), `unlisted` the
sites held off that neither the defect list nor the pending list had room for (R352), `params` the stored
equalisation parameters by 16 x link + lane, `d2d` and `memParams` those of the die-to-die joins and of the stacks (R359),
`warm` the fuse-map digest and BOOTS of the warm record and `warmBad` that this record fails its check. -/
structure Nor where
  defects : List Defect
  boots : Word
  copy0 : DefectCopy
  copy1 : DefectCopy
  pending : List (Bool × Nat)
  fmax : Tab (BitVec 5)
  repairs : Tab (List Nat)
  columns : Tab (List Nat)
  retired : Tab (List Nat)
  unlisted : List (Bool × Nat)
  params : Tab Word
  d2d : Option Word
  memParams : Tab Word
  warm : Option (List Byte × Word)
  warmBad : Bool
  slot0 : FwSlot
  slot1 : FwSlot
  active1 : Bool
  antiRollback : BitVec 7
  beacon : BeaconCfg
deriving DecidableEq, Repr

/-- A blank NOR: contents not given by the spec (log 4). -/
def Nor.zero : Nor :=
  { defects := [], boots := 0, copy0 := { entries := [], boots := 0 }, copy1 := { entries := [], boots := 0 }, pending := [], fmax := [], repairs := [], columns := [], retired := [], unlisted := [], params := [], d2d := none, memParams := [], warm := none, warmBad := false
    slot0 := FwSlot.delivered, slot1 := FwSlot.delivered
    active1 := false, antiRollback := 0, beacon := { dest1 := 0, dest2 := 0, unicast := 0, hop := 1, key := 0 } }

/-- One copy of the fuse map (Table 13-2a). `code` is VARIANT; sites not listed have the state that STACK_EN and the place of
the site give (Table 13-2b). -/
structure FuseCopy where
  code : BitVec 4
  stackEn : BitVec 24
  linkEn : BitVec 6
  maxcap : Byte
  core : Tab (Option (BitVec 2))
  sga : Tab (Option (BitVec 2))
  fmax : Tab (BitVec 5)
deriving DecidableEq, Repr

/-- The fuse map as it is held, in three copies (R346). -/
structure Fuse where
  copyA : FuseCopy
  copyB : FuseCopy
  copyC : FuseCopy
deriving DecidableEq, Repr

/-- The fuse map of a GL4-RH-F with no BAD site and FMAX 700 MHz everywhere (log 4). -/
def FuseCopy.default : FuseCopy :=
  { code := 1, stackEn := 0xFFFFFF, linkEn := 0x3F, maxcap := 160, core := [], sga := [], fmax := [] }

/-- Three like copies of a map. -/
def Fuse.of (k : FuseCopy) : Fuse := { copyA := k, copyB := k, copyC := k }

/-- Three copies of the map of log 4. -/
def Fuse.default : Fuse := Fuse.of FuseCopy.default

/-- RESULT of a bring-up step and its device time (Table 13-9). -/
structure BruStep where
  result : BitVec 3
  ms : BitVec 16
deriving DecidableEq, Repr

/-- What steps 6 and 7 change, as it was before one of them ran (R342, R358). -/
structure BruUndo where
  nor : Nor
  stks : Tab Stack
  cores : Tab Core
  engines : Tab Engine
  fusedGood : Word
  held : Word
  newEntries : BitVec 11
deriving DecidableEq, Repr

/-- Bring-up (chapter 13). `endedAt` is when the last step ended, in microseconds, and `gap` the ms between that and the start of the
step running; `before` and `before7` hold what steps 6 and 7 found, while step 10 has not written their results yet (R342,
R358), `second` says that step 3 took the second copy of the defect list (R353), `defShown` that a start-up test of this bring-up
has ended (R360). `rteId` is RTE_ID as step 8 found it (R357), `d2d` and `memParams` the training parameters that steps 4 and 5 use (R359). -/
structure Bru where
  step : BitVec 4
  passed : BitVec 4
  running : Bool
  warm : Bool
  warmRefused : Bool
  waitAir : Bool
  rebuild : Bool
  fromQuar : Bool
  err : Word
  ctl : CfgWord
  total : Word
  steps : Tab BruStep
  fails : Tab Nat
  fuseRead : Bool
  fusedGood : Word
  held : Word
  newEntries : BitVec 11
  endedAt : Nat
  before : Option BruUndo
  before7 : Option BruUndo
  second : Bool
  gap : Nat
  defShown : Bool
  rteId : Option Word
  d2d : Option Word
  memParams : Tab Word
deriving DecidableEq, Repr

/-- Bring-up right after a package reset. -/
def Bru.zero : Bru :=
  { step := 0, passed := 0, running := false, warm := false, warmRefused := false, waitAir := false, rebuild := false
    fromQuar := false, err := 0, ctl := CfgWord.of 0, total := 0, steps := [], fails := [], fuseRead := false
    fusedGood := 0, held := 0, newEntries := 0, endedAt := 0, before := none, before7 := none
    second := false, gap := 0, defShown := false, rteId := none, d2d := none, memParams := [] }

/-- The power manager (chapter 14). Powers in W, currents in 0.01 A, theta in 0.0001 K/W. `force` is E, `derate`
the D of R377 and `derateNow` the value to which the term has moved; `duty0` and `duty1` are k - 1 of R369, `sgaDuty`
the share of a stack's engines in sixteenths, `parity` the PARITY in force (R386); `samples` are the 1 us samples of the last
10 ms, the latest first, in 0.0001 W with the E of their moment, `cut` says that the present excursion was cut (R366);
`floorStart` is I_b, `windows` the power windows since ballast began, `currents` the input currents of the last 64
windows (R382); `wakeSeq` numbers the wake tokens asked for, `wokeAt` holds by die the tick
period, plus 1, in which it last granted tokens, and how many it has granted in it (R381); `hardAt` is since when term 2 or 3 of Table 14-2 sets E (R366). -/
structure Pwr where
  setCap : Nat
  ramp : Nat
  force : Nat
  limit : BitVec 4
  comply : BitVec 16
  storeLow : Bool
  airPin : Bool
  airDeclared : Bool
  ckptReq : Bool
  pacing : Bool
  excursion : Bool
  cut : Bool
  err : Word
  ctl : CfgWord
  hardcap : BitVec 16
  theta0 : BitVec 16
  theta : BitVec 16
  derate : Option Nat
  derateNow : Option Nat
  voltage : BitVec 16
  current : BitVec 16
  peak : BitVec 16
  mean : BitVec 16
  ceil0 : Byte
  ceil1 : Byte
  duty0 : BitVec 4
  duty1 : BitVec 4
  sgaDuty : Tab (BitVec 5)
  parity : BitVec 2
  pace : BitVec 16
  cntExcursion : Word
  cntStoreLow : Word
  cntAirflow : Word
  cntBallastShort : Word
  cntWake : Word
  cntPacing : Word
  draw : Tab (BitVec 16)
  budget : Tab (BitVec 16)
  samples : List (Nat × Nat)
  floor : Nat
  floorStart : Nat
  windows : Nat
  currents : List Nat
  ballastOn : Bool
  epkg : Dword
  anyRun : Bool
  wakeSeq : Nat
  hardAt : Option Nat
  wokeAt : Tab (Nat × Nat)
deriving DecidableEq, Repr

/-- The power manager at power-on: S is 1,400 W (R363); bring-up holds E at 900 W (R365 term 6). -/
def Pwr.zero : Pwr :=
  { setCap := 1400, ramp := 1400, force := 900, limit := 6, comply := 0, storeLow := false, airPin := false
    airDeclared := false, ckptReq := false, pacing := false, excursion := false, cut := false, err := 0, ctl := CfgWord.of 0x18
    hardcap := 800, theta0 := 300, theta := 0, derate := none, derateNow := none, voltage := 0, current := 0
    peak := 0, mean := 0, ceil0 := 140, ceil1 := 140, duty0 := 15, duty1 := 15, sgaDuty := [], parity := 0, pace := 1, cntExcursion := 0
    cntStoreLow := 0, cntAirflow := 0, cntBallastShort := 0, cntWake := 0, cntPacing := 0
    draw := [], budget := [], samples := [], floor := 0, floorStart := 0, windows := 0
    currents := [], ballastOn := false, epkg := 0, anyRun := false, wakeSeq := 0, hardAt := none, wokeAt := [] }

/-- Heat sink, inlet and thermal state (R372-R376). -/
structure Thm where
  err : Word
  alert : Bool
  hs0 : Option (BitVec 16)
  hs1 : Option (BitVec 16)
  hsHigh : Bool
  inletValid : Bool
  inlet : BitVec 16
  airflow : BitVec 16
  shutdown : Bool
  cntThrot : Word
  cntGate : Word
  cntSensor : Word
  cntShutdown : Word
deriving DecidableEq, Repr

/-- Thermal state at power-on. -/
def Thm.zero : Thm :=
  { err := 0, alert := false, hs0 := some 0, hs1 := some 0, hsHigh := false, inletValid := false
    inlet := 0, airflow := 0xFFFF, shutdown := false, cntThrot := 0, cntGate := 0, cntSensor := 0, cntShutdown := 0 }

end Sys2Proof.Machine
end

