-- ==== Sys2Proof/Machine/State.lean ====
section
/-! DEFINITION. The machine: the whole package, its queue of commands, its state right after reset, and
the reasons a step can stop. -/
namespace Sys2Proof.Machine

/-- A UDP datagram of the management port (R398, R400): addresses, ports, hop limit and payload. -/
structure Datagram where
  src : BitVec 128
  dst : BitVec 128
  sport : BitVec 16 := 47460
  dport : BitVec 16 := 47460
  hop : Byte
  payload : List Byte
deriving DecidableEq, Repr

/-- The configuration space of the PCI Express function that R390 and R395 name and no other field holds: Command register, BAR
addresses, D3hot, and the codes of Max_Payload_Size (128 bytes times a power of two) and of the maximum read request. -/
structure PcieCfg where
  command : BitVec 16
  bar0 : Dword
  bar2 : Dword
  bar4 : Dword
  d3hot : Bool
  maxPayload : Fin 3
  maxRead : Fin 6
deriving DecidableEq, Repr

/-- The reset values of the configuration space, those of the PCI Express specification (log 129). -/
def PcieCfg.zero : PcieCfg := { command := 0, bar0 := 0, bar2 := 0, bar4 := 0, d3hot := false, maxPayload := 0, maxRead := 2 }

/-- What the package emits to the outside, in order (log 7). -/
inductive Out where
  /-- A UDP datagram of the management port, beacon or response (R398, R400). -/
  | datagram (d : Datagram)
  /-- A Neighbor Solicitation of duplicate address detection, from the unspecified address (R397). -/
  | probe (target : BitVec 128)
  /-- A Neighbor Advertisement for an own address (R397). -/
  | advertisement (target : BitVec 128)
  /-- An ICMPv6 Echo Reply (R397). -/
  | echoReply (src : BitVec 128) (payload : List Byte)
  /-- An I3C in-band interrupt with its data byte (R401). -/
  | ibi (severity : Byte)
  /-- An MCTP message from its message type on: a vendor-defined response, or a control response (R401, R403, log 127). -/
  | mctp (bytes : List Byte)
  /-- An MSI-X message (R393, R394). -/
  | msix (address : Dword) (data : Word)
  /-- A completion of a BAR4 read with its data and whether it is poisoned (R153). -/
  | bar4Data (bytes : List Byte) (poisoned : Bool)
  /-- A completion of a BAR0 read. -/
  | bar0Data (w : Word)
  /-- A request completed as Unsupported Request (R391). -/
  | unsupported
  /-- A packet that leaves on a link, in the control stream or the data stream (R193). -/
  | packet (l : LinkId) (control : Bool) (p : Packet)
  /-- A management message placed in the link's codeword headers (R199). -/
  | management (l : LinkId) (message : Dword)
  /-- A codeword group that a link sends, one codeword on each used lane (R192, R194). -/
  | group (l : LinkId) (g : List Codeword)
deriving DecidableEq, Repr

/-- Where the staging session stands (R408): over MCTP, the image length and the bytes staged. -/
structure StageSession where
  mctp : Bool
  len : Nat
  have_ : Nat
deriving DecidableEq, Repr

/-- The host side (chapters 15 and 16). `pcieUp` says that the endpoint is enabled, so that its link can train (R396), `pcie` is the
rest of its configuration space; `dupLocal` and `dupUnicast` say that duplicate address detection has found the link-local or the
unicast address in use by another node (R397), `fwCtag` is the CTAG of the mailbox FW_ACTIVATE last carried out. `msix` holds the words of the MSI-X table, `sentAt` the tick
period of the last message of vectors 0-4, `aer` that AER has logged an Unsupported Request since the link was lost (R391), `merge` the vectors with a message owed when their 64 tick
periods end, `shadow` the shadows of the 64-bit registers by BAR0 offset of their low word, `fwId` the digest of the running image, `fwRaise` its RAISE_SVN, `fwCore` and `fwSga` its sections of core and of Saiga
firmware, `markhorDigest` the digest of the Markhor section running since power-on, `fwSource` that the last activation came over
MCTP, `served` the requests answered in the present second, `reportBox` and `reportMctp` the last attestation reports. -/
structure Pkg where
  entryIn : Bool
  markhor : Bool
  recovery : Bool
  pcieUp : Bool
  bar4Size : Fin 7
  pcie : PcieCfg
  aer : Bool
  msixEn : Bool
  msix : Tab Word
  pba : BitVec 8
  sentAt : Tab Nat
  merge : BitVec 8
  irqEn : CfgWord
  irqStatus : Word
  fwVersion : Word
  fwSvn : Byte
  fwId : List Byte
  fwRaise : Bool
  fwCore : List Byte
  fwSga : List Byte
  markhorDigest : List Byte
  fwResult : BitVec 4
  markhorPending : Bool
  fwSource : Bool
  fwTag : Word
  fwCtag : Option Word
  mgmtDrop : Word
  mgmtUp : Bool
  mgmtAuto : Bool
  dupLocal : Bool
  dupUnicast : Bool
  err : Word
  regAddr : Word
  regTime : Dword
  cntRefused : Word
  shadow : Tab Word
  i3cAddr : Option (BitVec 7)
  eid : Option Byte
  served : Nat
  session : Option StageSession
  reportBox : Option (List Byte)
  reportMctp : Option (List Byte)
deriving DecidableEq, Repr

/-- What word `i` of the MSI-X table holds after reset: a vector control word masks its vector (log 6). -/
def msixReset (i : Nat) : Word := if i % 4 = 3 then 1 else 0

/-- The host side at power-on. -/
def Pkg.zero : Pkg :=
  { entryIn := false, markhor := false, recovery := false, pcieUp := false, bar4Size := 6, pcie := PcieCfg.zero, aer := false
    msixEn := false, msix := [], pba := 0, sentAt := [], merge := 0, irqEn := CfgWord.of 0, irqStatus := 0
    fwVersion := 0, fwSvn := 0, fwId := [], fwRaise := false, fwCore := [], fwSga := [], markhorDigest := [], fwResult := 0, markhorPending := false
    fwSource := false, fwTag := 0, fwCtag := none, mgmtDrop := 0, mgmtUp := false, mgmtAuto := false, dupLocal := false, dupUnicast := false
    err := 0, regAddr := 0, regTime := 0, cntRefused := 0, shadow := [], i3cAddr := none, eid := none
    served := 0, session := none, reportBox := none, reportMctp := none }

/-- The whole package. `uptime` counts tick periods since power-on (R7); `freeCount` numbers the free
values the model has taken (log 8) and is the model's own field, as `out` is (log 7). -/
structure Chip where
  cores : Tab Core
  engines : Tab Engine
  stks : Tab Stack
  mem : MemSys
  links : Tab Link
  frm : Frm
  plan : Plan
  rte : Rte
  dig : Dig
  img : Image
  mbx : Mbx
  flt : Flt
  nor : Nor
  fuse : Fuse
  bru : Bru
  pwr : Pwr
  thm : Thm
  pkg : Pkg
  uptime : Nat
  out : List Out
  freeCount : Nat
deriving DecidableEq, Repr

/-- The package before the 48 V entry has come into range (logs 2, 4, 5). -/
def Chip.zero : Chip :=
  { cores := [], engines := [], stks := [], mem := MemSys.zero, links := [], frm := Frm.zero, plan := Plan.zero
    rte := Rte.zero, dig := Dig.zero, img := Image.zero, mbx := Mbx.zero, flt := Flt.zero, nor := Nor.zero
    fuse := Fuse.default, bru := Bru.zero, pwr := Pwr.zero, thm := Thm.zero, pkg := Pkg.zero, uptime := 0, out := []
    freeCount := 0 }

/-- The block: the package and the commands that wait for it, first in, first out (log 1). -/
structure State where
  chip : Chip
  pending : List Instr
deriving DecidableEq, Repr

/-- The machine right after reset, with no command waiting. -/
def State.reset : State := { chip := Chip.zero, pending := [] }

/-- Why a step stops with a fault: no rule of the spec stops the package on a command, so there is no reason, and nothing
raises a fault. -/
inductive Fault where
deriving DecidableEq, Repr

/-- Why a step refuses a command. -/
inductive Refusal where
  /-- Raised by a dispatch arm whose command has no meaning in the model yet. Safe. -/
  | notModelled (mnemonic : String)
deriving DecidableEq, Repr

/-- What a meaning answers. -/
abbrev Answer := Host.Outcome State Fault Refusal

end Sys2Proof.Machine
end

