-- ==== Sys2Proof/WellFormed.lean ====
section
/-! DEFINITION. Which commands are well formed: an operand list has the length that the item it stands for has in the
spec. A list of another length stops no command (log 9): a meaning reads the item's length from it, what is missing as
zeros. -/
namespace Sys2Proof

/-- A flit is 64 bytes (R193). -/
def flitWf (f : List Byte) : Bool := f.length == 64

/-- A packet is a header flit and whole payload flits (R214). -/
def Packet.wf (p : Packet) : Bool := flitWf p.hdr && p.flits.all flitWf

/-- A codeword holds ten flits and corrects at most 15 symbols (R191, R192). -/
def Codeword.wf (c : Codeword) : Bool :=
  c.flits.length == 10 && c.flits.all flitWf && decide (c.corrected.getD 0 ≤ 15)

/-- A training result describes the 16 lanes, with 16 counts in each lane's histogram (R201, Table 7-8). -/
def TrainResult.wf (r : TrainResult) : Bool := r.lanes.length == 16 && r.lanes.all (fun m => m.hist.length == 16)

/-- A frame measurement covers the 16 contexts and the 8 block classes, three of which share the remainder (R312, R368). -/
def FrameMeasure.wf (m : FrameMeasure) : Bool :=
  m.energy.length == 16 && m.draws.length == 8 && m.demands.length == 3

/-- A window measurement covers the 24 stacks (R370). -/
def WindowMeasure.wf (m : WindowMeasure) : Bool := m.sgaDuty.length == 24

/-- The well-formed commands; `exec` gives the others an effect too. -/
def Instr.wellFormed : Instr → Bool
  | .bar4Read _ n _ => decide (1 ≤ n ∧ n ≤ 4096)
  | .bar4Write _ d _ => decide (1 ≤ d.length ∧ d.length ≤ 512)
  | .frameBoundary m => m.wf
  | .codewordReceive _ g => g.all Codeword.wf && decide (g.length ≤ 16)
  | .linkTrainComplete _ r => r.wf
  | .requalDone _ r => r.wf
  | .data _ p => p.wf
  | .rdReq _ p _ => p.wf
  | .rdResp _ p => p.wf
  | .wr _ p => p.wf
  | .wrAck _ p => p.wf
  | .arrivePacket _ p => p.wf
  | .digest _ p => p.wf
  | .loss _ p => p.wf
  | .credit _ p => p.wf
  | .slotPost off d => decide (1 ≤ d.length ∧ d.length ≤ 512 ∧ off.toNat + d.length ≤ 1048576)
  | .powerWindow m => m.wf
  | .mctpAttest _ n _ => n.length == 32
  | .mctpFwStage _ _ _ c => decide (c.length ≤ 1024)
  | _ => true

end Sys2Proof
end

