-- ==== Sys2Proof/Machine/Ops.lean ====
section
/-! DEFINITION. Named operations over the state, shared by the meanings: access to units, time stamps,
MSI-X, error bits, error beacons, and the containment of faults. -/
namespace Sys2Proof.Machine

/-- The answer of a command whose effect on the package is `f`; the queue stays. -/
def State.lift (s : State) (f : Chip → Chip) : Answer := .next { s with chip := f s.chip }

/-- The package with something emitted. -/
def Chip.emit (c : Chip) (o : Out) : Chip := { c with out := c.out ++ [o] }

/-- An access that breaks its BAR's row: it completes as Unsupported Request, is logged in AER, and has no effect (R391). -/
def Chip.unsupported (c : Chip) : Chip := { c with out := c.out ++ [.unsupported], pkg := { c.pkg with aer := true } }

/-- The PCI Express endpoint is enabled and its function in D0: accesses to its BARs reach the device (R390, R396). -/
def Chip.hostUp (c : Chip) : Bool := c.pkg.pcieUp && !c.pkg.pcie.d3hot

/-- An access of the host through a BAR: with the endpoint not enabled none arrives (R396), in D3hot it completes as Unsupported
Request (R390, log 129). -/
def Chip.host (c : Chip) (f : Chip → Chip) : Chip :=
  if c.hostUp then f c else if c.pkg.pcieUp then c.unsupported else c

/-! Units. -/

/-- Core number `n`. -/
def Chip.core (c : Chip) (n : CoreId) : Core := tget Core.zero c.cores n.val

/-- The package with core `n` replaced. -/
def Chip.setCore (c : Chip) (n : CoreId) (k : Core) : Chip := { c with cores := tset Core.zero c.cores n.val k }

/-- The package with `f` applied to core `n`. -/
def Chip.modCore (c : Chip) (n : CoreId) (f : Core → Core) : Chip := c.setCore n (f (c.core n))

/-- Engine of index `e`. -/
def Chip.engine (c : Chip) (e : EngineId) : Engine := tget Engine.zero c.engines e.val

/-- The package with an engine replaced. -/
def Chip.setEngine (c : Chip) (e : EngineId) (k : Engine) : Chip :=
  { c with engines := tset Engine.zero c.engines e.val k }

/-- The package with `f` applied to an engine. -/
def Chip.modEngine (c : Chip) (e : EngineId) (f : Engine → Engine) : Chip := c.setEngine e (f (c.engine e))

/-- Stack `i`. -/
def Chip.stack (c : Chip) (i : StackId) : Stack := tget Stack.zero c.stks i.val

/-- The package with a stack replaced. -/
def Chip.setStack (c : Chip) (i : StackId) (k : Stack) : Chip := { c with stks := tset Stack.zero c.stks i.val k }

/-- The package with `f` applied to a stack. -/
def Chip.modStack (c : Chip) (i : StackId) (f : Stack → Stack) : Chip := c.setStack i (f (c.stack i))

/-- Link `i`. -/
def Chip.link (c : Chip) (i : LinkId) : Link := tget Link.zero c.links i.val

/-- The package with a link replaced. -/
def Chip.setLink (c : Chip) (i : LinkId) (k : Link) : Chip := { c with links := tset Link.zero c.links i.val k }

/-- The package with `f` applied to a link. -/
def Chip.modLink (c : Chip) (i : LinkId) (f : Link → Link) : Chip := c.setLink i (f (c.link i))

/-- Context `i`. -/
def Chip.ctx (c : Chip) (i : CtxId) : Ctx := tget Ctx.zero c.img.ctxs i.val

/-- The package with `f` applied to a context. -/
def Chip.modCtx (c : Chip) (i : CtxId) (f : Ctx → Ctx) : Chip :=
  { c with img := { c.img with ctxs := tset Ctx.zero c.img.ctxs i.val (f (c.ctx i)) } }

/-- Commit state of context `i`. -/
def Chip.digCtx (c : Chip) (i : CtxId) : DigCtx := tget DigCtx.zero c.img.digs i.val

/-- The package with `f` applied to the commit state of a context. -/
def Chip.modDig (c : Chip) (i : CtxId) (f : DigCtx → DigCtx) : Chip :=
  { c with img := { c.img with digs := tset DigCtx.zero c.img.digs i.val (f (c.digCtx i)) } }

/-- All core numbers. -/
def allCores : List CoreId := List.finRange 2448

/-- All engine indices. -/
def allEngines : List EngineId := List.finRange 1632

/-- All stacks. -/
def allStacks : List StackId := List.finRange 24

/-- All links. -/
def allLinks : List LinkId := List.finRange 6

/-- All contexts. -/
def allCtxs : List CtxId := List.finRange 16

/-- The lattice die of a core (R8). -/
def coreDie (n : Nat) : Nat := if n ≤ 1223 then 0 else 1

/-- The row of a core within its die (R8). -/
def coreRow (n : Nat) : Nat := (n - 1224 * coreDie n) / 34

/-- The column of a core within its die (R8). -/
def coreCol (n : Nat) : Nat := (n - 1224 * coreDie n) % 34

/-- A spare site: columns 11 and 22 (R96). -/
def isSpareSite (n : Nat) : Bool := coreCol n == 11 || coreCol n == 22

/-- The stack of an engine index. -/
def engStack (e : Nat) : Nat := e / 68

/-- The engine within its stack. -/
def engIdx (e : Nat) : Nat := e % 68

/-- The majority of three copies, bit by bit (R346). -/
def majority {w : Nat} (a b c : BitVec w) : BitVec w := (a &&& b) ||| (a &&& c) ||| (b &&& c)

/-- A field of the fuse map as read: the majority of its copies (R346). -/
def Fuse.field {w : Nat} (f : Fuse) (g : FuseCopy → BitVec w) : BitVec w := majority (g f.copyA) (g f.copyB) (g f.copyC)

/-- VARIANT (Table 13-2a). -/
def Fuse.code (f : Fuse) : BitVec 4 := f.field (·.code)

/-- STACK_EN. -/
def Fuse.stackEn (f : Fuse) : BitVec 24 := f.field (·.stackEn)

/-- LINK_EN. -/
def Fuse.linkEn (f : Fuse) : BitVec 6 := f.field (·.linkEn)

/-- MAXCAP. -/
def Fuse.maxcap (f : Fuse) : Byte := f.field (·.maxcap)

/-- The variant that a code names (Table 13-2a); the other codes are invalid. -/
def Variant.ofCode (k : BitVec 4) : Option Variant :=
  match k.toNat with
  | 1 => some .f
  | 2 => some .m
  | 3 => some .t
  | _ => none

/-- The variant. A map with an invalid code fails step 3 (R346); until then it is taken for a GL4-RH-F (log 4). -/
def Fuse.variant (f : Fuse) : Variant := (Variant.ofCode f.code).getD .f

/-- CORE_STATE of a core site in one copy: the fused value, ENABLED or SPARE where none is listed. -/
def FuseCopy.coreState (f : FuseCopy) (n : Nat) : BitVec 2 :=
  match tget none f.core n with
  | some v => v
  | none => if isSpareSite n then 1 else 0

/-- CORE_STATE of a core site (Table 13-2a). -/
def Fuse.coreState (f : Fuse) (n : Nat) : Nat := (f.field (·.coreState n)).toNat

/-- STACK_EN bit of a stack. -/
def Fuse.stackOn (f : Fuse) (s : Nat) : Bool := bit f.stackEn s

/-- SGA_STATE of an engine site in one copy (Table 13-2b). -/
def FuseCopy.sgaState (f : FuseCopy) (e : Nat) : BitVec 2 :=
  match tget none f.sga e with
  | some v => v
  | none => if !bit f.stackEn (engStack e) then 3 else if 64 ≤ engIdx e then 1 else 0

/-- SGA_STATE of an engine site (Table 13-2a). -/
def Fuse.sgaState (f : Fuse) (e : Nat) : Nat := (f.field (·.sgaState e)).toNat

/-- LINK_EN bit of a link. -/
def Fuse.linkOn (f : Fuse) (i : Nat) : Bool := bit f.linkEn i

/-- A core number that programs may name: enabled by the fuses and no spare site (R96). -/
def Fuse.coreNumber (f : Fuse) (n : Nat) : Bool := decide (n < 2448) && !isSpareSite n && f.coreState n != 3

/-- An engine number that programs may name. -/
def Fuse.engineNumber (f : Fuse) (e : Nat) : Bool :=
  decide (e < 1632) && decide (engIdx e < 64) && f.stackOn (engStack e) && f.sgaState e != 3

/-- The destination number of a unit (R111): a core's number, or 2,560 + 64 x stack + engine; an engine
site beyond 63 has none. -/
def unitNo : UnitId → BitVec 16
  | .core n => BitVec.ofNat 16 n.val
  | .engine e => if engIdx e.val < 64 then BitVec.ofNat 16 (2560 + 64 * engStack e.val + engIdx e.val) else 0xFFFF

/-- The unit that a destination number names (R111). -/
def unitOf (d : Nat) : Option UnitId :=
  if h : d < 2448 then some (.core ⟨d, h⟩)
  else if h : 2560 ≤ d ∧ d < 4096 then
    some (.engine ⟨68 * ((d - 2560) / 64) + (d - 2560) % 64, by omega⟩)
  else none

/-- The context that owns a unit. -/
def Chip.unitCtx (c : Chip) : UnitId → Option CtxId
  | .core n => (c.core n).ctx
  | .engine e => (c.engine e).ctx

/-- State of a unit. -/
def Chip.unitState (c : Chip) : UnitId → UnitState
  | .core n => (c.core n).state
  | .engine e => (c.engine e).state

/-- Whether a core number is served by a unit. -/
def Chip.coreServed (c : Chip) (n : Nat) : Bool :=
  if h : n < 2448 then
    c.fuse.coreNumber n && (c.core ⟨n, h⟩).state != .none && (c.core ⟨n, h⟩).state != .quarantined
  else false

/-! Time. -/

/-- Microseconds since power-on. -/
def Chip.micros (c : Chip) : Nat := c.uptime * 100 / 4096

/-- The time stamp of now (R6, R7): f:t, or a boot time before the frame lock. -/
def Chip.now (c : Chip) : Dword :=
  if c.frm.valid then BitVec.ofNat 64 (c.frm.frame * 4096 + c.frm.tick)
  else BitVec.ofNat 64 (2 ^ 63 + c.micros)

/-- Frames of LFN `b` ahead of LFN `a`, modulo 65,536, as a signed number (R176). -/
def lfnDist (a b : BitVec 16) : Int := (b - a).toInt

/-! MSI-X (R394). -/

/-- Bus Master Enable of the Command register. -/
def Pkg.busMaster (p : Pkg) : Bool := p.pcie.command.getLsbD 2

/-- Whether vector `v` can be sent: the endpoint enabled and in D0, MSI-X enabled, bus master set, the vector not masked. -/
def Pkg.canSend (p : Pkg) (v : Nat) : Bool :=
  p.pcieUp && !p.pcie.d3hot && p.msixEn && p.busMaster && !bit (tget (msixReset (4 * v + 3)) p.msix (4 * v + 3)) 0

/-- The pending bits with bit `v` set or cleared. -/
def setPba (w : BitVec 8) (v : Nat) (on : Bool) : BitVec 8 :=
  if on then w ||| BitVec.ofNat 8 (2 ^ v) else w &&& ~~~ (BitVec.ofNat 8 (2 ^ v))

/-- The message of vector `v` goes out, or its pending bit is set. -/
def Chip.sendVector (c : Chip) (v : Nat) : Chip :=
  if c.pkg.canSend v then
    let lo := tget 0 c.pkg.msix (4 * v)
    let hi := tget 0 c.pkg.msix (4 * v + 1)
    let d := tget 0 c.pkg.msix (4 * v + 2)
    { c with
      pkg := { c.pkg with pba := setPba c.pkg.pba v false, merge := setPba c.pkg.merge v false
                          sentAt := tset 0 c.pkg.sentAt v (c.uptime + 1) }
      out := c.out ++ [.msix (hi ++ lo) d] }
  else { c with pkg := { c.pkg with pba := setPba c.pkg.pba v true, merge := setPba c.pkg.merge v false } }

/-- Whether vectors 0-4 have sent a message within the last 64 tick periods. -/
def Chip.vectorBusy (c : Chip) (v : Nat) : Bool :=
  decide (v < 5) && decide (0 < tget 0 c.pkg.sentAt v) && decide (c.uptime + 1 < tget 0 c.pkg.sentAt v + 64)

/-- The pending bits as PKG_MSIX_PBA shows them: a message owed by a vector that has become unable to send is pending too (R394). -/
def Pkg.pbaWord (p : Pkg) : BitVec 8 :=
  (List.range 8).foldl (fun w v => if bit p.merge v && !p.canSend v then setPba w v true else w) p.pba

/-- An event of vector `v`: merged into the next message while the vector is busy, pending while it cannot be sent (R394). -/
def Chip.vectorEvent (c : Chip) (v : Nat) : Chip :=
  if c.pkg.canSend v && c.vectorBusy v then { c with pkg := { c.pkg with merge := setPba c.pkg.merge v true } } else c.sendVector v

/-- A cause of vectors 5, 6 and 7, enabled in PKG_IRQ_EN: its PKG_IRQ_STATUS bit is latched, and the
message goes out when the bit changes from 0 to 1 (R394). -/
def Chip.irqCause (c : Chip) (b : Nat) : Chip :=
  if bit c.pkg.irqEn.val b && !bit c.pkg.irqStatus b then
    { c with pkg := { c.pkg with irqStatus := setBit c.pkg.irqStatus b } }.vectorEvent (5 + b)
  else c

/-- A bit of FLT_ERR is raised. -/
def Chip.fltErr (c : Chip) (b : Nat) : Chip :=
  let c1 := { c with flt := { c.flt with err := setBit c.flt.err b } }
  if bit c.flt.err b then c1 else c1.irqCause 1

/-- A bit of FLT_DIG_ERR is raised. -/
def Chip.digErr (c : Chip) (b : Nat) : Chip :=
  let c1 := { c with dig := { c.dig with err := setBit c.dig.err b } }
  if bit c.dig.err b then c1 else c1.irqCause 1

/-- A bit of MBX_ERR is raised. -/
def Chip.mbxErr (c : Chip) (b : Nat) : Chip :=
  let c1 := { c with mbx := { c.mbx with err := setBit c.mbx.err b } }
  if bit c.mbx.err b then c1 else c1.irqCause 1

/-- A bit of PWR_ERR is raised. -/
def Chip.pwrErr (c : Chip) (b : Nat) : Chip :=
  let c1 := { c with pwr := { c.pwr with err := setBit c.pwr.err b } }
  if bit c.pwr.err b then c1 else c1.irqCause 2

/-- A bit of THM_ERR is raised. -/
def Chip.thmErr (c : Chip) (b : Nat) : Chip :=
  let c1 := { c with thm := { c.thm with err := setBit c.thm.err b } }
  if bit c.thm.err b then c1 else c1.irqCause 2

/-! Management datagrams and beacons (R338, R398, R399). -/

/-- The device identifier: first 8 bytes of SHAKE256 over the identity public key (Table 15-3). -/
def devId : List Byte := shake256 Config.identityKey 8

/-- KEYED: a beacon key is configured. -/
def BeaconCfg.keyed (b : BeaconCfg) : Bool := b.key != 0

/-- The header of a management datagram (Table 15-3). -/
def Chip.mgmtHeader (c : Chip) (type copy : Byte) (seq : Word) : List Byte :=
  let id := c.rte.id.val
  let loc : List Byte := if c.rte.idWritten then
    [BitVec.ofNat 8 (bits id 23 16), BitVec.ofNat 8 (bits id 11 8), BitVec.ofNat 8 (bits id 1 0)] else [0xFF, 0xFF, 0xFF]
  ascii "GL4B" ++ [1, type, copy, BitVec.ofNat 8 (b2n c.nor.beacon.keyed)] ++ devId ++ loc ++ [0]
    ++ leBytes 4 seq.toNat ++ leBytes 8 c.now.toNat

/-- The tag over the bytes of a datagram before it (R399). -/
def Chip.mgmtTag (c : Chip) (bytes : List Byte) : List Byte :=
  if c.nor.beacon.keyed then kmac128bit (leBytes 32 c.nor.beacon.key.toNat) bytes (ascii "GL4 MGMT")
  else List.replicate 16 0

/-- The link-local multicast group ff02::ba1d (R398). -/
def mgmtGroup : BitVec 128 := 0xFF02000000000000000000000000BA1D#128

/-- The destinations of beacons (R398). -/
def BeaconCfg.dests (b : BeaconCfg) : List (BitVec 128) :=
  let l := [b.dest1, b.dest2].filter (fun d => d != 0)
  if l.isEmpty then [mgmtGroup] else l

/-- The event body of a beacon (Table 12-8). -/
def Chip.beaconBody (c : Chip) (b : Beacon) : List Byte :=
  leBytes 2 b.code.toNat ++ [b.severity, BitVec.ofNat 8 c.mbx.dstate.code] ++ leBytes 8 b.time.toNat
    ++ leBytes 2 b.unit.toNat ++ leBytes 2 b.ctxMask.toNat ++ leBytes 4 b.dossier.toNat
    ++ leBytes 2 b.suppressed.toNat ++ [0, 0] ++ leBytes 4 b.arg.toNat ++ leBytes 4 b.addr.toNat

/-- The link-local address: fe80::/64 with the modified EUI-64 identifier of the MAC (R397). -/
def linkLocal : BitVec 128 :=
  let m := Config.mac.toNat
  BitVec.ofNat 128 (0xFE80 * 2 ^ 112 + (m / 2 ^ 24 ^^^ 0x020000) * 2 ^ 40 + 0xFFFE * 2 ^ 24 + m % 2 ^ 24)

/-- A unicast address is configured, and no other node has it. -/
def Chip.unicastUsed (c : Chip) : Bool := c.nor.beacon.unicast != 0 && !c.pkg.dupUnicast

/-- The address that beacons are sent from: the unicast address if one is configured, else the link-local one (R398). -/
def Chip.ownSource (c : Chip) : BitVec 128 := if c.unicastUsed then c.nor.beacon.unicast else linkLocal

/-- A datagram of the management port from port 47,460, with the hop limit that BEACON_CFG has set (R398, R400). -/
def Chip.outbound (c : Chip) (src dst : BitVec 128) (dport : BitVec 16) (payload : List Byte) : Out :=
  .datagram { src := src, dst := dst, dport := dport, hop := c.nor.beacon.hop, payload := payload }

/-- One copy of a beacon goes to every destination (R338, R398); none while duplicate address detection has found the link-local
address in use (log 130). -/
def Chip.sendBeacon (c : Chip) (b : Beacon) (copy : Nat) : Chip :=
  let head := c.mgmtHeader 1 (BitVec.ofNat 8 copy) b.seq ++ c.beaconBody b
  let payload := head ++ c.mgmtTag head
  if c.pkg.dupLocal then c
  else { c with out := c.out ++ c.nor.beacon.dests.map (fun d => c.outbound c.ownSource d 47460 payload) }

/-- What an event announces (Table 12-7). -/
structure Event where
  code : Nat
  severity : Nat
  unit : BitVec 16 := 0xFFFF
  ctxMask : BitVec 16 := 0
  dossier : Word := 0
  arg : Nat := 0
  addr : Nat := 0

/-- A beacon event (R338, R401): announced by a beacon whose first copy goes out at once, unless 64
events have been announced this second; counted; and an in-band interrupt is raised. -/
def Chip.event (c : Chip) (e : Event) : Chip :=
  let c0 := c.emit (.ibi (BitVec.ofNat 8 e.severity))
  let flt : Flt := { c0.flt with lastTime := c.now, lastCode := BitVec.ofNat 16 e.code }
  if 64 ≤ flt.thisSecond then
    { c0 with flt := { flt with
        cntSuppr := satInc flt.cntSuppr 1
        suppressed := if flt.suppressed = 0xFFFF then 0xFFFF else flt.suppressed + 1 } }.fltErr 12
  else
    let counted := { flt with cntBeacon := satInc flt.cntBeacon 1, thisSecond := flt.thisSecond + 1 }
    if bit flt.ctl.val 12 then
      let b : Beacon :=
        { code := BitVec.ofNat 16 e.code, severity := BitVec.ofNat 8 e.severity, time := c.now, unit := e.unit
          ctxMask := e.ctxMask, dossier := e.dossier, suppressed := flt.suppressed, arg := BitVec.ofNat 32 e.arg
          addr := BitVec.ofNat 32 e.addr, seq := flt.beaconSeq + 1, left := 2 }
      { c0 with flt := { counted with beaconSeq := flt.beaconSeq + 1, suppressed := 0, beacons := flt.beacons ++ [b] } }.sendBeacon b 0
    else { c0 with flt := counted }

/-- The device state changes (R288, R394, Table 12-7). -/
def Chip.setDState (c : Chip) (d : DState) : Chip :=
  if c.mbx.dstate = d then c
  else
    let old := c.mbx.dstate.code
    let c1 := { c with mbx := { c.mbx with dstate := d } }
    (c1.event { code := 0x61, severity := 0, arg := old + 16 * d.code }).irqCause 0

/-- A unit is running and not failed. -/
def Ibex.ok (u : Ibex) : Bool := u.running && !u.failed

/-- One of the two units. -/
def Mbx.unit (m : Mbx) : IbexUnit → Ibex
  | .a => m.unitA
  | .b => m.unitB

/-- The active unit. -/
def Mbx.active (m : Mbx) : IbexUnit := if m.activeB then .b else .a

/-- The unit that is not active. -/
def Mbx.other (m : Mbx) : IbexUnit := if m.activeB then .a else .b

/-- Only one unit is serving: the other has failed or is being resynchronised (R264, R274). -/
def Mbx.single (m : Mbx) : Bool := m.unitA.ok != m.unitB.ok || m.resyncing

/-! DEGRADED (R12, R288). -/

/-- A link that the fuses enable is not UP at 16 lanes, or is short. -/
def Chip.linkReduced (c : Chip) (l : LinkId) : Bool :=
  c.fuse.linkOn l.val && ((c.link l).state != .up || decide ((c.link l).width < 16) || (c.link l).short)

/-- A unit is quarantined, be its number served by a spare now, or an enabled number is served by no unit (R12). -/
def Chip.unitReduced (c : Chip) : Bool :=
  c.cores.any (fun p => p.2.state == .quarantined || p.2.quarSite)
    || c.engines.any (fun p => p.2.state == .quarantined || p.2.quarSite)
    || (List.range 2448).any (fun n => c.fuse.coreNumber n && (tget Core.zero c.cores n).state == .none)
    || (List.range 1632).any (fun e => c.fuse.engineNumber e && (tget Engine.zero c.engines e).state == .none)

/-- A memory line is retired. -/
def Chip.lineRetired (c : Chip) : Bool := c.stks.any (fun p => !p.2.retired.isEmpty)

/-- A context held for FREERUN or SHORT. -/
def Ctx.heldReduced (x : Ctx) : Bool := x.state != .none && (bit (x.held ||| x.holdNext) 1 || bit (x.held ||| x.holdNext) 2)

/-- The DEGRADED reason mask (Table 0-8). -/
def Chip.reasons (c : Chip) : BitVec 16 :=
  BitVec.ofNat 16 (b2n (allLinks.any c.linkReduced) + 2 * b2n c.unitReduced + 4 * b2n c.mbx.single + 8 * b2n c.lineRetired
    + 16 * b2n (c.frm.state == .freerun) + 32 * b2n (allCtxs.any (fun x => (c.ctx x).heldReduced)))

/-- A context is loaded: it exists (Table 11-4). -/
def Chip.anyCtx (c : Chip) : Bool := allCtxs.any (fun x => (c.ctx x).state != .none)

/-- The state that a package in service is in (R12, R288). -/
def Chip.serviceState (c : Chip) : DState :=
  if c.reasons != 0 then .degraded else if c.anyCtx then .service else .ready

/-- The device state follows the reasons while the package is READY, SERVICE or DEGRADED (R288). -/
def Chip.refresh (c : Chip) : Chip :=
  match c.mbx.dstate with
  | .ready => c.setDState c.serviceState
  | .service => c.setDState c.serviceState
  | .degraded => c.setDState c.serviceState
  | _ => c

/-! Containment of faults (chapter 12). -/

/-- The mask with the bit of one context. -/
def ctxBit (x : CtxId) : BitVec 16 := BitVec.ofNat 16 (2 ^ x.val)

/-- The effective containment mode is RESET (R301). -/
def Ctx.resetMode (x : Ctx) : Bool := x.contain == 2 || (x.contain == 0 && decide (16 < x.span))

/-- A hold reason of Table 11-6 as a mask. -/
def holdBit (r : Nat) : BitVec 16 := BitVec.ofNat 16 (2 ^ r)

/-- The held reason mask: the reasons that hold the context, and those whose cause has occurred and that hold it from their boundary on
(R306); FAULT is among them once a unit has stopped for a cause of R315 or R318. -/
def Ctx.reasonMask (x : Ctx) (d : DigCtx) : BitVec 16 := x.held ||| x.holdNext ||| (if d.faults.isEmpty then 0 else 128)

/-- Whether a context cannot restart: it is held, or about to be (R252). -/
def Chip.cannotRestart (c : Chip) (x : CtxId) : Bool := (c.ctx x).reasonMask (c.digCtx x) != 0

/-- Resets that a larger one preempts are reported as absorbed (R26): their domain and unit, newest first. -/
def Flt.absorb (f : Flt) (rs : List (Byte × BitVec 16)) : Flt := { f with absorbed := (rs ++ f.absorbed).take 64 }

/-- The engine resets that wait or are in progress, as they are reported when absorbed. -/
def Flt.engineResets (f : Flt) : List (Byte × BitVec 16) := (f.waiting ++ f.running.toList).map (fun w => (2, unitNo w.1))

/-- The contexts whose reset is in progress, as they are reported when a larger reset absorbs it. -/
def Chip.ctxResets (c : Chip) : List (Byte × BitVec 16) :=
  (allCtxs.filter (fun x => (c.ctx x).state == .resetting)).map (fun x => (1, BitVec.ofNat 16 x.val))

/-- A package reset is ordered or in progress. -/
def Flt.inPackage (f : Flt) : Bool := f.resetPending || f.rdomain == 5

/-- A reset of more than the compute domain is ordered or in progress: it absorbs a compute-domain reset (R26). -/
def Flt.aboveCompute (f : Flt) : Bool := f.inPackage || f.rdomain == 4

/-- A step of escalation is noted for the dossier (R328): the domain of Table 1-7, at a time. -/
def Flt.escalate (f : Flt) (domain : Byte) (now : Dword) : Flt := { f with escal := (f.escal ++ [(domain, now)]).take 64 }

/-- The first unit that hung or was quarantined since the last reset that ended. -/
def Flt.trigger (f : Flt) (u : UnitId) : Flt := if f.trigUnit = 0xFFFF then { f with trigUnit := unitNo u } else f

/-- A reset has ended and none follows it: what a dossier says of the cause starts afresh. -/
def Flt.settled (f : Flt) : Flt :=
  if f.resetDue || f.resetPending || f.running.isSome || !f.waiting.isEmpty then f else { f with dog := 0, escal := [], trigUnit := 0xFFFF }

/-- The reset of an Ibex unit ends (R340). -/
def Flt.ibexDone (f : Flt) : Flt := if f.rdomain = 4 then { f with rdomain := 0 }.settled else f

/-- A compute-domain reset is ordered (R324) for a reason of Table 12-7; one ordered or running absorbs it, and so does the reset of an
Ibex unit or of the package (R26). -/
def Chip.orderCompute (c : Chip) (reason : Nat) : Chip :=
  if c.flt.resetDue || c.flt.rphase != 0 || c.flt.aboveCompute then c
  else { c with flt := { c.flt with resetDue := true, reason := reason }.escalate 3 c.now }

/-- A STEP lies in a range of a run from index `from_` below `to`. -/
def inSteps (step base : Word) (from_ upTo : Nat) : Bool := decide (from_ ≤ (step - base).toNat) && decide ((step - base).toNat < upTo)

/-- The step record of a context's STEP number, changed by `f`; the 4,096 newest are kept (R311). -/
def Ctx.modStatus (x : Ctx) (step : Word) (f : StepStatus → StepStatus) : Ctx :=
  let base : StepStatus := { step := step, code := 0, flags := 0, lfn := 0, notDone := 0, unit := 0xFFFF, err := 0 }
  match x.statuses.findIdx? (fun s => s.step == step) with
  | some i => { x with statuses := x.statuses.modify i f }
  | none =>
    let l := x.statuses ++ [f base]
    { x with statuses := l.drop (l.length - 4096) }

/-- The STEP that a unit runs. -/
def Chip.unitStep (c : Chip) : UnitId → Option Word
  | .core n => (c.core n).step.map (·.step)
  | .engine e => (c.engine e).step.map (·.step)

/-- The step of a unit receives the code STOPPED, with the first unit to stop and its error bits (Table
11-8). -/
def Chip.stepStopped (c : Chip) (u : UnitId) (err : Word) : Chip :=
  match c.unitCtx u, c.unitStep u with
  | some x, some st => c.modCtx x (fun k => k.modStatus st (fun s =>
      if s.code = 6 ∧ s.unit ≠ 0xFFFF then s else { s with code := 6, unit := unitNo u, err := err }))
  | _, _ => c

/-- The cause of a decision with one more cause: the lowest counts (R447). -/
def lowerCause (old : Option Nat) (k : Nat) : Option Nat := some (match old with
  | some j => min j k
  | none => k)

/-- The present frame of a context is to be rolled back under R251 case 5; a decision already taken becomes
roll-back. -/
def Chip.chargeStop (c : Chip) (x : CtxId) : Chip :=
  c.modDig x (fun d =>
    let d1 := if d.decided then { d with cause := lowerCause d.cause 5 } else d
    if c.frm.lfn ∈ d1.stops then d1 else { d1 with stops := d1.stops ++ [c.frm.lfn] })

/-- The context is to be held with FAULT at the boundary that ends the present frame (R315, R318). -/
def Chip.faultHold (c : Chip) (x : CtxId) : Chip :=
  (c.chargeStop x).modDig x (fun d => if c.frm.lfn ∈ d.faults then d else { d with faults := d.faults ++ [c.frm.lfn] })

/-- A unit stops on a PROGRAM condition (R315). -/
def Chip.programStop (c : Chip) (u : UnitId) (err : Word) : Chip :=
  match c.unitCtx u with
  | some x => (c.stepStopped u err).faultHold x
  | none => c

/-- A unit raises a ledger condition of the PROGRAM class (R315). -/
def Chip.ledgerCondition (c : Chip) (u : UnitId) : Chip :=
  match c.unitCtx u with
  | some x => c.faultHold x
  | none => c

/-- A unit consumes poison (R317-R320): `stack` is 0xFF for core SRAM, `addr` the ADDR of the beacon. -/
def Chip.consume (c : Chip) (u : UnitId) (stack addr : Nat) (err : Word) : Chip :=
  let c1 := { c with flt := { c.flt with cntPoison := satInc c.flt.cntPoison 1 } }.fltErr 6
  match c.unitCtx u with
  | none => c1
  | some x =>
    let first := (c1.digCtx x).consumed != some c.frm.lfn
    let c2 := if first then
        (c1.modDig x (fun d => { d with consumed := some c.frm.lfn })).event
          { code := 1, severity := 1, unit := unitNo u, ctxMask := ctxBit x, arg := stack, addr := addr }
      else c1
    if (c2.ctx x).resetMode then
      if c2.flt.rphase != 0 then c2.modCtx x (fun k => { k with held := k.held ||| holdBit 7 })
      else ((c2.modCtx x (fun k => { k with holdNext := k.holdNext ||| holdBit 7 })).fltErr 7).orderCompute 1
    else (c2.stepStopped u err).faultHold x

/-- The site whose hardware serves core number `n` (R98). -/
def Core.site (k : Core) (n : Nat) : Nat :=
  match k.servedBy with
  | some w => w.toNat
  | none => n

/-- The site whose hardware serves engine index `e` (R103). -/
def Engine.site (k : Engine) (e : Nat) : Nat :=
  match k.servedBy with
  | some w => 68 * engStack e + w.toNat
  | none => e

/-- A pending-list entry for a unit's site, unless the list is full (R336). -/
def Nor.addPending (n : Nor) (isCore : Bool) (site : Nat) : Nor :=
  if 256 ≤ n.pending.length then n else { n with pending := n.pending ++ [(isCore, site)] }

/-- More moves of a STEP have the final status not done (R89, R311, Table 11-8). -/
def Chip.addNotDone (c : Chip) (x : Option CtxId) (step : Option Word) (n : Nat) : Chip :=
  match x, step with
  | some i, some st => if n = 0 then c else c.modCtx i (fun q => q.modStatus st (fun s =>
      { s with notDone := BitVec.ofNat 16 (min 0xFFFF (s.notDone.toNat + n)) }))
  | _, _ => c

/-- A core quarantined: it runs nothing further, and the moves that it has queued are discarded (R89, R335). -/
def Core.quarantine (k : Core) : Core :=
  { k with
    state := .quarantined, wait := .none, wakeHold := false, ballast := false, mq := []
    frec := { k.frec with discarded := k.frec.discarded ++ k.mq.map (·.desc) } }

/-- A UNIT-class condition quarantines the unit at once and orders a compute-domain reset (R335, R336). It runs nothing
further: the moves that it has queued are discarded (R89). The device is DEGRADED from then on (R288). -/
def Chip.quarantine (c : Chip) (u : UnitId) : Chip :=
  let c1 := match u with
    | .core n =>
      let k0 : Core := c.core n
      let c0 : Chip := (c.addNotDone k0.ctx (c.unitStep (.core n)) k0.mq.length).modCore n Core.quarantine
      { c0 with nor := c0.nor.addPending true (k0.site n.val) }
    | .engine e => { c.modEngine e (fun k => { k with state := .quarantined, wait := .none, sig := none, held := none })
        with nor := c.nor.addPending false ((c.engine e).site e.val) }
  let c2 := { c1 with flt := { c1.flt with cntQuar := satInc c1.flt.cntQuar 1 }.trigger u }.fltErr 5
  ((c2.event { code := 0x16, severity := 1, unit := unitNo u, ctxMask := ((c.unitCtx u).map ctxBit).getD 0
               arg := (unitNo u).toNat }).refresh).orderCompute 2

/-- A ledger protection fault (R241): counted, and reported to Markhor as a parity fault is. -/
def Chip.residueFault (c : Chip) : Chip :=
  { c with dig := { c.dig with cntResidue := satInc c.dig.cntResidue 1 } }.digErr 6

/-- Ledger protection is on for a context (Table 9-3): LPROT, ignored with CHECK off. -/
def Chip.lprot (c : Chip) (x : Option CtxId) : Bool :=
  match x with
  | some i => match (c.ctx i).check with
    | some t => t.check && t.lprot
    | none => false
  | none => false

/-- The check mode of a context is ON (R247). -/
def Chip.checkOn (c : Chip) (x : CtxId) : Bool :=
  match (c.ctx x).check with
  | some t => t.check
  | none => false

/-- The next free value of 32 bits (log 8). -/
def Chip.freeWord (c : Chip) : Word × Chip := (Config.freeWord c.freeCount, { c with freeCount := c.freeCount + 1 })

/-- The next free bit. -/
def Chip.freeBit (c : Chip) : Bool × Chip := (Config.freeBit c.freeCount, { c with freeCount := c.freeCount + 1 })

end Sys2Proof.Machine
end

