-- ==== Sys2Proof/Machine/Operands.lean ====
section
/-! DEFINITION. Operand forms of the lattice cores: instruction fields (Table 3-5), SRAM reads and writes
with ECC and poison (R62, R63), tile layouts (R64, R65). -/
namespace Sys2Proof.Machine

/-! Registers of a core. -/

/-- Address register `i`. -/
def Core.areg (k : Core) (i : Nat) : Word := tget 0 k.a i

/-- The core with an address register written. -/
def Core.setA (k : Core) (i : Nat) (v : Word) : Core := { k with a := tset 0 k.a i v }

/-- Lane `l` of vector register `r`. -/
def Core.laneOf (k : Core) (r l : Nat) : Word := tget 0 k.v (32 * r + l)

/-- The 32 lanes of vector register `r`. -/
def Core.vreg (k : Core) (r : Nat) : List Word := (List.range 32).map (k.laneOf r)

/-- The core with vector register `r` written; a short list writes zero to the lanes it lacks. -/
def Core.setV (k : Core) (r : Nat) (ls : List Word) : Core :=
  { k with v := (List.range 32).foldl (fun t l => tset 0 t (32 * r + l) (ls.getD l 0)) k.v }

/-- Ledger `i`. -/
def Core.ledger (k : Core) (i : Nat) : Ledger := tget Ledger.zero k.ledgers i

/-- The core with a ledger written. -/
def Core.setLedger (k : Core) (i : Nat) (l : Ledger) : Core := { k with ledgers := tset Ledger.zero k.ledgers i l }

/-- Arrival counter `i`. -/
def Core.counter (k : Core) (i : Nat) : Word := tget 0 k.ctr i

/-- The core with an arrival counter written. -/
def Core.setCounter (k : Core) (i : Nat) (v : Word) : Core := { k with ctr := tset 0 k.ctr i v }

/-! SRAM. -/

/-- First byte beyond the firmware region, where the ledger save area begins (Table 3-2). -/
def saveLo : Nat := 0x8000

/-- First byte of the context area (Table 3-2). -/
def ctxLo : Nat := 0x10000

/-- One past the last byte of SRAM. -/
def ctxHi : Nat := 0x100000

/-- The bytes from `a` on lie in the context area, the one region that operands and fetches of a tile program reach (R68);
Table 3-2 grants tile programs a read of the control area too, but no operand form can name it (log 81). -/
def inCtxArea (a len : Nat) : Bool := decide (ctxLo ≤ a) && decide (a + len ≤ ctxHi)

/-- Keys of the granules or words of `size` bytes that a range touches. -/
def spans (size a len : Nat) : List Nat :=
  if len = 0 then [] else (List.range ((a + len - 1) / size + 1 - a / size)).map (fun i => a / size + i)

/-- Whether the granule that holds byte `a` is poisoned. -/
def Core.poisoned (k : Core) (a : Nat) : Bool := tget false k.poison (a / 64)

/-- One SRAM word is read: a single error is corrected and counted, a worse one poisons its granule (R62). -/
def Core.eccWord (k : Core) (w : Nat) : Core :=
  match tget 0 k.sramErr w with
  | 0 => k
  | 1 => { k with sramErr := tset 0 k.sramErr w 0, cntCe := satInc k.cntCe 1, err := setBit k.err 9 }
  | _ => { k with sramErr := tset 0 k.sramErr w 0, poison := tset false k.poison (w / 8) true, err := setBit k.err 8 }

/-- A range of SRAM is read through ECC. -/
def Core.touch (k : Core) (a len : Nat) : Core :=
  if k.sramErr.isEmpty then k else (spans 8 a len).foldl Core.eccWord k

/-- Bytes of SRAM. -/
def Core.bytes (k : Core) (a n : Nat) : List Byte := rdBytes k.sram a n

/-- The units of `size` bytes that a range of `len` bytes from `a` on covers whole. -/
def wholeIn (size a len u : Nat) : Bool := decide (a ≤ size * u) && decide (size * u + size ≤ a + len)

/-- Words of SRAM that a write changes in part are read through ECC first, since the check bits cover the whole word
(R62). -/
def Core.readPartial (k : Core) (a len : Nat) : Core :=
  if k.sramErr.isEmpty then k else ((spans 8 a len).filter (fun w => !wholeIn 8 a len w)).foldl Core.eccWord k

/-- What fetch still sees of the bytes from `a` on that a store replaces (R83). -/
def Core.shadow (k : Core) (a len : Nat) : Tab (Option Byte) :=
  (List.range len).foldl (fun t i =>
    if (tget none t (a + i)).isSome then t else tset none t (a + i) (some (rdByte k.sram (a + i)))) k.stale

/-- Bytes are written to SRAM: a granule written whole loses its poison bit, one written in part keeps it, and the ECC of
the words written is made anew (R62). Fetch goes on seeing what stood there (R83). -/
def Core.store (k0 : Core) (a : Nat) (bs : List Byte) : Core :=
  let k := k0.readPartial a bs.length
  let whole := (spans 64 a bs.length).filter (wholeIn 64 a bs.length)
  { k with
    sram := wrBytes k.sram a bs
    poison := whole.foldl (fun t g => tset false t g false) k.poison
    sramErr := if k.sramErr.isEmpty then [] else (spans 8 a bs.length).foldl (fun t w => tset 0 t w 0) k.sramErr
    stale := k.shadow a bs.length }

/-- Writes of one instruction that follow one another without a gap are one write (R62). -/
def joinWrites : List (Nat × List Byte) → List (Nat × List Byte)
  | (a, x) :: rest =>
    match joinWrites rest with
    | (b, y) :: more => if b = a + x.length then (a, x ++ y) :: more else (a, x) :: (b, y) :: more
    | [] => [(a, x)]
  | [] => []

/-- The writes of one instruction. -/
def Core.storeAll (k : Core) (ws : List (Nat × List Byte)) : Core := (joinWrites ws).foldl (fun k w => k.store w.1 w.2) k

/-- The byte at `a` as fetch sees it: a store of the program shows only after an IFENCE (R83). -/
def Core.fetchByte (k : Core) (a : Nat) : Byte := (tget none k.stale a).getD (rdByte k.sram a)

/-- The 64-bit word at the program counter as fetch sees it (R66, R83). -/
def Core.fetchWord (k : Core) : Dword := BitVec.ofNat 64 (unle ((List.range 8).map (fun i => k.fetchByte (k.pc.toNat + i))))

/-- The poisoned granules among those a range touches. -/
def Core.poisonedIn (k : Core) (a len : Nat) : List Nat := (spans 64 a len).filter (fun g => tget false k.poison g)

/-! Tile layouts. -/

/-- The 32 elements of a block at `a`: the code, or none where the element lies in a poisoned granule
(R63). -/
def Core.blockAt (k : Core) (width a : Nat) : List (Option Nat) :=
  let codes := unpackBlock width (k.bytes a (4 * width))
  (List.range 32).map (fun i =>
    if k.poisoned (a + width * i / 8) || k.poisoned (a + (width * i + width - 1) / 8) then none
    else some (codes.getD i 0))

/-- A block exponent: 0x80 from a poisoned header granule (R63). -/
def Core.expAt (k : Core) (a : Nat) : Byte := if k.poisoned a then 0x80 else rdByte k.sram a

/-- Bytes of a slab of a weight tile (R64). -/
def slabBytes (width rows : Nat) : Nat := 64 + rows * 4 * width

/-- Start of the group of block `i` in a block vector at `x` (R65). -/
def groupAt (width x i : Nat) : Nat := x + i / 64 * (64 + 256 * width)

/-- Address of the elements of block `i` of a block vector (R65). -/
def vecBlockAt (f : Fmt) (x i : Nat) : Nat :=
  if f = .conv .fp32 then x + 128 * i else groupAt f.width x i + 64 + i % 64 * (4 * f.width)

/-- Address of the header byte of block `i` of a block vector (R65). -/
def vecExpAt (width x i : Nat) : Nat := groupAt width x i + i % 64

/-- An SRAM operand address (R68): a[reg] + 64 x offset. The sum is not reduced modulo 2^32. -/
def Core.opAddr (k : Core) (reg off : Nat) : Nat := (k.areg reg).toNat + 64 * off

end Sys2Proof.Machine
end

