-- ==== Sys2Proof/Machine/Flags.lean ====
section
/-! DEFINITION. Error bits of a core (Table 3-12) and the conditions that set them (R73, R90, R99). -/
namespace Sys2Proof.Machine

/-- The core with bit `b` of CORE_ERR set. -/
def Core.raise (k : Core) (b : Nat) : Core := { k with err := setBit k.err b }

/-- Ledger conditions set their bits of CORE_ERR (R73). -/
def Core.raiseLedger (k : Core) (r : Raised) : Core :=
  { k with err := setBitIf (r.parity || r.residue) (setBitIf r.ovf (setBitIf r.count (setBitIf r.range
      (setBitIf r.mode k.err 10) 11) 12) 13) 14 }

/-- `n` conversions that saturated are counted (R73). -/
def Core.raiseSat (k : Core) (n : Nat) : Core :=
  if n = 0 then k else { k.raise 15 with cntSat := satInc k.cntSat n }

/-- Poisoned granules consumed are counted (R63). -/
def Core.raisePoison (k : Core) (n : Nat) : Core :=
  if n = 0 then k else { k.raise 18 with cntPoison := satInc k.cntPoison n }

/-- A tick wait reached `by_` ticks late is counted (R93, R384). -/
def Core.raiseTickLate (k : Core) (by_ : Nat) : Core :=
  { k.raise 16 with cntTickLate := satInc k.cntTickLate 1, slack := { k.slack with late := max k.slack.late by_ } }

/-- A wait of the core begins in tick period `now` (R384). -/
def Core.waitFrom (k : Core) (now : Nat) : Core := { k with slack := { k.slack with since := now } }

/-- Ticks that the core has spent in waits of the frame until tick period `now` (R384). -/
def Core.waitedBy (k : Core) (now : Nat) : Nat :=
  k.slack.ticks + (if k.state = .waitSync ∨ k.state = .waitTick then now - k.slack.since else 0)

/-- A timed move started late is counted (R85). -/
def Core.raiseMoveLate (k : Core) : Core := { k.raise 17 with cntMoveLate := satInc k.cntMoveLate 1 }

/-- An arrival dropped as stale is counted (R91). -/
def Core.raiseStale (k : Core) : Core := { k.raise 20 with cntStale := satInc k.cntStale 1 }

/-- An addition to an arrival counter, and whether it would pass 0xFFFF_FFFF (R90). -/
def counterAdd (v : Word) (k : Nat) : Word × Bool :=
  if 0xFFFFFFFF < v.toNat + k then (0xFFFFFFFF, true) else (BitVec.ofNat 32 (v.toNat + k), false)

/-- The program of a core stops with bit `b` of CORE_ERR (R89, R99): STATE becomes STOPPED, the moves not
started are discarded, their final status not done kept in the frame record. -/
def Core.stopWith (k : Core) (b : Nat) : Core :=
  { k.raise b with
    state := .stopped, wait := .none, wakeHold := false, ballast := false, mq := [], clock := { k.clock with off := false }
    frec := { k.frec with stopped := true, discarded := k.frec.discarded ++ k.mq.map (·.desc) } }

end Sys2Proof.Machine
end

