-- ==== Sys2Proof/Machine/Opcodes.lean ====
section
/-! DEFINITION. The operation codes of the tile programs (Tables 3-3, 3-4) and of the Saiga programs (Table 4-2): the
command that a fetched word stands for, none where its class or operation is reserved (R66, R67, R108). -/
namespace Sys2Proof.Machine

/-- CTRL, class 0x0. -/
def ctrlOp (n : CoreId) (w : BitVec 54) : Nat → Option Instr
  | 0x00 => some (.nop n w)
  | 0x01 => some (.halt n w)
  | 0x02 => some (.seta n w)
  | 0x03 => some (.adda n w)
  | 0x04 => some (.loop n w)
  | 0x05 => some (.br n w)
  | 0x06 => some (.bnz n w)
  | 0x07 => some (.ifence n w)
  | _ => none

/-- VEC, class 0x3. -/
def vecOpcode (n : CoreId) (w : BitVec 54) : Nat → Option Instr
  | 0x00 => some (.vld n w)
  | 0x01 => some (.vst n w)
  | 0x02 => some (.vadd n w)
  | 0x03 => some (.vsub n w)
  | 0x04 => some (.vmul n w)
  | 0x05 => some (.vfma n w)
  | 0x06 => some (.vmax n w)
  | 0x07 => some (.vmin n w)
  | 0x08 => some (.vexp2 n w)
  | 0x09 => some (.vlog2 n w)
  | 0x0A => some (.vrcp n w)
  | 0x0B => some (.vrsq n w)
  | 0x0C => some (.vcmp n w)
  | 0x0D => some (.vsel n w)
  | 0x0E => some (.vsum n w)
  | 0x0F => some (.vmaxr n w)
  | 0x10 => some (.vomul n w)
  | 0x11 => some (.vmova n w)
  | _ => none

/-- LEDG, class 0x4. -/
def ledgOp (n : CoreId) (w : BitVec 54) : Nat → Option Instr
  | 0x00 => some (.ledgClr n w)
  | 0x01 => some (.ledgCvt n w)
  | 0x02 => some (.ledgFlg n w)
  | 0x03 => some (.ledgSave n w)
  | 0x04 => some (.ledgLoad n w)
  | 0x05 => some (.ledgDig n w)
  | _ => none

/-- SYNC, class 0x5. -/
def syncOp (n : CoreId) (w : BitVec 54) : Nat → Option Instr
  | 0x00 => some (.setc n w)
  | 0x01 => some (.addc n w)
  | 0x02 => some (.subc n w)
  | 0x03 => some (.syncWait n w)
  | 0x04 => some (.arrive n w)
  | 0x05 => some (.rdc n w)
  | _ => none

/-- The instruction of a class [63:60] and an operation [59:54] (Tables 3-3, 3-4). -/
def coreOp (n : CoreId) (w : BitVec 54) (op : Nat) : Nat → Option Instr
  | 0x0 => ctrlOp n w op
  | 0x1 => if op = 0 then some (.moveQ n w) else if op = 1 then some (.moveF n w) else none
  | 0x2 => if op = 0 then some (.mma n w) else none
  | 0x3 => vecOpcode n w op
  | 0x4 => ledgOp n w op
  | 0x5 => syncOp n w op
  | 0x6 => if op = 0 then some (.tickWait n w) else if op = 1 then some (.tickNext n w)
      else if op = 2 then some (.tickRd n w) else none
  | _ => none

/-- The instruction that a 64-bit word of a tile program stands for (R66). -/
def coreInstrOf (n : CoreId) (w : Dword) : Option Instr := coreOp n (w.setWidth 54) (bits w 59 54) (bits w 63 60)

/-- The command of an operation byte (Table 4-2); the symbols in error that its reads meet come beside it. -/
def sgaCommandOf (e : EngineId) (w : SgaWords) (ups : Upsets) : Nat → Option Instr
  | 0x00 => some (.sgaNop e w)
  | 0x01 => some (.sgaEnd e w)
  | 0x02 => some (.sgaWait e w)
  | 0x03 => some (.sgaTick e w)
  | 0x04 => some (.signal e w)
  | 0x05 => some (.sgaSetc e w)
  | 0x06 => some (.jump e w)
  | 0x11 => some (.attn e w ups)
  | 0x20 => some (.reduce e w ups)
  | 0x21 => some (.scan e w ups)
  | 0x30 => some (.gather e w ups)
  | _ => none

/-- An operation byte that Table 4-2 reserves. -/
def sgaReserved (op : Nat) : Bool :=
  !(decide (op ≤ 6) || op == 0x11 || op == 0x20 || op == 0x21 || op == 0x30)

end Sys2Proof.Machine
end

