-- ==== Sys2Proof/Machine/Packet.lean ====
section
/-! DEFINITION. Packet headers (Table 8-1), PCRC and the messages this package originates. -/
namespace Sys2Proof.Machine

/-- A flit of 64 bytes: a shorter one is filled with zeros (R193). -/
def flit64 (f : List Byte) : List Byte := padTo f 64

/-- A packet as it stands on a link: whole flits (R193, R214). -/
def wholePacket (p : Packet) : Packet := { p with hdr := flit64 p.hdr, flits := p.flits.map flit64 }

/-- The fields of a packet header that an origin chooses (Table 8-1). -/
structure Hdr where
  ptype : Nat
  last : Bool := false
  nflit : Nat := 0
  dst : Nat
  srack : Nat
  drack : Nat
  ctx : Nat := 0
  gen : Nat := 0
  circuit : Nat := 0
  seq : Nat := 0
  dcore : Nat := 0
  dctr : Nat := 0
  val : Nat := 0
  daddr : Nat := 0
  maddr : Nat := 0
  job : Nat := 0
  pmask : Nat := 0
  score : Nat := 0

/-- Number of this package, 4 x tray + position (R213). -/
def Chip.pkgNo (c : Chip) : Nat := 4 * bits c.rte.id.val 11 8 + bits c.rte.id.val 1 0

/-- Rack of this package. -/
def Chip.rack (c : Chip) : Nat := bits c.rte.id.val 23 16

/-- The first 60 bytes of a header; HOPS starts at 6 (R227). -/
def Chip.headBytes (c : Chip) (h : Hdr) : List Byte :=
  leBytes 2 (h.ptype * 4096 + b2n h.last * 2048 + h.nflit * 64)
    ++ leBytes 1 c.pkgNo ++ leBytes 1 h.dst ++ leBytes 1 h.srack ++ leBytes 1 h.drack ++ [6]
    ++ leBytes 1 h.ctx ++ leBytes 2 h.gen ++ leBytes 2 h.circuit ++ leBytes 3 h.seq ++ [c.rte.epoch]
    ++ leBytes 2 h.dcore ++ leBytes 1 h.dctr ++ leBytes 1 h.val ++ leBytes 4 h.daddr ++ leBytes 8 h.maddr
    ++ leBytes 4 h.job ++ leBytes 2 h.pmask ++ leBytes 2 c.frm.lfn.toNat ++ leBytes 2 h.score
    ++ List.replicate 18 0

/-- PCRC over a header's first 60 bytes with HOPS taken as zero, and the payload (R216). -/
def pcrc (head : List Byte) (flits : List (List Byte)) : BitVec 32 :=
  crc32 ((head.take 60).set 6 0 ++ flits.flatten)

/-- A packet of this package with its PCRC. -/
def Chip.packet (c : Chip) (h : Hdr) (flits : List (List Byte)) : Packet :=
  let b := c.headBytes { h with nflit := flits.length }
  { hdr := b ++ leBytes 4 (pcrc b flits).toNat, flits := flits }

/-- A packet with a byte string of its header replaced and its PCRC computed again. -/
def restamp (p : Packet) (off : Nat) (bs : List Byte) : Packet :=
  let b := overlay (p.hdr.take 60) off bs
  { p with hdr := b ++ leBytes 4 (pcrc b p.flits).toNat }

/-- The links that a packet may still cross. -/
def packetHops (p : Packet) : Nat := (byteAt p.hdr 6).toNat % 8

/-- The packet with HOPS decremented (R227). -/
def decHops (p : Packet) : Packet := { p with hdr := p.hdr.set 6 (byteAt p.hdr 6 - 1) }

/-- The origin queue holds 32 messages (R227). -/
def Chip.originFull (c : Chip) : Bool := decide (32 ≤ c.rte.origin.length)

/-- A message enters the origin queue; it gets its SEQ when it is sent (R230). -/
def Chip.enqueueMessage (c : Chip) (h : Hdr) (flits : List (List Byte)) : Chip :=
  { c with rte := { c.rte with origin := c.rte.origin ++ [{ pkt := c.packet h flits, inLink := none }] } }

/-- An ARRIVE message to another package (R92, R111, R112). -/
def Chip.sendArrive (c : Chip) (dpkg : Nat) (dcore : BitVec 12) (ctr val : Byte) (ctx : Option CtxId) (gen : BitVec 16)
    (score : BitVec 16) : Chip :=
  c.enqueueMessage
    { ptype := 6, dst := dpkg, srack := c.rack, drack := c.rack, ctx := (ctx.map (·.val)).getD 0, gen := gen.toNat
      dcore := dcore.toNat, dctr := ctr.toNat, val := val.toNat, score := score.toNat } []

end Sys2Proof.Machine
end

