-- ==== Sys2Proof/Machine/Ticks.lean ====
section
/-! DEFINITION. The ticks of a frame: the slip map, held and skipped ticks, the end of a frame and the frame that follows
(R164, R180-R184). -/
namespace Sys2Proof.Machine

/-- Slip-map word `i` in force. -/
def Frm.mapWord (f : Frm) (i : Nat) : Word := (tget (CfgWord.of (slipMapReset i)) f.slipMap i).val

/-- Tick `t` is a slip tick. -/
def Frm.isSlip (f : Frm) (t : Nat) : Bool := bit (f.mapWord (t / 32)) (t % 32)

/-- K, the number of slip ticks (R180). -/
def Frm.slipK (f : Frm) : Nat := (List.range 128).foldl (fun n i => n + popCount 32 (f.mapWord i).toNat) 0

/-- The slip map is valid (R181): 16 to 128 slip ticks, none in a control-class window, at most 2 in each 64. -/
def Frm.mapOk (f : Frm) : Bool :=
  decide (16 ≤ f.slipK) && decide (f.slipK ≤ 128) &&
    (List.range 64).all (fun k => decide ((f.mapWord (2 * k)).toNat % 256 = 0)
      && decide (popCount 32 (f.mapWord (2 * k)).toNat + popCount 32 (f.mapWord (2 * k + 1)).toNat ≤ 2))

/-- The slip ticks before tick `t`. -/
def Frm.slipRank (f : Frm) (t : Nat) : Nat :=
  (List.range (t / 32)).foldl (fun n i => n + popCount 32 (f.mapWord i).toNat) 0
    + popCount (t % 32) (f.mapWord (t / 32)).toNat

/-- Tick `t` is among the slip ticks that the present frame uses. -/
def Frm.slipUsed (f : Frm) (t : Nat) : Bool := f.isSlip t && decide (f.slipRank t < f.slipNow.natAbs)

/-- The tick after `t`, which skipped ticks do not reach; the last tick lasts until the frame ends. -/
def Frm.tickAfter (f : Frm) : Nat → Nat → Nat
  | 0, t => min 4095 t
  | n + 1, t => if t < 4095 ∧ f.slipNow < 0 ∧ f.slipUsed (t + 1) then Frm.tickAfter f n (t + 1) else min 4095 (t + 1)

/-- Tick `t` was skipped and the present tick is the one that follows it, or the run of skipped ticks it is in: `t` counts
as reached now (R183). -/
def Frm.skippedTo (f : Frm) (t : Nat) : Bool :=
  decide (f.slipNow < 0 ∧ t < f.tick) && (List.range (f.tick - t)).all (fun i => f.slipUsed (t + i))

/-- Tick `t` has been passed, so that a wait on it is late (R93, R183). -/
def Frm.passed (f : Frm) (t : Nat) : Bool := decide (t < f.tick) && !f.skippedTo t

/-- A tick wait of the frame that ends is late: its tick never occurs, or was passed (R93, R184). -/
def Frm.lateAtEnd (f : Frm) (t : Nat) : Bool := decide (f.tick < t) || f.passed t

/-- The first tick of the run of skipped ticks up to tick 4,095, which counts as reached at tick 0 of the next frame (R183). -/
def Frm.skipRun (f : Frm) : Nat :=
  if f.slipNow < 0 then ((List.range 4096).find? (fun t => (List.range (4096 - t)).all (fun i => f.slipUsed (t + i)))).getD 4096 else 4096

/-- The tick periods that the frame in progress lasts (R164): more with held ticks, fewer with skipped ones. -/
def Frm.length (f : Frm) : Nat := ((4096 : Int) + f.slipNow).toNat

/-- The frame in progress has lasted its time, and a broken frame has reached the next boundary of the target schedule
(R164, R184). -/
def Frm.ended (f : Frm) : Bool := f.valid && (if f.broken then f.endIn == 0 else decide (f.length ≤ f.elapsed))

/-- One tick period passes in the frame; the wait for the preferred input runs before there are frames too (R167). -/
def Frm.tickPeriod (f0 : Frm) : Frm :=
  let f := { f0 with lockWait := f0.lockWait.map (fun n => n - 1) }
  if !f.valid then f
  else
    let g := { f with elapsed := f.elapsed + 1, gridPeriod := (f.gridPeriod + 1) % 4096, endIn := f.endIn - 1 }
    if 0 < f.slipNow ∧ !f.second ∧ f.slipUsed f.tick then { g with second := true }
    else { g with second := false, tick := f.tickAfter 130 f.tick }

/-- The slip that the frame that begins now absorbs (R182): at most K ticks. -/
def Frm.absorb (f : Frm) : Int :=
  let m : Int := min (f.debt.natAbs : Int) f.slipK
  if f.debt < 0 then -m else m

/-- The next frame begins (R164, R182, R184): the slip of the frame that ends has moved A and the debt; a broken
frame is followed by the frame of the target schedule, which takes what has joined the debt since. -/
def Frm.nextFrame (f : Frm) : Frm :=
  let g : Frm := match f.broken, f.next with
    | true, some n => { f with lfn := n.1, aoff := n.2, debt := f.debt + f.carry, carry := 0, broken := false, next := none }
    | _, _ => { f with lfn := f.lfn + 1, aoff := ((f.aoff : Int) + f.slipNow).emod 4096 |>.toNat, debt := f.debt - f.slipNow }
  let h : Frm := { g with
    frame := f.frame + 1, tick := 0, skipEnd := if f.broken then 4096 else f.skipRun, second := false, elapsed := 0
    holdFrames := if f.state = FrmState.holdover then min 50 (f.holdFrames + 1) else f.holdFrames
    cntHoldover := if f.state = FrmState.holdover then satInc f.cntHoldover 1 else f.cntHoldover }
  { h with slipNow := h.absorb }

end Sys2Proof.Machine
end

