-- ==== Sys2Proof/Machine/CoreRun.lean ====
section
/-! DEFINITION. How a core carries out one instruction: issue conditions, fetch, the program counter and
the loop stack (R66, R84), stops (R99), reports to the active Ibex (R73, R241, R315, R317). -/
namespace Sys2Proof.Machine

/-- What an instruction makes of its core: the core after it, the CORE_ERR bit that stops the program,
the ledger conditions raised, the poisoned granules consumed, and the next program counter where it is
not the following instruction. `hold` leaves the program counter at the instruction. -/
structure CoreOut where
  core : Core
  stop : Option Nat := none
  raised : Raised := {}
  poison : List Nat := []
  jump : Option (BitVec 20) := none
  hold : Bool := false

/-- An instruction that only changes the core. -/
def CoreOut.ok (k : Core) : CoreOut := { core := k }

/-- An instruction that stops the program and changes nothing. -/
def CoreOut.fail (k : Core) (b : Nat) : CoreOut := { core := k, stop := some b }

/-- The program counter and loop stack after the instruction at `p` has been passed (R84): at the last
instruction of the innermost body the body is repeated or the level is left. -/
def passLoops (p : BitVec 20) : List LoopLevel → BitVec 20 × List LoopLevel
  | [] => (p + 8, [])
  | l :: rest =>
    if l.last = p then
      if 1 < l.count.toNat then (l.first, { l with count := l.count - 1 } :: rest)
      else passLoops p rest
    else (p + 8, l :: rest)

/-- The core with its program counter moved past the instruction at `p`. -/
def Core.passFrom (k : Core) (p : BitVec 20) : Core :=
  let r := passLoops p k.loops
  { k with pc := r.1, loops := r.2 }

/-- The core with its program counter moved past its present instruction. -/
def Core.pass (k : Core) : Core := k.passFrom k.pc

/-- Issue is not stalled: the core runs, waits for nothing, holds its wake token, and has its clock. -/
def Core.issues (k : Core) : Bool :=
  decide (k.state = .run) && decide (k.wait = .none) && !k.wakeHold && !k.clock.gated

/-- The reports that an instruction gives rise to: poison consumed, ledger conditions, a ledger fault. -/
def Chip.coreReports (c : Chip) (n : CoreId) (o : CoreOut) : Chip :=
  let err := (c.core n).err
  let c1 := o.poison.foldl (fun c g => c.consume (.core n) 0xFF (64 * g) err) c
  let c2 := if o.raised.mode || o.raised.range || o.raised.count || o.raised.ovf then c1.ledgerCondition (.core n) else c1
  let c3 := if o.raised.residue then c2.residueFault else c2
  if o.raised.parity || o.raised.residue then c3.quarantine (.core n) else c3

/-- The core after an instruction, its program counter moved on or its program stopped. -/
def CoreOut.settle (o : CoreOut) : Core :=
  let k := (o.core.raiseLedger o.raised).raisePoison o.poison.length
  match o.stop with
  | some b => k.stopWith b
  | none => if o.hold then k else match o.jump with
    | some p => { k with pc := p }
    | none => k.pass

/-- A core program stops with a bit of CORE_ERR: bits 0-7 are PROGRAM conditions (Table 12-1). -/
def Chip.coreStopReport (c : Chip) (n : CoreId) (b : Nat) : Chip :=
  if b < 8 then c.programStop (.core n) (c.core n).err else c

/-- The instruction that core `n` fetches: the one that the word at its program counter spells, none where its class or
operation is reserved (R66, R67). -/
def Core.fetched (k : Core) (n : CoreId) : Option Instr := coreInstrOf n k.fetchWord

/-- Core `n` carries out instruction `i` next: it issues, the fetch lies in the context area and meets no poison, and `i` is
what the fetched word spells. -/
def Core.carries (k : Core) (n : CoreId) (i : Instr) : Bool :=
  k.issues && inCtxArea k.pc.toNat 8 && !(k.touch k.pc.toNat 8).poisoned k.pc.toNat && k.fetched n == some i

/-- Core `n` fetches its next instruction, and carries it out where it is `i`, whose effect on the core is `f`. A core that
does not issue does nothing, and so does one whose next instruction is another (log 33). A fetch outside the context area
stops with SRAM_BOUNDS (R61) and touches nothing, one from a poisoned granule stops with SRAM_UE (R63), and one of a word
with a reserved class or operation with ILLEGAL_OP (R66). -/
def Chip.coreStep (c : Chip) (n : CoreId) (i : Instr) (f : Core → CoreOut) : Chip :=
  let k0 := c.core n
  if !k0.issues then c
  else if !inCtxArea k0.pc.toNat 8 then (c.setCore n (k0.stopWith 2)).coreStopReport n 2
  else
    let k := k0.touch k0.pc.toNat 8
    if k.poisoned k.pc.toNat then
      let k1 := (k.raisePoison 1).stopWith 8
      (c.setCore n k1).consume (.core n) 0xFF (64 * (k.pc.toNat / 64)) k1.err
    else if k.fetched n = none then (c.setCore n (k.stopWith 0)).coreStopReport n 0
    else if k.fetched n ≠ some i then c
    else
      let o := f k
      let c1 := (c.setCore n o.settle).coreReports n o
      match o.stop with
      | some b => c1.coreStopReport n b
      | none => c1

/-- A core stopped by an error that no instruction raises (R99): CORE_PC keeps the address of the first
instruction not yet issued, which is the one after a wait in progress. A core whose program has ended or has not begun has
no issue to halt: the bit is set, and its queued moves go on (log 82). -/
def Chip.coreAsyncStop (c : Chip) (n : CoreId) (b : Nat) : Chip :=
  let k := c.core n
  if k.state = .run ∨ k.state = .waitSync ∨ k.state = .waitTick then
    let k1 := if k.wait = .none then k else k.pass
    (c.setCore n (k1.stopWith b)).coreStopReport n b
  else c.setCore n (k.raise b)

end Sys2Proof.Machine
end

