-- ==== Sys2Proof/Machine/Fabric.lean ====
section
/-! DEFINITION. What the fabric blocks share: packet fields, circuit entries, drops, plan windows, and the transmit side of a
link: codeword headers and groups, circuit packets in their windows, control codewords in control-class windows (R172,
R179, R192-R196, R199, R218-R221). -/
namespace Sys2Proof
open Machine

/-! Header fields (Table 8-1). -/

/-- PTYPE. -/
def Packet.ptype (p : Packet) : Nat := leAt p.hdr 0 2 / 4096
/-- SRC. -/
def Packet.src (p : Packet) : Nat := leAt p.hdr 2 1
/-- DST. -/
def Packet.dst (p : Packet) : Nat := leAt p.hdr 3 1
/-- SRACK. -/
def Packet.srack (p : Packet) : Nat := leAt p.hdr 4 1
/-- DRACK. -/
def Packet.drack (p : Packet) : Nat := leAt p.hdr 5 1
/-- CX. -/
def Packet.cx (p : Packet) : CtxId := Fin.ofNat 16 (leAt p.hdr 7 1)
/-- GEN. -/
def Packet.gen (p : Packet) : BitVec 16 := BitVec.ofNat 16 (leAt p.hdr 8 2)
/-- CIRCUIT. -/
def Packet.circuit (p : Packet) : Nat := leAt p.hdr 10 2
/-- SEQ. -/
def Packet.seq (p : Packet) : BitVec 24 := BitVec.ofNat 24 (leAt p.hdr 12 3)
/-- EPOCH. -/
def Packet.epoch (p : Packet) : Byte := byteAt p.hdr 15
/-- DCORE. -/
def Packet.dcore (p : Packet) : Nat := leAt p.hdr 16 2 % 4096
/-- DCTR. -/
def Packet.dctr (p : Packet) : Nat := leAt p.hdr 18 1
/-- VAL. -/
def Packet.val (p : Packet) : Nat := leAt p.hdr 19 1
/-- DADDR. -/
def Packet.daddr (p : Packet) : Nat := leAt p.hdr 20 4 % 1048576
/-- MADDR. -/
def Packet.maddr (p : Packet) : Nat := leAt p.hdr 24 8 % 2 ^ 42
/-- JOB. -/
def Packet.job (p : Packet) : Word := BitVec.ofNat 32 (leAt p.hdr 32 4)
/-- PMASK. -/
def Packet.pmask (p : Packet) : Nat := leAt p.hdr 36 2
/-- LFN. -/
def Packet.lfn (p : Packet) : BitVec 16 := BitVec.ofNat 16 (leAt p.hdr 38 2)
/-- SCORE. -/
def Packet.score (p : Packet) : Nat := leAt p.hdr 40 2 % 4096
/-- Whether PCRC is right (R216, R217). -/
def Packet.pcrcOk (p : Packet) : Bool := leAt p.hdr 60 4 == (Machine.pcrc p.hdr p.flits).toNat
/-- Bytes of the packet. -/
def Packet.size (p : Packet) : Nat := 64 * (1 + p.flits.length)
/-- Responses travel back toward a remote-memory origin (R219). -/
def Packet.isResponse (p : Packet) : Bool := p.ptype == 3 || p.ptype == 5
/-- The flits of the packet, header first. -/
def Packet.line (p : Packet) : List (List Byte) := p.hdr :: p.flits
/-- Payload flit `i` with its poison bit. -/
def Packet.granules (p : Packet) : List Granule :=
  (p.flits.zip (List.range p.flits.length)).map (fun q => { data := q.1, poison := p.pmask.testBit q.2 })

end Sys2Proof

namespace Sys2Proof.Machine

/-! Circuits as an origin uses them. -/

/-- The circuit-table entry in force (Table 8-3). -/
def Chip.circ (c : Chip) (i : Nat) : Word := tget 0 c.plan.circ i

/-- VALID of an entry. -/
def circValid (e : Word) : Bool := bit e 31

/-- TOMB of an entry. -/
def circTomb (e : Word) : Bool := bit e 30

/-- ROLE of an entry. -/
def circRole (e : Word) : Nat := bits e 29 28

/-- KIND of an entry. -/
def circKind (e : Word) : Nat := bits e 27 26

/-- CTX of an entry. -/
def circCtx (e : Word) : Nat := bits e 25 22

/-- INLINK of an entry. -/
def circIn (e : Word) : Nat := bits e 21 19

/-- OUTLINK of an entry. -/
def circOut (e : Word) : Nat := bits e 18 16

/-- DPKG of an entry. -/
def circDst (e : Word) : Nat := bits e 15 10

/-- SPKG of an entry. -/
def circSrc (e : Word) : Nat := bits e 9 4

/-- A link number. -/
def linkId (i : Nat) : LinkId := Fin.ofNat 6 i

/-! Drops (R215, R221, R234). -/

/-- The routing state changed. -/
def Chip.modRte (c : Chip) (f : Rte → Rte) : Chip := { c with rte := f c.rte }

/-- A bit of RTE_ERR. -/
def Rte.raise (r : Rte) (b : Nat) : Rte := { r with err := setBit r.err b }

/-- A dropped packet is logged in RTE_LLOG, once per circuit and cause in each frame (R234). -/
def Rte.logDrop (r : Rte) (cause : Nat) (p : Packet) : Rte :=
  if r.llogged.contains (p.circuit, cause) then r
  else
    let i := r.llogNext.toNat
    let w := BitVec.ofNat 64 (p.lfn.toNat * 2 ^ 48 + p.src % 64 * 2 ^ 42 + cause * 2 ^ 40 + p.seq.toNat * 2 ^ 16 + p.circuit)
    let r1 := if tget false r.llogWritten i then r.raise 11 else r
    { r1 with llog := tset 0 r.llog i w, llogWritten := tset false r.llogWritten i true, llogNext := r.llogNext + 1
              llogged := (p.circuit, cause) :: r.llogged }

/-- An orphan (R215, R221). -/
def Rte.orphan (r : Rte) (p : Packet) : Rte :=
  ({ r with cntOrphan := satInc r.cntOrphan 1 }.raise 1).logDrop 1 p

/-- A late packet of a tombstoned circuit, or with cause 3 a stale message (R221, R231). -/
def Rte.late (r : Rte) (cause : Nat) (p : Packet) : Rte :=
  ({ r with cntLate := satInc r.cntLate 1 }.raise 0).logDrop cause p

/-- A packet outside its ticks. -/
def Rte.outside (r : Rte) (p : Packet) : Rte :=
  ({ r with cntWindow := satInc r.cntWindow 1 }.raise 2).logDrop 2 p

/-- A packet dropped in a recovery (R237). -/
def Rte.resetDrop (r : Rte) : Rte := { r with cntResetDrop := satInc r.cntResetDrop 1 }.raise 7

/-- A packet whose PCRC is wrong (R217). -/
def Rte.pcrcDrop (r : Rte) : Rte := { r with cntPcrc := satInc r.cntPcrc 1 }.raise 9

/-! Width (R203). -/

/-- The largest width of Table 7-2 that does not exceed `n` lanes. -/
def widthFor (n : Nat) : Nat := if 16 ≤ n then 16 else if 12 ≤ n then 12 else if 8 ≤ n then 8 else if 4 ≤ n then 4 else 0

/-- Width for the good lanes of both directions. -/
def Link.agreed (k : Link) : Nat := widthFor (min (popCount 16 k.goodRx.toNat) (popCount 16 k.goodTx.toNat))

/-- The `n` lowest-numbered lanes of a mask. -/
def lowestLanes (mask : BitVec 16) (n : Nat) : BitVec 16 :=
  BitVec.ofNat 16 (((onesOf 16 mask.toNat).take n).foldl (fun s i => s + 2 ^ i) 0)

/-! Windows of the plan (R172, R179). -/

/-- A bit of LNK_ERR is raised. -/
def Link.raise (k : Link) (b : Nat) : Link := { k with err := setBit k.err b }

/-- The plan entries that run on a link: none in FREERUN (R170). -/
def Chip.planOn (c : Chip) (l : LinkId) : List PlanEntry :=
  if c.plan.stopped then [] else match c.plan.active with
    | some p => p.entries.filter (fun e => e.link == l.val)
    | none => []

/-- Receive windows of a link whose ticks, with the guard tick, hold tick `t` (R179). -/
def Chip.rxWindows (c : Chip) (l : LinkId) (t : Nat) : List PlanEntry :=
  (c.planOn l).filter (fun e => e.rx && (decide (e.start ≤ t ∧ t ≤ e.start + e.len) || decide (t = 0 ∧ e.start + e.len = 4096)))

/-- The transmit window of a link that holds tick `t`; windows of one link and direction do not overlap (R176). -/
def Chip.txWindow (c : Chip) (l : LinkId) (t : Nat) : Option PlanEntry :=
  ((c.planOn l).filter (fun e => !e.rx && decide (e.start ≤ t ∧ t < e.start + e.len))).head?

/-- Whole codeword groups of 25.6 ns that fit in `n` tick periods (R192). -/
def groupsIn (n : Nat) : Nat := n * 15625 / 16384

/-- The first codeword group, counted from the start of a window, that can begin after `n` tick periods of it. -/
def groupsBegun (n : Nat) : Nat := (n * 15625 + 16383) / 16384

/-! The management channel (R199). -/

/-- A management message (Table 7-5). -/
def mgmtMessage (type : Nat) (good : BitVec 16) (lfn : BitVec 12) (arg : BitVec 16) : Dword :=
  let w := BitVec.ofNat 64 (0xE5 * 2 ^ 56 + type * 2 ^ 52 + good.toNat * 2 ^ 36 + lfn.toNat * 2 ^ 24 + arg.toNat * 256)
  w ||| BitVec.ofNat 64 (crc8 w 8 48)

/-- The codeword times since the messages that a link sends began, for group `j` of tick period `now`. -/
def Link.mgmtTime (k : Link) (now j : Nat) : Nat := groupsIn (now - ((k.mgmt.head?.map (·.since)).getD 0)) + j

/-- The message that a link sends at a codeword time: those it repeats take turns, 64 codewords each (log 95), and between messages NULL
is sent. -/
def Link.message (k : Link) (n : Nat) : Dword := match k.mgmt[n / 64 % k.mgmt.length]? with
  | some m => m.word
  | none => mgmtMessage 0 k.goodSent 0 0

/-- The MBIT of the codewords of group `j` of tick period `now`: the bits of a message follow each other from group to group, most
significant first. -/
def Link.mbit (k : Link) (now j : Nat) : Bool :=
  let n := k.mgmtTime now j
  bit (k.message n) (63 - n % 64)

/-- A message begins to be sent. One that names a boundary is repeated until then, beside those that do so already; one that names
none takes their place. -/
def Link.addMgmt (k : Link) (m : MgmtOut) : Link :=
  { k with mgmt := match m.til with
      | some _ => k.mgmt.filter (fun q => q.til.isSome && q.word != m.word) ++ [m]
      | none => [m] }

/-- A message begins to be sent. -/
def Chip.sendMgmt (c : Chip) (l : LinkId) (word : Dword) (til : Option (BitVec 12)) : Chip :=
  (c.modLink l (fun k => k.addMgmt { word := word, til := til, since := c.uptime })).emit (.management l word)

/-! Codeword groups (R192, R194). -/

/-- The header of a codeword of group `j` of tick period `now` (Table 7-3). -/
def Link.header (k : Link) (now j kind : Nat) (cseq : Byte) : BitVec 20 :=
  BitVec.ofNat 20 (kind * 2 ^ 18 + cseq.toNat * 2 ^ 10 + k.rxSeq.toNat * 4 + b2n k.nakDue * 2 + b2n (k.mbit now j))

/-- The groups that a link has sent in the present tick period. -/
def Link.groupNo (k : Link) (now : Nat) : Nat := if k.sentNow.1 = now then k.sentNow.2 else 0

/-- An idle flit. -/
def idleFlit : List Byte := List.replicate 64 0

/-- The used lanes of the transmit direction, in ascending order of the receiver's lane numbers (R203). -/
def Link.txLanes (k : Link) : List Nat := onesOf 16 (lowestLanes k.goodTx k.width).toNat

/-! The code of R192: RS(544,514) over GF(2^10), as IEEE 802.3 clause 91 defines it (log 10): the field of x^10 + x^3 + 1, the generator
polynomial with the roots a^0 to a^29, a = x; a symbol takes its bits lowest first, and the first symbol has the highest power. -/

/-- A symbol times x. -/
def symX (a : BitVec 10) : BitVec 10 := (a <<< 1) ^^^ (if bit a 9 then 9 else 0)

/-- The product of two symbols. -/
def symMul (a b : BitVec 10) : BitVec 10 :=
  ((List.range 10).foldl (fun (s : BitVec 10 × BitVec 10) i => (if bit b i then s.1 ^^^ s.2 else s.1, symX s.2)) (0, a)).1

/-- A polynomial, lowest power first, times x - r. -/
def polyRoot (p : List (BitVec 10)) (r : BitVec 10) : List (BitVec 10) :=
  List.zipWith (· ^^^ ·) (0 :: p) (p.map (symMul r) ++ [0])

/-- The generator polynomial, lowest power first. -/
def rsGenerator : List (BitVec 10) :=
  ((List.range 30).foldl (fun (s : List (BitVec 10) × BitVec 10) _ => (polyRoot s.1 s.2, symX s.2)) ([1], 1)).1

/-- One message symbol divided into the remainder, lowest power first. -/
def rsStep (r : List (BitVec 10)) (m : BitVec 10) : List (BitVec 10) :=
  let q := m ^^^ r.getLastD 0
  List.zipWith (fun a g => a ^^^ symMul q g) (0 :: r.dropLast) (rsGenerator.take 30)

/-- The 30 parity symbols of a message, in the order in which they are sent. -/
def rsParity (m : List (BitVec 10)) : List (BitVec 10) := (m.foldl rsStep (List.replicate 30 0)).reverse

/-- The 514 message symbols of a codeword: the header in the first two, then the body. -/
def Codeword.message (w : Codeword) : List (BitVec 10) :=
  let n := w.header.toNat + unle (w.flits.flatMap (fun f => padTo f 64)) * 2 ^ 20
  (List.range 514).map (fun i => BitVec.ofNat 10 (n / 2 ^ (10 * i)))

/-- The 544 symbols of a codeword as a lane carries them (R192). A codeword that is received has been decoded: `corrected` counts the
symbols of the line that differed from these. -/
def Codeword.line (w : Codeword) : List (BitVec 10) := Codeword.message w ++ rsParity (Codeword.message w)

/-- A codeword as it is sent, without errors. -/
def sentCodeword (lane : Nat) (header : BitVec 20) (flits : List (List Byte)) : Codeword :=
  { lane := Fin.ofNat 16 lane, corrected := some 0, header := header, flits := flits }

/-- A group of one KIND that carries up to 10 w flits: slot s lies in slot s div w of the codeword on used lane s mod w. The
codewords of a control group are numbered from `cseq` on in lane order (R194, R196). -/
def Link.group (k : Link) (now kind : Nat) (cseq : Byte) (flits : List (List Byte)) : List Codeword :=
  (k.txLanes.zip (List.range k.width)).map (fun p =>
    sentCodeword p.1 (k.header now (k.groupNo now) kind (if kind = 2 then cseq + BitVec.ofNat 8 p.2 else 0))
      ((List.range 10).map (fun i => flits.getD (i * k.width + p.2) idleFlit)))

/-- What a link that is UP sends when it has nothing else to send (R193, R195, R203): idle codewords on its used and spare
lanes. -/
def Link.idleGroup (k : Link) (now : Nat) : List Codeword :=
  (onesOf 16 k.goodTx.toNat).map (fun i => sentCodeword i (k.header now (k.groupNo now) 0 0) (List.replicate 10 idleFlit))

/-- One step of the PRBS31 generator x^31 + x^28 + 1: the register after it. -/
def prbsStep (r : BitVec 31) : BitVec 31 := (r <<< 1) ||| (if bit r 30 != bit r 27 then 1 else 0)

/-- The next `n` bits of a PRBS31 generator as a number, first bit highest, and its register after them. -/
def prbsBits : Nat → BitVec 31 → Nat × BitVec 31
  | 0, r => (0, r)
  | n + 1, r =>
    let q := prbsBits n r
    (2 * q.1 + b2n (bit q.2 30 != bit q.2 27), prbsStep q.2)

/-- The PRBS31 register of a lane after `n` codeword bodies of 5,120 bits; it is seeded with the lane number (R201). -/
def prbsAfter (lane : Nat) : Nat → BitVec 31
  | 0 => BitVec.ofNat 31 lane
  | n + 1 => (prbsBits 5120 (prbsAfter lane n)).2

/-- The management codewords of codeword time `n` of a qualification window, on every lane (R195, R201). -/
def Link.trainGroup (k : Link) (now n : Nat) : List Codeword :=
  (List.range 16).map (fun lane =>
    let body := (leBytes 640 (prbsBits 5120 (prbsAfter lane n)).1).reverse
    sentCodeword lane (k.header now (k.groupNo now) 3 0) ((List.range 10).map (fun i => slice body (64 * i) 64)))

/-- The milliseconds after which a phase of training has ended at the latest (Table 7-6; log 94). -/
def phaseEnd (cold : Bool) (phase : Nat) : Nat := ((if cold then [20, 420, 430, 666, 667] else [20, 35, 45, 281, 282]).getD (phase - 1) 667)

/-- What a link that is being requalified sends when it has nothing else to send (R207): its used lanes go on with idle codewords, the
others are retrained, from T4 on with the bodies of R201. -/
def Link.requalGroup (k : Link) (now : Nat) : List Codeword :=
  (k.idleGroup now).filter (fun w => k.txLanes.contains w.lane.val)
    ++ (k.trainGroup now (groupsIn (now - k.requalAt - phaseEnd true 3 * 40960))).filter (fun w => !k.txLanes.contains w.lane.val)

/-- What a link sends on its lanes between the groups that commands and windows send (R195). The PRBS31 generators of R201 are seeded as
the attempt begins, and a body takes their bits first bit highest and not inverted (log 121). -/
def Chip.lineGroup (c : Chip) (l : LinkId) : List Codeword :=
  let k := c.link l
  match k.state with
  | .up => if k.requal then k.requalGroup c.uptime else k.idleGroup c.uptime
  | .training => k.trainGroup c.uptime 0
  | .qualifying => k.trainGroup c.uptime (groupsIn (c.uptime - ((k.attempt.map (·.since)).getD 0)))
  | _ => []

/-- Loopback is in force on a link (R210): only in BRINGUP. -/
def Chip.looped (c : Chip) (l : LinkId) : Bool := (c.link l).loopback && c.mbx.dstate == .bringup

/-- A group is sent: its headers carry the ACK of the link, and a NAK that is due. In loopback it comes back to the receiving
lanes of the same numbers. -/
def Chip.sendGroup (c : Chip) (l : LinkId) (kind : Nat) (cseq : Byte) (flits : List (List Byte)) : Chip :=
  let g := (c.link l).group c.uptime kind cseq flits
  (c.modLink l (fun k => { k with
    nakDue := false, sentNow := (c.uptime, k.groupNo c.uptime + 1), loop := if c.looped l then k.loop ++ [g] else k.loop })).emit (.group l g)

/-- Pieces of `n` elements of a list. -/
def piecesOf {α : Type} (n : Nat) : Nat → List α → List (List α)
  | 0, _ => []
  | f + 1, l => if l.isEmpty then [] else l.take n :: piecesOf n f (l.drop n)

/-! Circuit packets in their windows (R21, R172, R179). -/

/-- The granule hash of R245 as an integer. -/
def granuleHash (job dcore daddr : Nat) (g : Granule) : Nat :=
  unle (shake24 (ascii "GL4XFR01" ++ leBytes 4 job ++ leBytes 2 dcore ++ leBytes 4 daddr
    ++ [if g.poison then 1 else 0] ++ padTo g.data 64))

/-- A sum of transfer hashes with one more addend, modulo 2^192 (R245). -/
def addXfer (l : List XferSum) (pkg : Nat) (lfn : BitVec 16) (h : Nat) : List XferSum :=
  match l.findIdx? (fun x => x.pkg == pkg && x.lfn == lfn) with
  | some i => l.modify i (fun x => { x with sum := (x.sum + h) % 2 ^ 192 })
  | none => l ++ [{ pkg := pkg, lfn := lfn, sum := h % 2 ^ 192 }]

/-- Hashes of the granules of a packet, summed. -/
def packetHash (job dcore daddr : Nat) : List Granule → Nat
  | [] => 0
  | g :: gs => granuleHash job dcore daddr g + packetHash job dcore (daddr + 64) gs

/-- The first codeword group of a transmit window that is still free at the present tick. -/
def Chip.txNext (c : Chip) (l : LinkId) (e : PlanEntry) : Nat :=
  let k := c.link l
  max (if k.txWin = some (c.frm.frame * 4096 + e.start) then k.txUsed else 0) (groupsBegun (c.frm.tick - e.start))

/-- The flit slots that a transmit window still has: what is sent must end by the end of its last tick (R179). -/
def Chip.txRoom (c : Chip) (l : LinkId) (e : PlanEntry) : Nat :=
  (groupsIn e.len - c.txNext l e) * (10 * (c.link l).width) - (c.link l).txPart.length

/-- The packets at the front of a queue that fit into a number of slots. -/
def fitting : Nat → List Packet → List Packet
  | _, [] => []
  | room, p :: ps => if p.line.length ≤ room then p :: fitting (room - p.line.length) ps else []

/-- Packets leave in a transmit window, one after another in the flit slots of its data groups (R193, R194): groups that are
full are sent, and the slots of the last one stay open until the tick period ends. -/
def Chip.sendPackets (c : Chip) (l : LinkId) (e : PlanEntry) (ps : List Packet) : Chip :=
  let slots := 10 * (c.link l).width
  let fs := (c.link l).txPart ++ ps.flatMap Packet.line
  let n := fs.length / slots
  let c1 := ps.foldl (fun c p => c.emit (.packet l false p)) c
  let c2 := c1.modLink l (fun k => { k with
    txWin := some (c.frm.frame * 4096 + e.start), txUsed := c.txNext l e + n, txPart := fs.drop (n * slots) })
  (piecesOf slots n fs).foldl (fun c g => c.sendGroup l 1 0 g) c2

/-- The tick period ends: an open data group is sent, its free slots idle. -/
def Chip.flushTx (c : Chip) (l : LinkId) : Chip :=
  let k := c.link l
  if k.txPart.isEmpty then c
  else (c.modLink l (fun q => { q with txUsed := k.txUsed + 1, txPart := [] })).sendGroup l 1 0 k.txPart

/-- What is counted when a packet of this package leaves: a DATA packet joins the outbound transfer sum of its context
(R245). -/
def Chip.countOut (c : Chip) (p : Packet) : Chip :=
  if p.ptype = 1 ∧ c.checkOn p.cx then
    c.modDig p.cx (fun q => { q with
      outSums := addXfer q.outSums (circDst (c.circ p.circuit)) c.frm.lfn (packetHash (c.ctx p.cx).job.toNat p.dcore p.daddr p.granules) })
  else c

/-- A packet of this package as it is sent in the present frame (Table 8-1, R227): stamped with its LFN, HOPS decremented. -/
def Chip.stamped (c : Chip) (p : Packet) : Packet := decHops (restamp p 38 (leBytes 2 c.frm.lfn.toNat))

/-- A queued packet may still leave: its circuit is valid (moves in flight complete, so a tombstone does not stop it, Table
11-7), and it is a response or the compute domain is not being reset (R174, R237). -/
def Chip.maySend (c : Chip) (p : Packet) : Bool := circValid (c.circ p.circuit) && (p.isResponse || c.flt.rphase == 0)

/-- The queued packets of the circuit whose transmit window holds the present tick leave as far as it has room. -/
def Chip.sendDue (c : Chip) (l : LinkId) : Chip :=
  let k := c.link l
  match if k.state = .up ∧ c.frm.valid then c.txWindow l c.frm.tick else none with
  | none => c
  | some e =>
    let live := k.dataQ.filter (fun p => c.maySend p || p.circuit != e.circuit)
    let go := fitting (c.txRoom l e) (live.filter (fun p => p.circuit == e.circuit))
    if go.isEmpty then c
    else
      let c1 := c.modLink l (fun q => { q with dataQ := go.foldl List.erase live })
      (go.foldl Chip.countOut c1).sendPackets l e (go.map c.stamped)

/-- A packet of a circuit is queued at the link of its origin or target, and leaves in the windows of the circuit (R21, R172,
R179). Nothing is queued in a recovery (R174, R237) but a response, in FREERUN (R170), or on a link that is not UP. -/
def Chip.sendCircuit (c : Chip) (l : LinkId) (p : Packet) : Chip :=
  if (c.flt.rphase != 0 && !p.isResponse) || c.plan.stopped || (c.link l).state != .up then c
  else (c.modLink l (fun k => { k with dataQ := k.dataQ ++ [p] })).sendDue l

/-- Queued packets that meet a test are dropped. -/
def Chip.dropQueued (c : Chip) (test : Packet → Bool) : Chip :=
  allLinks.foldl (fun c l => c.modLink l (fun k => { k with dataQ := k.dataQ.filter (fun p => !test p) })) c

/-! Control codewords in their windows (R172, R196). -/

/-- The control-class window of the present tick. -/
def Frm.window (f : Frm) : Nat := f.frame * 64 + f.tick / 64

/-- The tick lies in a control-class window (R172). -/
def Frm.inWindow (f : Frm) : Bool := f.valid && decide (f.tick % 64 ≤ 7)

/-- Codeword groups that the present control-class window still has on a link. -/
def Chip.ctlGroups (c : Chip) (l : LinkId) : Nat :=
  let k := c.link l
  groupsIn 8 - max (if k.ctlWin = some c.frm.window then k.ctlUsed else 0) (groupsBegun (c.frm.tick % 64))

/-- New control groups that may still be sent in the window: 128 codewords at most are unacknowledged (R196). -/
def Chip.newGroups (c : Chip) (l : LinkId) : Nat := min (c.ctlGroups l) ((128 - (c.link l).held.length) / (c.link l).width)

/-- Flits that the present window still takes on a link. -/
def Chip.ctlRoom (c : Chip) (l : LinkId) : Nat := c.newGroups l * (10 * (c.link l).width) - (c.link l).ctlOut.length

/-- Groups of the present window are used. -/
def Chip.useGroups (c : Chip) (l : LinkId) (n : Nat) : Chip :=
  c.modLink l (fun k => { k with
    ctlWin := some c.frm.window, ctlUsed := max (if k.ctlWin = some c.frm.window then k.ctlUsed else 0) (groupsBegun (c.frm.tick % 64)) + n })

/-- One new control group: its codewords are numbered and held until they are acknowledged (R196). -/
def Chip.sendControl1 (c : Chip) (l : LinkId) (flits : List (List Byte)) : Chip :=
  let k := c.link l
  let c1 := c.sendGroup l 2 k.txSeq flits
  c1.modLink l (fun q => { q with
    txSeq := k.txSeq + BitVec.ofNat 8 k.width
    held := q.held ++ (List.range k.width).map (fun j =>
      { cseq := k.txSeq + BitVec.ofNat 8 j, asked := 0, flits := (List.range 10).map (fun i => flits.getD (i * k.width + j) idleFlit) }) })

/-- The queued control flits of a link leave in control groups, as far as the window and R196 allow. -/
def Chip.sendControl (c : Chip) (l : LinkId) : Chip :=
  let k := c.link l
  if k.state != .up || k.resend then c
  else
    let gs := (piecesOf (10 * k.width) k.ctlOut.length k.ctlOut).take (c.newGroups l)
    let c1 := (c.useGroups l gs.length).modLink l (fun q => { q with ctlOut := k.ctlOut.drop (gs.length * (10 * k.width)) })
    gs.foldl (fun c fs => c.sendControl1 l fs) c1

/-- The first `n` held codewords that a resending has still to send, in groups of the link's width: the last group is filled
with its last codeword again. -/
def Link.replayGroups (k : Link) (now n : Nat) : List (List Codeword) :=
  let gs := (piecesOf k.width k.held.length (k.held.drop k.resent)).take n
  (gs.zip (List.range gs.length)).map (fun g =>
    let head := fun (s : Byte) => { k with nakDue := k.nakDue && g.2 == 0 }.header now (k.groupNo now + g.2) 2 s
    (k.txLanes.zip (List.range k.width)).map (fun p =>
      match (g.1[p.2]?).or g.1.getLast? with
      | some h => sentCodeword p.1 (head h.cseq) h.flits
      | none => sentCodeword p.1 (head 0) (List.replicate 10 idleFlit)))

/-- The codewords that a NAK asked for are sent again in control-class windows, from the one after the NAK on and ahead of new
messages, as far as each window has room (R196). -/
def Chip.replay (c : Chip) (l : LinkId) : Chip :=
  let k := c.link l
  if k.state == .up && k.resend && c.frm.inWindow && k.nakWin.all (fun w => decide (w < c.frm.window)) then
    let gs := k.replayGroups c.uptime (c.ctlGroups l)
    let n := min k.held.length (k.resent + gs.length * k.width)
    let c1 := { c with out := c.out ++ gs.map (Out.group l) }
    (c1.useGroups l gs.length).modLink l (fun q => { (if n ≤ k.resent then q else q.raise 2) with
      sentNow := (c.uptime, k.groupNo c.uptime + gs.length), resend := decide (n < k.held.length), resent := if n < k.held.length then n else 0, nakDue := q.nakDue && gs.isEmpty
      cntReplay := satInc q.cntReplay (n - k.resent), loop := if c.looped l then q.loop ++ gs else q.loop })
  else c

end Sys2Proof.Machine
end

