-- ==== Sys2Proof/Machine/Slots.lean ====
section
/-! DEFINITION. Mailbox slots and the completion ring: how a status reaches the host (R270, R281, R286, R292,
R294). -/
namespace Sys2Proof.Machine

/-- OK. -/
def stOk : BitVec 16 := 0
/-- ACCEPTED. -/
def stAccepted : BitVec 16 := 1
/-- BUSY. -/
def stBusy : BitVec 16 := 2
/-- STATE_CONFLICT. -/
def stConflict : BitVec 16 := 3
/-- LENGTH_RANGE. -/
def stRange : BitVec 16 := 4
/-- NOT_SUPPORTED. -/
def stUnsupported : BitVec 16 := 5
/-- AUTH_FAIL. -/
def stAuth : BitVec 16 := 6
/-- FAULTED. -/
def stFaulted : BitVec 16 := 7
/-- RETRY_AFTER. -/
def stRetry : BitVec 16 := 8

/-- Byte address of a slot in BAR2. -/
def slotBase (s : SlotId) : Nat := 0x1000 * s.val

/-- A ring entry (Table 10-7). -/
def Final.entry (f : Final) (phase : Bool) (now : Dword) : List Byte :=
  [BitVec.ofNat 8 (b2n phase), BitVec.ofNat 8 (16 * (f.cmd.slot.val / 8) + f.cmd.slot.val % 8)]
    ++ leBytes 2 f.cmd.opcode.toNat ++ leBytes 4 f.cmd.tag.toNat ++ leBytes 4 f.cmd.ctag.toNat
    ++ leBytes 2 f.status.toNat ++ [f.cmd.ctx, 0] ++ leBytes 4 f.detail.toNat ++ leBytes 4 f.arg.toNat
    ++ leBytes 8 now.toNat

/-- A DETAIL offset as an offset in a UCI-1 slot: its payload begins at byte 16 and CTX is byte 3. -/
def uci1Offset (d : Nat) : Nat :=
  if 2 ^ 31 ≤ d then d else if 32 ≤ d then d - 16 else if d = 6 then 3 else d

/-- STATUS and RESULT of UCI-1 for a UCI-2 status (Table 10-12). -/
def uci1Status (status : BitVec 16) (detail result : Nat) : Nat × Nat :=
  match status.toNat with
  | 0 => (0, result)
  | 2 => (2, 1)
  | 8 => (2, detail)
  | 3 => (3, detail)
  | 4 => (4, uci1Offset detail)
  | 5 => (5, 0)
  | 6 => (6, 0)
  | _ => (7, detail)

/-- A slot becomes DONE with its status (R281, R292): with NOTIFY and its class enabled, an interrupt. -/
def Chip.slotDone (c : Chip) (cmd : Cmd) (status : BitVec 16) (detail arg : Word) (ctag : Word) (resp : List Byte) : Chip :=
  let b := slotBase cmd.slot
  let st := if cmd.ver1 then
      let r := uci1Status status detail.toNat arg.toNat
      wrBytes (wrBytes (wrBytes c.mbx.store (b + 6) (leBytes 2 r.1)) (b + 12) (leBytes 4 r.2)) (b + 16) (resp.take 4080)
    else
      let resp := resp.take 4064
      wrBytes (wrBytes c.mbx.store (b + 12) (leBytes 2 status.toNat ++ leBytes 2 resp.length ++ leBytes 4 detail.toNat
        ++ leBytes 4 ctag.toNat ++ leBytes 8 c.now.toNat)) (b + 32) resp
  let c1 := { c with mbx := { c.mbx with store := wrByte st b 3 } }
  if cmd.notify && bit c.mbx.ctl.val (cmd.slot.val / 8) then c1.vectorEvent (1 + cmd.slot.val / 8) else c1

/-- The ring is full: the tail is one below the head (R286). -/
def Mbx.ringFull (m : Mbx) : Bool := m.ringTail + 1 == m.ringHead

/-- One entry is written at the tail (R286). -/
def Chip.ringPut (c : Chip) (f : Final) : Chip :=
  let m := c.mbx
  let t := m.ringTail + 1
  let c1 := { c with mbx := { m with
      store := wrBytes m.store (0x20000 + 32 * m.ringTail.toNat) (f.entry m.phase c.now)
      ringTail := t, phase := if t = 0 then !m.phase else m.phase } }
  if bit m.ctl.val 4 then c1.vectorEvent 0 else c1

/-- A completion for the ring is written, or held while the ring is full or earlier ones are held (R286). -/
def Chip.ringPush (c : Chip) (f : Final) : Chip :=
  if !c.img.held.isEmpty || c.mbx.ringFull then
    { c with img := { c.img with held := c.img.held ++ [f] } }.mbxErr 2
  else c.ringPut f

/-- A final status is written, in the slot or in the ring (R270, R286, R292). -/
def Chip.putFinal (c : Chip) (f : Final) : Chip :=
  if f.ring && !f.cmd.ver1 then c.ringPush f else c.slotDone f.cmd f.status f.detail f.arg 0 f.resp

/-- A final status of an S command: written at once where no standby keeps a copy, else after the copy of the
present frame has been sealed (R270). With `boundary` it waits for the boundary after that seal. -/
def Chip.finish (c : Chip) (cmd : Cmd) (ring : Bool) (status : BitVec 16) (detail arg : Word) (resp : List Byte)
    (boundary : Bool := false) : Chip :=
  let f : Final := { cmd := cmd, ring := ring, boundary := boundary, frame := c.frm.frame, status := status
                     detail := detail, arg := arg, resp := resp }
  if c.mbx.synced || boundary then { c with img := { c.img with finals := c.img.finals ++ [f] } } else c.putFinal f

end Sys2Proof.Machine
end

