-- ==== Sys2Proof/Machine/Steps.lean ====
section
/-! DEFINITION. Digest lanes, unit digests and step digests, and the completion of a unit (R242, R243,
R185, R311). -/
namespace Sys2Proof.Machine

/-! Check tables and records. -/

/-- The groups of a context, none with CHECK off. -/
def Chip.groups (c : Chip) (x : CtxId) : List CheckGroup :=
  match (c.ctx x).check with
  | some t => if t.check then t.groups else []
  | none => []

/-- The groups of a context's check table, whatever its check mode: they make the job set (R247). -/
def Chip.allGroups (c : Chip) (x : CtxId) : List CheckGroup := ((c.ctx x).check.map (·.groups)).getD []

/-- The group of a context's check table. -/
def Chip.groupOf (c : Chip) (x : CtxId) (g : BitVec 16) : Option CheckGroup := (c.groups x).find? (fun q => q.group == g)

/-- The other packages of a mask. -/
def Chip.others (c : Chip) (mask : BitVec 48) : List Nat := (onesOf 48 mask.toNat).filter (fun p => p != c.pkgNo)

/-- The other packages of the job set (R247). -/
def Chip.jobOthers (c : Chip) (x : CtxId) : List Nat :=
  (List.range 48).filter (fun p => p != c.pkgNo && (c.allGroups x).any (fun g => bit g.mask p))

/-- A digest record of 32 bytes (Table 9-4). -/
def recordBytes (group : BitVec 16) (kind : Byte) (member : Nat) (arg : Word) (value : List Byte) : List Byte :=
  padTo (leBytes 2 group.toNat ++ [kind] ++ leBytes 1 member ++ leBytes 4 arg.toNat ++ value) 32

/-- A record of a context waits to be sent (R250); from a recovery until it is resumed a context sends none
(R321). -/
def Chip.queueRecord (c : Chip) (x : CtxId) (dst : Nat) (lfn : BitVec 16) (rollback : Bool) (bytes : List Byte) : Chip :=
  if bit (c.ctx x).held 4 || c.flt.rphase != 0 then c
  else { c with dig := { c.dig with sendQ := c.dig.sendQ ++
      [{ dst := dst, ctx := x, job := (c.ctx x).job, lfn := lfn, rollback := rollback, bytes := bytes }] } }

/-- ROLLBACK records to every other package of the job set, to be sent in frame `at_` (R252). -/
def Chip.sendNotices (c : Chip) (x : CtxId) (lfn restart at_ : BitVec 16) (cause : Nat) (hold : Bool) : Chip :=
  (c.jobOthers x).foldl (fun c p => c.queueRecord x p at_ true
    (recordBytes 0 2 c.pkgNo (BitVec.ofNat 32 (lfn.toNat + 65536 * restart.toNat)) [BitVec.ofNat 8 cause, BitVec.ofNat 8 (b2n hold)])) c

/-! Lanes and digests. -/

/-- A lane opened for a step (R242). -/
def Lane.opened (step job : Word) : Lane :=
  { isOpen := true, step := step, job := job, recs := [], nrec := 0, digest := none }

/-- The lane with one record absorbed; a lane that is not open absorbs nothing. -/
def Lane.absorb (l : Lane) (r : List Byte) : Lane :=
  if l.isOpen then { l with recs := l.recs ++ r, nrec := l.nrec + 1 } else l

/-- The unit digest of a lane: what it yields when its unit completes (R242). -/
def Lane.unitDigest (l : Lane) : List Byte :=
  shake24 (ascii "GL4LANE1" ++ leBytes 4 l.step.toNat ++ leBytes 4 l.job.toNat ++ l.recs
    ++ ascii "GL4LEND1" ++ leBytes 8 l.nrec)

/-- The lane closed by HALT or END. -/
def Lane.close (l : Lane) : Lane :=
  if l.isOpen then { l with isOpen := false, digest := some l.unitDigest } else l

/-- The step digest over the unit digests in unit-list order (R243). -/
def stepDigest (step job : Word) (ds : List (List Byte)) : List Byte :=
  shake24 (ascii "GL4STEP1" ++ leBytes 4 step.toNat ++ leBytes 4 job.toNat ++ leBytes 4 ds.length ++ ds.flatten)

/-- The unit that replaces destination number `d` in a replay frame, by the replay map (R446). -/
def replayUnit (m : List (BitVec 16 × BitVec 16)) (d : Nat) : Option Nat :=
  (m.find? (fun p => p.1.toNat == d)).map (·.2.toNat)

/-- The unit list of a run as the present frame runs it: remapped in a replay (R260, R290). -/
def Chip.runUnits (c : Chip) (x : CtxId) (r : Run) : List (UnitId × Word) :=
  let t := tget [] (c.ctx x).templates r.template.toNat
  let m := ((c.ctx x).check.map (·.replay)).getD []
  t.filterMap (fun e =>
    let d := if r.replayed then (replayUnit m e.unit.toNat).getD e.unit.toNat else e.unit.toNat
    (unitOf d).map (fun u => (u, e.start)))

/-- Lane of a unit. -/
def Chip.unitLane (c : Chip) : UnitId → Lane
  | .core n => (c.core n).lane
  | .engine e => (c.engine e).lane

/-- Moves of the units of a step whose final status is not DONE (Table 11-8). -/
def Chip.notDone (c : Chip) (us : List UnitId) : Nat :=
  us.foldl (fun s u => s + match u with
    | .core n => (c.core n).frec.discarded.length
    | .engine _ => 0) 0

/-- The frame that results submitted now belong to: the present one up to tick 3,583, then the next (R185). -/
def Chip.resultFrame (c : Chip) : BitVec 16 := if c.frm.tick ≤ 3583 then c.frm.lfn else c.frm.nextFrame.lfn

/-- The digest kept for replay of a STEP (R260). -/
def DigCtx.kept (d : DigCtx) (step : Word) : Option (List Byte) := (d.first.find? (fun o => o.step == step)).map (·.digest)

/-- Keep a step digest for replay: that of a first run stays while its step is being restarted (R260). -/
def DigCtx.keep (d : DigCtx) (o : OwnDigest) : DigCtx :=
  if (d.kept o.step).isSome && d.rbRun != 0 then d
  else { d with first := ((o :: d.first.filter (fun q => q.step != o.step)).take 4096) }

/-- The STEP records of a tagged step go to the other members of its group (R248, R250). -/
def Chip.sendStep (c : Chip) (x : CtxId) (o : OwnDigest) : Chip :=
  match (c.groupOf x o.group).filter (fun g => g.kind == 0) with
  | some g => (c.others g.mask).foldl (fun c p => c.queueRecord x p o.lfn false (recordBytes o.group 0 c.pkgNo o.step o.digest)) c
  | none => c

/-- The step of a run has been submitted (R243): its status becomes COMPLETED in the frame it belongs to, and
its digest goes to its group. A step reported STOPPED for poison that it consumed stays so (R318). -/
def Chip.stepCompleted (c : Chip) (x : CtxId) (r : Run) (us : List UnitId) : Chip :=
  let step := r.base + BitVec.ofNat 32 (r.running.getD 0)
  let d := stepDigest step (c.ctx x).job (us.map (fun u => (c.unitLane u).digest.getD []))
  let own : OwnDigest := { template := r.template, lfn := c.resultFrame, group := r.group, step := step, digest := d }
  let nd := min (c.notDone us) 0xFFFF
  ((c.modDig x (fun k => { k with own := k.own ++ [own] }.keep own)).modCtx x (fun k =>
    k.modStatus step (fun s => { s with code := if s.code = 6 then 6 else 2, lfn := own.lfn, notDone := BitVec.ofNat 16 nd }))).sendStep x own

/-- The units of the template of a run, as its first run used them. -/
def Chip.firstUnits (c : Chip) (x : CtxId) (r : Run) : List UnitId :=
  (tget [] (c.ctx x).templates r.template.toNat).filterMap (fun e => unitOf e.unit.toNat)

/-- Units are reported as suspects (R260). -/
def Flt.reportUnits (f : Flt) (us : List UnitId) : Flt := { f with unitSuspects := us.foldl (fun l u => if l.contains u then l else l ++ [u]) f.unitSuspects }

/-- A replayed step has completed: its digest is compared with the one kept of the first run (R260): where they differ the
units of both placements are reported as suspects. A replay that UCI-1 asked for gets its status (R261, R293). -/
def Chip.replayCompleted (c : Chip) (x : CtxId) (r : Run) (us : List UnitId) : Chip :=
  let step := r.base + BitVec.ofNat 32 (r.running.getD 0)
  let d := stepDigest step (c.ctx x).job (us.map (fun u => (c.unitLane u).digest.getD []))
  let same := (c.digCtx x).kept step == some d
  let c1 := if same then c else { c.digErr 7 with flt := c.flt.reportUnits (c.firstUnits x r ++ us) }
  let c2 := c1.modCtx x (fun k => k.modStatus step (fun s => { s with flags := s.flags ||| 2 }))
  if (c.ctx x).replay = some r then
    (c2.modCtx x (fun k => { k with replay := none })).finish r.cmd true (if same then stOk else stFaulted) 0 0 []
  else c2

/-- Whether a unit has completed the program of the step it runs. -/
def Chip.unitDone (c : Chip) (u : UnitId) : Bool := c.unitState u == .halted

/-- The run of a context whose step in progress is `st`. -/
def Ctx.runOf (x : Ctx) (st : Word) : Option Run :=
  (x.replay.toList ++ x.runs).find? (fun r => match r.running with
    | some i => r.base + BitVec.ofNat 32 i == st
    | none => false)

/-- A unit reports completion to the active Ibex: a step all of whose units have completed is submitted. -/
def Chip.unitCompleted (c : Chip) (u : UnitId) : Chip :=
  match c.unitCtx u, c.unitStep u with
  | some x, some st =>
    match (c.ctx x).runOf st with
    | some r =>
      let us := (c.runUnits x r).map (·.1)
      if us.all c.unitDone then (if r.replayed then c.replayCompleted x r us else c.stepCompleted x r us) else c
    | none => c
  | _, _ => c

end Sys2Proof.Machine
end

