-- ==== Sys2Proof/Machine/CoreCtrl.lean ====
section
/-! DEFINITION. CTRL instructions of a lattice core (R67, R83, R84). -/
namespace Sys2Proof.Machine

/-- The reserved bits [37:32] of a CTRL instruction are zero (R66). -/
def ctrlOk (w : BitVec 54) : Bool := bits w 37 32 == 0

/-- A CTRL instruction: ILLEGAL_OP unless its reserved bits are zero. -/
def coreCtrl (w : BitVec 54) (f : Core → CoreOut) (k : Core) : CoreOut :=
  if ctrlOk w then f k else .fail k 0

/-- The immediate of a CTRL or SYNC instruction. -/
def immOf (w : BitVec 54) : Word := BitVec.ofNat 32 (bits w 31 0)

/-- NOP. -/
def execNop (n : CoreId) (w : BitVec 54) (s : State) : Answer :=
  s.lift (fun c => c.coreStep n (.nop n w) (coreCtrl w .ok))

/-- What HALT does to its core: the lane closes and the core becomes HALTED with completion reported. -/
def coreHalt (k : Core) : CoreOut :=
  { core := { k with state := .halted, lane := k.lane.close, frec := { k.frec with completed := true } }, hold := true }

/-- HALT ends the program (R67, R242); completion is reported to the active Ibex. -/
def execHalt (n : CoreId) (w : BitVec 54) (s : State) : Answer :=
  s.lift (fun c =>
    let c1 := c.coreStep n (.halt n w) (coreCtrl w coreHalt)
    if (c.core n).carries n (.halt n w) && decide ((c1.core n).state = .halted) then c1.unitCompleted (.core n) else c1)

/-- SETA. -/
def execSeta (n : CoreId) (w : BitVec 54) (s : State) : Answer :=
  s.lift (fun c => c.coreStep n (.seta n w) (coreCtrl w (fun k => .ok (k.setA (bits w 53 50) (immOf w)))))

/-- ADDA, modulo 2^32. -/
def execAdda (n : CoreId) (w : BitVec 54) (s : State) : Answer :=
  s.lift (fun c => c.coreStep n (.adda n w) (coreCtrl w (fun k =>
    .ok (k.setA (bits w 53 50) (k.areg (bits w 53 50) + immOf w)))))

/-- What LOOP does (R84): a level is pushed, or its body skipped when the count is zero; the checks are
made whatever the count is. -/
def coreLoop (w : BitVec 54) (k : Core) : CoreOut :=
  let len := bits w 49 38
  let count := k.areg (bits w 53 50)
  let last := k.pc + BitVec.ofNat 20 (8 * len)
  let beyond : Bool := match k.loops with
    | l :: _ => decide (l.last.toNat < k.pc.toNat + 8 * len)
    | [] => false
  if len = 0 ∨ 4 ≤ k.loops.length ∨ beyond then .fail k 0
  else if count = 0 then
    { core := k.passFrom last, hold := true }
  else { core := { k with loops := { first := k.pc + 8, last := last, count := count } :: k.loops }, jump := some (k.pc + 8) }

/-- LOOP. -/
def execLoop (n : CoreId) (w : BitVec 54) (s : State) : Answer :=
  s.lift (fun c => c.coreStep n (.loop n w) (coreCtrl w (coreLoop w)))

/-- Target of a branch: 8 x OFF from the branch, the program counter being 20 bits wide. -/
def branchTarget (w : BitVec 54) (k : Core) : BitVec 20 := k.pc + BitVec.ofInt 20 (8 * sgn 24 (bits w 23 0))

/-- A branch inside a loop body must stay in the body, taken or not (R84). -/
def coreBranch (w : BitVec 54) (taken : Core → Bool) (k : Core) : CoreOut :=
  let t := branchTarget w k
  let outside : Bool := match k.loops with
    | l :: _ => decide (t.toNat < l.first.toNat) || decide (l.last.toNat < t.toNat)
    | [] => false
  if outside then .fail k 0
  else if taken k then { core := k, jump := some t }
  else .ok k

/-- BR. -/
def execBr (n : CoreId) (w : BitVec 54) (s : State) : Answer :=
  s.lift (fun c => c.coreStep n (.br n w) (coreCtrl w (coreBranch w (fun _ => true))))

/-- BNZ: taken when a[A] is not zero. -/
def execBnz (n : CoreId) (w : BitVec 54) (s : State) : Answer :=
  s.lift (fun c => c.coreStep n (.bnz n w) (coreCtrl w (coreBranch w (fun k => k.areg (bits w 53 50) != 0))))

/-- IFENCE: later fetches see all earlier stores (R83). -/
def execIfence (n : CoreId) (w : BitVec 54) (s : State) : Answer :=
  s.lift (fun c => c.coreStep n (.ifence n w) (coreCtrl w (fun k => .ok { k with stale := [] })))

end Sys2Proof.Machine
end

