-- ==== Sys2Proof/Machine/CoreSync.lean ====
section
/-! DEFINITION. SYNC and TICK instructions of a lattice core, waits and wake-up (R90-R93, R95, R380, R381). -/
namespace Sys2Proof.Machine

/-- The value of a SYNC instruction: a[A] when USEA is set, else IMM. -/
def syncValue (w : BitVec 54) (k : Core) : Word := if bit w 41 then k.areg (bits w 45 42) else immOf w

/-- Reserved bits of a SYNC instruction on a counter: [32], and TO but for WAIT. -/
def syncLegal (wait : Bool) (w : BitVec 54) : Bool := !bit w 32 && (wait || bits w 40 33 == 0)

/-- A SYNC instruction on a counter. -/
def coreSync (wait : Bool) (w : BitVec 54) (f : Nat → Word → Core → CoreOut) (k : Core) : CoreOut :=
  if syncLegal wait w then f (bits w 53 46) (syncValue w k) k else .fail k 0

/-- SETC. -/
def execSetc (n : CoreId) (w : BitVec 54) (s : State) : Answer :=
  s.lift (fun c => c.coreStep n (.setc n w) (coreSync false w (fun i v k => .ok (k.setCounter i v))))

/-- ADDC in a core: saturates with SYNC_OVF (R90). -/
def coreAddc (i : Nat) (v : Word) (k : Core) : CoreOut :=
  let r := counterAdd (k.counter i) v.toNat
  { core := k.setCounter i r.1, stop := if r.2 then some 6 else none }

/-- ADDC. -/
def execAddc (n : CoreId) (w : BitVec 54) (s : State) : Answer :=
  s.lift (fun c => c.coreStep n (.addc n w) (coreSync false w coreAddc))

/-- SUBC in a core: SYNC_UNDER where the value exceeds the counter, which then stays (R90). -/
def coreSubc (i : Nat) (v : Word) (k : Core) : CoreOut :=
  if (k.counter i).toNat < v.toNat then .fail k 7 else .ok (k.setCounter i (k.counter i - v))

/-- SUBC. -/
def execSubc (n : CoreId) (w : BitVec 54) (s : State) : Answer :=
  s.lift (fun c => c.coreStep n (.subc n w) (coreSync false w coreSubc))

/-- SYNC.WAIT in a core (R92): continues when the counter has the value, else waits. -/
def coreWait (now : Nat) (w : BitVec 54) (i : Nat) (v : Word) (k : Core) : CoreOut :=
  let upTo := bits w 40 33
  if v.toNat ≤ (k.counter i).toNat then .ok k
  else { core := { k.waitFrom now with
                     state := .waitSync
                     wait := .sync (BitVec.ofNat 8 i) v (if upTo = 0 then none else some upTo) }, hold := true }

/-- SYNC.WAIT. -/
def execSyncWait (n : CoreId) (w : BitVec 54) (s : State) : Answer :=
  s.lift (fun c => c.coreStep n (.syncWait n w) (coreSync true w (coreWait c.uptime w)))

/-- The wait of core `n` ends (R95, R380, R381): an idle core asks for its wake token, another continues at
once. Ballast stops. Tick waits end together with the tick, in the cycle with which the tick period begins, other waits one
after the other (log 113). -/
def Chip.wakeCore (c : Chip) (n : CoreId) (k : Core) : Chip :=
  let ticks : Bool := match k.wait with
    | .tick _ => true
    | .next _ => true
    | _ => false
  let k1 := { k.pass with state := .run, wait := .none, ballast := false, slack := { k.slack with ticks := k.waitedBy c.uptime } }
  if k.clock.off then
    { c.setCore n { k1 with wakeHold := true, wakeNo := if ticks then 0 else c.pwr.wakeSeq + 1, wakeAt := c.uptime } with
      pwr := { c.pwr with wakeSeq := c.pwr.wakeSeq + 1 } }
  else c.setCore n k1

/-- A pending SYNC wait of core `n` is satisfied (R92). -/
def syncWaitResumeEffect (n : CoreId) (c : Chip) : Chip :=
  let k := c.core n
  match k.wait with
  | .sync i v _ => if v.toNat ≤ (k.counter i.toNat).toNat then c.wakeCore n k else c
  | _ => c

/-- SYNC_WAIT_RESUME. -/
def execSyncWaitResume (n : CoreId) (s : State) : Answer := s.lift (syncWaitResumeEffect n)

/-- What an ARRIVE names (Table 3-5). -/
structure ArriveOp where
  ctr : Byte
  dcore : BitVec 12
  dpkg : Nat
  val : Byte

/-- The fields of an ARRIVE. -/
def arriveOp (w : BitVec 54) : ArriveOp :=
  { ctr := BitVec.ofNat 8 (bits w 53 46), dcore := BitVec.ofNat 12 (bits w 45 34), dpkg := bits w 33 28
    val := BitVec.ofNat 8 (bits w 27 20) }

/-- Whether a destination number can be named in the own package (R96, R111): no number between 2,448 and
2,559, no spare site, nothing fused off. -/
def Chip.ownNumber (c : Chip) (d : Nat) : Bool :=
  match unitOf d with
  | some (.core n) => c.fuse.coreNumber n.val
  | some (.engine e) => c.fuse.engineNumber e.val
  | none => false

/-- The own package is named by 63 or by its number (Table 3-5). -/
def Chip.isOwn (c : Chip) (dpkg : Nat) : Bool := dpkg == 63 || dpkg == c.pkgNo

/-- Whether an ARRIVE or a signal to `dpkg` is legal (R92, R96, R111). -/
def Chip.arriveLegal (c : Chip) (dpkg : Nat) (dcore : BitVec 12) : Bool :=
  !(decide (48 ≤ dpkg) && decide (dpkg ≤ 62)) && (unitOf dcore.toNat).isSome
    && (!c.isOwn dpkg || c.ownNumber dcore.toNat)

/-- An arrival without data is sent (R92): inside the package, or as a message to another. -/
def Chip.sendArrival (c : Chip) (dpkg : Nat) (dcore : BitVec 12) (ctr val : Byte) (ctx : Option CtxId)
    (gen : BitVec 16) (score : BitVec 16) : Chip :=
  if c.isOwn dpkg then
    { c with rte := { c.rte with arrivals := c.rte.arrivals ++
        [{ dcore := dcore, ctr := ctr, amount := val.setWidth 32, ctx := ctx.getD 0, gen := gen }] } }
  else c.sendArrive dpkg dcore ctr val ctx gen score

/-- Whether an ARRIVE is legal with its own fields. -/
def Chip.arriveOk (c : Chip) (w : BitVec 54) : Bool :=
  let o := arriveOp w
  bits w 19 0 == 0 && o.val != 0 && c.arriveLegal o.dpkg o.dcore

/-- The destination number is a spare site of another package, which raises MOVE_ADDR (R96). -/
def Chip.spareAbroad (c : Chip) (dpkg : Nat) (dcore : BitVec 12) : Bool :=
  !c.isOwn dpkg && decide (dcore.toNat < 2448) && isSpareSite dcore.toNat

/-- What ARRIVE does to its core: nothing, ILLEGAL_OP, or MOVE_ADDR for a spare site of another package (R92, R96). -/
def Chip.coreArrive (c : Chip) (w : BitVec 54) (k : Core) : CoreOut :=
  let o := arriveOp w
  if !c.arriveOk w then .fail k 0 else if c.spareAbroad o.dpkg o.dcore then .fail k 4 else .ok k

/-- ARRIVE (R92): a full origin queue stalls issue (R227). -/
def arriveEffect (n : CoreId) (w : BitVec 54) (c : Chip) : Chip :=
  let o := arriveOp w
  let k := c.core n
  if c.arriveOk w && !c.isOwn o.dpkg && !c.spareAbroad o.dpkg o.dcore && c.originFull then c
  else
    let c1 := c.coreStep n (.arrive n w) (c.coreArrive w)
    if k.carries n (.arrive n w) && (c1.core n).state == .run then
      c1.sendArrival o.dpkg o.dcore o.ctr o.val k.ctx k.gen (BitVec.ofNat 16 n.val)
    else c1

/-- ARRIVE. -/
def execArrive (n : CoreId) (w : BitVec 54) (s : State) : Answer := s.lift (arriveEffect n w)

/-- RDC: a[A] := ctr[C]. -/
def execRdc (n : CoreId) (w : BitVec 54) (s : State) : Answer :=
  s.lift (fun c => c.coreStep n (.rdc n w) (coreSync false w (fun i _ k => .ok (k.setA (bits w 45 42) (k.counter i)))))

/-- Reserved bits [49:12] of a TICK instruction are zero. -/
def tickLegal (w : BitVec 54) : Bool := bits w 49 12 == 0

/-- The tick T of a TICK instruction. -/
def tickOf (w : BitVec 54) : BitVec 12 := BitVec.ofNat 12 (bits w 11 0)

/-- TICK.WAIT in a core (R93): late once its tick has been passed; a skipped tick is reached with the one that follows it
(R183). -/
def coreTickWait (f : Frm) (now : Nat) (w : BitVec 54) (k : Core) : CoreOut :=
  if !tickLegal w then .fail k 0
  else if f.passed (tickOf w).toNat then .ok (k.raiseTickLate (f.tick - (tickOf w).toNat))
  else if (tickOf w).toNat ≤ f.tick then .ok k
  else { core := { k.waitFrom now with state := .waitTick, wait := .tick (tickOf w) }, hold := true }

/-- TICK.WAIT. -/
def execTickWait (n : CoreId) (w : BitVec 54) (s : State) : Answer :=
  s.lift (fun c => c.coreStep n (.tickWait n w) (coreTickWait c.frm c.uptime w))

/-- TICK.NEXT in a core (R93): waits for the next frame boundary first. -/
def coreTickNext (now : Nat) (w : BitVec 54) (k : Core) : CoreOut :=
  if !tickLegal w then .fail k 0
  else { core := { k.waitFrom now with state := .waitTick, wait := .next (tickOf w) }, hold := true }

/-- TICK.NEXT. -/
def execTickNext (n : CoreId) (w : BitVec 54) (s : State) : Answer :=
  s.lift (fun c => c.coreStep n (.tickNext n w) (coreTickNext c.uptime w))

/-- TICK.RD in a core: frame number bits [19:0] and tick (Table 3-4). -/
def coreTickRd (frame tick : Nat) (w : BitVec 54) (k : Core) : CoreOut :=
  if !tickLegal w then .fail k 0
  else .ok (k.setA (bits w 53 50) (BitVec.ofNat 32 (frame % 2 ^ 20 * 4096 + tick)))

/-- TICK.RD. -/
def execTickRd (n : CoreId) (w : BitVec 54) (s : State) : Answer :=
  s.lift (fun c => c.coreStep n (.tickRd n w) (coreTickRd c.frm.frame c.frm.tick w))

/-- MOVE.F in a core: waits until every queued move has started (R67). -/
def coreMoveF (w : BitVec 54) (k : Core) : CoreOut :=
  if bits w 53 0 ≠ 0 then .fail k 0
  else if k.mq.isEmpty then .ok k
  else { core := { k with wait := .fence }, hold := true }

/-- MOVE.F. -/
def execMoveF (n : CoreId) (w : BitVec 54) (s : State) : Answer := s.lift (fun c => c.coreStep n (.moveF n w) (coreMoveF w))

/-- Every queued move has started and read its source: issue resumes after MOVE.F. -/
def moveFResumeEffect (n : CoreId) (c : Chip) : Chip :=
  let k := c.core n
  if k.wait = .fence ∧ k.mq.isEmpty then c.setCore n { k.pass with wait := .none } else c

/-- MOVE_F_RESUME. -/
def execMoveFResume (n : CoreId) (s : State) : Answer := s.lift (moveFResumeEffect n)

/-- Core `a` gets its wake token no later than core `b`: its wait ended earlier, or in the same cycle (R381). -/
def Chip.wakesFirst (c : Chip) (a b : CoreId) : Bool :=
  decide ((c.core a).wakeAt < (c.core b).wakeAt)
    || (decide ((c.core a).wakeAt = (c.core b).wakeAt) && decide ((c.core a).wakeNo ≤ (c.core b).wakeNo))

/-- Wake tokens that a die has granted in the present tick period. -/
def Chip.tokensUsed (c : Chip) (die : Fin 2) : Nat :=
  let w := tget (0, 0) c.pwr.wokeAt die.val
  if w.1 = c.uptime + 1 then w.2 else 0

/-- The cores of a die that are granted a wake token now: those that hold for one, in the order in which their waits ended and
the lower number first where they ended in one cycle, as many as the tick period still has tokens (R381). -/
def Chip.wakeWinners (c : Chip) (die : Fin 2) : List CoreId :=
  let held := allCores.filter (fun n => decide (coreDie n.val = die.val) && (c.core n).wakeHold)
  (held.mergeSort c.wakesFirst).take (4 - c.tokensUsed die)

/-- A die grants wake tokens, at most 4 in a tick period (R381); a token granted in a later tick period than it was asked for
in counts in PWR_CNT_WAKE. -/
def wakeTokenEffect (die : Fin 2) (c : Chip) : Chip :=
  let won := c.wakeWinners die
  let c1 := won.foldl (fun c n => c.modCore n (fun k =>
    { k with wakeHold := false, clock := { k.clock with off := false } })) c
  { c1 with pwr := { c1.pwr with
      wokeAt := if won.isEmpty then c1.pwr.wokeAt
        else tset (0, 0) c1.pwr.wokeAt die.val (c.uptime + 1, c.tokensUsed die + won.length)
      cntWake := satInc c1.pwr.cntWake (won.countP (fun n => decide ((c.core n).wakeAt < c.uptime))) } }

/-- WAKE_TOKEN_GRANT. -/
def execWakeTokenGrant (die : Fin 2) (s : State) : Answer := s.lift (wakeTokenEffect die)

/-- A core in a SYNC or TICK wait without ballast for 256 cycles stops its array clocks (R380). -/
def coreIdleEffect (n : CoreId) (c : Chip) : Chip :=
  let k := c.core n
  if (k.state = .waitSync ∨ k.state = .waitTick) ∧ ¬ k.ballast then
    c.setCore n { k with clock := { k.clock with off := true } }
  else c

/-- CORE_IDLE. -/
def execCoreIdle (n : CoreId) (s : State) : Answer := s.lift (coreIdleEffect n)

end Sys2Proof.Machine
end

