-- ==== Sys2Proof/Machine/Memory.lean ====
section
/-! DEFINITION. The memory stacks: address mapping, ECC and poison tags, the undo log, scrub, band rows and
the BAR4 window (chapter 5, R257-R259). -/
namespace Sys2Proof.Machine

/-! Address mapping. -/

/-- Lines of a bank column: 48 bands of 524,288 lines. -/
def colLines : Nat := 25165824

/-- The line index of a stack, column and column offset. -/
def lineOf (stack col off : Nat) : Nat := (stack * 64 + col) * colLines + off

/-- Stack of a line. -/
def lineStack (l : Nat) : Nat := l / colLines / 64

/-- Bank column of a line. -/
def lineCol (l : Nat) : Nat := l / colLines % 64

/-- Column offset of a line. -/
def lineOff (l : Nat) : Nat := l % colLines

/-- Number N of enabled stacks (Table 5-2). -/
def Fuse.nStacks (f : Fuse) : Nat := popCount 24 f.stackEn.toNat

/-- The stack order E: enabled stacks alternately from LD0 and LD1 (R132). -/
def Fuse.stackOrder (f : Fuse) : List Nat :=
  (List.range 12).flatMap (fun i => [i, 12 + i].filter f.stackOn)

/-- Entry p of ILV_MAP: E[(p + p div N) mod N] (R137). -/
def Fuse.ilvEntry (f : Fuse) (p : Nat) : Nat := f.stackOrder.getD ((p + p / f.nStacks) % f.nStacks) 0

/-- The bank column view of an interleaved band row (R136). -/
def Fuse.interleave (f : Fuse) (b o : Nat) : Nat :=
  let u := o / 2048
  let g := u / 384
  let p := u % 384
  let j := g * (384 / f.nStacks) + p / f.nStacks
  lineOf (f.ilvEntry p) (j % 64) (524288 * b + j / 64 * 32 + o % 2048 / 64)

/-- The bank column view of a band row in column mode (R138). -/
def Fuse.columnView (f : Fuse) (b o : Nat) : Nat :=
  let k := o / 33554432
  lineOf (f.stackOrder.getD (k / 64) 0) (k % 64) (524288 * b + o % 33554432 / 64)

/-- Bytes of a band row (Table 5-2). -/
def Fuse.rowBytes (f : Fuse) : Nat := f.nStacks * 64 * 33554432

/-- Entry of the band table. -/
def Chip.band (c : Chip) (b : Nat) : Band := tget Band.zero c.mem.bands b

/-- The line of slot offset `o` in band row `b`, by the row's mode. -/
def Chip.slotLine (c : Chip) (b o : Nat) : Nat :=
  if (c.band b).column then c.fuse.columnView b o else c.fuse.interleave b o

/-- The line that a local address names. -/
def Chip.lineAt (c : Chip) (addr : Nat) : Nat := c.slotLine (addr / 2 ^ 36) (addr % 2 ^ 36)

/-- The local address of a line, the inverse of the mapping of its band row. -/
def Chip.localOf (c : Chip) (l : Nat) : Nat :=
  let f := c.fuse
  let n := f.nStacks
  let b := lineOff l / 524288
  let r := lineOff l % 524288
  let e := f.stackOrder.findIdx (· == lineStack l)
  if (c.band b).column then b * 2 ^ 36 + (e * 64 + lineCol l) * 33554432 + r * 64
  else
    let j := r / 32 * 64 + lineCol l
    let per := 384 / n
    let rank := j % per
    let q := (e + n - rank % n) % n
    b * 2 ^ 36 + ((j / per * 384 + rank * n + q) * 2048 + r % 32 * 64)

/-- A band row is the undo log of the context that owns it (R257). -/
def Chip.isUndoRow (c : Chip) (b : Nat) : Bool :=
  (c.band b).valid && c.checkOn (c.band b).owner
    && (((c.ctx (c.band b).owner).check.map (·.undoRow)).getD 48) == b

/-- A range of local addresses lies in one band slot, in range, in a valid row that moves may reach (R133,
R140, R257). -/
def Chip.rangeValid (c : Chip) (addr len : Nat) : Bool :=
  let b := addr / 2 ^ 36
  decide (b < 48) && decide (addr % 2 ^ 36 + len ≤ c.fuse.rowBytes) && (c.band b).valid && !c.isUndoRow b

/-- The same, with the row owned by a context (R140). -/
def Chip.rangeOwned (c : Chip) (x : Option CtxId) (addr len : Nat) : Bool :=
  c.rangeValid addr len && x == some (c.band (addr / 2 ^ 36)).owner

/-! Rows of DRAM (R131). -/

/-- Bank index q of a line within its bank column (Table 5-1). -/
def lineBank (l : Nat) : Nat := lineOff l / 32 % 32

/-- DRAM die of a line, 0 at the bottom (Table 5-1). -/
def lineDie (l : Nat) : Nat := lineBank l % 8

/-- Bank of a line within its die and column (Table 5-1). -/
def lineDieBank (l : Nat) : Nat := lineBank l / 8

/-- Row of a line within its bank (Table 5-1). -/
def lineRow (l : Nat) : Nat := lineOff l / 1024

/-- The row of a line within its stack: column, bank, row. -/
def rowKey (l : Nat) : Nat := (lineCol l * 32 + lineBank l) * 24576 + lineRow l

/-- The stack of a line as a stack number. -/
def stackId (n : Nat) : StackId := Fin.ofNat 24 n

/-- A line that the start-up test has retired (R149). -/
def Chip.retired (c : Chip) (l : Nat) : Bool := decide (rowKey l ∈ (c.stack (stackId (lineStack l))).retired)

/-- The poison tag of a line. A retired line is always poisoned. -/
def Chip.tag (c : Chip) (l : Nat) : Bool := tget false c.mem.tag l || c.retired l

/-- A row becomes pending (R147). -/
def Stack.addPending (s : Stack) (row : Nat) : Stack :=
  if row ∈ s.pending then s else { s with pending := s.pending ++ [row], err := setBit s.err 3 }

/-- A corrected error of a line (R144, R147). -/
def Stack.corrected (s : Stack) (row : Nat) : Stack :=
  let n := tget 0 s.rowCe row + 1
  let s1 := { s with cntCe := satInc s.cntCe 1, err := setBit s.err 1, rowCe := tset 0 s.rowCe row n }
  if 16 ≤ n then s1.addPending row else s1

/-- An entry of the poison log (Table 5-7): a full ring overwrites its oldest entry with PLOG_OVF. -/
def Stack.logPoison (s : Stack) (time : Dword) (addr : BitVec 42) : Stack :=
  let i := s.plogNext.toNat
  { s with
    plog := tset (0, 0) s.plog i (time, addr), plogNext := s.plogNext + 1
    plogWritten := tset false s.plogWritten i true
    err := setBitIf (tget false s.plogWritten i) s.err 5 }

/-- The bytes of a line. -/
def Chip.lineBytes (c : Chip) (l : Nat) : List Byte := rdBytes c.mem.dram (64 * l) 64

/-- The package with the 64 bytes and the tag of a line replaced. -/
def Chip.putLine (c : Chip) (l : Nat) (bs : List Byte) (poison : Bool) : Chip :=
  { c with mem := { c.mem with
      dram := wrBytes c.mem.dram (64 * l) (padTo bs 64)
      tag := tset false c.mem.tag l (poison || c.retired l) } }

/-- 64 free bytes: what a line with more errors than its code corrects reads as (R142, R143). -/
def Chip.freeLine (c : Chip) : List Byte × Chip :=
  ((List.range 64).map (fun i => Config.freeByte (c.freeCount + i)), { c with freeCount := c.freeCount + 64 })

/-- A memory error is reported to Markhor with its stack, line address, die, bank and row (R144). -/
def Chip.reportLine (c : Chip) (l : Nat) : Chip :=
  let r : MemReport :=
    { time := c.now, stack := stackId (lineStack l), addr := BitVec.ofNat 42 (c.localOf l), column := lineCol l
      die := lineDie l, bank := lineDieBank l, row := lineRow l }
  { c with mem := { c.mem with report := some r } }

/-- An uncorrectable line is found (R143, R144): written back poisoned, counted, logged, its row pending, and
reported to Markhor. A reader that does not consume it causes UE_FOUND (Table 12-1). -/
def Chip.uncorrectable (c : Chip) (l : Nat) (consumed : Bool) : Chip :=
  let fl := c.freeLine
  let s := stackId (lineStack l)
  let addr := c.localOf l
  let c1 := ((fl.2.reportLine l).putLine l fl.1 true).modStack s (fun k =>
    (({ k with cntUe := satInc k.cntUe 1, err := setBit k.err 2 }).addPending (rowKey l)).logPoison c.now (BitVec.ofNat 42 addr))
  if consumed then c1
  else (c1.fltErr 8).event { code := 2, severity := 0, arg := s.val, addr := addr / 1024 }

/-- A line passes the decoder with `n` symbols in error (R142, R143): up to 2 are corrected, 3 to 6 found
uncorrectable, and 7 or more either found or miscorrected, which of the two being free. The bytes of a line miscorrected on any read are
written back, as a correction is (log 37). -/
def Chip.decodeLine (c : Chip) (l n : Nat) (consumed : Bool) : Chip :=
  let s := stackId (lineStack l)
  if n = 0 then c
  else if n ≤ 2 then c.modStack s (fun k => k.corrected (rowKey l))
  else if n ≤ 6 then c.uncorrectable l consumed
  else
    let b := c.freeBit
    if b.1 then b.2.uncorrectable l consumed
    else
      let fl := b.2.freeLine
      (fl.2.putLine l fl.1 (c.tag l)).modStack s (fun k => k.corrected (rowKey l))

/-- Symbols in error of a line as a reader meets it. -/
def errsOf (ups : Upsets) (l : Nat) : Nat := tget 0 (ups.mergeSort (fun a b => decide (a.1 ≤ b.1))) l

/-- A reader reads a line: what it returns and the package after it. -/
def Chip.readLine (c : Chip) (l : Nat) (ups : Upsets) (consumed : Bool) : Granule × Chip :=
  let c1 := c.decodeLine l (errsOf ups l) consumed
  ({ data := c1.lineBytes l, poison := c1.tag l }, c1)

/-! The undo log (R257-R259). -/

/-- Log entries of the present frame in a stack. -/
def Chip.undoCount (c : Chip) (x : CtxId) (s : Nat) : Nat :=
  c.mem.undo.countP (fun u => u.ctx == x && u.lfn == c.frm.lfn && lineStack u.line == s)

/-- Log entries of a stack in all frames. -/
def Chip.undoFill (c : Chip) (x : CtxId) (s : Nat) : Nat :=
  c.mem.undo.countP (fun u => u.ctx == x && lineStack u.line == s)

/-- The first write of a frame to a line of a checked context copies the old line into the undo log (R258); a
frame above 1,250,000 lines raises UNDO_OVER, and a full log leaves the write unlogged and fails the frame
(R259). -/
def Chip.logUndo (c : Chip) (x : CtxId) (l : Nat) : Chip :=
  if !c.checkOn x then c
  else if c.mem.undo.any (fun u => u.ctx == x && u.lfn == c.frm.lfn && u.line == l) then c
  else if 16777216 ≤ c.undoFill x (lineStack l) then c.faultHold x
  else
    let e : UndoEntry := { ctx := x, lfn := c.frm.lfn, line := l, old := { data := c.lineBytes l, poison := c.tag l } }
    let c1 := { c with mem := { c.mem with undo := e :: c.mem.undo } }
    if 1250000 < c1.undoCount x (lineStack l) then c1.digErr 4 else c1

/-- A whole line is written by a move, a remote WR or an engine of a context (R145, R258). -/
def Chip.writeLine (c : Chip) (x : Option CtxId) (l : Nat) (bs : List Byte) (poison : Bool) : Chip :=
  let c1 := match x with
    | some i => c.logUndo i l
    | none => c
  c1.putLine l bs poison

/-- A write of part of a line is a read-modify-write of the whole line (R130, R145): the tag stays. -/
def Chip.writePart (c : Chip) (l off : Nat) (bs : List Byte) (ups : Upsets) : Chip :=
  let r := c.readLine l ups false
  r.2.putLine l (overlay r.1.data off bs) r.1.poison

/-! Scrub, band rows. -/

/-- The patrol scrub reads the next line of a stack, writing back what it corrects (R146). -/
def patrolScrubEffect (s : StackId) (symbols : Nat) (c : Chip) : Chip :=
  let k := c.stack s
  if k.state = .up ∧ k.scrub then
    let line := lineOf s.val 0 0 + k.scrubPos
    let c1 := c.decodeLine line symbols false
    c1.modStack s (fun k =>
      if k.scrubPos + 1 = 64 * colLines then { k with scrubPos := 0, cntScrub := satInc k.cntScrub 1 }
      else { k with scrubPos := k.scrubPos + 1 })
  else c

/-- PATROL_SCRUB. -/
def execPatrolScrub (s : StackId) (symbols : Nat) (st : State) : Answer := st.lift (patrolScrubEffect s symbols)

/-- Whether a byte address of DRAM lies in band row `b` of some column. -/
def inRow (b : Nat) (a : Nat) : Bool := a / 64 % colLines / 524288 == b

/-- Memory with every line of band row `b` zero and its tags cleared; retired lines stay poisoned (R135,
R149). -/
def MemSys.clearRow (m : MemSys) (b : Nat) : MemSys :=
  { m with dram := m.dram.filter (fun p => !inRow b p.1), tag := m.tag.filter (fun p => !(p.1 % colLines / 524288 == b)) }

/-- The tags of retired lines are set again after a clearing: a retired row reads poisoned by its retirement. -/
def Chip.clearRow (c : Chip) (b : Nat) : Chip :=
  { c with mem := { c.mem.clearRow b with bands := tset Band.zero c.mem.bands b Band.zero
                                          waiting := c.mem.waiting.filter (fun w => w.val != b) } }

/-! The BAR4 window (R155-R158). -/

/-- Bytes of the BAR4 window. -/
def Pkg.bar4Bytes (p : Pkg) : Nat := 2 ^ (30 + p.bar4Size.val)

/-- A refused BAR4 access is counted (R157). -/
def Chip.bar4Refuse (c : Chip) : Chip := { c with mem := { c.mem with cntRefused := satInc c.mem.cntRefused 1 } }

/-- Whether a BAR4 access to `n` bytes at `x` is carried out (R156, R157). -/
def Chip.bar4Ok (c : Chip) (x n : Nat) : Bool := !c.mem.woff && c.rangeValid (c.mem.wBase.toNat + x) n

/-- The lines a range of local addresses touches, as (first byte of the line, line). -/
def Chip.linesOf (c : Chip) (addr n : Nat) : List (Nat × Nat) := (spans 64 addr n).map (fun g => (64 * g, c.lineAt (64 * g)))

/-- A host read through BAR4 (R27, R157): data, 0xFF where refused, poisoned where a line is. -/
def bar4ReadEffect (x : BitVec 36) (n : Nat) (ups : Upsets) (c : Chip) : Chip :=
  if c.pkg.bar4Bytes < x.toNat + n then c.unsupported
  else if c.flt.rphase != 0 then c.emit (.bar4Data (List.replicate n 0xFF) false)
  else if !c.bar4Ok x.toNat n then c.bar4Refuse.emit (.bar4Data (List.replicate n 0xFF) false)
  else
    let addr := c.mem.wBase.toNat + x.toNat
    let r := (c.linesOf addr n).foldl (fun (s : List Byte × Bool × Chip) p =>
      let g := s.2.2.readLine p.2 ups false
      (s.1 ++ g.1.data, s.2.1 || g.1.poison, g.2)) ([], false, c)
    r.2.2.emit (.bar4Data (slice r.1 (addr % 64) n) r.2.1)

/-- BAR4_READ. -/
def execBar4Read (x : BitVec 36) (n : Nat) (ups : Upsets) (s : State) : Answer :=
  s.lift (fun c => c.host (bar4ReadEffect x n ups))

/-- One line of a BAR4 write: whole lines are replaced, others changed in part (R145). BAR4 writes are not
logged (R258). -/
def Chip.bar4Line (c : Chip) (addr : Nat) (data : List Byte) (ups : Upsets) (first line : Nat) : Chip :=
  let lo := max addr first
  let hi := min (addr + data.length) (first + 64)
  let bs := slice data (lo - addr) (hi - lo)
  if hi - lo = 64 then c.putLine line bs false else c.writePart line (lo - first) bs ups

/-- A host write through BAR4 (R27, R157). -/
def bar4WriteEffect (x : BitVec 36) (data : List Byte) (ups : Upsets) (c : Chip) : Chip :=
  if c.pkg.bar4Bytes < x.toNat + data.length then c.unsupported
  else if c.flt.rphase != 0 then c
  else if !c.bar4Ok x.toNat data.length then c.bar4Refuse
  else
    let addr := c.mem.wBase.toNat + x.toNat
    (c.linesOf addr data.length).foldl (fun c p => c.bar4Line addr data ups p.1 p.2) c

/-- BAR4_WRITE. -/
def execBar4Write (x : BitVec 36) (data : List Byte) (ups : Upsets) (s : State) : Answer :=
  s.lift (fun c => c.host (bar4WriteEffect x data ups))

/-- The window size becomes `size`: the window goes off where its base is not a multiple of it (R156). -/
def Chip.setBar4Size (c : Chip) (size : Fin 7) : Chip :=
  { c with
    pkg := { c.pkg with bar4Size := size }
    mem := { c.mem with woff := c.mem.woff || decide (c.mem.wBase.toNat % 2 ^ (30 + size.val) ≠ 0) } }

/-- BAR4_RESIZE: a configuration write, which an endpoint that is not enabled does not answer (R396). -/
def execBar4Resize (size : Fin 7) (s : State) : Answer := s.lift (fun c => if c.pkg.pcieUp then c.setBar4Size size else c)

end Sys2Proof.Machine
end

