-- ==== Sys2Proof/Machine/Mover.lean ====
section
/-! DEFINITION. The mover of a lattice core (R85-R89), arrivals at a core (R90, R91). -/
namespace Sys2Proof.Machine

/-! Descriptors (Table 3-9). -/

/-- KIND. -/
def MoveDesc.kind (d : MoveDesc) : Nat := bits d.w0 63 60

/-- LEN in granules. -/
def MoveDesc.len (d : MoveDesc) : Nat := bits d.w0 45 30

/-- DCTR. -/
def MoveDesc.dctr (d : MoveDesc) : Nat := bits d.w0 29 22

/-- LCE. -/
def MoveDesc.lce (d : MoveDesc) : Bool := bit d.w0 21

/-- LCTR. -/
def MoveDesc.lctr (d : MoveDesc) : Nat := bits d.w0 20 13

/-- LADDR. -/
def MoveDesc.laddr (d : MoveDesc) : Nat := bits d.w1 19 0

/-- MADDR of an LD or ST. -/
def MoveDesc.maddr (d : MoveDesc) : Nat := bits d.w2 43 0

/-- DCORE of a CP or SEND. -/
def MoveDesc.dcore (d : MoveDesc) : Nat := bits d.w2 51 40

/-- DADDR of a CP or SEND. -/
def MoveDesc.daddr (d : MoveDesc) : Nat := bits d.w2 35 16

/-- CIRCUIT of a SEND. -/
def MoveDesc.circuit (d : MoveDesc) : Nat := bits d.w2 15 0

/-- A descriptor breaks no rule of R86: KIND defined, reserved and unused fields zero. -/
def MoveDesc.legal (d : MoveDesc) : Bool :=
  decide (d.kind ≤ 3) && bits d.w0 12 0 == 0 && bits d.w1 63 20 == 0 && bits d.w3 63 0 == 0
    && (if d.kind ≤ 1 then bits d.w2 63 44 == 0
        else bits d.w2 63 52 == 0 && bits d.w2 39 36 == 0 && (d.kind == 3 || d.circuit == 0))

/-- The local side is in bounds (R87); a move of no granules has an empty range. -/
def MoveDesc.localOk (d : MoveDesc) : Bool :=
  d.laddr % 64 == 0 && (d.len == 0 || inCtxArea d.laddr (64 * d.len))

/-- The 32-byte descriptor at an SRAM address. -/
def Core.descAt (k : Core) (a : Nat) : MoveDesc :=
  let w := fun i => BitVec.ofNat 64 (unle (k.bytes (a + 8 * i) 8))
  { w0 := w 0, w1 := w 1, w2 := w 2, w3 := w 3 }

/-- MOVE.Q in a core (R85-R87), taken in frame `frame`. Two points are the model's choice (log 112): the descriptor is read at any byte
address, since Table 3-5 asks a multiple of 32 of OFF alone, and the bytes of a poisoned granule are taken as they are, since R63 lists
no effect of such a read. -/
def coreMoveQ (frame : Nat) (w : BitVec 54) (k : Core) : CoreOut :=
  let a := (k.areg (bits w 53 50)).toNat + bits w 19 0
  if bits w 49 20 ≠ 0 ∨ bits w 19 0 % 32 ≠ 0 then .fail k 0
  else if !inCtxArea a 32 then .fail k 2
  else
    let k1 := k.touch a 32
    let d := k1.descAt a
    if !d.legal then .fail k1 0
    else if !d.localOk then .fail k1 3
    else .ok { k1 with mq := k1.mq ++ [{ desc := d, frame := frame }] }

/-- MOVE.Q: a full mover queue stalls issue (R85). -/
def moveQEffect (n : CoreId) (w : BitVec 54) (c : Chip) : Chip :=
  if 64 ≤ (c.core n).mq.length then c else c.coreStep n (.moveQ n w) (coreMoveQ c.frm.frame w)

/-- MOVE_Q. -/
def execMoveQ (n : CoreId) (w : BitVec 54) (s : State) : Answer := s.lift (moveQEffect n w)

/-! Arrivals at a core. -/

/-- An addition to an arrival counter of core `n` (R90): passing 0xFFFF_FFFF stops it with SYNC_OVF. -/
def Chip.coreCount (c : Chip) (n : CoreId) (i v : Nat) : Chip :=
  let k := c.core n
  let r := counterAdd (k.counter i) v
  let c1 := c.setCore n (k.setCounter i r.1)
  if r.2 then c1.coreAsyncStop n 6 else c1

/-- Whether an arrival's context and generation are those of a core (R91). -/
def Core.accepts (k : Core) (ctx : Option CtxId) (gen : BitVec 16) : Bool := decide (k.ctx = ctx ∧ k.gen = gen ∧ ctx.isSome)

/-- A granule is written to SRAM by a mover or by a load, with its poison bit (R88); fetch sees it from then on (log 109). -/
def Core.putGranule (k : Core) (a : Nat) (g : Granule) : Core :=
  let k1 := k.store a (padTo g.data 64)
  { k1 with poison := tset false k1.poison (a / 64) g.poison, stale := tclear k.stale a (a + 64) }

/-- A data granule arrives at core `n` (R88, R91). -/
def Chip.granuleAt (c : Chip) (n : CoreId) (ctx : Option CtxId) (gen : BitVec 16) (a ctr : Nat) (g : Granule) : Chip :=
  let k := c.core n
  if k.accepts ctx gen then (c.setCore n (k.putGranule a g)).coreCount n ctr 1
  else c.setCore n k.raiseStale

/-- An arrival without data reaches core `n` (R91). -/
def Chip.arriveCore (c : Chip) (n : CoreId) (ctx : CtxId) (gen : BitVec 16) (ctr amount : Nat) : Chip :=
  let k := c.core n
  if k.accepts (some ctx) gen then c.coreCount n ctr amount else c.setCore n k.raiseStale

/-- A circuit at its origin: valid, ROLE ORIGIN, of the KIND, bound to the context (R220). -/
def Chip.originCircuit (c : Chip) (i kind : Nat) (x : Option CtxId) : Bool :=
  let e := c.circ i
  decide (i ≠ 0) && circValid e && circRole e == 0 && circKind e == kind && x.map (·.val) == some (circCtx e)

/-- The next SEQ of a unit's flow on a circuit (R230). -/
def flowKey (unit circuit : Nat) : Nat := unit * 65536 + circuit

/-- A header of this package toward another of its rack. -/
def Chip.circuitHdr (c : Chip) (ptype circuit unit : Nat) (k : Core) (seq : Nat) (last : Bool) : Hdr :=
  { ptype := ptype, last := last, dst := circDst (c.circ circuit), srack := c.rack, drack := c.rack
    ctx := (k.ctx.map (·.val)).getD 0, gen := k.gen.toNat, circuit := circuit, seq := seq, score := unit }

/-- PMASK of granules. -/
def pmaskOf : List Granule → Nat
  | [] => 0
  | g :: gs => b2n g.poison + 2 * pmaskOf gs

/-- Runs of up to 16 elements: (index of the first, the run). -/
def runs16 {α : Type} : Nat → Nat → List α → List (Nat × List α)
  | 0, _, _ => []
  | n + 1, i, l => if l.isEmpty then [] else (i, l.take 16) :: runs16 n (i + 16) (l.drop 16)

/-- One DATA packet of a SEND is made up and queued for its circuit's windows (R214, R219). -/
def Chip.sendData (c : Chip) (n : CoreId) (d : MoveDesc) (total : Nat) (r : Nat × List Granule) : Chip :=
  let k := c.core n
  let e := c.circ d.circuit
  let key := flowKey n.val d.circuit
  let seq := tget 0 c.rte.flowSeq key
  let last := decide (total ≤ r.1 + r.2.length)
  let h := { c.circuitHdr 1 d.circuit n.val k seq.toNat last with
             dcore := d.dcore, dctr := d.dctr, daddr := d.daddr + 64 * r.1, pmask := pmaskOf r.2 }
  let c1 := { c with rte := { c.rte with flowSeq := tset 0 c.rte.flowSeq key (seq + 1) } }
  c1.sendCircuit (linkId (circOut e)) (c.packet h (r.2.map (fun g => padTo g.data 64)))

/-- Tray position that MADDR names (Table 5-6). -/
def MoveDesc.position (d : MoveDesc) : Nat := bits d.w2 43 42

/-- The context runs in tray-global mode. -/
def Chip.trayMode (c : Chip) (x : Option CtxId) : Bool := match x with
  | some i => (c.ctx i).tray
  | none => false

/-- The move reaches another package of the tray (Table 5-6). -/
def Chip.isRemote (c : Chip) (x : Option CtxId) (d : MoveDesc) : Bool :=
  c.trayMode x && d.position != bits c.rte.id.val 1 0

/-- RTE_RMEM: the circuit of a context to a tray position (R219). -/
def Chip.rmemCircuit (c : Chip) (x : Option CtxId) (pos : Nat) : Nat :=
  match x with
  | some i => (tget 0 c.rte.rmem (4 * i.val + pos)).toNat
  | none => 0

/-- The remote side of a move that starts is in order (R87, R140, R153, R154, R220). It is checked whatever LEN is; a move
of no granules has empty ranges, which lie nowhere outside. A range that runs past the end of a band row of the target is not refused
here as a whole: the target checks each request, and those in range are carried (R154; the model's choice, log 21). -/
def Chip.remoteOk (c : Chip) (n : CoreId) (d : MoveDesc) : Bool :=
  let k := c.core n
  if d.kind ≤ 1 then
    let pos := d.position
    d.maddr % 64 == 0 &&
      (if c.isRemote k.ctx d then c.originCircuit (c.rmemCircuit k.ctx pos) 1 k.ctx
       else (c.trayMode k.ctx || pos == 0) && (d.len == 0 || c.rangeOwned k.ctx (bits d.w2 41 0) (64 * d.len)))
  else
    d.daddr % 64 == 0 && (d.len == 0 || inCtxArea d.daddr (64 * d.len)) && decide (d.dcore < 2448) && !isSpareSite d.dcore
      && (if d.kind == 2 then c.coreServed d.dcore else c.originCircuit d.circuit 0 k.ctx)

/-- The packets of a remote LD or ST go to the remote-memory circuit (R154): up to 16 lines each. -/
def Chip.sendRemote (c : Chip) (n : CoreId) (d : MoveDesc) (r : Nat × List Granule) : Chip :=
  let k := c.core n
  let circ := c.rmemCircuit k.ctx d.position
  let key := flowKey n.val circ
  let seq := tget 0 c.rte.flowSeq key
  let ld := d.kind == 0
  let h := { c.circuitHdr (if ld then 2 else 4) circ n.val k seq.toNat (decide (d.len ≤ r.1 + r.2.length)) with
             dcore := n.val, dctr := d.dctr, val := if ld then r.2.length else 0, daddr := d.laddr + 64 * r.1
             maddr := bits d.w2 41 0 + 64 * r.1, pmask := if ld then 0 else pmaskOf r.2
             job := match k.ctx with
               | some x => (c.ctx x).job.toNat
               | none => 0 }
  let flits := if ld then [] else r.2.map (fun g => padTo g.data 64)
  { c with rte := { c.rte with flowSeq := tset 0 c.rte.flowSeq key (seq + 1) } }.sendCircuit
    (linkId (circOut (c.circ circ))) (c.packet h flits)

/-- The local source of a move, granule by granule. -/
def Core.source (k : Core) (d : MoveDesc) : List Granule :=
  (List.range d.len).map (fun i =>
    { data := k.bytes (d.laddr + 64 * i) 64, poison := k.poisoned (d.laddr + 64 * i) })

/-- A move whose remote side is in order starts: its source is read or its requests leave, LCTR advances by
LEN with LCE (R88), and it is in flight until its granules are done. -/
def Chip.launch (c : Chip) (n : CoreId) (d : MoveDesc) : Chip :=
  let k0 := c.core n
  let k := if d.kind == 0 then k0 else k0.touch d.laddr (64 * d.len)
  let src := if d.kind == 0 then List.replicate d.len { data := [], poison := false } else k.source d
  let fl : Flight := { desc := d, ctx := k.ctx, gen := k.gen, step := k.step.map (·.step), frame := c.frm.frame, src := if d.kind == 0 then [] else src, done := [] }
  let c1 := if d.kind == 3 then
      (runs16 d.len 0 src).foldl (fun c r => c.sendData n d d.len r) (c.setCore n k)
    else
      let c1 := c.setCore n { k with flights := k.flights ++ [fl] }
      if d.kind ≤ 1 && c.isRemote k.ctx d then (runs16 d.len 0 src).foldl (fun c r => c.sendRemote n d r) c1 else c1
  if d.lce then c1.coreCount n d.lctr d.len else c1

/-- Whether a queued move may start now and whether it is late (R85): due in its frame at START_TICK, and in time at the tick
that follows a skipped one, be it tick 0 of the next frame (R183). -/
def Chip.moveDue (c : Chip) (q : QueuedMove) : Bool × Bool :=
  if !bit q.desc.w0 59 then (true, false)
  else
    let f := q.frame + b2n (bit q.desc.w0 58)
    let due := f * 4096 + bits q.desc.w0 57 46
    let now := c.frm.frame * 4096 + c.frm.tick
    let t := bits q.desc.w0 57 46
    (decide (due ≤ now), decide (due < now) && !(f == c.frm.frame && c.frm.skippedTo t)
      && !(f + 1 == c.frm.frame && c.frm.tick == 0 && decide (c.frm.skipEnd ≤ t)))

/-- The mover starts the move at the head of its queue (R85, R87): at most four are in flight. -/
def moveStartEffect (n : CoreId) (c : Chip) : Chip :=
  let k := c.core n
  match k.mq with
  | [] => c
  | q :: rest =>
    let due := c.moveDue q
    if 4 ≤ k.flights.length ∨ ¬ due.1 then c
    else
      let k1 := { k with mq := rest }
      let c1 := c.setCore n (if due.2 then k1.raiseMoveLate else k1)
      if c1.remoteOk n q.desc then
        (if q.desc.len = 0 then (if q.desc.lce then c1.coreCount n q.desc.lctr 1 else c1) else c1.launch n q.desc)
      else (c1.modCore n (fun k =>
        { k with frec := { k.frec with discarded := k.frec.discarded ++ [q.desc] } })).coreAsyncStop n 4

/-- MOVE_START. -/
def execMoveStart (n : CoreId) (s : State) : Answer := s.lift (moveStartEffect n)

/-- A granule of flight `mv` is done; the move leaves when all are. -/
def Core.flightDone (k : Core) (mv g : Nat) : Core :=
  match k.flights[mv]? with
  | none => k
  | some f =>
    let d := g :: f.done
    if f.desc.len ≤ d.length then { k with flights := dropAt k.flights mv }
    else { k with flights := setAt k.flights mv { f with done := d } }

/-- The flight `mv` of a kind that still has granule `g` to do. -/
def Core.flightAt (k : Core) (kind mv g : Nat) : Option Flight :=
  match k.flights[mv]? with
  | some f => if f.desc.kind = kind ∧ g < f.desc.len ∧ ¬ g ∈ f.done then some f else none
  | none => none

/-- A granule read from memory is written into local SRAM (R88). -/
def ldGranuleEffect (n : CoreId) (mv : Nat) (g : BitVec 16) (ups : Upsets) (c : Chip) : Chip :=
  match (c.core n).flightAt 0 mv g.toNat with
  | none => c
  | some f =>
    if c.isRemote f.ctx f.desc then c
    else
      let line := c.lineAt (bits f.desc.w2 41 0 + 64 * g.toNat)
      let r := c.readLine line ups false
      (r.2.modCore n (fun k => k.flightDone mv g.toNat)).granuleAt n f.ctx f.gen (f.desc.laddr + 64 * g.toNat) f.desc.dctr r.1

/-- LD_GRANULE_ARRIVAL. -/
def execLdGranuleArrival (n : CoreId) (mv : Nat) (g : BitVec 16) (ups : Upsets) (s : State) : Answer :=
  s.lift (ldGranuleEffect n mv g ups)

/-- An acknowledgement without data for core `n` (R88, R91). -/
def Chip.ackAt (c : Chip) (n : CoreId) (ctx : Option CtxId) (gen : BitVec 16) (ctr amount : Nat) : Chip :=
  let k := c.core n
  if k.accepts ctx gen then c.coreCount n ctr amount else c.setCore n k.raiseStale

/-- The stack takes and acknowledges a stored granule (R88, R145, R258). -/
def stAckEffect (n : CoreId) (mv : Nat) (g : BitVec 16) (c : Chip) : Chip :=
  match (c.core n).flightAt 1 mv g.toNat with
  | none => c
  | some f =>
    if c.isRemote f.ctx f.desc then c
    else
      let line := c.lineAt (bits f.desc.w2 41 0 + 64 * g.toNat)
      let gr := f.src.getD g.toNat { data := [], poison := false }
      ((c.writeLine f.ctx line gr.data gr.poison).modCore n (fun k => k.flightDone mv g.toNat)).ackAt n f.ctx f.gen f.desc.dctr 1

/-- ST_ACK. -/
def execStAck (n : CoreId) (mv : Nat) (g : BitVec 16) (s : State) : Answer := s.lift (stAckEffect n mv g)

/-- A granule of a copy is written at the destination core (R88, R91). -/
def cpGranuleEffect (n : CoreId) (mv : Nat) (g : BitVec 16) (c : Chip) : Chip :=
  match (c.core n).flightAt 2 mv g.toNat with
  | none => c
  | some f =>
    let gr := f.src.getD g.toNat { data := [], poison := false }
    (c.modCore n (fun k => k.flightDone mv g.toNat)).granuleAt (Fin.ofNat 2448 f.desc.dcore) f.ctx f.gen
      (f.desc.daddr + 64 * g.toNat) f.desc.dctr gr

/-- CP_GRANULE_ARRIVAL. -/
def execCpGranuleArrival (n : CoreId) (mv : Nat) (g : BitVec 16) (s : State) : Answer := s.lift (cpGranuleEffect n mv g)

end Sys2Proof.Machine
end

