-- ==== Sys2Proof/Machine/Saiga.lean ====
section
/-! DEFINITION. Saiga engines: how a command is fetched, checked, completed or stopped, and the control
commands (R105-R112, R125, R128). -/
namespace Sys2Proof.Machine

/-- The engine with bit `b` of SGA_ERR set (Table 4-11). -/
def Engine.raise (k : Engine) (b : Nat) : Engine := { k with err := setBit k.err b }

/-- What a command makes of the package: the package after it, the bit of SGA_ERR that stops the program,
whether output had been written when it stopped, and the next column offset where it is not the following. -/
structure SgaOut where
  chip : Chip
  stop : Option Nat := none
  faulted : Bool := false
  jump : Option (BitVec 25) := none
  wait : Wait := .none
  halt : Bool := false

/-- A command that only changes the package. -/
def SgaOut.ok (c : Chip) : SgaOut := { chip := c }

/-- A command that stops the program and has no effect. -/
def SgaOut.fail (c : Chip) (b : Nat) : SgaOut := { chip := c, stop := some b }

/-- The signal of word 7 (Table 4-3). -/
def sgaSignal (w : SgaWords) : Signal :=
  { dpkg := BitVec.ofNat 6 (bits w.w7 17 12), dcore := BitVec.ofNat 12 (bits w.w7 11 0)
    ctr := BitVec.ofNat 8 (bits w.w7 25 18), val := BitVec.ofNat 8 (bits w.w7 33 26) }

/-- SIG. -/
def sgaSig (w : SgaWords) : Bool := bit w.w0 55

/-- Words 1 to 6 and word 0 below SIG, by number. -/
def sgaWord (w : SgaWords) : Nat → Dword
  | 0 => (w.w0.setWidth 55).setWidth 64
  | 1 => w.w1
  | 2 => w.w2
  | 3 => w.w3
  | 4 => w.w4
  | 5 => w.w5
  | 6 => w.w6
  | _ => w.w7

/-- A mask of bits [hi:lo]. -/
def maskOf (hi lo : Nat) : Dword := BitVec.ofNat 64 ((2 ^ (hi + 1 - lo) - 1) * 2 ^ lo)

/-- Bits of words 0 to 6 outside the fields of a command are zero (R108). -/
def reservedZero (w : SgaWords) (fields : List Dword) : Bool :=
  (List.range 7).all (fun i => sgaWord w i &&& ~~~ (fields.getD i 0) == 0)

/-- The signal requested is one that can be sent (R108, R111, Table 4-3). With SIG = 0 the fields of word 7 are used by
nothing and take any value; its reserved bits must be zero all the same (log 83). -/
def Chip.signalOk (c : Chip) (w : SgaWords) : Bool :=
  let s := (sgaSignal w)
  bits w.w7 63 34 == 0
    && (!(sgaSig w) || (s.val != 0 && c.arriveLegal s.dpkg.toNat s.dcore
        && !(decide (2560 ≤ s.dcore.toNat) && decide (16 ≤ s.ctr.toNat))))

/-- First byte of the bank column that engine `e` serves. -/
def engBase (e : EngineId) : Nat := 64 * lineOf (engStack e.val) (engIdx e.val) 0

/-- The line of column offset `o` of engine `e`. -/
def engLine (e : EngineId) (o : Nat) : Nat := lineOf (engStack e.val) (engIdx e.val) o

/-- The column offsets from `lo` below `hi` lie inside the window (R102, R109); an empty range does. -/
def Engine.inWindow (k : Engine) (lo hi : Nat) : Bool :=
  decide (hi ≤ lo) || (decide (k.winBase.toNat ≤ lo) && decide (hi ≤ k.winLimit.toNat))

/-- Engine `e` may reach the column offsets from `lo` below `hi`: they lie inside its window (R109), and touch no row that is
an undo log, which is refused as an invalid row is (R257). -/
def Chip.engineReach (c : Chip) (e : EngineId) (lo hi : Nat) : Bool :=
  (c.engine e).inWindow lo hi
    && !(List.range 48).any (fun b => c.isUndoRow b && decide (lo < 524288 * (b + 1)) && decide (524288 * b < hi))

/-- A signal leaves (R112): false where it must wait for room in the origin queue (R227). -/
def Chip.trySignal (c : Chip) (e : EngineId) (g : Signal) : Chip × Bool :=
  if !c.isOwn g.dpkg.toNat && c.originFull then (c, false)
  else
    let k := c.engine e
    (c.sendArrival g.dpkg.toNat g.dcore g.ctr g.val k.ctx k.gen (unitNo (.engine e)), true)

/-- The command in progress completes (R106, R112): counted, its status written, its program counter moved. -/
def Chip.sgaDone (c : Chip) (e : EngineId) (next : BitVec 25) (halt : Bool) : Chip :=
  let c1 := c.modEngine e (fun k =>
    { k with cntCmds := satInc k.cntCmds 1, pc := if halt then k.pc else next, wait := .none, sig := none, held := none
             frec := { k.frec with statuses := k.frec.statuses ++ [0], completed := k.frec.completed || halt }
             lane := if halt then k.lane.close else k.lane, state := if halt then .halted else .run })
  if halt then c1.unitCompleted (.engine e) else c1

/-- The same with its signal, which a full origin queue holds. An engine that a ledger fault of the command has quarantined
(R241, R336) completes nothing more. -/
def Chip.sgaFinish (c : Chip) (e : EngineId) (g : Option Signal) (next : BitVec 25) (halt : Bool) : Chip :=
  if (c.engine e).state = .quarantined then c
  else
  match g with
  | none => c.sgaDone e next halt
  | some g =>
    let r := c.trySignal e g
    if r.2 then r.1.sgaDone e next halt else c.modEngine e (fun k => { k with held := some (g, next, halt) })

/-- The program of an engine stops (R128): the faulting command gets not done, or FAULTED where it had
written output, and every later one gets not done. -/
def Chip.sgaStop (c : Chip) (e : EngineId) (b : Nat) (faulted : Bool) : Chip :=
  let c1 := c.modEngine e (fun k =>
    { k.raise b with state := .stopped, wait := .none, sig := none, held := none
                     frec := { k.frec with stopped := true, statuses := k.frec.statuses ++ [if faulted then 2 else 1], laterNotDone := true } })
  if b = 3 then c1 else c1.programStop (.engine e) (c1.engine e).err

/-- The operation byte of the line at column offset `o` of engine `e` is reserved (R108). -/
def Chip.sgaLineReserved (c : Chip) (e : EngineId) (o : Nat) : Bool :=
  sgaReserved (rdByte c.mem.dram (64 * engLine e o + 7)).toNat

/-- A program of engine `e` stops at a fetch from a poisoned line: FETCH_POISON, a consumption of poison, and a fault of
the engine (R125, R317, R335). -/
def Chip.sgaFetchPoison (c : Chip) (e : EngineId) (line : Nat) : Chip :=
  let c1 := c.sgaStop e 3 false
  (c1.consume (.engine e) (engStack e.val) (c1.localOf line / 1024) (c1.engine e).err).quarantine (.engine e)

/-- The 64 bytes of a command in memory: eight little-endian words, the operation in the top byte of word 0 (R105, R108). -/
def sgaBytes (op : Byte) (w : SgaWords) : List Byte :=
  leBytes 7 w.w0.toNat ++ [op] ++ ([w.w1, w.w2, w.w3, w.w4, w.w5, w.w6, w.w7].flatMap (fun x => leBytes 8 x.toNat))

/-- What engine `e` does with a command that it has fetched and that is the one to run: a reserved bit or an illegal signal
stops the program with ILLEGAL_CMD (R108), else `f` is its effect. -/
def Chip.sgaRun (c : Chip) (e : EngineId) (w : SgaWords) (fields : List Dword) (f : Chip → SgaOut) : Chip :=
  if !reservedZero w fields || !c.signalOk w then c.sgaStop e 0 false
  else
    let o := f c
    match o.stop with
    | some b => o.chip.sgaStop e b o.faulted
    | none =>
      let g := if (sgaSig w) then some (sgaSignal w) else none
      match o.wait with
      | .none => o.chip.sgaFinish e g (o.jump.getD ((c.engine e).pc + 1)) o.halt
      | .sync a b l => o.chip.modEngine e (fun k => { k with state := .waitSync, wait := .sync a b l, sig := g })
      | .tick t => o.chip.modEngine e (fun k => { k with state := .waitTick, wait := .tick t, sig := g })
      | .next t => o.chip.modEngine e (fun k => { k with state := .waitTick, wait := .next t, sig := g })
      | .fence => o.chip

/-- Engine `e` fetches its next command, and runs it where it is the one of operation `op` with the words `w`. An engine that
does not run does nothing, and so does one whose next command is another. Of the up to eight commands that R107 lets an engine fetch ahead
it fetches none: a line is judged when its command runs (log 33). A fetch outside the window stops with
BOUNDS (R109); inside it the line passes the decoder as every engine read does (R124); a poisoned line stops with
FETCH_POISON (R125), and a reserved operation with ILLEGAL_CMD (R108). -/
def Chip.sgaStep (c : Chip) (e : EngineId) (op : Byte) (w : SgaWords) (fields : List Dword) (f : Chip → SgaOut) : Chip :=
  let k := c.engine e
  if k.state ≠ .run ∨ k.wait ≠ .none ∨ k.held.isSome ∨ k.gated then c
  else if !c.engineReach e k.pc.toNat (k.pc.toNat + 1) then c.sgaStop e 2 false
  else
    let line := engLine e k.pc.toNat
    let c1 := c.decodeLine line w.symbols true
    if c1.tag line then c1.sgaFetchPoison e line
    else
      let c2 := c1.modEngine e (fun k => { k with op := (c1.lineBytes line).getD 7 0 })
      if c1.sgaLineReserved e k.pc.toNat then c2.sgaStop e 0 false
      else if c1.lineBytes line ≠ sgaBytes op w then c
      else c2.sgaRun e w fields f

/-- NOP. -/
def execSgaNop (e : EngineId) (w : SgaWords) (s : State) : Answer :=
  s.lift (fun c => c.sgaStep e 0x00 w [] .ok)

/-- END: the engine becomes HALTED and reports completion (R106). -/
def execSgaEnd (e : EngineId) (w : SgaWords) (s : State) : Answer :=
  s.lift (fun c => c.sgaStep e 0x01 w [] (fun c => { chip := c, halt := true }))

/-- Counter `i` of an engine. -/
def Engine.counter (k : Engine) (i : Nat) : Word := tget 0 k.ctr i

/-- WAIT until counter C is IMM or more (R110). -/
def sgaWaitOut (e : EngineId) (w : SgaWords) (c : Chip) : SgaOut :=
  let i := bits w.w0 51 48
  let upTo := bits w.w0 47 40
  let v : Word := BitVec.ofNat 32 (bits w.w1 31 0)
  if v.toNat ≤ ((c.engine e).counter i).toNat then .ok c
  else { chip := c, wait := .sync (BitVec.ofNat 8 i) v (if upTo = 0 then none else some upTo) }

/-- WAIT. -/
def execSgaWait (e : EngineId) (w : SgaWords) (s : State) : Answer :=
  s.lift (fun c => c.sgaStep e 0x02 w [maskOf 51 40, maskOf 31 0] (sgaWaitOut e w))

/-- The wait of an engine ends: its command completes (R107, R110). -/
def Chip.sgaResume (c : Chip) (e : EngineId) : Chip :=
  let k := c.engine e
  (c.modEngine e (fun k => { k with wait := .none, state := .run })).sgaFinish e k.sig (k.pc + 1) false

/-- A pending WAIT of an engine is satisfied. -/
def sgaWaitResumeEffect (e : EngineId) (c : Chip) : Chip :=
  let k := c.engine e
  match k.wait with
  | .sync i v _ => if v.toNat ≤ (k.counter i.toNat).toNat then c.sgaResume e else c
  | _ => c

/-- SGA_WAIT_RESUME. -/
def execSgaWaitResume (e : EngineId) (s : State) : Answer := s.lift (sgaWaitResumeEffect e)

/-- A TICK of an engine reached `by_` ticks late is counted (R93, R384). -/
def Engine.raiseTickLate (k : Engine) (by_ : Nat) : Engine :=
  { k.raise 11 with cntTickLate := satInc k.cntTickLate 1, late := max k.late by_ }

/-- TICK: as TICK.WAIT or TICK.NEXT (R93, Table 4-2). -/
def sgaTickOut (e : EngineId) (w : SgaWords) (c : Chip) : SgaOut :=
  let t : BitVec 12 := BitVec.ofNat 12 (bits w.w0 11 0)
  if bit w.w0 12 then { chip := c, wait := .next t }
  else if c.frm.passed t.toNat then
    .ok (c.modEngine e (fun k => k.raiseTickLate (c.frm.tick - t.toNat)))
  else if t.toNat ≤ c.frm.tick then .ok c
  else { chip := c, wait := .tick t }

/-- TICK. -/
def execSgaTick (e : EngineId) (w : SgaWords) (s : State) : Answer :=
  s.lift (fun c => c.sgaStep e 0x03 w [maskOf 12 0] (sgaTickOut e w))

/-- SIGNAL: the signal only; SIG must be 1 (Table 4-2). -/
def execSignal (e : EngineId) (w : SgaWords) (s : State) : Answer :=
  s.lift (fun c => c.sgaStep e 0x04 w [] (fun c => if (sgaSig w) then .ok c else .fail c 0))

/-- SETC: counter C := IMM. -/
def execSgaSetc (e : EngineId) (w : SgaWords) (s : State) : Answer :=
  s.lift (fun c => c.sgaStep e 0x05 w [maskOf 51 48, maskOf 31 0] (fun c =>
    .ok (c.modEngine e (fun k => { k with ctr := tset 0 k.ctr (bits w.w0 51 48) (BitVec.ofNat 32 (bits w.w1 31 0)) }))))

/-- JUMP: the next command lies at another column offset. -/
def execJump (e : EngineId) (w : SgaWords) (s : State) : Answer :=
  s.lift (fun c => c.sgaStep e 0x06 w [0, maskOf 24 0] (fun c =>
    { chip := c, jump := some (BitVec.ofNat 25 (bits w.w1 24 0)) }))

/-- An engine stopped by an arrival that passes 0xFFFF_FFFF (R110): SGA_PC keeps the command running. One with no program in progress
only has the bit set (log 82). -/
def Chip.sgaAsyncStop (c : Chip) (e : EngineId) (b : Nat) : Chip :=
  let k := c.engine e
  if k.state = .run ∨ k.state = .waitSync ∨ k.state = .waitTick then c.sgaStop e b false
  else c.modEngine e (fun k => k.raise b)

/-- An arrival reaches an engine (R91, R110, R111). -/
def Chip.arriveEngine (c : Chip) (e : EngineId) (ctx : CtxId) (gen : BitVec 16) (ctr amount : Nat) : Chip :=
  let k := c.engine e
  if 16 ≤ ctr then c.modEngine e (fun k => k.raise 7)
  else if k.ctx = some ctx ∧ k.gen = gen then
    let r := counterAdd (k.counter ctr) amount
    let c1 := c.modEngine e (fun k => { k with ctr := tset 0 k.ctr ctr r.1 })
    if r.2 then c1.sgaAsyncStop e 6 else c1
  else c.modEngine e (fun k => { k.raise 13 with cntStale := satInc k.cntStale 1 })

/-- An engine number served by a unit. -/
def Chip.engineServed (c : Chip) (e : EngineId) : Bool :=
  c.fuse.engineNumber e.val && (c.engine e).state != .none && (c.engine e).state != .quarantined

/-- A unit serves a destination number. -/
def Chip.destServed (c : Chip) (d : Nat) : Bool := match unitOf d with
  | some (.core n) => c.coreServed n.val
  | some (.engine e) => c.engineServed e
  | none => false

/-- An arrival reaches the number it names; a number served by no unit drops it as an orphan (R111). -/
def Chip.arriveAt (c : Chip) (d : Nat) (ctx : CtxId) (gen : BitVec 16) (ctr amount : Nat) : Chip :=
  if c.destServed d then
    match unitOf d with
    | some (.core n) => c.arriveCore n ctx gen ctr amount
    | some (.engine e) => c.arriveEngine e ctx gen ctr amount
    | none => c
  else { c with rte := { c.rte with cntOrphan := satInc c.rte.cntOrphan 1, err := setBit c.rte.err 1 } }

/-- Arrival `i` on its way inside the package is delivered. -/
def arriveDeliveryEffect (i : Nat) (c : Chip) : Chip :=
  match c.rte.arrivals[i]? with
  | none => c
  | some a =>
    { c with rte := { c.rte with arrivals := dropAt c.rte.arrivals i } }.arriveAt a.dcore.toNat a.ctx a.gen a.ctr.toNat a.amount.toNat

/-- ARRIVE_DELIVERY. -/
def execArriveDelivery (i : Nat) (s : State) : Answer := s.lift (arriveDeliveryEffect i)

/-- A tick wait of a unit reaches its tick (R93): late where the tick has been passed, not where it was skipped (R183). -/
def tickResumeEffect (u : UnitId) (c : Chip) : Chip :=
  match u with
  | .core n =>
    let k := c.core n
    match k.wait with
    | .tick t => if c.frm.tick < t.toNat then c
      else c.wakeCore n (if c.frm.passed t.toNat then k.raiseTickLate (c.frm.tick - t.toNat) else k)
    | _ => c
  | .engine e =>
    match (c.engine e).wait with
    | .tick t => if c.frm.tick < t.toNat then c
      else if c.frm.passed t.toNat then
        (c.modEngine e (fun k => k.raiseTickLate (c.frm.tick - t.toNat))).sgaResume e
      else c.sgaResume e
    | _ => c

/-- TICK_RESUME. -/
def execTickResume (u : UnitId) (s : State) : Answer := s.lift (tickResumeEffect u)

/-- A wait with a timeout is still pending after TO frame boundaries: the program stops at the wait (R92,
R99, R110). -/
def syncTimeoutEffect (u : UnitId) (c : Chip) : Chip :=
  match u with
  | .core n =>
    let k := c.core n
    match k.wait with
    | .sync i v (some 0) =>
      if v.toNat ≤ (k.counter i.toNat).toNat then c else (c.setCore n (k.stopWith 5)).coreStopReport n 5
    | _ => c
  | .engine e =>
    let k := c.engine e
    match k.wait with
    | .sync i v (some 0) => if v.toNat ≤ (k.counter i.toNat).toNat then c else c.sgaStop e 5 false
    | _ => c

/-- SYNC_TIMEOUT. -/
def execSyncTimeout (u : UnitId) (s : State) : Answer := s.lift (syncTimeoutEffect u)

/-- What a frame boundary does to a wait (R92, R93): a frame of a timeout passes, a tick wait of the frame
that ends is over (some, with by how many ticks where it is late; none for a tick that never occurs, log 125), a wait for the
next frame becomes one for its tick. -/
def Wait.atBoundary (f : Frm) : Wait → Wait × Option (Option Nat)
  | .sync i v (some n) => (.sync i v (some (n - 1)), Option.none)
  | .tick t => (.tick t, some (if f.lateAtEnd t.toNat then some (f.tick - t.toNat) else Option.none))
  | .next t => (.tick t, Option.none)
  | w => (w, Option.none)

/-- The waits of all units pass a frame boundary; a tick that was skipped at the end of the frame is reached, not late (R183). -/
def Chip.waitsBoundary (c : Chip) : Chip :=
  let c1 := c.cores.foldl (fun c p =>
    let n : CoreId := Fin.ofNat 2448 p.1
    let k := c.core n
    let r := k.wait.atBoundary c.frm
    match r.2 with
    | some late => c.wakeCore n ((late.map k.raiseTickLate).getD k)
    | none => c.setCore n { k with wait := r.1 }) c
  c1.engines.foldl (fun c p =>
    let e : EngineId := Fin.ofNat 1632 p.1
    let r := (c.engine e).wait.atBoundary c.frm
    match r.2 with
    | some late =>
      (match late with
        | some by_ => c.modEngine e (fun k => k.raiseTickLate by_)
        | none => c).sgaResume e
    | none => c.modEngine e (fun k => { k with wait := r.1 })) c1

end Sys2Proof.Machine
end

