-- ==== Sys2Proof/Machine/SaigaMem.lean ====
section
/-! DEFINITION. How a Saiga engine reads and writes its bank column, and what its commands report (R109,
R112, R124, R126). -/
namespace Sys2Proof.Machine

/-- The engine's reader: the DRAM and the poison tags of the package, from the first byte of its column, and whether its
converters disagree (R241). -/
structure Reader where
  chip : Chip
  base : Nat
  disagree : Bool

/-- The reader of engine `e`. -/
def Chip.reader (c : Chip) (e : EngineId) : Reader := { chip := c, base := engBase e, disagree := (c.engine e).convBad }

/-- One byte of the column. -/
def Reader.byte (r : Reader) (a : Nat) : Byte := rdByte r.chip.mem.dram (r.base + a)

/-- The line of byte `a` is poisoned. -/
def Reader.bad (r : Reader) (a : Nat) : Bool := r.chip.tag ((r.base + a) / 64)

/-- A block exponent; 0x80 from a poisoned line (R124). -/
def Reader.exp (r : Reader) (a : Nat) : Byte := if r.bad a then 0x80 else r.byte a

/-- Element `i` of elements of `width` bits packed from byte `a`; none where its line is poisoned. -/
def Reader.elem (r : Reader) (width a i : Nat) : Option Nat :=
  let lo := a + width * i / 8
  let hi := a + (width * i + width - 1) / 8
  if r.bad lo || r.bad hi then none
  else some (unle (rdBytes r.chip.mem.dram (r.base + lo) 3) / 2 ^ (width * i % 8) % 2 ^ width)

/-- A range of bytes of the column that a command names, [lo, hi), in column offsets. -/
abbrev ColRange := Nat × Nat

/-- Engine `e` may reach every range (R109, R257). -/
def Chip.covers (c : Chip) (e : EngineId) (rs : List ColRange) : Bool := rs.all (fun r => c.engineReach e r.1 r.2)

/-- The lines that byte ranges of the column touch, each once. -/
def rangeLines (e : EngineId) (bs : List (Nat × Nat)) : List Nat :=
  (bs.flatMap (fun r => spans 64 (engBase e + r.1) r.2)).eraseDups

/-- The lines a command reads pass the decoder (R124), and those that come out poisoned are consumed: raised,
counted and reported (R317). -/
def Chip.engRead (c : Chip) (e : EngineId) (bs : List (Nat × Nat)) (ups : Upsets) : Chip :=
  let ls := rangeLines e bs
  let c1 := ls.foldl (fun c l => c.decodeLine l (errsOf ups l) true) c
  let bad := ls.filter c1.tag
  if bad.isEmpty then c1
  else
    let c2 := c1.modEngine e (fun k => { k.raise 12 with cntPoison := satInc k.cntPoison bad.length })
    bad.foldl (fun c l => c.consume (.engine e) (lineStack l) (c.localOf l / 1024) (c.engine e).err) c2

/-- Bytes of output are written to the column (R112): whole lines are replaced; a line of which a part changes is read through the
decoder and written whole (R130, R142). -/
def Chip.engWrite (c : Chip) (e : EngineId) (ups : Upsets) (a : Nat) (bs : List Byte) : Chip :=
  let x := (c.engine e).ctx
  (spans 64 (engBase e + a) bs.length).foldl (fun c l =>
    let first := 64 * l
    let lo := max (engBase e + a) first
    let hi := min (engBase e + a + bs.length) (first + 64)
    let part := slice bs (lo - (engBase e + a)) (hi - lo)
    if hi - lo = 64 then c.writeLine x l part false
    else
      let c0 := c.decodeLine l (errsOf ups l) false
      let c1 := match x with
        | some i => c0.logUndo i l
        | none => c0
      c1.putLine l (overlay (c1.lineBytes l) (lo - first) part) (c1.tag l)) c

/-- What a command's arithmetic leaves behind: conditions raised, conversions that saturated, ledger records
in output order. -/
structure SgaTrace where
  raised : Raised := {}
  sat : Nat := 0
  recs : List (List Byte) := []

/-- Two traces in sequence. -/
def SgaTrace.then (a b : SgaTrace) : SgaTrace :=
  { raised := a.raised.or b.raised, sat := a.sat + b.sat, recs := a.recs ++ b.recs }

/-- A trace is reported (Table 4-11, R126, R241, R315): a ledger fault quarantines the engine. -/
def Chip.engReport (c : Chip) (e : EngineId) (t : SgaTrace) : Chip :=
  let cond := t.raised.mode || t.raised.range || t.raised.count || t.raised.ovf
  let par := t.raised.parity || t.raised.residue
  let c1 := c.modEngine e (fun k =>
    { k with err := setBitIf par (setBitIf cond (setBitIf (decide (0 < t.sat)) k.err 10) 9) 8
             cntSat := satInc k.cntSat t.sat, lane := t.recs.foldl Lane.absorb k.lane })
  let c2 := if cond then c1.ledgerCondition (.engine e) else c1
  let c3 := if t.raised.residue then c2.residueFault else c2
  if par then c3.quarantine (.engine e) else c3

/-- A cleared ledger of an engine command. -/
def freshLedger (mode : BitVec 3) (g : BitVec 11) : Ledger := (Ledger.clear mode g).1

/-- One group of products reaches a ledger (R44); a group without a product reaches none. -/
def addGroup (lprot : Bool) (mode : BitVec 3) (s : Ledger × Raised) (ps : List Prod) : Ledger × Raised :=
  if ps.isEmpty then s else let r := s.1.group lprot mode ps; (r.1, s.2.or r.2)

/-- A ledger that has taken groups of products in order. -/
def sumGroups (lprot : Bool) (mode : BitVec 3) (g : BitVec 11) (gs : List (List Prod)) : Ledger × Raised :=
  gs.foldl (addGroup lprot mode) (freshLedger mode g, Raised.none)

/-- Products cut into the groups of successive blocks of 32 elements (R44). -/
def blockGroups : Nat → List Prod → List (List Prod)
  | 0, _ => []
  | n + 1, ps => ps.take 32 :: blockGroups n (ps.drop 32)

/-- A ledger that has taken the products of successive blocks of 32 elements. -/
def sumLedger (lprot : Bool) (mode : BitVec 3) (g : BitVec 11) (ps : List Prod) : Ledger × Raised :=
  sumGroups lprot mode g (blockGroups (ps.length / 32 + 1) ps)

/-- A product of two elements, NaR where one comes from a poisoned line. -/
def elemProd (f g : Fmt) (a : Option Nat) (ba : Byte) (b : Option Nat) (bb : Byte) : Prod :=
  match a, b with
  | some x, some y => f.product g x ba y bb
  | _, _ => .nar

/-- The code *one* with B = 0 (R115, R119): e = bias and f = 0 in octave formats, the value 1 in linear ones. -/
def oneCode : Fmt → Nat
  | .oct o => o.bias * o.n
  | .conv o => o.bias * 2 ^ o.man

end Sys2Proof.Machine
end

