-- ==== Sys2Proof/Machine/SaigaRow.lean ====
section
/-! DEFINITION. The REDUCE, SCAN and GATHER commands (R119-R122). -/
namespace Sys2Proof.Machine

/-- The fields of REDUCE and SCAN (Table 4-6). -/
structure RowOp where
  func : Nat
  xc : Nat
  f : Fmt
  rows : Nat
  g : BitVec 11
  oc : Nat
  fo : Fmt
  bo : Byte
  cbo : Byte
  nblk : Nat
  x : Nat
  y : Nat
  ysel : Bool
  a2 : Nat
  b57 : Bool
  cout : Nat

/-- The fields of a REDUCE or SCAN. -/
def rowOp (w : SgaWords) : RowOp :=
  { func := bits w.w0 54 52, xc := bits w.w0 51 49, f := (fmtOf (bits w.w0 51 49)).getD (.conv .fp32)
    rows := 8 * (bits w.w0 48 47 + 1), g := BitVec.ofNat 11 (bits w.w0 46 36), oc := bits w.w0 35 32
    fo := (fmtOf (bits w.w0 35 32)).getD (.conv .fp32), bo := BitVec.ofNat 8 (bits w.w0 31 24)
    cbo := BitVec.ofNat 8 (bits w.w0 23 16), nblk := bits w.w0 15 0, x := bits w.w1 24 0, y := bits w.w1 56 32
    ysel := bit w.w1 57, a2 := bits w.w2 24 0, b57 := bit w.w2 57, cout := bits w.w3 24 0 }

/-- Field values that REDUCE and SCAN share (R108, Table 4-6). -/
def RowOp.legal (o : RowOp) (w : SgaWords) : Bool :=
  decide (o.xc ≤ 5) && decide (bits w.w0 48 47 ≤ 1) && (decide (o.oc ≤ 2) || o.oc == 6)
    && (if o.oc = 6 then o.bo == 0 else o.bo != 0x80)

/-- Granules of a row tile of `width`-bit elements. -/
def RowOp.tile (o : RowOp) (width : Nat) : Nat := o.nblk * (slabBytes width o.rows / 64)

/-- Granules of a block vector of `n` blocks (R65). -/
def vecGranules (width n : Nat) : Nat :=
  if n = 0 then 0 else (groupAt width 0 (n - 1) + 64 + ((n - 1) % 64 + 1) * (4 * width) + 63) / 64

/-- First byte of the elements of row `j`, block `i` of the tile at column offset `x`. -/
def RowOp.rowAt (o : RowOp) (x i j : Nat) : Nat := 64 * x + i * slabBytes o.f.width o.rows + 64 + j * (4 * o.f.width)

/-- The byte of the block exponent of row `j`, block `i`. -/
def RowOp.expByte (o : RowOp) (x i j : Nat) : Nat := 64 * x + i * slabBytes o.f.width o.rows + j

/-- Bytes of the row tile that the command reads. -/
def RowOp.tileReads (o : RowOp) : List (Nat × Nat) := [(64 * o.x, o.nblk * slabBytes o.f.width o.rows)]

/-- An element of the tile with its block exponent: code, exponent. -/
def RowOp.elem (o : RowOp) (r : Reader) (j p : Nat) : Option Nat × Byte :=
  (r.elem o.f.width (o.rowAt o.x (p / 32) j) (p % 32), r.exp (o.expByte o.x (p / 32) j))

/-- The format of y in a DOT (Table 4-6). -/
def RowOp.yFmt (o : RowOp) : Fmt :=
  if o.ysel then (if o.xc = 3 then .conv .e5m2 else .conv .e4m3) else o.f

/-- The products of row `j` for SUM, SUMSQ and DOT (R120). -/
def RowOp.prods (o : RowOp) (r : Reader) (j : Nat) : List Prod :=
  (List.range (32 * o.nblk)).map (fun p =>
    let a := o.elem r j p
    match o.func with
    | 0 => elemProd o.f o.f a.1 a.2 (some (oneCode o.f)) 0
    | 1 => elemProd o.f o.f a.1 a.2 a.1 a.2
    | _ =>
      let x := 64 * o.y
      elemProd o.f o.yFmt a.1 a.2 (r.elem o.yFmt.width (vecBlockAt o.yFmt x (p / 32)) (p % 32))
        (r.exp (vecExpAt o.yFmt.width x (p / 32))))

/-- A value that can be selected, with its position, code and exponent. -/
structure Pick where
  pos : Nat
  code : Nat
  exp : Byte
  val : Val

/-- The poison code of a format (R120). -/
def narCode : Fmt → Nat
  | .oct o => o.nar
  | .conv o => o.poison

/-- Whether an element is a NaR element (R120). -/
def narElem (f : Fmt) (e : Option Nat) (b : Byte) : Bool :=
  match e with
  | none => true
  | some c =>
    match f with
    | .oct o => c == o.nar || b == 0x80
    | .conv o => match o.operand c b with
      | .nar => true
      | _ => false

/-- `a` is to be preferred to `b` by MAX (or MIN): strictly beyond it, -0 below +0. -/
def beyond (mx : Bool) (a b : Val) : Bool := if mx then totalLt b a else totalLt a b

/-- MAX or MIN of row `j`: the 8 output bytes (R120). -/
def RowOp.select (o : RowOp) (r : Reader) (mx : Bool) (j : Nat) : List Byte :=
  let es := (List.range (32 * o.nblk)).map (fun p => (p, o.elem r j p))
  match es.find? (fun p => narElem o.f p.2.1 p.2.2) with
  | some p => leBytes 2 (narCode o.f) ++ [p.2.2, 0] ++ leBytes 4 p.1
  | none =>
    let ps : List Pick := es.map (fun p =>
      { pos := p.1, code := p.2.1.getD 0, exp := p.2.2, val := o.f.value (p.2.1.getD 0) p.2.2 })
    match ps with
    | [] => leBytes 2 0 ++ [0, 0] ++ leBytes 4 0xFFFFFFFF
    | x :: xs =>
      let b := xs.foldl (fun b a => if beyond mx a.val b.val then a else b) x
      leBytes 2 b.code ++ [b.exp, 0] ++ leBytes 4 b.pos

/-- A ledger converted to a format with a block exponent. -/
def ledgerTo (lprot disagree : Bool) (f : Fmt) (bo : Byte) (l : Ledger) : Nat × Bool × Ledger × Raised :=
  let rd := l.conv lprot disagree
  let v := f.encode (bexp bo) rd.1.value
  (v.1, v.2, rd.1, rd.2)

/-- REDUCE is legal (R108, R120). Table 4-6 gives YADDR to DOT alone: a nonzero one in another function is taken as illegal,
as a set bit of no field is (log 86). -/
def RowOp.reduceLegal (o : RowOp) (w : SgaWords) : Bool :=
  o.legal w && decide (o.func ≤ 4) && o.cbo == 0 && (o.func == 2 || (o.y == 0 && !o.ysel))
    && (!o.ysel || o.xc == 3 || o.xc == 4)

/-- Granules of the output of REDUCE. -/
def RowOp.reduceOut (o : RowOp) : Nat :=
  if 3 ≤ o.func then o.rows / 8 else if o.oc = 6 then (4 * o.rows + 63) / 64 else vecGranules o.fo.width 1

/-- The column ranges of REDUCE. -/
def RowOp.reduceRanges (o : RowOp) : List ColRange :=
  [(o.x, o.x + o.tile o.f.width), (o.a2, o.a2 + o.reduceOut)]
    ++ (if o.func = 2 then [(o.y, o.y + vecGranules o.yFmt.width o.nblk)] else [])

/-- Octave results as one block vector, FP32 results as words (R120). -/
def RowOp.writeReduce (o : RowOp) (c : Chip) (e : EngineId) (ups : Upsets) (codes : List Nat) : Chip :=
  if o.oc = 6 then c.engWrite e ups (64 * o.a2) (codes.flatMap (leBytes 4))
  else (c.engWrite e ups (64 * o.a2) [o.bo]).engWrite e ups (64 * o.a2 + 64)
    (packBlock o.fo.width (codes ++ List.replicate (32 - codes.length) 0))

/-- REDUCE (R120). One ledger serves each row (R119): row r has ledger r in the digest records (log 87). -/
def reduceOut (e : EngineId) (w : SgaWords) (ups : Upsets) (c : Chip) : SgaOut :=
  let o := rowOp w
  if !o.reduceLegal w then .fail c 0
  else if !c.covers e o.reduceRanges then .fail c 2
  else
    let c1 := c.engRead e (o.tileReads ++ if o.func = 2 then [(64 * o.y, 64 * vecGranules o.yFmt.width o.nblk)] else []) ups
    let r := c1.reader e
    if 3 ≤ o.func then
      .ok (c1.engWrite e ups (64 * o.a2) ((List.range o.rows).flatMap (o.select r (o.func == 3))))
    else
      let lprot := c.lprot (c.engine e).ctx
      let ls := (List.range o.rows).map (fun j =>
        let l := sumLedger lprot o.f.mode o.g (o.prods r j)
        let v := ledgerTo lprot r.disagree o.fo o.bo l.1
        (v.1, v.2.1, v.2.2.1, l.2.or v.2.2.2))
      let t : SgaTrace :=
        { raised := ls.foldl (fun x p => x.or p.2.2.2) Raised.none, sat := ls.countP (·.2.1)
          recs := (ls.zip (List.range o.rows)).map (fun p => p.1.2.2.1.record p.2) }
      let c2 := o.writeReduce c1 e ups (ls.map (·.1))
      let c3 := c2.modEngine e (fun k => { k with
        ledgers := (ls.zip (List.range o.rows)).foldl (fun t p => tset Ledger.zero t p.2 p.1.2.2.1) k.ledgers })
      .ok (c3.engReport e t)

/-- The bits of the fields of REDUCE and SCAN in words 0 to 6. -/
def rowFields (scan : Bool) : List Dword :=
  [maskOf 54 0, maskOf 24 0 ||| maskOf 56 32 ||| (if scan then 0 else maskOf 57 57),
   maskOf 24 0 ||| (if scan then maskOf 57 57 else 0), if scan then maskOf 24 0 else 0]

/-- REDUCE. -/
def execReduce (e : EngineId) (w : SgaWords) (ups : Upsets) (s : State) : Answer :=
  s.lift (fun c => c.sgaStep e 0x20 w (rowFields false) (reduceOut e w ups))

/-- SCAN is legal. Its carry-out is a converted block, which never receives the block exponent 0x80 (R50, log 111). -/
def RowOp.scanLegal (o : RowOp) (w : SgaWords) : Bool := o.legal w && o.func == 0 && o.cbo != 0x80

/-- Granules of the output of SCAN. -/
def RowOp.scanOut (o : RowOp) : Nat :=
  if o.oc = 6 then (128 * o.rows * o.nblk + 63) / 64 else o.tile o.fo.width

/-- The column ranges of SCAN: row tile, output, carry-in unless NOCIN, carry-out. -/
def RowOp.scanRanges (o : RowOp) : List ColRange :=
  let v := vecGranules o.f.width 1
  [(o.x, o.x + o.tile o.f.width), (o.y, o.y + o.scanOut), (o.cout, o.cout + v)]
    ++ (if o.b57 then [] else [(o.a2, o.a2 + v)])

/-- What the scan of one row gives: its prefix codes in position order, its carry-out and its last ledger. -/
structure RowScan where
  codes : List Nat
  carry : Nat
  ledger : Ledger
  raised : Raised
  sat : Nat
  recs : List (List Byte)

/-- The value of a ledger written in XFMT with block exponent CBO: a linear code carries the exponent too. -/
def carryOf (f : Fmt) (cbo : Byte) (v : Val) : Nat × Bool :=
  match f with
  | .oct o => o.round (bexp cbo) v
  | .conv o => match v with
    | .num n m e => o.encode (.num n m (e - bexp cbo))
    | v => o.encode v

/-- The scan of row `j` (R121): each prefix is exact until its own conversion; the row's ledger has the row's number in the
digest records (log 87). -/
def RowOp.scanRow (o : RowOp) (r : Reader) (lprot : Bool) (j : Nat) : RowScan :=
  let one := some (oneCode o.f)
  let l0 := freshLedger o.f.mode o.g
  let s0 : Ledger × Raised := if o.b57 then (l0, Raised.none) else
    l0.group lprot o.f.mode [elemProd o.f o.f (r.elem o.f.width (64 * o.a2 + 64) j) (r.exp (64 * o.a2)) one 0]
  let a0 : RowScan := { codes := [], carry := 0, ledger := s0.1, raised := s0.2, sat := 0, recs := [] }
  let a := (List.range (32 * o.nblk)).foldl (fun (a : RowScan) p =>
    let el := o.elem r j p
    let g := a.ledger.group lprot o.f.mode [elemProd o.f o.f el.1 el.2 one 0]
    let v := ledgerTo lprot r.disagree o.fo o.bo g.1
    { a with codes := a.codes ++ [v.1], ledger := v.2.2.1, raised := (a.raised.or g.2).or v.2.2.2
             sat := a.sat + b2n v.2.1, recs := a.recs ++ [v.2.2.1.record j] }) a0
  let rd := a.ledger.conv lprot r.disagree
  let k := carryOf o.f o.cbo rd.1.value
  { a with carry := k.1, ledger := rd.1, raised := a.raised.or rd.2, sat := a.sat + b2n k.2 }

/-- The output tile of SCAN: slabs with every block exponent BO, or FP32 row by row (R121). -/
def RowOp.writeScan (o : RowOp) (c : Chip) (e : EngineId) (ups : Upsets) (rs : List RowScan) : Chip :=
  if o.oc = 6 then
    c.engWrite e ups (64 * o.y) (rs.flatMap (fun a => a.codes.flatMap (leBytes 4)))
  else
    let slab := slabBytes o.fo.width o.rows
    (List.range o.nblk).foldl (fun c i =>
      let at_ := 64 * o.y + i * slab
      (c.engWrite e ups at_ (List.replicate o.rows o.bo)).engWrite e ups (at_ + 64)
        (rs.flatMap (fun a => packBlock o.fo.width ((a.codes.drop (32 * i)).take 32)))) c

/-- The digest records of a SCAN in output order: block by block in an octave tile, row by row in FP32, then
the carry-outs. -/
def RowOp.scanRecs (o : RowOp) (rs : List RowScan) : List (List Byte) :=
  let body := if o.oc = 6 then rs.flatMap (·.recs)
    else (List.range o.nblk).flatMap (fun i => rs.flatMap (fun a => (a.recs.drop (32 * i)).take 32))
  body ++ (rs.zip (List.range rs.length)).map (fun p => p.1.ledger.record p.2)

/-- SCAN (R121). -/
def scanOut (e : EngineId) (w : SgaWords) (ups : Upsets) (c : Chip) : SgaOut :=
  let o := rowOp w
  if !o.scanLegal w then .fail c 0
  else if !c.covers e o.scanRanges then .fail c 2
  else
    let cin := if o.b57 then [] else [(64 * o.a2, 1), (64 * o.a2 + 64, o.rows * o.f.width / 8)]
    let c1 := c.engRead e (o.tileReads ++ cin) ups
    let lprot := c.lprot (c.engine e).ctx
    let rs := (List.range o.rows).map (o.scanRow (c1.reader e) lprot)
    let t : SgaTrace :=
      { raised := rs.foldl (fun x a => x.or a.raised) Raised.none, sat := (rs.map (·.sat)).sum, recs := o.scanRecs rs }
    let c2 := o.writeScan c1 e ups rs
    let c3 := (c2.engWrite e ups (64 * o.cout) [o.cbo]).engWrite e ups (64 * o.cout + 64)
      (packBlock o.f.width (rs.map (·.carry) ++ List.replicate (32 - o.rows) 0))
    let c4 := c3.modEngine e (fun k => { k with
      ledgers := (rs.zip (List.range o.rows)).foldl (fun t p => tset Ledger.zero t p.2 p.1.ledger) k.ledgers })
    .ok (c4.engReport e t)

/-- SCAN. -/
def execScan (e : EngineId) (w : SgaWords) (ups : Upsets) (s : State) : Answer :=
  s.lift (fun c => c.sgaStep e 0x21 w (rowFields true) (scanOut e w ups))

/-- The fields of GATHER (Table 4-6). -/
structure GatherOp where
  n : Nat
  iaddr : Nat
  rs : Nat
  src : Nat
  out : Nat
  nrows : Nat

/-- The fields of a GATHER. -/
def gatherOp (w : SgaWords) : GatherOp :=
  { n := bits w.w0 31 0, iaddr := bits w.w1 24 0, rs := bits w.w1 40 32, src := bits w.w2 24 0, out := bits w.w2 56 32
    nrows := bits w.w3 31 0 }

/-- The column ranges of GATHER (R109). -/
def GatherOp.ranges (o : GatherOp) : List ColRange :=
  [(o.iaddr, o.iaddr + (4 * o.n + 63) / 64), (o.src, o.src + o.nrows * o.rs), (o.out, o.out + o.n * o.rs)]

/-- One line copied with its poison tag (R122). -/
def Chip.copyLine (c : Chip) (e : EngineId) (ups : Upsets) (src dst : Nat) : Chip :=
  let r := c.readLine (engLine e src) ups false
  r.2.writeLine (r.2.engine e).ctx (engLine e dst) r.1.data r.1.poison

/-- One index of GATHER: the row is copied, or the copying ends (R122). The line of the index list is decoded once for each
index taken from it (log 85). -/
def gatherStep (e : EngineId) (o : GatherOp) (ups : Upsets) (s : Chip × Bool) (i : Nat) : Chip × Bool :=
  if s.2 then s
  else
    let line := engLine e (o.iaddr + i / 16)
    let c1 := s.1.decodeLine line (errsOf ups line) true
    if c1.tag line then
      let c2 := c1.modEngine e (fun k => { k.raise 12 with cntPoison := satInc k.cntPoison 1 })
      (c2.consume (.engine e) (lineStack line) (c2.localOf line / 1024) (c2.engine e).err, true)
    else
      let idx := unle (rdBytes c1.mem.dram (engBase e + 64 * o.iaddr + 4 * i) 4)
      if o.nrows ≤ idx then (c1, true)
      else ((List.range o.rs).foldl (fun c k => c.copyLine e ups (o.src + idx * o.rs + k) (o.out + i * o.rs + k)) c1, false)

/-- GATHER (R122). -/
def gatherOut (e : EngineId) (w : SgaWords) (ups : Upsets) (c : Chip) : SgaOut :=
  let o := gatherOp w
  if o.rs = 0 ∨ 256 < o.rs ∨ o.nrows = 0 then .fail c 0
  else if !c.covers e o.ranges then .fail c 2
  else
    let r := (List.range o.n).foldl (gatherStep e o ups) (c, false)
    if r.2 then { chip := r.1, stop := some 4, faulted := true } else .ok r.1

/-- GATHER. -/
def execGather (e : EngineId) (w : SgaWords) (ups : Upsets) (s : State) : Answer :=
  s.lift (fun c => c.sgaStep e 0x30 w
    [maskOf 31 0, maskOf 24 0 ||| maskOf 40 32, maskOf 24 0 ||| maskOf 56 32, maskOf 31 0] (gatherOut e w ups))

end Sys2Proof.Machine
end

