-- ==== Sys2Proof/Machine/Words.lean ====
section
/-! DEFINITION. Status words of the register blocks: what a read of them shows (Tables 3-10 to 3-14, 4-9 to
4-12, 5-7 to 5-10, 6-9 to 6-12, 7-8 to 7-14, 8-6, 8-7, 10-14, 10-17, 12-11). -/
namespace Sys2Proof.Machine

/-- Context word of a unit: CORE_CTX, SGA_CTX. -/
def ctxWord (x : Option CtxId) (gen : BitVec 16) : Word :=
  match x with
  | some i => fld i.val 0 ||| flag true 4 ||| fld gen.toNat 8
  | none => fld gen.toNat 8

/-- The counter that a unit waits on, zero where it does not (Tables 3-11, 4-10). -/
def Wait.ctr : Wait → Nat
  | .sync i _ _ => i.toNat
  | _ => 0

/-- Parity mode concerns the context of a core (R386). -/
def Chip.inParity (c : Chip) (x : Option CtxId) : Bool :=
  match x with
  | none => false
  | some i => match c.pwr.parity.toNat with
    | 1 => true
    | 2 => false
    | _ => decide (2 ≤ (c.ctx i).span)

/-- The frequency of a core in 5 MHz units but for its thermal limit (R369). -/
def Chip.coreFree (c : Chip) (n : CoreId) : Nat :=
  let f := min (c.core n).clock.fmax.toNat (if coreDie n.val = 0 then c.pwr.ceil0 else c.pwr.ceil1).toNat
  if c.inParity (c.core n).ctx then min f 140 else f

/-- FNOW (R369): 0 when the clock is gated. -/
def Chip.coreFnow (c : Chip) (n : CoreId) : Nat :=
  if (c.core n).clock.gated then 0 else min (c.coreFree n) (c.core n).clock.limit.toNat

/-- A core lowered by its thermal limit. -/
def Chip.throttled (c : Chip) (n : CoreId) : Bool := decide ((c.core n).clock.limit.toNat < c.coreFree n)

/-- CORE_CLK (Table 3-13). -/
def Chip.clkWord (c : Chip) (n : CoreId) : Word :=
  fld (c.core n).clock.fmax.toNat 16 ||| fld (c.coreFnow n) 8 ||| flag (c.inParity (c.core n).ctx) 7 ||| flag (c.throttled n) 6

/-- SGA_DUTY in sixteenths: the stack's share less the thermal steps, at least 1 (R369, R372). -/
def Chip.sgaDuty (c : Chip) (e : EngineId) : Nat :=
  max 1 ((tget 16 c.pwr.sgaDuty (engStack e.val)).toNat - (c.engine e).down)

/-- CORE_STATUS (Table 3-11). -/
def Core.statusWord (k : Core) : Word :=
  fld k.state.code 28 ||| flag k.ballast 27 ||| flag k.wakeHold 26 ||| flag k.servedBy.isSome 25
    ||| fld k.mq.length 16 ||| fld (if k.state = .waitSync then k.wait.ctr else 0) 8

/-- CORE_SITE (Table 3-14). -/
def Core.siteWord (k : Core) (n : Nat) : Word :=
  flag (isSpareSite n) 28 ||| fld (k.site n) 16 ||| fld ((k.serves.map (·.toNat)).getD 0xFFF) 0

/-- SGA_STATUS (Table 4-10). -/
def Engine.statusWord (k : Engine) : Word :=
  fld k.state.code 28 ||| flag k.servedBy.isSome 27 ||| fld k.op.toNat 16
    ||| fld (if k.state = .waitSync then k.wait.ctr else 0) 12

/-- SGA_SITE (Table 4-12). -/
def Engine.siteWord (k : Engine) (e : Nat) : Word :=
  flag (decide (64 ≤ engIdx e)) 28 ||| fld (engIdx (k.site e)) 16 ||| fld ((k.serves.map (·.toNat)).getD 0x7F) 0

/-- Degrees C as an unsigned byte. -/
def celsius (t : BitVec 16) : Nat := min 255 (t.toInt / 16).toNat

/-- STK_STATUS (Table 5-8): HOT while a DRAM die is above 85 degrees C. -/
def Stack.statusWord (k : Stack) : Word :=
  fld k.state.code 28 ||| flag (decide (1360 < k.dram.toInt)) 27 ||| flag k.scrub 26 ||| fld k.plogNext.toNat 21
    ||| fld (celsius k.dram) 8

/-- STK_BAND (Table 5-10). -/
def Band.word (b : Band) : Word := flag b.valid 31 ||| flag b.column 30 ||| flag b.clearing 29 ||| fld b.owner.val 0

/-- FRM_STATUS (Table 6-10). -/
def Frm.statusWord (f : Frm) : Word :=
  fld f.state.code 28 ||| flag f.srcB 27 ||| flag f.inA.good 26 ||| flag f.inB.good 25 ||| flag f.inA.hold 24
    ||| flag f.inB.hold 23 ||| flag (f.debt != 0) 22 ||| flag f.broken 21 ||| fld f.holdFrames 0

/-- LNK_STATUS (Table 7-9). -/
def Link.statusWord (k : Link) : Word :=
  fld k.state.code 28 ||| fld k.width 23 ||| flag k.short 22 ||| flag k.reversed 21 ||| fld k.cause.toNat 17 ||| flag k.loopback 16

/-- LNK_STATUS of a link of the package: loopback is in force only in BRINGUP (R210). -/
def Chip.linkStatus (c : Chip) (l : LinkId) : Word :=
  { c.link l with loopback := (c.link l).loopback && decide (c.mbx.dstate = DState.bringup) : Link }.statusWord

/-- Every control codeword sent on a link has been acknowledged, and none is queued for it (R235). -/
def Link.allAcked (k : Link) : Bool := k.held.isEmpty && !k.resend && k.ctlOut.isEmpty

/-- A link is drained (R235): DOWN, or draining with no control packet queued for it and every control codeword
acknowledged. -/
def Link.isDrained (k : Link) : Bool := k.state == .down || (k.draining && k.allAcked)

/-- RTE_STATUS (Table 8-7). -/
def Chip.rteStatus (c : Chip) : Word :=
  allLinks.foldl (fun w l => w ||| flag (c.link l).isDrained (24 + l.val)) 0 ||| fld c.rte.llogNext.toNat 12
    ||| fld c.rte.origin.length 0

/-- MBX_STATUS (Table 10-14). -/
def Mbx.statusWord (m : Mbx) : Word :=
  fld m.dstate.code 28 ||| flag m.fwRun 27 ||| flag (m.shed != 0) 26 ||| fld m.shed.toNat 24 ||| fld m.load.toNat 16

/-- MBX_IBEX (Table 10-17). -/
def Mbx.ibexWord (m : Mbx) : Word :=
  flag m.unitA.ok 31 ||| flag m.unitB.ok 30 ||| flag m.synced 29 ||| flag m.single 28 ||| fld m.resync.toNat 0

/-- STATE byte of a slot. -/
def Mbx.slotState (m : Mbx) (s : SlotId) : Byte := rdByte m.store (0x1000 * s.val)

/-- MBX_SLOTS_LO and MBX_SLOTS_HI: two bits per slot of sixteen slots. -/
def Mbx.slotsWord (m : Mbx) (hi : Bool) : Word :=
  (List.range 16).foldl (fun w i => w ||| fld ((rdByte m.store (0x1000 * (16 * b2n hi + i))).toNat % 4) (2 * i)) 0

/-- RDOMAIN: the largest reset in progress; a context that is RESETTING, or has been reset at the present boundary, has the smallest
(log 114). -/
def Chip.rdomainNow (c : Chip) : Nat :=
  if c.flt.rdomain = 0 ∧ allCtxs.any (fun x => (c.ctx x).state == .resetting || (c.ctx x).justReset) then 1 else c.flt.rdomain.toNat

/-- FLT_STATUS (Table 12-11). -/
def Chip.fltStatus (c : Chip) : Word :=
  fld c.flt.rphase.toNat 28 ||| fld c.rdomainNow 25 ||| flag c.flt.trial.isSome 24
    ||| fld ((c.flt.trial.map (·.val)).getD 0) 20 ||| fld c.flt.waiting.length 16
    ||| fld (min 255 c.nor.pending.length) 8 ||| fld c.flt.dossiers.length 0

end Sys2Proof.Machine
end

