-- ==== Sys2Proof/Machine/Dossier.lean ====
section
/-! DEFINITION. Reset dossiers (R328, R329). Offsets inside sections 1 to 9 are not in the spec: fields stand
in the order of Table 12-4 (log 12). -/
namespace Sys2Proof.Machine

/-- Four little-endian bytes of a register. -/
def wordBytes (w : Word) : List Byte := leBytes 4 w.toNat

/-- Section 2. -/
def Chip.dossDevice (c : Chip) : List Byte :=
  [c.mbx.statusWord, c.mbx.ibexWord, c.frm.statusWord, c.frm.err, c.rteStatus, c.rte.err].flatMap wordBytes
    ++ allLinks.flatMap (fun l => wordBytes (c.linkStatus l))
    ++ allStacks.flatMap (fun s => wordBytes (c.stack s).statusWord)
    ++ [c.fltStatus, c.flt.err].flatMap wordBytes

/-- Section 3. -/
def Chip.dossMailbox (c : Chip) : List Byte :=
  (List.range 32).flatMap (fun i => rdBytes c.mbx.store (0x1000 * i) 32)
    ++ [c.mbx.slotsWord false, c.mbx.slotsWord true, c.mbx.ringHead.setWidth 32, c.mbx.ringTail.setWidth 32].flatMap wordBytes
    ++ (c.img.held.take 64).flatMap (fun f => f.entry c.mbx.phase c.now)

/-- An entry of section 4. -/
def Chip.dossCtx (c : Chip) (i : CtxId) : List Byte :=
  let x := c.ctx i
  padTo ([BitVec.ofNat 8 x.state.code, BitVec.ofNat 8 (b2n (bit c.flt.suspect i.val))] ++ leBytes 2 (x.reasonMask (c.digCtx i)).toNat
    ++ leBytes 2 (c.digCtx i).confirmed.toNat ++ [BitVec.ofNat 8 x.runs.length, 0]
    ++ x.runs.flatMap (fun r => wordBytes (r.base + BitVec.ofNat 32 r.next))) 256

/-- Registers of a core that read as zero: its number is fused off (R2), or it does not answer the collection (R328). -/
def Chip.coreBlank (c : Chip) (n : CoreId) : Bool :=
  (c.fuse.coreState n.val == 3) || c.flt.silent.contains (unitNo (.core n))

/-- The same for an engine. -/
def Chip.engineBlank (c : Chip) (e : EngineId) : Bool :=
  (c.fuse.sgaState e.val == 3) || c.flt.silent.contains (unitNo (.engine e))

/-- Section 5: one entry of 64 bytes per core; zero for a core that is fused off or does not answer. -/
def Chip.dossCore (c : Chip) (n : CoreId) : List Byte :=
  let k := c.core n
  if c.coreBlank n then List.replicate 64 0 else
  padTo ([k.statusWord, k.err, k.pc.setWidth 32, ctxWord k.ctx k.gen
      , c.clkWord n, k.siteWord n.val
      , tget 0 k.ctr k.wait.ctr, BitVec.ofNat 32 k.flights.length, (k.step.map (·.step)).getD 0].flatMap wordBytes
    ++ leBytes 8 c.now.toNat) 64

/-- The four words of a descriptor. -/
def MoveDesc.bytes (d : MoveDesc) : List Byte :=
  leBytes 8 d.w0.toNat ++ leBytes 8 d.w1.toNat ++ leBytes 8 d.w2.toNat ++ leBytes 8 d.w3.toNat

/-- Section 6: the moves in flight, those queued, and those that a stop discarded, the failing one among them (R89, R99). -/
def Chip.dossMoves (c : Chip) : List Byte :=
  c.cores.flatMap (fun p =>
    let ds := p.2.flights.map (·.desc) ++ p.2.mq.map (·.desc) ++ p.2.frec.discarded
    if ds.isEmpty then [] else leBytes 2 p.1 ++ leBytes 2 ds.length ++ ds.flatMap (·.bytes))

/-- Section 7. -/
def Chip.dossCounters (c : Chip) : List Byte :=
  c.cores.flatMap (fun p => p.2.ctr.flatMap (fun q => leBytes 2 p.1 ++ [BitVec.ofNat 8 q.1, 0] ++ wordBytes q.2))
    ++ c.engines.flatMap (fun p => p.2.ctr.flatMap (fun q =>
      leBytes 2 (unitNo (.engine (Fin.ofNat 1632 p.1))).toNat ++ [BitVec.ofNat 8 q.1, 0] ++ wordBytes q.2))

/-- An entry of section 8, 128 bytes. -/
def Chip.dossEngine (c : Chip) (e : EngineId) : List Byte :=
  let k := c.engine e
  if c.engineBlank e then List.replicate 128 0 else
  padTo ([k.statusWord, k.err, k.pc.setWidth 32, ctxWord k.ctx k.gen, k.siteWord e.val].flatMap wordBytes
    ++ (List.range 16).flatMap (fun i => wordBytes (tget 0 k.ctr i)) ++ wordBytes ((k.step.map (·.step)).getD 0)
    ++ leBytes 8 c.now.toNat) 128

/-- Section 9. -/
def Chip.dossIbex (c : Chip) : List Byte :=
  [BitVec.ofNat 8 (b2n c.mbx.activeB), 0] ++ leBytes 2 c.mbx.copyLfn.toNat ++ leBytes 4 c.mbx.intents.length
    ++ c.mbx.intents.flatMap (fun i => leBytes 2 i.cmd.slot.val ++ leBytes 2 i.cmd.opcode.toNat ++ wordBytes i.cmd.ctag)
    ++ allCtxs.flatMap (fun i => (c.digCtx i).verdicts.flatMap (fun v => leBytes 2 v.1.toNat ++ [BitVec.ofNat 8 i.val, BitVec.ofNat 8 (b2n v.2)]))

/-- Maximum sizes of the sections in bytes (Table 12-4). -/
def dossMax : List Nat := [256, 4096, 16384, 8192, 4096, 156672, 1048576, 524288, 208896, 65536]

/-- What a dossier is collected for. -/
structure DossierCause where
  domain : Byte
  event : Nat
  unit : BitVec 16 := 0xFFFF
  ctxMask : BitVec 16 := 0

/-- Section 1: the triggering condition, the watchdog that fired, the steps of escalation with their times, and the resets absorbed. -/
def Chip.dossCause (c : Chip) (d : DossierCause) : List Byte :=
  leBytes 2 d.event ++ leBytes 2 d.unit.toNat ++ leBytes 2 d.ctxMask.toNat ++ [d.domain, c.flt.dog] ++ leBytes 8 c.now.toNat
    ++ leBytes 4 c.flt.escal.length ++ leBytes 4 c.flt.absorbed.length
    ++ c.flt.escal.flatMap (fun s => [s.1, 0, 0, 0, 0, 0, 0, 0] ++ leBytes 8 s.2.toNat)
    ++ c.flt.absorbed.flatMap (fun a => [a.1, 0] ++ leBytes 2 a.2.toNat)

/-- Sections 1 to 9; a short dossier has sections 1 and 4 only (R329). -/
def Chip.dossSections (c : Chip) (d : DossierCause) (full : Bool) : List (List Byte) :=
  let ctxs := allCtxs.flatMap c.dossCtx
  if full then
    [c.dossCause d, c.dossDevice, c.dossMailbox, ctxs, allCores.flatMap c.dossCore, c.dossMoves, c.dossCounters
    , allEngines.flatMap c.dossEngine, c.dossIbex]
  else [c.dossCause d, [], [], ctxs, [], [], [], [], []]

/-- Offsets and lengths of sections from an offset on. -/
def dirFrom (o : Nat) : List (List Byte) → List Byte
  | [] => []
  | s :: ss => leBytes 4 o ++ leBytes 4 s.length ++ dirFrom (o + s.length) ss

/-- The bytes of a dossier (Tables 12-4, 12-5) and whether a section was cut. -/
def Chip.dossBytes (c : Chip) (d : DossierCause) (full : Bool) (seq : Nat) : List Byte × Bool :=
  let ss := c.dossSections d full
  let cut := (ss.zip (dossMax.drop 1)).map (fun p => p.1.take p.2)
  let trunc := (ss.zip (dossMax.drop 1)).any (fun p => decide (p.2 < p.1.length))
  let body := cut.flatten
  let t := leBytes 8 c.now.toNat
  let head := ascii "GL4DOSS1" ++ leBytes 4 (256 + body.length) ++ leBytes 4 seq
    ++ [d.domain, BitVec.ofNat 8 (b2n trunc + 2 * b2n (full && !c.flt.silent.isEmpty))]
    ++ leBytes 2 d.event ++ t ++ t ++ [BitVec.ofNat 8 c.mbx.dstate.code, BitVec.ofNat 8 (b2n c.mbx.activeB)]
    ++ leBytes 2 d.unit.toNat ++ leBytes 2 d.ctxMask.toNat ++ List.replicate 22 0
    ++ dirFrom 0 [List.replicate 256 0] ++ dirFrom 256 cut
  (padTo head 256 ++ body, trunc)

/-- Markhor collects a full dossier: the 4 newest are kept (R328, R329). -/
def Chip.collect (c : Chip) (d : DossierCause) : Chip :=
  let seq := c.flt.dossierSeq + 1
  let b := c.dossBytes d true seq.toNat
  let flt := { c.flt with dossierSeq := seq, dossiers := ({ seq := seq, domain := d.domain, bytes := b.1 } :: c.flt.dossiers).take 4 }
  if b.2 then { c with flt := flt }.fltErr 11 else { c with flt := flt }

/-- A context reset adds a short dossier to a ring of 64 (R329). -/
def Chip.collectShort (c : Chip) (d : DossierCause) : Chip :=
  let seq := c.flt.dossierSeq + 1
  let b := c.dossBytes d false seq.toNat
  { c with flt := { c.flt with
      dossierSeq := seq, shorts := ({ seq := seq, domain := d.domain, bytes := b.1 } :: c.flt.shorts).take 64 } }

/-- The dossier of an index (R329): 0 the newest full one, 0x100 the newest short one. -/
def Flt.dossierAt (f : Flt) (i : Nat) : Option Dossier :=
  if i < 4 then f.dossiers[i]? else if 0x100 ≤ i ∧ i < 0x140 then f.shorts[i - 0x100]? else none

end Sys2Proof.Machine
end

