-- ==== Sys2Proof/Machine/Domains.lean ====
section
/-! DEFINITION. Stopping and resetting the units of a context, tombstones, holds, the end of runs, and the
starts of steps (R24, R89, R99, R128, R232, R254, R290, R304-R309). -/
namespace Sys2Proof.Machine

/-! Units. -/

/-- A unit state in which a program is in progress. -/
def UnitState.active : UnitState → Bool
  | .run => true
  | .waitSync => true
  | .waitTick => true
  | _ => false

/-- A unit that is enabled and in service: it can be bound and started. -/
def UnitState.usable : UnitState → Bool
  | .none => false
  | .spare => false
  | .quarantined => false
  | _ => true

/-- The core stopped without an error of its own (R306 step 2): moves not started are discarded (R89). -/
def Core.quiet (k : Core) : Core :=
  { k with
    state := if k.state.active then .stopped else k.state, wait := .none, wakeHold := false, ballast := false, mq := []
    clock := { k.clock with off := false }
    frec := { k.frec with stopped := k.frec.stopped || k.state.active, discarded := k.frec.discarded ++ k.mq.map (·.desc) } }

/-- The engine stopped without an error of its own: the command in progress and every later one get not done (R128). -/
def Engine.quiet (k : Engine) : Engine :=
  if k.state.active then
    { k with state := .stopped, wait := .none, sig := none, held := none
             frec := { k.frec with stopped := true, statuses := k.frec.statuses ++ [1], laterNotDone := true } }
  else k

/-- A core's program-visible state cleared (Table 3-1); one that was idle is so no more (R380). -/
def Core.clearState (k : Core) : Core :=
  { k with a := [], v := [], ledgers := [], ctr := [], loops := [], mq := [], wait := .none, wakeHold := false, stale := []
           clock := { k.clock with off := false } }

/-- A context reset of a core (R24): ledgers, counters and queue reset, the context's regions cleared, a new
generation (R91). -/
def Core.ctxReset (k0 : Core) : Core :=
  let k := k0.quiet.clearState
  { k with
    sram := tclear k.sram saveLo ctxHi, poison := tclear k.poison (saveLo / 64) (ctxHi / 64)
    sramErr := tclear k.sramErr (saveLo / 8) (ctxHi / 8), gen := k.gen + 1, lane := Lane.zero
    frec := FrameRecord.zero, step := none, state := if k.state.usable then .idle else k.state }

/-- A context reset of an engine. -/
def Engine.ctxReset (k0 : Engine) : Engine :=
  let k := k0.quiet
  { k with
    ctr := [], ledgers := [], lane := Lane.zero, frec := FrameRecord.zero, work := WorkStore.zero, step := none, gen := k.gen + 1
    state := if k.state.usable then .idle else k.state }

/-- The cores bound to a context. -/
def Chip.ctxCores (c : Chip) (x : CtxId) : List CoreId :=
  (c.cores.filter (fun p => p.2.ctx == some x)).map (fun p => Fin.ofNat 2448 p.1)

/-- The engines bound to a context. -/
def Chip.ctxEngines (c : Chip) (x : CtxId) : List EngineId :=
  (c.engines.filter (fun p => p.2.ctx == some x)).map (fun p => Fin.ofNat 1632 p.1)

/-- All units of a context are changed. -/
def Chip.modUnits (c : Chip) (x : CtxId) (f : Core → Core) (g : Engine → Engine) : Chip :=
  let c1 := (c.ctxCores x).foldl (fun c n => c.modCore n f) c
  (c.ctxEngines x).foldl (fun c e => c.modEngine e g) c1

/-! Circuits. -/

/-- A circuit is tombstoned (R232). -/
def Plan.tomb (p : Plan) (i : Nat) : Plan :=
  let e := tget 0 p.circ i
  if circTomb e then p else { p with circ := tset 0 p.circ i (setBit e 30), tombAge := tset 0 p.tombAge i 0 }

/-- A circuit that a context owns: valid, no FORWARD circuit, of its CTX. -/
def circOwned (e : Word) (x : CtxId) : Bool := circValid e && circRole e != 1 && circCtx e == x.val

/-- Every circuit of a context is tombstoned (R232). -/
def Plan.tombCtx (p : Plan) (x : CtxId) : Plan :=
  p.circ.foldl (fun q i => if circOwned i.2 x then q.tomb i.1 else q) p

/-- The circuit of a context in tray-global mode to a tray position: a remote-memory circuit that it originates
toward that package of its own tray (R154, R219). -/
def Chip.rmemOf (c : Chip) (x : CtxId) (pos : Nat) : Nat :=
  if (c.ctx x).tray then
    ((c.plan.circ.find? (fun e => circOwned e.2 x && !circTomb e.2 && circRole e.2 == 0 && circKind e.2 == 1
      && circDst e.2 == 4 * (c.pkgNo / 4) + pos)).map (·.1)).getD 0
  else 0

/-- RTE_RMEM of a context is recorded (R219). -/
def Chip.recordRmem (c : Chip) (x : CtxId) : Chip :=
  c.modRte (fun r => { r with rmem := (List.range 4).foldl (fun t p =>
      tset 0 t (4 * x.val + p) (BitVec.ofNat 16 (c.rmemOf x p))) r.rmem })

/-- A circuit is bound: valid, and no tombstone stands on it (R232, R233). -/
def circBound (e : Word) : Bool := circValid e && !circTomb e

/-- The flows of the circuits that have become active start at SEQ 0 (R230). -/
def Rte.freshFlows (r : Rte) (fresh : Nat → Bool) : Rte :=
  { r with
    flowSeq := r.flowSeq.filter (fun q => !fresh (q.1 % 65536)), respSeq := r.respSeq.filter (fun q => !fresh q.1) }

/-- What follows a change of the circuit table from `old`: flows of circuits that became active start afresh, and RTE_RMEM of
every context is recorded (R219, R230). -/
def Chip.circuitsChanged (c : Chip) (old : Tab Word) : Chip :=
  let fresh := fun i => circBound (c.circ i) && !circBound (tget 0 old i)
  allCtxs.foldl Chip.recordRmem (c.modRte (fun r => r.freshFlows fresh))

/-- The active plan no longer binds the circuits of a context that is torn down, so that they stay invalid
when their tombstones expire (R232, Table 8-4). -/
def Plan.dropCtx (p : Plan) (x : CtxId) : Plan :=
  { p with active := p.active.map (fun a => { a with circs := a.circs.filter (fun i => !circOwned i.2 x) }) }

/-! Contexts. -/

/-- The context state changes (Table 11-9 TCHANGE). -/
def Chip.setCtxState (c : Chip) (x : CtxId) (s : CtxState) : Chip :=
  if (c.ctx x).state = s then c else c.modCtx x (fun k => { k with state := s, tchange := c.now })

/-- The moves that a stop discards are counted in the status of their step (R311). -/
def Chip.countNotDone (c : Chip) (x : CtxId) : Chip :=
  (c.ctxCores x).foldl (fun c n =>
    let k := c.core n
    c.addNotDone (some x) (k.step.map (·.step)) k.mq.length) c

/-- A memory access of a context is still on its way: an LD or ST in flight. -/
def Chip.inFlight (c : Chip) (x : CtxId) : Bool :=
  c.cores.any (fun p => p.2.flights.any (fun f => f.ctx == some x && decide (f.desc.kind ≤ 1)))

/-- A completion that orders memory: it is written once every memory access of the context has taken effect (R287). -/
def Chip.finishAfter (c : Chip) (x : CtxId) (cmd : Cmd) (ring : Bool) (status : BitVec 16) (detail arg : Word) : Chip :=
  if c.inFlight x then
    let f : Final := { cmd := cmd, ring := ring, boundary := false, frame := c.frm.frame, status := status, detail := detail, arg := arg, resp := [] }
    c.modCtx x (fun k => { k with unpaid := k.unpaid ++ [f] })
  else c.finish cmd ring status detail arg []

/-- The completions that a context owes are written when nothing of it is in flight any more. -/
def Chip.payUnpaid (c : Chip) (x : CtxId) : Chip :=
  if (c.ctx x).unpaid.isEmpty || c.inFlight x then c
  else (c.ctx x).unpaid.foldl (fun c f => c.finish f.cmd f.ring f.status f.detail f.arg f.resp) (c.modCtx x (fun k => { k with unpaid := [] }))

/-- A step replay in progress ends without a comparison: its command gets FAULTED (R311). -/
def Chip.dropReplay (c : Chip) (x : CtxId) : Chip :=
  match (c.ctx x).replay with
  | some r => (c.modCtx x (fun k => { k with replay := none })).finish r.cmd true stFaulted 0 0 []
  | none => c

/-- A context reset (R24, R306): units stopped and cleared with a new generation, circuits tombstoned,
transfer sums reset (R245), the last load list to be repeated (R304), a short dossier added (R329). -/
def Chip.resetContext (c : Chip) (x : CtxId) : Chip :=
  let c1 := (c.countNotDone x).modUnits x Core.ctxReset Engine.ctxReset
  let c2 := { c1 with plan := c1.plan.tombCtx x }.recordRmem x
  let c3 := c2.modDig x (fun d => { d with inSums := [], outSums := [] })
  let c4 := (c3.dropReplay x).modCtx x (fun k => { k with loads := k.loadList, justReset := true, resetSince := true })
  c4.collectShort { domain := 1, event := 0, ctxMask := ctxBit x }

/-- A context reset at a boundary at which the context may have been reset already: one reset is made (R308). -/
def Chip.resetOnce (c : Chip) (x : CtxId) : Chip := if (c.ctx x).justReset then c else c.resetContext x

/-- The step statuses of a context, changed by code. -/
def Ctx.recode (x : Ctx) (f : Byte → Byte) : Ctx :=
  { x with statuses := x.statuses.map (fun s => { s with code := f s.code }) }

/-- A run at its first step that is not committed (R306). -/
def Run.remember (r : Run) : Run := { r with next := r.committed, running := none, replayed := false }

/-- The number of the last step of a run that is committed, 0 before the first. -/
def Run.lastStep (r : Run) : Word := if r.committed = 0 then 0 else r.base + BitVec.ofNat 32 (r.committed - 1)

/-- The steps of a run that have not started, or are to be started again, receive NOT_RUN; of a long run the last 4,096, which are all
that is kept (R311). -/
def Ctx.notRun (x : Ctx) (r : Run) : Ctx :=
  let from_ := max r.next (r.count - 4096)
  let fresh := ((List.range (r.count - from_)).map (fun i => r.base + BitVec.ofNat 32 (from_ + i))).filter (fun st =>
    !x.statuses.any (fun s => s.step == st))
  let l := x.statuses.map (fun s => if inSteps s.step r.base r.next r.count ∧ (s.code = 0 ∨ s.code = 5) then { s with code := 7 } else s)
    ++ fresh.map (fun st => { step := st, code := 7, flags := 0, lfn := 0, notDone := 0, unit := 0xFFFF, err := 0 })
  { x with statuses := l.drop (l.length - 4096) }

/-- A run ends before its last step is confirmed: its command gets FAULTED with the steps completed and the
first that is not (R10, R311). -/
def Chip.endRun (c : Chip) (x : CtxId) (r : Run) : Chip :=
  (c.modCtx x (fun k => k.notRun r)).finishAfter x r.cmd true stFaulted
    (BitVec.ofNat 32 (min r.confirmed 0xFFFF + 65536 * (r.committed % 65536))) r.lastStep

/-- Every run of a context ends. -/
def Chip.endRuns (c : Chip) (x : CtxId) : Chip :=
  let rs := (c.ctx x).runs
  (rs.foldl (fun c r => c.endRun x r) c).modCtx x (fun k => { k with runs := [] })

/-- The STEP that a CONTEXT_FAULT names: the first step not committed of the first run (Table 12-7). -/
def Ctx.faultStep (x : Ctx) : Nat := match x.runs.head? with
  | some r => (r.base + BitVec.ofNat 32 r.committed).toNat
  | none => 0

/-- A context held with FAULT or stopped with FAULTED: its runs end and a beacon is sent (Table 12-7). -/
def Chip.contextFault (c : Chip) (x : CtxId) : Chip :=
  (c.event { code := 3, severity := 1, ctxMask := ctxBit x, arg := (c.ctx x).faultStep }).endRuns x

/-- A context is held for the reasons of a mask (R306): a context already held only gains them. Its running steps are ABANDONED; a
step that awaits its verdict in the frame that begins is decided with that frame. -/
def Chip.enterHold (c : Chip) (x : CtxId) (why : BitVec 16) : Chip :=
  let k := c.ctx x
  let c1 := c.modCtx x (fun k => { k with held := k.held ||| why, holdNext := 0 })
  let c2 := if bit why 7 && !bit k.held 7 then c1.contextFault x else c1
  if k.state = .loaded ∨ k.state = .running then
    ((c2.resetContext x).modCtx x (fun k =>
      { (k.recode (fun b => if b = 1 then 8 else b)) with runs := k.runs.map (·.remember) })).setCtxState x .held
  else c2

/-! Loads (R290, R304). -/

/-- One granule of a load reaches its unit. -/
def Chip.loadGranule (c : Chip) (x : CtxId) (u : UnitId) (dest : Nat) (g : Granule) : Chip :=
  match u with
  | .core n => c.modCore n (fun k => k.putGranule dest g)
  | .engine e => c.writeLine (some x) (engLine e dest) g.data g.poison

/-- A load is carried out in the context's name: its source must be owned by the context (R140) and its unit
bound to it. The second result says whether it was. -/
def Chip.carryLoad (c : Chip) (x : CtxId) (ups : Upsets) (l : LoadEntry) : Chip × Bool :=
  match unitOf l.unit.toNat with
  | some u =>
    if c.unitCtx u == some x && c.rangeOwned (some x) l.src.toNat (64 * l.len.toNat) then
      ((List.range l.len.toNat).foldl (fun c i =>
        let r := c.readLine (c.lineAt (l.src.toNat + 64 * i)) ups false
        let step := match u with
          | .core _ => 64
          | .engine _ => 1
        r.2.loadGranule x u (l.dest.toNat + step * i) r.1) c, true)
    else (c, false)
  | none => (c, false)

/-- A load list is carried out: which of its entries were. -/
def Chip.carryList (c : Chip) (x : CtxId) (ups : Upsets) (ls : List LoadEntry) : Chip × List Bool :=
  ls.foldl (fun (s : Chip × List Bool) l =>
    let q := s.1.carryLoad x ups l
    (q.1, s.2 ++ [q.2])) (c, [])

/-- A PROG_LOAD gets its status: OK, or FAULTED with the entries carried out and the first that was not (R10, R291). -/
def Chip.payLoad (c : Chip) (cmd : Cmd) (done : List Bool) : Chip :=
  match done.findIdx? (!·) with
  | none => c.finish cmd true stOk 0 0 []
  | some i => c.finish cmd true stFaulted (BitVec.ofNat 32 (min 0xFFFF (done.countP (·)) + 65536 * (i % 65536))) 0 []

/-- The loads that a context owes are carried out, and their PROG_LOAD gets its status. -/
def Chip.carryLoads (c0 : Chip) (x : CtxId) (ups : Upsets) : Chip :=
  let c := ((c0.ctx x).loadsFirst.foldl (fun c p => let r := c.carryList x ups p.2; r.1.payLoad p.1 r.2) c0).modCtx x (fun k =>
    { k with loadsFirst := [] })
  let k := c.ctx x
  if k.loads.isEmpty then c
  else
    let r := c.carryList x ups k.loads
    let c1 := r.1.modCtx x (fun k => { k with loads := [], loadCmd := none, needReload := r.2.any (!·) && k.loadCmd.isNone })
    match k.loadCmd with
    | none => c1
    | some cmd => c1.payLoad cmd r.2

/-! Step starts (R60, R106, R242, R290). -/

/-- The moves that a core still holds in its queue when its next program starts get not done in the status of the step that
queued them (R60, R89). -/
def Chip.leaveQueue (c : Chip) : UnitId → Chip
  | .core n => if (c.core n).state.usable then
      c.addNotDone (c.core n).ctx ((c.core n).step.map (·.step)) (c.core n).mq.length else c
  | .engine _ => c

/-- A unit starts the program of a step. A unit that is not in service starts nothing. The program counter of a core is 20
bits wide and 8-byte aligned (Table 3-1): of a start address the other bits are dropped (log 88). -/
def Chip.startUnit (c0 : Chip) (u : UnitId) (start : Word) (step job : Word) : Chip :=
  let lane := Lane.opened step job
  let c := c0.leaveQueue u
  match u with
  | .core n => c.modCore n (fun k =>
      if k.state.usable then
        { k.clearState with pc := BitVec.ofNat 20 (start.toNat / 8 * 8), ballast := false, state := .run, lane := lane
                            frec := FrameRecord.zero, step := some { step := step, boundaries := 0 }
                            slack := { k.slack with ran := true } }
      else k)
  | .engine e => c.modEngine e (fun k =>
      if k.state.usable then
        { k with pc := BitVec.ofNat 25 start.toNat, state := .run, ctr := [], ledgers := [], wait := .none, sig := none
                 held := none, lane := lane, frec := FrameRecord.zero, step := some { step := step, boundaries := 0 } }
      else k)

/-- The units of the step in progress of a run start. -/
def Chip.startStep (c : Chip) (x : CtxId) (r : Run) : Chip :=
  let step := r.base + BitVec.ofNat 32 (r.running.getD 0)
  let c1 := c.modCtx x (fun k => k.modStatus step (fun s =>
    { s with code := 1, flags := if r.replayed then s.flags ||| 2 else s.flags, lfn := 0, notDone := 0, unit := 0xFFFF, err := 0 }))
  (c1.runUnits x r).foldl (fun c u => c.startUnit u.1 u.2 step (c1.ctx x).job) c1

/-- A step is due at the boundary that begins frame `lfn`. -/
def Run.due (r : Run) (lfn : BitVec 16) : Bool := decide (r.next < r.count) && decide (0 ≤ lfnDist r.at_ lfn)

/-- A run at a boundary: its step in progress is over when all its units have completed; a due step starts, or
finds the one before still running and marks it late. -/
def Chip.advanceRun (c : Chip) (x : CtxId) (lfn : BitVec 16) (i : Nat) : Chip :=
  match (c.ctx x).runs[i]? with
  | none => c
  | some r0 =>
    let beyond := match r0.running with
      | none => true
      | some _ => (c.runUnits x r0).all (fun u => c.unitDone u.1)
    let r := if beyond then { r0 with running := none } else r0
    let put := fun (c : Chip) (r : Run) => c.modCtx x (fun k => { k with runs := setAt k.runs i r })
    if !r.due lfn then put c r
    else match r.running with
      | some j => put (c.modCtx x (fun k => k.modStatus (r.base + BitVec.ofNat 32 j) (fun s => { s with flags := s.flags ||| 1 }))) r
      | none =>
        let r1 := { r with running := some r.next, next := r.next + 1, at_ := r.at_ + BitVec.ofNat 16 r.interval }
        (put c r1).startStep x r1

/-- The next hold or restart of a context at its resume or restart LFN finds its loads not complete (R305). -/
def Chip.stepStarts (c : Chip) (x : CtxId) (lfn : BitVec 16) : Chip :=
  let k := c.ctx x
  if k.state = .running ∨ k.state = .loaded then
    if k.runs.any (fun r => r.due lfn && r.running.isNone) && (k.needReload || !k.loads.isEmpty) then c.enterHold x (holdBit 5)
    else (List.range k.runs.length).foldl (fun c i => c.advanceRun x lfn i) c
  else c

end Sys2Proof.Machine
end

