-- ==== Sys2Proof/Machine/Commit.lean ====
section
/-! DEFINITION. Digest records, verdict, rollback, revocation and the undo log (R247-R260). -/
namespace Sys2Proof.Machine

/-! The verdict (R251). -/

/-- A check failed on a missing record. -/
def Chip.checkMissing (c : Chip) : Chip := { c with dig := { c.dig with cntMissing := satInc c.dig.cntMissing 1 } }.digErr 1

/-- A check failed on unequal values. -/
def Chip.checkUnequal (c : Chip) : Chip := { c with dig := { c.dig with cntMismatch := satInc c.dig.cntMismatch 1 } }.digErr 0

/-- The value of the record of a member in frame `lfn`. -/
def DigCtx.valueOf (d : DigCtx) (lfn group : BitVec 16) (kind : Byte) (member : Nat) (arg : Word) : Option (List Byte) :=
  (d.recs.find? (fun r => r.lfn == lfn && r.group == group && r.kind == kind && r.member == member && r.arg == arg)).map (·.value)

/-- The pairs (GROUP, STEP) that case 1 examines. -/
def DigCtx.pairs (d : DigCtx) (lfn : BitVec 16) : List (BitVec 16 × Word) :=
  ((d.own.filter (fun o => o.lfn == lfn && o.group != 0)).map (fun o => (o.group, o.step))
    ++ (d.recs.filter (fun r => r.lfn == lfn && r.kind == 0)).map (fun r => (r.group, r.arg))).eraseDups

/-- Case 1 for one pair: whether it fails, with its counts; a step that fails is noted for replay. -/
def Chip.checkReplica (c : Chip) (x : CtxId) (lfn : BitVec 16) (p : BitVec 16 × Word) : Chip × Bool :=
  match c.groupOf x p.1 with
  | none => (c, false)
  | some g =>
    let d := c.digCtx x
    let own := (d.own.find? (fun o => o.lfn == lfn && o.group == p.1 && o.step == p.2)).map (·.digest)
    let all := own :: (c.others g.mask).map (fun m => d.valueOf lfn p.1 0 m p.2)
    let bad := c.modDig x (fun d => { d with failed := d.failed ++ [p.2] })
    if all.any (·.isNone) then (bad.checkMissing, true)
    else if all.any (fun v => v != own) then (bad.checkUnequal, true)
    else (c, false)

/-- Case 2 for one TRANSFER group. -/
def Chip.checkTransfer (c : Chip) (x : CtxId) (lfn : BitVec 16) (g : CheckGroup) : Chip × Bool :=
  let d := c.digCtx x
  match (c.others g.mask).head? with
  | none => (c, false)
  | some p =>
    let sum := ((d.inSums.find? (fun s => s.pkg == p && s.lfn == lfn)).map (·.sum)).getD 0
    match d.valueOf lfn g.group 1 p 0 with
    | none => (c.checkMissing, true)
    | some v => if unle v = sum then (c, false) else (c.checkUnequal, true)

/-- Case 3: two records of one GROUP, KIND, MEMBER and ARG differ in VALUE. -/
def DigCtx.conflict (d : DigCtx) (lfn : BitVec 16) : Bool :=
  d.recs.any (fun r => r.lfn == lfn && d.recs.any (fun q =>
    q.lfn == lfn && q.group == r.group && q.kind == r.kind && q.member == r.member && q.arg == r.arg && q.value != r.value))

/-- A case that holds, among those found so far. -/
def orCase (old : Option Nat) (b : Bool) (k : Nat) : Option Nat := if b then lowerCause old k else old

/-- Cases 1 to 3 over all pairs and groups. -/
def Chip.runChecks (c : Chip) (x : CtxId) (lfn : BitVec 16) : Chip × Option Nat :=
  if !c.checkOn x then (c, none)
  else
    let ps := (c.digCtx x).pairs lfn
    let r1 := ps.foldl (fun (s : Chip × Option Nat) p =>
      let q := s.1.checkReplica x lfn p
      (q.1, orCase s.2 q.2 1)) (if ps.isEmpty then c else c.modDig x (fun d => { d with failed := [] }), none)
    let r2 := ((c.groups x).filter (fun g => g.kind == 1)).foldl (fun (s : Chip × Option Nat) g =>
      let q := s.1.checkTransfer x lfn g
      (q.1, orCase s.2 q.2 2)) r1
    if (c.digCtx x).conflict lfn then (r2.1.checkUnequal, orCase r2.2 true 3) else r2

/-- A notice in force rolls back frame `lfn`: it names that frame or the one before. -/
def DigCtx.named (d : DigCtx) (lfn : BitVec 16) : Bool := d.notices.any (fun n => n.lfn == lfn || n.lfn + 1 == lfn)

/-- The verdict of one context on the present frame. A replay frame commits nothing, so that only a notice decides it (R260). -/
def Chip.verdictCtx (c : Chip) (x : CtxId) : Chip :=
  let lfn := c.frm.lfn
  let d := c.digCtx x
  if d.decided then c
  else
    let r := if d.state = .replay then (c, none) else c.runChecks x lfn
    let cause := if d.state = .replay then none
      else orCase (orCase r.2 (decide (lfn ∈ d.losses)) 4) (decide (lfn ∈ d.stops) || c.frm.broken) 5
    let named := d.named lfn
    r.1.modDig x (fun d => { d with
      decided := true, forced := named, cause := if named then lowerCause cause 5 else cause })

/-- A context whose frames are decided: it exists and is not being created or torn down. -/
def Ctx.judged (x : Ctx) : Bool := x.state != .none && x.state != .creating && x.state != .tearingDown

/-- A context that is still being created is to be held with a reason once it is there. -/
def Chip.holdCreating (c : Chip) (x : CtxId) (when_ : Bool) (why : BitVec 16) : Chip :=
  if when_ && (c.ctx x).state == .creating then c.modCtx x (fun k => { k with holdNext := k.holdNext ||| why }) else c

/-- After tick 4,080 the decision on the present frame stands, whether or not its VERDICT has been commanded: it rests on what had
arrived by then (R186). -/
def Chip.decideLate (c : Chip) (x : CtxId) : Chip :=
  if c.frm.valid && decide (4080 < c.frm.tick) && (c.ctx x).judged then c.verdictCtx x else c

/-! Notices and charges. -/

/-- A notice for a committed frame came too late (R251, R254): the context is held and stopped with FAULTED. -/
def Chip.noticeLate (c : Chip) (x : CtxId) : Chip :=
  ((c.digErr 3).modCtx x (fun k => { k with holdNext := k.holdNext ||| holdBit 3, stopNext := true })).event
    { code := 3, severity := 1, ctxMask := ctxBit x, arg := (c.ctx x).faultStep }

/-- A notice joins those in force: of several for one frame the latest restart LFN, and any HOLD (R253). -/
def DigCtx.addNotice (d : DigCtx) (n : Notice) : DigCtx :=
  match d.notices.find? (fun q => q.lfn == n.lfn) with
  | some o =>
    let m : Notice := { n with
      hold := n.hold || o.hold, restart := if 0 ≤ lfnDist n.restart o.restart then o.restart else n.restart }
    { d with notices := m :: d.notices.filter (fun q => q.lfn != n.lfn) }
  | none => { d with notices := n :: d.notices }

/-- Frames join those that have been rolled back or revoked; LFNs are compared over half a range. -/
def DigCtx.rollBack (d : DigCtx) (ls : List (BitVec 16)) : DigCtx :=
  { d with rolled := ls ++ d.rolled.filter (fun r => !ls.contains r && ls.all (fun l => decide (0 ≤ lfnDist r l))) }

/-- A cause of case 4 or 5 joins the charges of frame `lfn`, the present one or a later one, or turns the decision on the
present frame. -/
def DigCtx.chargeNow (d : DigCtx) (now lfn : BitVec 16) (kind : Nat) : DigCtx :=
  if lfn = now ∧ d.decided then { d with cause := lowerCause d.cause kind }
  else if kind = 4 then (if lfn ∈ d.losses then d else { d with losses := d.losses ++ [lfn] })
  else if lfn ∈ d.stops then d else { d with stops := d.stops ++ [lfn] }

/-- The ROLLBACK records of a context that name frame `lfn` and wait to be sent carry a lower cause (R447). -/
def Chip.lowerNotices (c : Chip) (x : CtxId) (lfn : BitVec 16) (cause : Nat) : Chip :=
  { c with dig := { c.dig with sendQ := c.dig.sendQ.map (fun r =>
      if r.ctx = x ∧ r.rollback ∧ leAt r.bytes 4 2 = lfn.toNat then { r with bytes := overlay r.bytes 8 [BitVec.ofNat 8 cause] } else r) } }

/-- A cause for the frame before that is known in time (R251): the present frame rolls back and that one is revoked, with
ROLLBACK records; of several causes the records carry the lowest (R447). -/
def Chip.chargePrev (c : Chip) (x : CtxId) (lfn : BitVec 16) (kind : Nat) : Chip :=
  let hold := c.cannotRestart x
  match (c.digCtx x).lateCause with
  | some k => (c.modDig x (fun d => { d with lateCause := some (min k kind) })).lowerNotices x lfn (min k kind)
  | none =>
    (c.modDig x (fun d => { d.addNotice { lfn := lfn, restart := lfn + 4, hold := hold } with lateCause := some kind })).sendNotices
      x lfn (lfn + 4) c.frm.lfn kind hold

/-- The first step of a run that is not committed. -/
def Run.firstOpen (r : Run) : Word := r.base + BitVec.ofNat 32 r.committed

/-- The runs' first steps that are not committed. -/
def Ctx.openSteps (x : Ctx) : List Word := (x.runs.filter (fun r => decide (r.committed < r.count))).map Run.firstOpen

/-- A cause of case 4 or 5 for frame `lfn` (R251): in the present frame it joins the charges or turns the decision; for the frame
before, up to tick 4,080, that one is revoked; later it is too late. A context with CHECK off has nothing to revoke: it stops at
the next boundary (R255). -/
def Chip.charge (c0 : Chip) (x : CtxId) (lfn : BitVec 16) (kind : Nat) : Chip :=
  let c := c0.decideLate x
  let d := c.digCtx x
  if 0 ≤ lfnDist c.frm.lfn lfn then c.modDig x (fun d => d.chargeNow c.frm.lfn lfn kind)
  else if lfn ∈ d.rolled then c
  else if !c.checkOn x then c.modDig x (fun d => d.chargeNow c.frm.lfn c.frm.lfn kind)
  else if lfn + 1 = c.frm.lfn ∧ d.prevOpen ∧ ¬ d.decided then c.chargePrev x lfn kind
  else c.noticeLate x

/-- Frame `lfn` is rolled back or revoked already, or its decision to roll back stands: further notices for it are already
applied (R252, R253). -/
def DigCtx.applied (d : DigCtx) (now lfn : BitVec 16) : Bool :=
  d.rolled.contains lfn || (d.decided && d.cause.isSome && (lfn == now || (d.forced && d.notices.any (fun n => n.lfn == lfn))))

/-- A ROLLBACK record arrives (R252-R254). -/
def Chip.noticeIn (c : Chip) (x : CtxId) (member : Nat) (lfn restart : BitVec 16) (hold : Bool) : Chip :=
  let d := c.digCtx x
  if !(c.jobOthers x).contains member then c.digErr 8
  else if 0 < lfnDist c.frm.lfn lfn then c
  else if d.applied c.frm.lfn lfn then
    (if hold then c.modCtx x (fun k => { k with holdNext := k.holdNext ||| holdBit 3 }) else c)
  else if lfn = c.frm.lfn ∨ (lfn + 1 = c.frm.lfn ∧ d.prevOpen ∧ ¬ d.decided) then
    c.modDig x (fun d => d.addNotice { lfn := lfn, restart := restart, hold := hold })
  else c.noticeLate x

/-- One digest record arrives for a context in check mode ON (R249, R251). -/
def Chip.recordIn (c : Chip) (x : CtxId) (lfn : BitVec 16) (r : List Byte) : Chip :=
  let kind := leAt r 2 1
  let member := leAt r 3 1
  let arg := leAt r 4 4
  if kind = 2 then
    c.noticeIn x member (BitVec.ofNat 16 (arg % 65536)) (BitVec.ofNat 16 (arg / 65536)) (bit (byteAt r 9) 0)
  else if 2 < kind then c
  else match c.groupOf x (BitVec.ofNat 16 (leAt r 0 2)) with
    | none => c.digErr 8
    | some g =>
      if g.kind.toNat ≠ kind ∨ ¬ (c.others g.mask).contains member then c.digErr 8
      else if lfnDist c.frm.lfn lfn < 0 ∨ (lfn = c.frm.lfn ∧ (c.digCtx x).decided) then c
      else c.modDig x (fun d => { d with recs := d.recs ++
          [{ lfn := lfn, group := g.group, kind := BitVec.ofNat 8 kind, member := member, arg := BitVec.ofNat 32 arg, value := slice r 8 24 }] })

/-- A CTRL packet of digest records reaches the active Ibex (R249, R284, Table 11-7): 4,096 records a frame. -/
def Chip.recordsIn (c0 : Chip) (x : CtxId) (job : Word) (lfn : BitVec 16) (rs : List (List Byte)) : Chip :=
  let c := c0.decideLate x
  rs.foldl (fun c r =>
    if c.dig.inbound ≥ 4096 then
      { c with mbx := { c.mbx with cntDigDrop := satInc c.mbx.cntDigDrop 1 } }.mbxErr 6
    else
      let c1 := { c with dig := { c.dig with inbound := c.dig.inbound + 1 } }
      if (c.ctx x).state == .none || (c.ctx x).job != job || !c.checkOn x then c1 else c1.recordIn x lfn r) c

/-! Applying the decision at the boundary (R252-R259). -/

/-- The undo entries of a frame are restored (R258). -/
def Chip.restore (c : Chip) (x : CtxId) (lfn : BitVec 16) : Chip :=
  let es := c.mem.undo.filter (fun u => u.ctx == x && u.lfn == lfn)
  let c1 := es.foldl (fun c u => c.putLine u.line u.old.data u.old.poison) c
  { c1 with mem := { c1.mem with undo := c1.mem.undo.filter (fun u => !(u.ctx == x && u.lfn == lfn)) } }

/-- The undo entries of a frame are released (R258). -/
def Chip.release (c : Chip) (x : CtxId) (lfn : BitVec 16) : Chip :=
  { c with mem := { c.mem with undo := c.mem.undo.filter (fun u => !(u.ctx == x && u.lfn == lfn)) } }

/-- A run whose last step is confirmed ends with OK (Table 10-8). -/
def Chip.reapRuns (c : Chip) (x : CtxId) : Chip :=
  let rs := (c.ctx x).runs
  let c1 := (rs.filter (fun r => decide (r.count ≤ r.confirmed))).foldl (fun c r =>
    c.finishAfter x r.cmd true stOk 0 (r.base + BitVec.ofNat 32 (r.count - 1))) c
  let c2 := c1.modCtx x (fun k => { k with runs := k.runs.filter (fun r => !decide (r.count ≤ r.confirmed)) })
  if (c2.ctx x).runs.isEmpty && (c2.ctx x).state == .running then c2.setCtxState x .loaded else c2

/-- The previous frame of a context is confirmed (R253). Rollbacks count as successive for as long as the steps that they concern
stay open (R260). -/
def Chip.confirm (c : Chip) (x : CtxId) (lfn : BitVec 16) : Chip :=
  let past := (c.digCtx x).restartAt.any (fun r => decide (0 ≤ lfnDist r lfn))
  let settled := past && !(c.ctx x).openSteps.any (fun s => (c.digCtx x).rbSteps.contains s)
  let c1 := (c.release x lfn).modDig x (fun d => { d with
    confirmed := lfn, prevOpen := false
    rbRun := if settled then 0 else d.rbRun, mismatchRun := if settled then 0 else d.mismatchRun, rbSteps := if settled then [] else d.rbSteps
    restartAt := if past then none else d.restartAt })
  (c1.modCtx x (fun k =>
    { k with statuses := k.statuses.map (fun s => if s.code = 3 ∧ s.lfn = lfn then { s with code := 4, flags := s.flags ||| 4 } else s)
             runs := k.runs.map (fun r => { r with confirmed := r.committed }) })).reapRuns x

/-- How many of the steps of a run from an index on are among those submitted, in sequence. -/
def stepsDone (r : Run) (steps : List Word) : Nat → Nat → Nat
  | 0, i => i
  | n + 1, i => if i < r.count ∧ r.base + BitVec.ofNat 32 i ∈ steps then stepsDone r steps n (i + 1) else i

/-- Frame `lfn` of a context is committed: its steps are COMMITTED (R186). -/
def Chip.commit (c : Chip) (x : CtxId) (lfn : BitVec 16) : Chip :=
  let steps := ((c.digCtx x).own.filter (fun o => o.lfn == lfn)).map (·.step)
  (c.modDig x (fun d => { d with prevOpen := true })).modCtx x (fun k =>
    { k with statuses := k.statuses.map (fun s => if s.code = 2 ∧ s.lfn = lfn then { s with code := 3 } else s)
             runs := k.runs.map (fun r => { r with committed := stepsDone r steps steps.length r.committed }) })

/-- The steps whose results a rollback discards are to be started again (Table 11-8); a stopped step stays
STOPPED. With `revoked` the frame before loses its results as well. -/
def Ctx.rollSteps (x : Ctx) (revoked : Option (BitVec 16)) : Ctx :=
  { x with
    statuses := x.statuses.map (fun s =>
      if s.code = 1 ∨ s.code = 2 ∨ (s.code = 3 ∧ revoked = some s.lfn) then { s with code := 5 } else s)
    runs := x.runs.map (fun r => if revoked.isSome then { r with committed := r.confirmed } else r) }

/-- The replay map of a context names every unit of a run's template (R446). -/
def Ctx.allMapped (k : Ctx) (template : Byte) : Bool :=
  let m := (k.check.map (·.replay)).getD []
  !m.isEmpty && (tget [] k.templates template.toNat).all (fun e => (replayUnit m e.unit.toNat).isSome)

/-- A failed step of a run can be replayed: every unit of it is mapped, and it read no circuit (R260, R446). -/
def Chip.replayable (c : Chip) (x : CtxId) (r : Run) : Bool :=
  let d := c.digCtx x
  decide (r.committed < r.count) && d.failed.contains r.firstOpen && !d.circuitSteps.contains r.firstOpen && (c.ctx x).allMapped r.template

/-- A replay frame is due: the same steps have rolled back twice with a REPLICA mismatch, and one of those that failed can be
replayed (R260, R446). -/
def Chip.replayDue (c : Chip) (x : CtxId) : Bool :=
  decide ((c.digCtx x).mismatchRun = 2) && (c.ctx x).runs.any (c.replayable x)

/-- A run after frame `n` has been rolled back or revoked: the steps that it had started since frame `n` start again from the
restart LFN on, at their distances; a run that had started none keeps its frame (R254). -/
def Run.restart (r : Run) (n restart : BitVec 16) : Run :=
  if r.next ≤ r.committed then r.remember
  else
    let g := r.at_ - BitVec.ofNat 16 ((r.next - r.committed) * r.interval)
    { r.remember with at_ := if lfnDist n g ≤ 0 then restart else restart + (g - n) }

/-- After a rollback or a revocation the context restarts at the restart LFN, or is held (R254, R260, R306). The same steps roll back
again where the steps that are open now were open at the rollback before. -/
def Chip.rollOn (c : Chip) (x : CtxId) (lfn restart : BitVec 16) (mismatch hold : Bool) : Chip :=
  let d := c.digCtx x
  let steps := (c.ctx x).openSteps
  let same := d.restartAt == some lfn || steps.any (fun s => d.rbSteps.contains s)
  let rb := if same then min 3 (d.rbRun + 1) else 1
  let mm := if mismatch then (if same then d.mismatchRun + 1 else 1) else 0
  let c1 := c.modDig x (fun d => { d with
    rbRun := rb, mismatchRun := mm, rbSteps := steps, restartAt := some restart, own := [], prevOpen := false })
  let c2 := if rb = 3 then c1.modCtx x (fun k => { k with holdNext := k.holdNext ||| holdBit 7 }) else c1
  let c3 := if hold then c2.modCtx x (fun k => { k with holdNext := k.holdNext ||| holdBit 3 }) else c2
  if c3.cannotRestart x then c3
  else
    (c3.resetContext x).modCtx x (fun k =>
      { k with runs := k.runs.map (fun r => Run.restart r lfn restart) })

/-- A rollback on the member's own verdict (R252, R255): counted, restored, announced. -/
def Chip.ownRollback (c : Chip) (x : CtxId) (lfn : BitVec 16) (cause : Nat) : Chip :=
  let c1 := { c with dig := { c.dig with cntRollback := satInc c.dig.cntRollback 1 } }
  if !c.checkOn x then
    let c2 := (c1.modCtx x (fun k => k.rollSteps none)).modDig x (fun d => { d.rollBack [lfn] with own := [], prevOpen := false })
    c2.modCtx x (fun k => { k with
      holdNext := if c.cannotRestart x then k.holdNext else k.holdNext ||| holdBit 7, stopNext := true })
  else
    let c2 := (((c1.restore x lfn).modCtx x (fun k => k.rollSteps none)).modDig x (fun d => d.rollBack [lfn])).rollOn x lfn (lfn + 4) (decide (cause = 1)) false
    c2.sendNotices x lfn (lfn + 4) (lfn + 1) cause (c2.cannotRestart x)

/-- The latest restart LFN of the notices in force (R253). -/
def DigCtx.restartNamed (d : DigCtx) (lfn : BitVec 16) : BitVec 16 :=
  (d.notices.foldl (fun (b : Option (BitVec 16)) n => match b with
    | some r => if 0 ≤ lfnDist n.restart r then some r else some n.restart
    | none => some n.restart) none).getD (lfn + 4)

/-- The frame before `lfn` is to be revoked: it is committed, and a notice names it (R253). -/
def DigCtx.revokes (d : DigCtx) (lfn : BitVec 16) : Bool := d.forced && d.prevOpen && d.notices.any (fun n => n.lfn + 1 == lfn)

/-- A rollback that notices ordered (R253): frame `lfn` is undone, and the frame before it revoked where a notice names it. -/
def Chip.forcedRollback (c : Chip) (x : CtxId) (lfn : BitVec 16) : Chip :=
  let d := c.digCtx x
  let revoked := d.revokes lfn
  let named := if revoked then lfn - 1 else lfn
  let c1 := c.restore x lfn
  let c2 := if revoked then
      { (c1.restore x named) with dig := { c1.dig with cntRevoke := satInc c1.dig.cntRevoke 1 } }
    else c1
  ((c2.modCtx x (fun k => k.rollSteps (if revoked then some named else none))).modDig x (fun d =>
    { d.rollBack (if revoked then [named, lfn] else [lfn]) with notices := [] })).rollOn
      x named (d.restartNamed named) false (d.notices.any (·.hold))

/-- An XFER record of the frame that ends has never come to be sent, the last transmit window toward its member having ended after the
last control-class window that takes records (R250). -/
def Chip.xferLate (c : Chip) (x : CtxId) : Chip :=
  if c.checkOn x && !bit (c.ctx x).held 4 && c.flt.rphase == 0
      && (c.groups x).any (fun g => g.kind == 1 && !(c.others g.mask).isEmpty && !(c.digCtx x).xferSent.contains g.group) then c.digErr 2
  else c

/-- The decision on frame `lfn` of a context is applied at the boundary that ends it; of a replay frame nothing stays (R260). -/
def Chip.applyDecision (c0 : Chip) (x : CtxId) (lfn : BitVec 16) : Chip :=
  let c := (c0.xferLate x).verdictCtx x
  let d := c.digCtx x
  let c1 := if d.prevOpen && !d.revokes lfn then c.confirm x (lfn - 1) else c
  let c2 := c1.modDig x (fun q => { q with lateCause := none, verdicts := ((lfn, d.cause.isSome) :: q.verdicts).take 4 })
  let c3 := if lfn ∈ d.faults then c2.modCtx x (fun k => { k with holdNext := k.holdNext ||| holdBit 7 }) else c2
  let c4 := match d.cause with
    | none => if d.state = DigState.replay then (c3.restore x lfn).modDig x (fun q => q.rollBack [lfn]) else c3.commit x lfn
    | some k => if d.forced then c3.forcedRollback x lfn else c3.ownRollback x lfn k
  c4.modDig x (fun q => { q with
    decided := false, forced := false, cause := none, xferSent := [], rolled := q.rolled.filter (fun r => decide (0 ≤ lfnDist r lfn)), notices := q.notices.filter (fun n => decide (0 ≤ lfnDist lfn n.lfn))
    recs := q.recs.filter (fun r => decide (0 < lfnDist lfn r.lfn)), own := q.own.filter (fun o => decide (0 < lfnDist lfn o.lfn))
    inSums := q.inSums.filter (fun s => decide (0 < lfnDist lfn s.lfn)), outSums := q.outSums.filter (fun s => decide (0 < lfnDist lfn s.lfn))
    losses := q.losses.filter (fun l => decide (0 < lfnDist lfn l)), stops := q.stops.filter (fun l => decide (0 < lfnDist lfn l))
    faults := q.faults.filter (fun l => decide (0 < lfnDist lfn l)) })

/-- The failed steps that can be replayed start in a replay frame on the units of the replay map (R260). -/
def Chip.startReplay (c : Chip) (x : CtxId) : Chip :=
  let c1 := { (c.modDig x (fun d => { d with state := .replay })) with dig := { c.dig with cntReplay := satInc c.dig.cntReplay 1 } }
  (List.range (c.ctx x).runs.length).foldl (fun c i =>
    match (c.ctx x).runs[i]? with
    | none => c
    | some r =>
      if c.replayable x r then
        let r1 := { r with running := some r.committed, replayed := true }
        (c.modCtx x (fun k => { k with runs := setAt k.runs i r1 })).startStep x r1
      else c) c1

/-- The frame after a replay frame starts the steps normally (R260). -/
def Chip.endReplay (c : Chip) (x : CtxId) (lfn : BitVec 16) : Chip :=
  if (c.digCtx x).state = .replay then
    ((c.modUnits x Core.quiet Engine.quiet).modDig x (fun d => { d with state := .run, restartAt := some lfn, mismatchRun := 3 })).modCtx x (fun k =>
      { k with runs := k.runs.map (fun r => { r.remember with at_ := if 0 ≤ lfnDist r.at_ lfn then lfn else r.at_ }) })
  else c

/-- Steps start at the boundary that begins frame `lfn`: none before the restart LFN; at it a replay frame,
where one is due, runs first (R254, R260). -/
def Chip.ctxStarts (c : Chip) (x : CtxId) (lfn : BitVec 16) : Chip :=
  let c1 := c.endReplay x lfn
  let d := c1.digCtx x
  let waits := d.restartAt.any (fun r => decide (lfnDist r lfn < 0))
  if waits then c1.modDig x (fun d => { d with state := .restarting })
  else if (c1.ctx x).state = .held then c1.modDig x (fun d => { d with state := .held })
  else if d.restartAt == some lfn && c1.replayDue x then c1.startReplay x
  else (c1.modDig x (fun d => { d with state := .run })).stepStarts x lfn

end Sys2Proof.Machine
end

