-- ==== Sys2Proof/Machine/Frame.lean ====
section
/-! DEFINITION. The frame clock: marks, lock, failover, HOLDOVER, FREERUN, slip and realignment (chapter 6). -/
namespace Sys2Proof
open Machine

/-! Mark words (Tables 6-1, 6-2). Cycle n of the word is bit 55 - n. -/

/-- The symbols of a reference cycle (Table 6-1). -/
inductive RefSymbol where
  | unmarked
  | zero
  | one
deriving DecidableEq, Repr

/-- The symbol that a high time in 0.1 ns codes, within the accepted times of Table 6-1. -/
def refSymbol (high : Nat) : Option RefSymbol :=
  if 80 ≤ high ∧ high ≤ 150 then some .zero
  else if 160 ≤ high ∧ high ≤ 240 then some .unmarked
  else if 250 ≤ high ∧ high ≤ 320 then some .one
  else none

/-- The symbols of the word; none stands for a high time outside Table 6-1. -/
def MarkWord.symbols (m : MarkWord) : List (Option RefSymbol) := m.highs.map refSymbol

/-- There are 56 symbols, and every one lies within the limits of Table 6-1 (R162). -/
def MarkWord.symbolsOk (m : MarkWord) : Bool := m.highs.length == 56 && m.symbols.all (·.isSome)

/-- Every symbol is a 0 or a 1. -/
def MarkWord.binary (m : MarkWord) : Bool := m.symbols.all (fun s => s == some .zero || s == some .one)

/-- The bits of the word. -/
def MarkWord.bits (m : MarkWord) : BitVec 56 :=
  BitVec.ofNat 56 (m.symbols.foldl (fun b s => 2 * b + b2n (s == some .one)) 0)

/-- SLIP. -/
def MarkWord.slip (m : MarkWord) : Int := sgn 9 (Machine.bits m.bits 19 11)

/-- PRE and CRC match. -/
def MarkWord.framed (m : MarkWord) : Bool := m.binary && Machine.bits m.bits 55 52 == 12 && crc8 m.bits 8 44 == Machine.bits m.bits 7 0

/-- SLIP lies within -128 to +128. -/
def MarkWord.slipOk (m : MarkWord) : Bool := decide (-128 ≤ m.slip) && decide (m.slip ≤ 128)

/-- The edge lies within 1 cycle of a whole number n >= 1 of mark intervals after the last valid one (R162). -/
def MarkWord.onGrid (m : MarkWord) : Bool := decide (2499 ≤ m.cycles) && decide ((m.cycles + 1) % 2500 ≤ 2)

/-- Valid (R162); the last condition holds for the first mark of an input whose grid is not known. -/
def MarkWord.valid (m : MarkWord) (gridKnown : Bool) : Bool :=
  m.symbolsOk && m.framed && m.slipOk && (!gridKnown || m.onGrid)

/-- The fields of the mark: the distance of the boundary it names is AOFF, plus 4,096 with WIDE. -/
def MarkWord.mark (m : MarkWord) : Mark :=
  { lfn := BitVec.ofNat 16 (Machine.bits m.bits 47 32), aoff := BitVec.ofNat 13 (Machine.bits m.bits 31 20 + 4096 * b2n (bit m.bits 50))
    slip := m.slip, hold := bit m.bits 51 }

/-- The mark edge lies within one tick period of the grid that the package kept (R171). -/
def MarkWord.nearGrid (w : MarkWord) : Bool := decide (-244 ≤ w.gridError) && decide (w.gridError ≤ 244)

/-- The other input. -/
def RefInput.other : RefInput → RefInput
  | .a => .b
  | .b => .a

end Sys2Proof

namespace Sys2Proof.Machine

/-! The target schedule (R165). -/

/-- What the mark of an interval names: LFN and distance of the first target boundary at or after its edge, and
what earlier SLIPs add to the frame that begins there. -/
structure Target where
  lfn : BitVec 16
  dist : Int
  extra : Int
deriving DecidableEq, Repr

/-- The next interval's target after a mark with SLIP `s`: the slip lengthens the first target frame that begins
after grid tick 128 of its interval. -/
def Target.advance (t : Target) (s : Int) : Target :=
  let own := decide (128 < t.dist)
  let x := t.extra + if own then s else 0
  let y := if own then 0 else s
  if 4096 ≤ t.dist then { lfn := t.lfn, dist := t.dist - 4096, extra := x }
  else
    let d := t.dist + x
    if 0 ≤ d then { lfn := t.lfn + 1, dist := d, extra := y }
    else { lfn := t.lfn + 2, dist := d + 4096 + y, extra := 0 }

/-- The target `n` intervals on, without further SLIPs. -/
def Target.after (t : Target) : Nat → Target
  | 0 => t
  | n + 1 => Target.after (t.advance 0) n

/-- What a mark says, with the part of earlier SLIPs known. -/
def Mark.target (m : Mark) (extra : Int) : Target := { lfn := m.lfn, dist := m.aoff.toNat, extra := extra }

/-- The target expected `n` intervals after mark `m`. -/
def Mark.expect (m : Mark) (extra : Int) : Nat → Target
  | 0 => m.target extra
  | n + 1 => ((m.target extra).advance m.slip).after n

/-- A mark names what was expected: its LFN and distance. -/
def Target.agrees (t : Target) (m : Mark) : Bool := t.lfn == m.lfn && t.dist == (m.aoff.toNat : Int)

/-- The next boundary of the target schedule after tick period `now` of the interval that mark `m` begins: its LFN and its
distance from the mark edge. -/
def Mark.nextBoundary (m : Mark) (extra : Int) (now : Nat) : BitVec 16 × Nat :=
  let d := m.aoff.toNat
  if now < d then (m.lfn, d)
  else (m.lfn + 1, ((d : Int) + 4096 + extra + (if 128 < d then m.slip else 0)).toNat)

/-! Inputs. -/

/-- One of the two inputs. -/
def Frm.input (f : Frm) : RefInput → RefIn
  | .a => f.inA
  | .b => f.inB

/-- The frame clock with an input replaced. -/
def Frm.setInput (f : Frm) (i : RefInput) (r : RefIn) : Frm :=
  match i with
  | .a => { f with inA := r }
  | .b => { f with inB := r }

/-- The input in use. -/
def Frm.src (f : Frm) : RefInput := if f.srcB then .b else .a

/-- FRM_CTL treats the input as bad. -/
def Frm.disabled (f : Frm) : RefInput → Bool
  | .a => bit f.ctl.val 1
  | .b => bit f.ctl.val 2

/-- The package with its frame clock changed. -/
def Chip.modFrm (c : Chip) (g : Frm → Frm) : Chip := { c with frm := g c.frm }

/-- A bit of FRM_ERR is raised. -/
def Frm.raise (f : Frm) (b : Nat) : Frm := { f with err := setBit f.err b }

/-- An invalid or missing mark is counted (MARK_ERR). -/
def Frm.markError (f : Frm) (i : RefInput) : Frm :=
  let f1 := f.raise 0
  match i with
  | .a => { f1 with cntMarkA := satInc f1.cntMarkA 1 }
  | .b => { f1 with cntMarkB := satInc f1.cntMarkB 1 }

/-- Both inputs are bad: HOLDOVER (R170). -/
def Frm.enterHoldover (f : Frm) : Frm :=
  { f.raise 9 with state := .holdover, holdFrames := 0, inA := { f.inA with await := none }, inB := { f.inB with await := none } }

/-- The package moves to the other input (R169). -/
def Frm.failover (f : Frm) : Frm := { f.raise 3 with srcB := !f.srcB, cntFailover := satInc f.cntFailover 1 }

/-- A decision already taken to commit the present frame becomes roll-back (R184, R186): nothing of a broken frame is
committed. -/
def DigCtx.breakFrame (d : DigCtx) : DigCtx := if d.decided then { d with cause := lowerCause d.cause 5 } else d

/-- A realignment (R184): the frame in progress is broken, and ends at the next boundary of the target schedule, with no
debt; `next` is the LFN and the distance from the last mark edge of that boundary. It is counted, decisions already taken
become roll-back, and it is announced with the LFN of the broken frame. -/
def Chip.realign (c : Chip) (next : BitVec 16 × Nat) : Chip :=
  let f := c.frm.raise 8
  let c1 := { c with frm := { f with
    broken := true, debt := 0, carry := 0, next := some (next.1, next.2 % 4096), endIn := next.2 - f.gridPeriod
    cntRealign := satInc f.cntRealign 1 } }
  (allCtxs.foldl (fun c x => if (c.ctx x).judged then c.modDig x DigCtx.breakFrame else c) c1).event
    { code := 0x31, severity := 1, arg := c.frm.lfn.toNat }

/-- The target model takes a mark: its SLIP waits for grid tick 128 (R182). -/
def Frm.take (f : Frm) (m : Mark) (extra : Int) : Frm :=
  { f with model := some m, extra := extra, planSlip := if m.slip = 0 then f.planSlip else some { slip := m.slip, lfn := m.lfn } }

/-- The target that the model expects of a mark `n` grid intervals after the last it took. -/
def Frm.expected (f : Frm) (n : Nat) : Option Target := f.model.map (fun m => m.expect f.extra n)

/-- A mark `n` grid intervals after the last that the model took is what the model expects (R165). -/
def Frm.agrees (f : Frm) (n : Nat) (m : Mark) : Bool := (f.expected n).any (fun t => t.agrees m)

/-- What earlier SLIPs add to the frame that such a mark names; nothing where it is not what the model expects. -/
def Frm.extraOf (f : Frm) (n : Nat) (m : Mark) : Int := if f.agrees n m then ((f.expected n).map (·.extra)).getD 0 else 0

/-- The target model takes a mark of the locked input; one that disagrees with it realigns the package (R165). -/
def Chip.takeMark (c : Chip) (i : RefInput) (m : Mark) (n : Nat) : Chip :=
  let f := c.frm
  let extra := f.extraOf n m
  let f1 := (f.setInput i { f.input i with good := true, extra := extra, await := none }).take m extra
  if f.agrees n m then { c with frm := f1 } else { c with frm := f1.raise 7 }.realign (m.nextBoundary 0 f.gridPeriod)

/-- The package moves to the other input at once (R169); a mark of that input which waited for the locked input's is the
locked input's from now on. -/
def Chip.failover (c : Chip) : Chip :=
  let f := c.frm.failover
  match (f.input f.src).mark, (f.input f.src).await with
  | some m, some n => { c with frm := f }.takeMark f.src m n
  | _, _ => { c with frm := f }

/-- An input becomes bad (R168): failover or HOLDOVER follow where it is the one in use (R169, R170). -/
def Chip.inputBad (c : Chip) (i : RefInput) : Chip :=
  let f := c.frm
  let r := f.input i
  let f0 := f.setInput i { r with good := false, agree := 0, await := none }
  let f1 := if r.good then f0.raise (match i with
    | .a => 1
    | .b => 2) else f0
  if f1.state = .locked ∧ f1.src = i then
    if (f1.input i.other).good then { c with frm := f1 }.failover else { c with frm := f1.enterHoldover }
  else { c with frm := f1 }

/-- The input that FRM_CTL prefers (R167). -/
def Frm.preferred (f : Frm) : RefInput := if bit f.ctl.val 0 then .b else .a

/-- A mark of an input is due (R167): lock waits no longer for the preferred one. -/
def Frm.markDue (f : Frm) (i : RefInput) : Frm :=
  if i = f.preferred then { f with lockWait := f.lockWait.map (fun _ => 0) } else f

/-- Good for lock: three consecutive valid marks that agree. -/
def Frm.goodForLock (f : Frm) (i : RefInput) : Bool := decide (3 ≤ (f.input i).agree) && !f.disabled i

/-- Lock begins to wait for the preferred input when only the other one is good for lock, for at most one grid interval, and
waits no longer when neither is (R167). -/
def Frm.startWait (f : Frm) : Frm :=
  if f.goodForLock f.preferred.other then
    { f with lockWait := if f.lockWait.isNone then some 4096 else f.lockWait }
  else { f with lockWait := none }

/-- A valid mark on an input while no input is locked (R167): marks that agree with one another are counted. A package in FREERUN shows
FREERUN until FRAME_LOCK, not ACQUIRING (log 124). -/
def Frm.markUnlocked (f : Frm) (i : RefInput) (w : MarkWord) : Frm :=
  let r := f.input i
  let m := w.mark
  let e := r.mark.map (fun p => p.expect r.extra ((w.cycles + 1) / 2500))
  let ok := e.any (fun t => t.agrees m)
  let f1 := f.setInput i { r with
    good := !f.disabled i, hold := m.hold, edges := true, mark := some m
    agree := if f.disabled i then 0 else if ok then r.agree + 1 else 1
    extra := if ok then (e.map (·.extra)).getD 0 else 0 }
  let f2 := (f1.markDue i).startWait
  if f.state = .unlocked then { f2 with state := .acquiring } else f2

/-- Two marks of one interval say the same (R168). -/
def Mark.same (a b : Mark) : Bool := a.lfn == b.lfn && a.aoff == b.aoff && a.slip == b.slip

/-- An input disagrees with the locked one in content or edge (R168). -/
def Chip.mismatch (c : Chip) (i : RefInput) : Chip := { c with frm := c.frm.raise 4 }.inputBad i

/-- The locked input's mark meets a mark of the other input that waited for it (R168). -/
def Chip.compareInputs (c : Chip) (o : RefInput) (m : Mark) (n : Nat) : Chip :=
  let r := c.frm.input o
  match r.await with
  | none => c
  | some k =>
    let c1 := { c with frm := c.frm.setInput o { r with await := none, good := r.good || k == n } }
    if k = n ∧ !r.mark.any (fun p => p.same m) then c1.mismatch o else c1

/-- A valid mark on the locked input (R165, R168, R169). -/
def Chip.markLocked (c : Chip) (i : RefInput) (w : MarkWord) : Chip :=
  let m := w.mark
  let r := c.frm.input i
  let c1 := { c with frm := c.frm.setInput i { r with hold := m.hold, edges := true, mark := some m } }.takeMark i m w.intervals
  let c2 := c1.compareInputs i.other m w.intervals
  if m.hold && (c2.frm.input i.other).good && !(c2.frm.input i.other).hold then c2.failover else c2

/-- A valid mark on the input that is not in use (R168): its edge is judged at once, its contents against the locked input's
mark of the same interval, which may still be to come. -/
def Chip.markOther (c : Chip) (i : RefInput) (w : MarkWord) : Chip :=
  let f := c.frm
  let m := w.mark
  let r1 := { f.input i with hold := m.hold, edges := true, mark := some m, extra := f.extraOf w.intervals m }
  if f.disabled i then { c with frm := f.setInput i r1 }
  else if w.skewError < -200 ∨ 200 < w.skewError then { c with frm := f.setInput i r1 }.mismatch i
  else
    let f1 := { f with skew := w.measuredSkew }
    if w.intervals ≠ 0 then { c with frm := f1.setInput i { r1 with await := some w.intervals } }
    else if f.model.any (fun p => p.same m) then
      let c1 := { c with frm := f1.setInput i { r1 with good := true } }
      if (f.input f.src).hold && !m.hold then c1.failover else c1
    else { c with frm := f1.setInput i r1 }.mismatch i

/-- A valid mark in HOLDOVER (R171): the package locks to the input, without any visible effect where the mark
edge lies within one tick period of the grid and the model agrees, and else in a realignment; a larger error re-phases the
grid to the mark edge, 91 tick periods before the end of the mark word (56 cycles of 40 ns; R163). -/
def Chip.markHoldover (c : Chip) (i : RefInput) (w : MarkWord) : Chip :=
  let f := c.frm
  let m := w.mark
  let r1 := { f.input i with hold := m.hold, edges := true, mark := some m, extra := 0, agree := 1 }
  if f.disabled i then { c with frm := f.setInput i r1 }
  else
    let ok := f.agrees w.intervals m
    let extra := f.extraOf w.intervals m
    let f1 := { (f.setInput i { r1 with good := true, extra := extra }).take m extra with
                state := .locked, srcB := (i == .b), holdFrames := 0, gridPeriod := if w.nearGrid then f.gridPeriod else 91 }
    if ok && w.nearGrid then { c with frm := f1 }
    else
      let c1 := { c with frm := if ok then f1 else f1.raise 7 }.realign (m.nextBoundary extra f1.gridPeriod)
      { c1 with frm := { c1.frm with carry := if f1.gridPeriod < m.aoff.toNat then extra else 0 } }

/-- MARK_RECEIVED: a mark word ends on an input and is judged (R162). -/
def markReceivedEffect (i : RefInput) (w : MarkWord) (c0 : Chip) : Chip :=
  if c0.mbx.dstate = .off then c0
  else
    let c := { c0 with frm := c0.frm.setInput i { c0.frm.input i with carrier := true } }
    let f := if w.symbolsOk && w.binary && !w.slipOk then c.frm.raise 5 else c.frm
    if !w.valid (f.input i).edges then { c with frm := ((f.markError i).markDue i) }.inputBad i
    else match f.state with
      | .locked => if f.src = i then { c with frm := f }.markLocked i w else { c with frm := f }.markOther i w
      | .holdover => { c with frm := f }.markHoldover i w
      | _ => { c with frm := f.markUnlocked i w }

/-- MARK_RECEIVED. -/
def execMarkReceived (i : RefInput) (w : MarkWord) (s : State) : Answer := s.lift (markReceivedEffect i w)

/-- MISSING_MARK: the mark due on an input does not arrive (R168). -/
def missingMarkEffect (i : RefInput) (c : Chip) : Chip :=
  if c.mbx.dstate = .off || !(c.frm.input i).edges then c else { c with frm := (c.frm.markError i).markDue i }.inputBad i

/-- MISSING_MARK. -/
def execMissingMark (i : RefInput) (s : State) : Answer := s.lift (missingMarkEffect i)

/-- The PLL uses the carrier of an input before lock, from step 2 of bring-up on (R345). -/
def Chip.onCarrier (c : Chip) (i : RefInput) : Bool :=
  c.mbx.dstate == .bringup && decide (2 ≤ c.bru.passed.toNat) && (c.frm.state == .unlocked || c.frm.state == .acquiring) && c.frm.src == i

/-- The input whose carrier step 2 of bring-up locks to (R341): the preferred one where it has a carrier, or else the other one (log
117). -/
def Frm.carrierInput (f : Frm) : RefInput := if (f.input f.preferred).carrier then f.preferred else f.preferred.other

/-- REF_EDGE_LOSS: no rising edge for 8 cycles; the grid of the input is no longer known (R162, R168). Before lock the PLL moves to
the other input, where that has a carrier, or holds its frequency (R345). -/
def refEdgeLossEffect (i : RefInput) (c : Chip) : Chip :=
  if c.mbx.dstate = .off then c
  else
    let c1 := c.inputBad i
    let f := c1.frm.setInput i { c1.frm.input i with edges := false, mark := none, carrier := false }
    { c1 with frm := if c1.onCarrier i && (f.input i.other).carrier then f.failover else f }

/-- REF_EDGE_LOSS. -/
def execRefEdgeLoss (i : RefInput) (s : State) : Answer := s.lift (refEdgeLossEffect i)

/-! Lock (R167, R171). -/

/-- The input that lock takes: the preferred one, or else the other, once the preferred input's next mark is due. -/
def Frm.lockChoice (f : Frm) : Option RefInput :=
  if f.goodForLock f.preferred then some f.preferred
  else if f.goodForLock f.preferred.other ∧ f.lockWait = some 0 then some f.preferred.other
  else none

/-- The frame clock locked to an input. -/
def Frm.lockTo (f : Frm) (i : RefInput) (m : Mark) : Frm :=
  { f with
    state := .locked, srcB := (i == .b), model := some m, extra := (f.input i).extra, debt := 0, carry := 0, holdFrames := 0
    planSlip := none, aoff := m.aoff.toNat % 4096, lockWait := none }

/-- The comparison of the inputs begins at lock, with their last marks (R167, R168). -/
def Chip.lockCompare (c : Chip) (o : RefInput) (m : Mark) : Chip :=
  let r := c.frm.input o
  if r.good && !r.mark.any (fun p => p.same m) then c.mismatch o else c

/-- The slip of the mark that lock takes, where it waits for grid tick 128, and where it has been passed by the boundary that
the mark names (R165, R182). With what earlier SLIPs add to the frame that begins there it is the debt of that frame. -/
def Mark.slipLater (m : Mark) : Option PendingSlip :=
  if m.slip = 0 ∨ 128 < m.aoff.toNat then none else some { slip := m.slip, lfn := m.lfn }

/-- See above. -/
def Mark.slipNow (m : Mark) : Int := if 128 < m.aoff.toNat then m.slip else 0

/-- The grid of a relock (R171): kept where the input's mark edge lies within one tick period of it. -/
def Frm.relockPeriod (f : Frm) (m : Mark) : Nat :=
  let p := m.aoff.toNat % 4096
  if (f.gridPeriod + 4097 - p) % 4096 ≤ 2 then f.gridPeriod else p

/-- FRAME_LOCK: the package locks at the target boundary of the third agreeing mark. In bring-up step 9 frame 0 of
R6 begins there; from FREERUN the frame in progress is broken and ends there, and the count continues. -/
def frameLockEffect (c : Chip) : Chip :=
  let f := c.frm
  match f.lockChoice with
  | none => c
  | some i =>
    match (f.input i).mark with
    | none => c
    | some m =>
      if f.state = .freerun then
        let f1 := { f.lockTo i m with aoff := f.aoff, gridPeriod := f.relockPeriod m }
        let c1 := { c with frm := f1 }.realign (m.lfn, m.aoff.toNat)
        let c2 := { c1 with frm := { c1.frm with planSlip := m.slipLater, carry := m.slipNow + (f.input i).extra, endIn := 0 } }
        (c2.lockCompare i.other m).refresh
      else if (f.state = .unlocked ∨ f.state = .acquiring) ∧ c.bru.running ∧ c.bru.step = 9 then
        let g := { f.lockTo i m with
            valid := true, frame := 0, tick := 0, second := false, elapsed := 0, gridPeriod := m.aoff.toNat % 4096
            lfn := m.lfn, lfn0 := m.lfn, broken := false, planSlip := m.slipLater, debt := m.slipNow + (f.input i).extra }
        { c with frm := { g with slipNow := g.absorb } }.lockCompare i.other m
      else c

/-- FRAME_LOCK. -/
def execFrameLock (s : State) : Answer := s.lift frameLockEffect

/-- The peers of a context include another package (R170). -/
def Chip.hasPeers (c : Chip) (x : CtxId) : Bool := decide (1 < (c.ctx x).span) || !(c.jobOthers x).isEmpty

/-- The 50th frame of HOLDOVER has ended and no input has become good (R170). -/
def Frm.freerunDue (f : Frm) : Bool := f.state == .holdover && decide (49 ≤ f.holdFrames) && f.ended

/-- FREERUN_ENTRY: the package enters FREERUN at the boundary that ends the 50th frame of HOLDOVER (R170). The plan stops;
contexts with peers roll back the frame that ends, which is the frame in progress (log 92), and stop at this boundary. -/
def freerunEffect (c : Chip) : Chip :=
  if c.frm.freerunDue then
    let c1 := { c with frm := { c.frm.raise 10 with
                  state := .freerun, holdFrames := 50, cntHoldover := satInc c.frm.cntHoldover 1
                  inA := { c.frm.inA with agree := 0 }, inB := { c.frm.inB with agree := 0 } }
                       plan := { c.plan with stopped := true } }.dropQueued (fun _ => true)
    let c2 := allCtxs.foldl (fun c x =>
      if (c.ctx x).judged && c.hasPeers x then
        (c.chargeStop x).modCtx x (fun k => { k with holdNext := k.holdNext ||| holdBit 1 })
      else c.holdCreating x (c.hasPeers x) (holdBit 1)) c1
    (c2.event { code := 0x30, severity := 2 }).refresh
  else c

/-- FREERUN_ENTRY. -/
def execFreerunEntry (s : State) : Answer := s.lift freerunEffect

/-- A slip is due (R182): it is pending, the grid stands at tick 128 of the interval, and no frame boundary comes first. -/
def Frm.slipDue (f : Frm) : Bool := f.valid && f.planSlip.isSome && f.gridPeriod == 128 && !f.ended

/-- SLIP_APPLY: at grid tick 128 a received SLIP joins the debt; more than 1,024 realigns (R182, R184). The SLIP that broke
the limit then joins the debt of the frame after the broken one (log 91). -/
def slipApplyEffect (c : Chip) : Chip :=
  match c.frm.planSlip with
  | none => c
  | some p =>
    if c.frm.slipDue then
      let d := c.frm.debt + p.slip
      let f := { c.frm with planSlip := none }
      if 1024 < d.natAbs then
        let next := (f.model.map (fun m => ({ m with slip := 0 } : Mark).nextBoundary f.extra 128)).getD (f.lfn + 1, f.aoff + 4096)
        let c1 := { c with frm := f.raise 6 }.realign next
        { c1 with frm := { c1.frm with carry := p.slip } }
      else { c with frm := { f with debt := d } }
    else c

/-- SLIP_APPLY. -/
def execSlipApply (s : State) : Answer := s.lift slipApplyEffect

/-! Registers. -/

/-- A write of FRM_CTL (R168-R170): an input disabled becomes bad, both at once where both are disabled, so that the package does not
move to the other one first. -/
def Chip.writeFrmCtl (c : Chip) (w : Word) : Chip :=
  let c1 := { c with frm := { c.frm with ctl := CfgWord.of w } }
  let i := c1.frm.src
  let c2 := if c1.frm.disabled i.other then c1.inputBad i.other else c1
  if c1.frm.disabled i then c2.inputBad i else c2

/-- FRM_SLIPMAP can be written: in BRINGUP and READY (R180). -/
def Chip.slipMapOpen (c : Chip) : Bool := c.mbx.dstate == .bringup || c.mbx.dstate == .ready

/-- A write of FRM_SLIPMAP; one that is not `open_` is discarded with MAP_LOCKED (R180). -/
def Chip.writeSlipMap (c : Chip) (i : Nat) (w : Word) (open_ : Bool) : Chip :=
  if open_ then { c with frm := { c.frm with slipMap := tset (CfgWord.of (slipMapReset i)) c.frm.slipMap i (CfgWord.of w) } }
  else { c with frm := c.frm.raise 12 }

end Sys2Proof.Machine
end

