-- ==== Sys2Proof/Machine/Links.lean ====
section
/-! DEFINITION. Fabric links: codewords, replay, losses, the management channel, training, lanes and width
(chapter 7). -/
namespace Sys2Proof
open Machine

/-- KIND of a codeword header (Table 7-3). -/
def Codeword.kind (c : Codeword) : Nat := Machine.bits c.header 19 18

/-- CSEQ. -/
def Codeword.cseq (c : Codeword) : Byte := BitVec.ofNat 8 (Machine.bits c.header 17 10)

/-- ACK. -/
def Codeword.ack (c : Codeword) : Byte := BitVec.ofNat 8 (Machine.bits c.header 9 2)

/-- NAK. -/
def Codeword.nak (c : Codeword) : Bool := Machine.bit c.header 1

/-- MBIT. -/
def Codeword.mbit (c : Codeword) : Bool := Machine.bit c.header 0

/-! Qualification (R201). A window of 5 x 10^10 bits holds 5 x 10^9 symbols of 10 bits. -/

/-- Bits of a window. -/
def windowBits : Nat := 50000000000

/-- Symbols of a window. -/
def windowSymbols : Nat := 5000000000

/-- n^544 x P[X >= 16] with X distributed Binomial(544, c / n), in whole numbers. -/
def tailWeight (c n : Nat) : Nat :=
  ((List.range 529).foldl (fun (s : Nat × Nat) i =>
    let k := 16 + i
    (s.1 + s.2 * c ^ k * (n - c) ^ (544 - k), s.2 * (544 - k) / (k + 1))) (0, chooseFrom 544 16)).1
where
  /-- The binomial coefficient, by the product of k factors. -/
  chooseFrom (n : Nat) : Nat → Nat
    | 0 => 1
    | k + 1 => chooseFrom n k * (n - k) / (k + 1)

/-- The estimate is at most 10^-15 (R201). -/
def estimateOk (c n : Nat) : Bool := decide (tailWeight c n * 10 ^ 15 ≤ n ^ 544)

/-- -log10 of a / b in units of 0.01, rounded down (log 93); 0xFFFF for 0 and where it cannot be represented. -/
def negLog10 (a b : Nat) : BitVec 16 :=
  if a = 0 then 0xFFFF else BitVec.ofNat 16 (min 0xFFFF ((Nat.toDigits 10 (b ^ 100 / a ^ 100)).length - 1))

/-- The most corrected symbols that a codeword of the window had. -/
def LaneMeasure.maxCorrected (m : LaneMeasure) : Nat :=
  (List.range 16).foldl (fun a k => if m.hist.getD k 0 = 0 then a else k) 0

/-- Symbols in error for the estimate, which counts every uncorrectable codeword as wholly wrong. -/
def LaneMeasure.wrongSymbols (m : LaneMeasure) : Nat := min windowSymbols (m.corrSymbols + 544 * m.uncorrectable)

/-- A lane qualifies over its window (R201). -/
def LaneMeasure.qualifies (m : LaneMeasure) : Bool :=
  m.locked && decide (m.corrBits * 100000 ≤ windowBits) && decide (m.uncorrectable = 0) && decide (m.maxCorrected ≤ 8)
    && estimateOk m.wrongSymbols windowSymbols

/-- BER_EXP of the window (Table 7-14). -/
def LaneMeasure.berExp (m : LaneMeasure) : BitVec 16 := negLog10 m.corrBits windowBits

/-- The post-FEC estimate of a lane, as LNK_EST gives it. -/
def LaneMeasure.estimate (m : LaneMeasure) : BitVec 16 := negLog10 (tailWeight m.wrongSymbols windowSymbols) (windowSymbols ^ 544)

/-- The GOOD mask that a training result gives this end's receivers. -/
def TrainResult.good (r : TrainResult) : BitVec 16 :=
  BitVec.ofNat 16 ((r.lanes.zip (List.range 16)).foldl (fun s p => s + if p.1.qualifies then 2 ^ p.2 else 0) 0)

/-- LNK_EST: the worst lane's estimate. -/
def TrainResult.estimate (r : TrainResult) : BitVec 16 :=
  r.lanes.foldl (fun (a : BitVec 16) m => if m.estimate < a then m.estimate else a) 0xFFFF

/-- LNK_HIST: codewords with k corrected symbols, over all lanes. -/
def TrainResult.hist (r : TrainResult) : Tab Word :=
  (List.range 16).foldl (fun t k => tset 0 t k (BitVec.ofNat 32 (min 0xFFFFFFFF (r.lanes.foldl (fun s m => s + m.hist.getD k 0) 0)))) []

end Sys2Proof

namespace Sys2Proof.Machine

/-! Lanes (R203, R205). -/

/-- Lane states after the used lanes are set: good lanes are used or spare, but one that a requalification retrains stays TRAINING
(R207). A lane that is no longer good, though the width still counts it until its boundary, keeps its state; after it, the lane is
powered down (R205). -/
def Link.markLanes (k : Link) : Link :=
  { k with lanes := (List.range 16).foldl (fun t i =>
      let s := tget LaneStat.zero t i
      if !bit k.goodSent i then (if bit k.usedRx i || s.state == 1 then t else tset LaneStat.zero t i { s with cdr := false })
      else if bit k.usedRx i then tset LaneStat.zero t i { s with state := 3, cdr := true }
      else if k.requal && s.state == 1 then t
      else if bit k.goodRx i then tset LaneStat.zero t i { s with state := 2, cdr := true }
      else t) k.lanes }

/-! Losses (R198). -/

/-- Payload of a loss notice (Table 7-4). -/
def Chip.lossPayload (c : Chip) (l : LinkId) (reason circuit : Nat) (lfn : BitVec 16) : Dword :=
  BitVec.ofNat 64 (reason * 2 ^ 41 + l.val * 2 ^ 38 + c.pkgNo * 2 ^ 32 + lfn.toNat * 65536 + circuit)

/-- A loss notice reaches the active Ibex, which charges the context that the own plan binds to the circuit (R198). -/
def Chip.chargeLoss (c : Chip) (w : Dword) : Chip :=
  let e := c.circ (bits w 15 0)
  if circValid e && !circTomb e && circRole e != 1 then c.charge (Fin.ofNat 16 (circCtx e)) (BitVec.ofNat 16 (bits w 31 16)) 4 else c

/-- A loss notice enters the origin queue, or waits while it is full (R198, R227); one for the own package never reaches a
link (R224). -/
def Chip.putNotice (c : Chip) (dst : Nat) (w : Dword) : Chip :=
  if dst = c.pkgNo then c.chargeLoss w
  else if c.originFull || !c.rte.notices.isEmpty then { c with rte := { c.rte with notices := c.rte.notices ++ [(dst, w)] } }
  else c.enqueueMessage { ptype := 7, dst := dst, srack := c.rack, drack := c.rack, val := 2 } [padTo (leBytes 8 w.toNat) 64]

/-- A loss notice for a circuit, at most one for each key (R198, R206, R222; log 42). -/
def Chip.notifyOnce (c : Chip) (l : LinkId) (key : LossKey) (lfn : BitVec 16) : Chip :=
  if c.rte.lossSent.contains key then c
  else
    let c1 := { c with rte := { c.rte with lossSent := key :: c.rte.lossSent } }
    (c1.modLink l (fun k => { k.raise 1 with cntLoss := satInc k.cntLoss 1 })).putNotice key.dst
      (c.lossPayload l key.reason key.circuit lfn)

/-- Codewords of a circuit lost, or its link short: one notice for each frame charged. -/
def Chip.notifyLoss (c : Chip) (l : LinkId) (reason circuit dst : Nat) (lfn : BitVec 16) : Chip :=
  c.notifyOnce l { drop := false, circuit := circuit, dst := dst, reason := reason, lfn := lfn.toNat } lfn

/-- A forwarding buffer drops a packet of a circuit: one notice for each frame in which that happens (R222), with the frame charged of
R198. -/
def Chip.notifyDrop (c : Chip) (l : LinkId) (circuit dst : Nat) : Chip :=
  c.notifyOnce l { drop := true, circuit := circuit, dst := dst, reason := 0, lfn := c.frm.lfn.toNat } c.resultFrame

/-- Data lost on a link for one window: charged to the circuit's context, or notified to the package that the
circuit's entry names for the direction. -/
def Chip.loseEntry (c : Chip) (l : LinkId) (e : PlanEntry) : Chip :=
  if e.kind = 2 then
    let w := c.circ e.circuit
    c.notifyLoss l 0 e.circuit (if circIn w = l.val then circDst w else circSrc w) c.resultFrame
  else (c.modLink l (fun k => k.raise 1)).charge (Fin.ofNat 16 e.ctx) c.resultFrame 4

/-- The receive windows that a codeword which ends in tick `t` can overlap: it takes more than a tick period, and so lies in
`t` and in the tick before. -/
def Chip.hitWindows (c : Chip) (l : LinkId) (t : Nat) : List PlanEntry :=
  let now := c.rxWindows l t
  now ++ (c.rxWindows l (if t = 0 then 4095 else t - 1)).filter (fun e => !now.contains e)

/-- Data lost on a link now: every circuit whose receive window, with its guard tick, overlaps the codeword. -/
def Chip.loseData (c : Chip) (l : LinkId) : Chip :=
  if c.frm.valid then (c.hitWindows l c.frm.tick).foldl (fun c e => c.loseEntry l e) c else c

/-! Going down (R197, R202, R208-R210). -/

/-- Streams, queues, replay and credits of a link that is not UP. -/
def Link.clearStreams (k : Link) : Link :=
  { k with
    txSeq := 0, held := [], rxSeq := 0xFF, rxBase := 0, rxSeen := [], nakDue := false, resend := false, ctlPart := none
    dataPart := none, discard := false, win := none, credits := 8, freed := 0, mgmt := [], mgmtRx := [], ctlOut := []
    ctlWin := none, ctlUsed := 0, dataQ := [], txWin := none, txUsed := 0, txPart := [], resent := 0
    loop := [], nakWin := none }

/-- REQUAL as the device writes it: a write like any other, with its parity (R424, R425, log 128). Where the bit does not change, the
device writes nothing. -/
def CfgWord.requalBit (k : CfgWord) (on : Bool) : CfgWord :=
  if bit k.stored 2 = on then k else CfgWord.of (if on then setBit k.stored 2 else clrBit k.stored 2)

/-- A link goes DOWN with a cause: at once, short from a boundary (R208), announced unless the host or the peer
disabled it (R210). A link that is DOWN already only takes the cause. -/
def Chip.linkDown (c : Chip) (l : LinkId) (cause : Nat) : Chip :=
  let up := (c.link l).state == .up
  let was := (c.link l).state == .down
  let c1 := (if up then c.loseData l else c).modLink l (fun k =>
    { (if was then k.clearStreams else k.clearStreams.raise 7) with
      state := .down, width := 0, usedRx := 0, goodRx := 0, goodTx := 0, goodSent := 0, cause := BitVec.ofNat 4 cause
      cntDown := if was then k.cntDown else satInc k.cntDown 1, changes := [], attempt := none, requal := false, upNext := false
      lanes := k.lanes.filter (fun p => p.2.state == 5)
      ctl := k.ctl.requalBit false
      losFrame := if !up then k.losFrame else if c.frm.valid then some (decide (4080 < c.frm.tick)) else none })
  let c2 := if up && cause != 5 && cause != 6 then c1.event { code := 0x20, severity := 1, arg := l.val + 16 * cause } else c1
  c2.refresh

/-- A replay failure (R197). -/
def Chip.replayFail (c : Chip) (l : LinkId) : Chip :=
  (c.modLink l (fun k => { k.raise 3 with cntCtlLost := satInc k.cntCtlLost k.held.length })).linkDown l 7

/-! Lane changes (R205-R207). -/

/-- The frame that a lane change names (R206): the next, or after tick 3,999 the one after that. -/
def Chip.changeFrame (c : Chip) : BitVec 12 :=
  let next := c.frm.nextFrame.lfn
  (if c.frm.tick < 4000 then next else next + 1).setWidth 12

/-- This end's receivers change: the peer is told until the named boundary, and both ends apply it at the named frame
(R206, R207). -/
def Chip.sendLaneChange (c : Chip) (l : LinkId) (type : Nat) (good : BitVec 16) : Chip :=
  let f := c.changeFrame
  (c.modLink l (fun k => { k with goodSent := good, changes := k.changes ++ [{ rx := true, good := good, lfn := f }] })).sendMgmt l
    (mgmtMessage type good f 0) (some f)

/-- Used and spare lanes of a link in service are dropped (R205, R206). The lanes in use stay as they are until the
boundary. -/
def Chip.dropLanes (c : Chip) (l : LinkId) (lanes : List Nat) (lost : Bool) : Chip :=
  let k := c.link l
  let hit := lanes.filter (fun i => bit k.goodSent i)
  if k.state != .up || hit.isEmpty then c
  else
    let good := hit.foldl (fun (m : BitVec 16) i => m &&& ~~~ (BitVec.ofNat 16 (2 ^ i))) k.goodSent
    let c1 := c.modLink l (fun k => { k.raise 4 with
      lanes := hit.foldl (fun t i => tset LaneStat.zero t i { tget LaneStat.zero t i with state := 4, cdr := !lost && (tget LaneStat.zero t i).cdr }) k.lanes })
    c1.sendLaneChange l 1 good

/-- LANE_CDR_LOSS: a lane loses clock-data recovery lock. -/
def execLaneCdrLoss (l : LinkId) (lane : Fin 16) (s : State) : Answer := s.lift (fun c => c.dropLanes l [lane.val] true)

/-- LANE_BER_CHECK: at every 1,024th frame count, lanes whose pre-FEC error rate exceeds 10^-4 (R205); `errs`
gives lane, corrected bits and bits received. -/
def laneBerEffect (l : LinkId) (errs : List (Fin 16 × Nat × Nat)) (c : Chip) : Chip :=
  if c.frm.valid && c.frm.frame % 1024 == 0 then
    c.dropLanes l ((errs.filter (fun e => decide (e.2.2 < e.2.1 * 10000))).map (·.1.val)) false
  else c

/-- LANE_BER_CHECK. -/
def execLaneBerCheck (l : LinkId) (errs : List (Fin 16 × Nat × Nat)) (s : State) : Answer := s.lift (laneBerEffect l errs)

/-- The peer's receivers change at the frame its message names (R206, R207). -/
def peerChange (l : LinkId) (good : BitVec 16) (lfn : BitVec 12) (c : Chip) : Chip :=
  if (c.link l).state == .up then
    c.modLink l (fun k =>
      let ch : LaneChange := { rx := false, good := good, lfn := lfn }
      { k with changes := if k.changes.contains ch then k.changes else k.changes ++ [ch] })
  else c

/-- LANE_DROP. -/
def execLaneDrop (l : LinkId) (good : BitVec 16) (lfn : BitVec 12) (s : State) : Answer := s.lift (peerChange l good lfn)

/-- LANE_ADD. -/
def execLaneAdd (l : LinkId) (good : BitVec 16) (lfn : BitVec 12) (s : State) : Answer := s.lift (fun c => peerChange l good lfn c)

/-- The link carries codewords: UP, or trained and waiting for its boundary. -/
def Link.trained (k : Link) : Bool := k.state == .up || k.upNext

/-- GOODBYE: the peer has been disabled (R210). -/
def goodbyeEffect (l : LinkId) (c : Chip) : Chip := if (c.link l).trained then c.linkDown l 6 else c

/-- GOODBYE. -/
def execGoodbye (l : LinkId) (s : State) : Answer := s.lift (goodbyeEffect l)

/-- The package number that training uses: step 8 takes RTE_ID as it was when the step started (R357). -/
def Chip.nbrNo (c : Chip) : Nat :=
  let w := c.bru.rteId.getD c.rte.id.val
  4 * bits w 11 8 + bits w 1 0

/-- The own neighbour record (R202, R211), in the layout of LNK_PEER [31:16]: a package, its tray, position and link, and
whether it is a GL4-RH-T. -/
def Chip.ownRecord (c : Chip) (l : LinkId) : BitVec 16 :=
  BitVec.ofNat 16 (2 ^ 14 + c.nbrNo / 4 * 2 ^ 10 + c.nbrNo % 4 * 16 + 2 * l.val + b2n (c.fuse.variant == .t))

/-- The neighbour record expected on a link (R29, R202), in the layout of LNK_PEER [31:16]. -/
def Chip.expectedPeer (c : Chip) (l : LinkId) : Nat :=
  let tray := c.nbrNo / 4
  let pos := c.nbrNo % 4
  let pk := fun (t p k : Nat) => 2 ^ 14 + t * 2 ^ 10 + p * 16 + 2 * k
  match l.val with
  | 0 => pk tray ((pos + 1) % 4) 1
  | 1 => pk tray ((pos + 3) % 4) 0
  | 2 => pk ((tray + 1) % 12) pos 3
  | 3 => pk ((tray + 11) % 12) pos 2
  | 4 => 2 * 2 ^ 14 + 16 * c.nbrNo
  | _ => 2 * 2 ^ 14 + 2 ^ 10 + 16 * c.nbrNo

/-- A record differs from the expectation in KIND, TRAY, POS or LINK, with NBR_CHECK set. -/
def Chip.miswired (c : Chip) (l : LinkId) (rec : BitVec 16) : Bool :=
  bit (c.link l).ctl.val 4 && rec.toNat / 2 != c.expectedPeer l / 2

/-- NEIGHBOUR: a record is received and checked (R202). -/
def neighbourEffect (l : LinkId) (rec : BitVec 16) (c : Chip) : Chip :=
  let k := c.link l
  if k.state == .up || k.state == .training || k.state == .qualifying then
    let c1 := c.modLink l (fun k => { k with peer := rec })
    if c.miswired l rec then (c1.modLink l (fun k => k.raise 9)).linkDown l 4 else c1
  else c

/-- NEIGHBOUR. -/
def execNeighbour (l : LinkId) (rec : BitVec 16) (s : State) : Answer := s.lift (neighbourEffect l rec)

/-- LINK_LOS: signal is lost on every receiving lane (R208). -/
def linkLosEffect (l : LinkId) (c : Chip) : Chip := if (c.link l).trained then c.linkDown l 1 else c

/-- LINK_LOS. -/
def execLinkLos (l : LinkId) (s : State) : Answer := s.lift (linkLosEffect l)

/-! Management messages received (R199). -/

/-- The shift register of a lane holds a message whose SYNC and CRC are good. -/
def mgmtGood (w : Dword) : Bool := bits w 63 56 == 0xE5 && crc8 w 8 48 == bits w 7 0

/-- What a management message says, by its TYPE. -/
def Chip.mgmtIn (c : Chip) (l : LinkId) (w : Dword) : Chip :=
  let good := BitVec.ofNat 16 (bits w 51 36)
  let lfn := BitVec.ofNat 12 (bits w 35 24)
  match bits w 55 52 with
  | 1 => peerChange l good lfn c
  | 2 => peerChange l good lfn c
  | 3 => goodbyeEffect l c
  | 4 => neighbourEffect l (BitVec.ofNat 16 (bits w 23 8)) c
  | _ => c

/-- The MBIT of a codeword joins the message on its lane; the first copy whose CRC is good is taken, and the copies of the
other lanes are then passed over. -/
def Chip.mgmtBit (c : Chip) (l : LinkId) (w : Codeword) : Chip :=
  let r := (tget 0 (c.link l).mgmtRx w.lane.val <<< 1) ||| BitVec.ofNat 64 (b2n w.mbit)
  if mgmtGood r then (c.modLink l (fun k => { k with mgmtRx := [] })).mgmtIn l r
  else c.modLink l (fun k => { k with mgmtRx := tset 0 k.mgmtRx w.lane.val r })

/-! Training (R200-R204, R209). -/

/-- A training attempt starts, with `more` attempts to follow should it fail; `retry` says that it is one of R209. -/
def Chip.startTraining (c : Chip) (l : LinkId) (cold : Bool) (more : Nat) (retry : Bool) : Chip :=
  let k := c.link l
  if c.fuse.linkOn l.val && bit k.ctl.val 1 && k.attempt.isNone && k.state != .up && !k.upNext then
    c.modLink l (fun k => { k with
      state := .training, attempt := some { cold := cold, more := more, retry := retry, phase := 1, since := c.uptime }
      eq := if cold then [] else (List.range 16).foldl (fun t i => tset 0 t i (tget 0 c.nor.params (16 * l.val + i))) []
      lanes := (List.range 16).foldl (fun t i => tset LaneStat.zero t i { LaneStat.zero with state := 1 }) [] })
  else c

/-- LINK_TRAINING: at bring-up a cold start has up to 3 attempts, a warm start one (R204). -/
def linkTrainingEffect (l : LinkId) (cold : Bool) (c : Chip) : Chip :=
  c.startTraining l cold (if cold && c.mbx.dstate == .bringup then 2 else 0) (c.mbx.dstate != .bringup)

/-- LINK_TRAINING. -/
def execLinkTraining (l : LinkId) (cold : Bool) (s : State) : Answer := s.lift (linkTrainingEffect l cold)

/-- AUTO_RETRAIN may act on a link: DOWN for another cause than HOST (R209). -/
def Link.retrains (k : Link) : Bool := bit k.ctl.val 3 && k.state == .down && k.cause != 5 && k.attempt.isNone

/-- AUTO_RETRAIN: at a frame count that is a multiple of 4,096 (R209). -/
def autoRetrainEffect (l : LinkId) (c : Chip) : Chip :=
  if c.frm.valid && c.frm.frame % 4096 == 0 && (c.link l).retrains then c.startTraining l true 0 true else c

/-- AUTO_RETRAIN. -/
def execAutoRetrain (l : LinkId) (s : State) : Answer := s.lift (autoRetrainEffect l)

/-- LINK_SIGNAL_DETECT: a DOWN link joins a training attempt (R209). -/
def signalDetectEffect (l : LinkId) (c : Chip) : Chip := if (c.link l).retrains then c.startTraining l true 0 true else c

/-- LINK_SIGNAL_DETECT. -/
def execLinkSignalDetect (l : LinkId) (s : State) : Answer := s.lift (signalDetectEffect l)

/-- A phase of training begins (Table 7-6): T3 sends the neighbour record, T4 is the qualification window, in which the
link is QUALIFYING and its histogram starts afresh. -/
def Chip.enterPhase (c : Chip) (l : LinkId) (phase : Nat) : Chip :=
  let c1 := c.modLink l (fun k => { k with attempt := k.attempt.map (fun a => { a with phase := phase }) })
  if phase = 3 then c1.sendMgmt l (mgmtMessage 4 0 0 (c.ownRecord l)) none
  else if phase = 4 then c1.modLink l (fun k => { k with state := .qualifying, hist := [] })
  else c1

/-- The phases up to T4 that an attempt which has measured its lanes has not shown yet. -/
def Chip.finishPhases : Nat → LinkId → Chip → Chip
  | 0, _, c => c
  | n + 1, l, c =>
    match (c.link l).attempt with
    | some a => if a.phase < 4 then Chip.finishPhases n l (c.enterPhase l (a.phase + 1)) else c
    | none => c

/-- Time in a training attempt: the next phase begins when the present one has had its time. -/
def Chip.trainTick (c : Chip) (l : LinkId) : Chip :=
  match (c.link l).attempt with
  | some a =>
    if a.phase < 4 ∧ phaseEnd a.cold a.phase * 40960 ≤ c.uptime - a.since then c.enterPhase l (a.phase + 1) else c
  | none => c

/-- The measures of a window are recorded (R201): a lane that does not qualify is FAILED and powered down. -/
def Link.measured (k : Link) (r : TrainResult) : Link :=
  { k with
    est := r.estimate
    hist := r.hist
    eq := (r.lanes.zip (List.range 16)).foldl (fun t p => tset 0 t p.2 p.1.params) k.eq
    lanes := (r.lanes.zip (List.range 16)).foldl (fun t p =>
      tset LaneStat.zero t p.2
        { state := if !p.1.qualifies then 5 else if bit k.usedRx p.2 then 3 else if bit k.goodRx p.2 then 2 else 1
          inv := p.1.inverted, cdr := p.1.locked && p.1.qualifies, ber := p.1.berExp })
      k.lanes }

/-- A link comes UP at its agreed width (R203): its streams start afresh. -/
def Link.comeUp (k : Link) : Link :=
  ({ k.clearStreams.raise 8 with
    state := .up, width := k.agreed, usedRx := lowestLanes k.goodRx k.agreed, goodSent := k.goodRx, cause := 0, upNext := false
    losFrame := none, drained := false }).markLanes

/-- A failed attempt: the next one of a cold start follows, or the link is DOWN. A retry that found no signal has cause
LOS (R204, R209). -/
def Chip.trainFail (c : Chip) (l : LinkId) (signal : Bool) : Chip :=
  match (c.link l).attempt with
  | none => c
  | some a =>
    if 0 < a.more then
      c.modLink l (fun k => { k with state := .training, attempt := some { a with more := a.more - 1, phase := 1, since := c.uptime } })
    else c.linkDown l (if a.retry && !signal then 1 else 2)

/-- The equalisation parameters of a link are stored in the NOR (R204). -/
def Chip.storeParams (c : Chip) (l : LinkId) : Chip :=
  { c with nor := { c.nor with params := (List.range 16).foldl (fun t i => tset 0 t (16 * l.val + i) (tget 0 (c.link l).eq i)) c.nor.params } }

/-- LINK_TRAIN_COMPLETE: an attempt ends; where the lanes were measured, the phases run to T5, in which the GOOD mask is
sent (log 94) and the width agreed. -/
def trainCompleteEffect (l : LinkId) (r : TrainResult) (c : Chip) : Chip :=
  match (c.link l).attempt with
  | none => c
  | some a =>
    if !r.signal || !r.aligned then c.trainFail l r.signal
    else
      let c1 := (Chip.finishPhases 4 l c).modLink l (fun k => { k with peer := r.neighbour, reversed := r.reversed })
      if c.miswired l r.neighbour then (c1.modLink l (fun k => k.raise 9)).linkDown l 4
      else
        let c2 := (c1.enterPhase l 5).modLink l (fun k =>
          let k1 := { k.measured r with goodRx := r.good, goodTx := r.peerGood, goodSent := r.good }
          if r.good != 0xFFFF then k1.raise 10 else k1)
        let c3 := c2.sendMgmt l (mgmtMessage 2 r.good 0 0) none
        if (c3.link l).agreed = 0 then c3.linkDown l 3
        else
          let c4 := c3.modLink l (fun k =>
            let k1 := { k with attempt := none }
            if c.frm.valid then { k1 with upNext := true } else k1.comeUp)
          (if a.cold then c4.storeParams l else c4).refresh

/-- LINK_TRAIN_COMPLETE. -/
def execLinkTrainComplete (l : LinkId) (r : TrainResult) (s : State) : Answer :=
  s.lift (trainCompleteEffect l r)

/-- A requalification begins (R207): used lanes are measured on live traffic, the others are retrained. -/
def Link.startRequal (k : Link) (now : Nat) : Link :=
  { k with
    requal := true, requalAt := now, ctl := k.ctl.requalBit true, hist := []
    lanes := (List.range 16).foldl (fun t i =>
      if bit k.usedRx i then t else tset LaneStat.zero t i { tget LaneStat.zero t i with state := 1 }) k.lanes }

/-- REQUAL_DONE: a requalification completes; its result is applied at a frame boundary (R207). -/
def requalDoneEffect (l : LinkId) (r : TrainResult) (c : Chip) : Chip :=
  let k := c.link l
  if !k.requal || k.state != .up then c
  else
    let c1 := c.modLink l (fun k =>
      let k1 := { k.measured r with
        requal := false, ctl := k.ctl.requalBit false }
      if r.good != 0xFFFF then k1.raise 10 else k1)
    if r.good = k.goodSent then c1
    else c1.sendLaneChange l (if (k.goodSent &&& ~~~ r.good) != 0 then 1 else 2) r.good

/-- REQUAL_DONE. -/
def execRequalDone (l : LinkId) (r : TrainResult) (s : State) : Answer :=
  s.lift (requalDoneEffect l r)

/-! Boundaries. -/

/-- Lane changes that name frame `lfn` are applied (R206): LANE_SUBST where a used lane of either direction was dropped and a spare
takes its place. -/
def Link.applyChanges (k : Link) (lfn : BitVec 16) : Link :=
  let now := k.changes.filter (fun ch => ch.lfn == lfn.setWidth 12)
  if now.isEmpty then k
  else
    let k1 := now.foldl (fun k ch => if ch.rx then { k with goodRx := ch.good } else { k with goodTx := ch.good }) k
    let w := k1.agreed
    let used := lowestLanes k1.goodRx w
    let k2 := { k1 with width := w, usedRx := used, changes := k1.changes.filter (fun ch => ch.lfn != lfn.setWidth 12) }
    let k3 := if w != k.width then { k2.raise 6 with cntWidth := satInc k2.cntWidth 1 }
      else if (k.usedRx &&& ~~~ k1.goodRx) != 0 || (lowestLanes k.goodTx w &&& ~~~ k1.goodTx) != 0 then k2.raise 5 else k2
    k3.markLanes

/-- The PLAN_WIDTH values whose boundary this is come into force, in the order in which they were written (R206). -/
def Link.planStep (k : Link) : Link :=
  { k with
    planWidth := (k.planNext.filter (fun p => decide (p.2 ≤ 1))).foldl (fun _ p => p.1) k.planWidth
    planNext := (k.planNext.filter (fun p => decide (1 < p.2))).map (fun p => (p.1, p.2 - 1)) }

/-- A management message that names frame `lfn` has been sent long enough (R199). -/
def Link.endMessage (k : Link) (lfn : BitVec 16) : Link :=
  { k with mgmt := k.mgmt.filter (fun m => m.til != some (lfn.setWidth 12)) }

/-- The link is short from this boundary on: DOWN, after a late loss of signal one boundary later, or narrower
than planned (R206, R208). -/
def Link.shortNow (k : Link) : Bool :=
  match k.state with
  | .up => decide (k.width < k.planWidth)
  | .none => false
  | .disabled => false
  | _ => k.short || k.losFrame != some true

/-- A link at the boundary that begins frame `lfn`: changes, the planned width, and a link that has trained comes UP. -/
def Link.atBoundary (k : Link) (lfn : BitVec 16) : Link :=
  let k1 := ((k.applyChanges lfn).planStep).endMessage lfn
  if k1.upNext then k1.comeUp else k1

/-- A link at the boundary that begins frame `lfn`; a width of 0 is DOWN with cause DROPPED, and short at once. -/
def Chip.linkBoundary (c : Chip) (lfn : BitVec 16) (l : LinkId) : Chip :=
  let c1 := c.modLink l (fun k => k.atBoundary lfn)
  if (c1.link l).state == .up && (c1.link l).width == 0 then (c1.linkDown l 8).modLink l (fun k => { k with losFrame := none })
  else c1

/-- A link becomes short at the boundary that begins frame `lfn`. -/
def Link.becomesShort (k : Link) (lfn : BitVec 16) : Bool :=
  !k.short && ((k.atBoundary lfn).shortNow || ((k.atBoundary lfn).state == .up && (k.atBoundary lfn).width == 0))

/-- Contexts with a data or remote-memory entry on a link. -/
def Chip.ctxOnLink (c : Chip) (l : LinkId) (x : CtxId) : Bool :=
  match c.plan.active with
  | some p => p.entries.any (fun e => e.link == l.val && e.kind != 2 && e.ctx == x.val)
  | none => false

/-- The present frame is to be rolled back for a context of a link that is short from its end on; a verdict already taken
stays (R206). -/
def Chip.chargeOpen (c : Chip) (x : CtxId) : Chip := if (c.digCtx x).decided then c else c.chargeStop x

/-- The rollbacks that links which are short from the next boundary order (R206). -/
def Chip.chargeShort (c : Chip) : Chip :=
  allLinks.foldl (fun c l =>
    if (c.link l).becomesShort c.frm.nextFrame.lfn then
      allCtxs.foldl (fun c x => if (c.ctx x).judged && c.ctxOnLink l x then c.chargeOpen x else c) c
    else c) c

/-- VERDICT: at tick 4,080 every context is decided (R186). -/
def verdictEffect (c : Chip) : Chip :=
  if c.frm.valid && decide (4080 ≤ c.frm.tick) then
    allCtxs.foldl (fun c x => if (c.ctx x).judged then c.verdictCtx x else c) c.chargeShort
  else c

/-- VERDICT. -/
def execVerdict (s : State) : Answer := s.lift verdictEffect

/-- A link becomes short at this boundary: the frame that ends is rolled back for its contexts and they are held
(R206); with a late loss the next boundary counts. A link that the host or the peer disabled is not announced (R210). -/
def Chip.shortBoundary (c : Chip) (l : LinkId) : Chip :=
  let k := c.link l
  let now := k.shortNow
  let c1 := c.modLink l (fun k => { k with short := now, losFrame := if k.losFrame = some true then some false else k.losFrame })
  if now && !k.short then
    let c2 := c1.modLink l (fun k => k.raise 11)
    let c3 := if k.state != .up && (k.cause == 5 || k.cause == 6) then c2
      else c2.event { code := 0x21, severity := 1, arg := l.val + 256 * k.width }
    allCtxs.foldl (fun c x =>
      if (c.ctx x).judged && c.ctxOnLink l x then
        (c.chargeOpen x).modCtx x (fun k => { k with holdNext := k.holdNext ||| holdBit 2 })
      else c.holdCreating x (c.ctxOnLink l x) (holdBit 2)) c3
  else c1

/-- The forwarding circuits that transmit on a short link, and where their losses are notified (R206). -/
def Chip.shortNotices (c : Chip) (l : LinkId) : Chip :=
  if (c.link l).short then
    ((c.planOn l).filter (fun e => e.kind == 2 && !e.rx)).foldl (fun c e =>
      let w := c.circ e.circuit
      c.notifyLoss l 1 e.circuit (if circOut w = l.val then circDst w else circSrc w) c.frm.lfn) c
  else c

/-! Codewords (R193-R198). -/

/-- A codeword as it stands on a lane: ten flits of 64 bytes (R191). -/
def wholeCodeword (w : Codeword) : Codeword := { w with flits := (List.range 10).map (fun i => flit64 (w.flits.getD i [])) }

/-- Flits of a stream sorted into packets: the packet under way, and the packets completed. -/
def sortFlits : Option Partial → List (List Byte) → List Packet → Option Partial × List Packet
  | p, [], acc => (p, acc)
  | none, f :: fs, acc =>
    if leAt f 0 2 = 0 then sortFlits none fs acc
    else
      let n := leAt f 0 2 / 64 % 32
      if n = 0 then sortFlits none fs (acc ++ [{ hdr := f, flits := [] }])
      else sortFlits (some { hdr := f, left := n, flits := [] }) fs acc
  | some p, f :: fs, acc =>
    if p.left ≤ 1 then sortFlits none fs (acc ++ [{ hdr := p.hdr, flits := p.flits ++ [f] }])
    else sortFlits (some { p with left := p.left - 1, flits := p.flits ++ [f] }) fs acc

/-- The flits of a group in slot order, given those of its codewords in lane order: slot s lies in codeword s mod w
(R194). -/
def groupFlits (g : List (List (List Byte))) : List (List Byte) :=
  (List.range 10).flatMap (fun i => g.map (fun w => flit64 (w.getD i [])))

/-- Every codeword up to the ACK has been received. -/
def Link.advanceAck : Nat → Link → Link
  | 0, k => k
  | n + 1, k => if k.rxSeen.any (fun q => q.cseq == k.rxSeq + 1) then Link.advanceAck n { k with rxSeq := k.rxSeq + 1 } else k

/-- Control groups that are whole are delivered in CSEQ order (R193, R196); those beyond a gap wait. -/
def Link.deliver : Nat → Link → Link
  | 0, k => k
  | n + 1, k =>
    match k.rxSeen.find? (fun q => decide ((q.cseq - k.rxBase).toNat < q.width)) with
    | none => k
    | some q =>
      let cs := (List.range q.width).map (fun j => k.rxBase + BitVec.ofNat 8 j)
      if cs.all (fun s => k.rxSeen.any (fun r => r.cseq == s)) then
        let g := cs.map (fun s => ((k.rxSeen.find? (fun r => r.cseq == s)).map (·.flits)).getD [])
        let r := sortFlits k.ctlPart (groupFlits g) []
        Link.deliver n { k with
          rxBase := k.rxBase + BitVec.ofNat 8 q.width, rxSeen := k.rxSeen.filter (fun r => !cs.contains r.cseq), ctlPart := r.1
          rxReady := k.rxReady ++ r.2 }
      else k

/-- A control codeword is accepted in any order, and dropped where its CSEQ has been accepted (R196). -/
def Link.takeControl (k : Link) (w : Codeword) : Link :=
  if 128 ≤ (w.cseq - k.rxBase).toNat ∨ k.rxSeen.any (fun p => p.cseq == w.cseq) then k
  else { k with rxSeen := k.rxSeen ++ [{ cseq := w.cseq, width := k.width, flits := w.flits }] }

/-- A CSEQ lies beyond the last one acknowledged. -/
def Link.beyond (k : Link) (s : Byte) : Bool := decide (0 < (s - k.rxSeq).toNat ∧ (s - k.rxSeq).toNat ≤ 128)

/-- Codewords beyond a gap have been accepted. -/
def Link.gap (k : Link) : Bool := k.rxSeen.any (fun q => k.beyond q.cseq)

/-- The control codewords of a group: accepted, acknowledged as far as they are in order, delivered. A gap is due a NAK when it is found: when
codewords beyond it are the first to be accepted, or come again in a resending that has left it open (R196, log 122). -/
def Link.takeControls (k : Link) (ws : List Codeword) : Link :=
  let k1 := Link.advanceAck 256 (ws.foldl (fun k w => k.takeControl w) k)
  let again := ws.any (fun w => k1.beyond w.cseq && k.rxSeen.any (fun q => q.cseq == w.cseq))
  Link.deliver 128 { k1 with nakDue := k1.nakDue || (k1.gap && (!k.gap || again)) }

/-- ACK releases the codewords up to it. -/
def Link.acked (k : Link) (a : Byte) : Link :=
  let left := k.held.filter (fun h => decide ((a - h.cseq).toNat ≥ 128))
  { k with held := left, resent := k.resent - (k.held.length - left.length) }

/-- A NAK asks for every codeword after ACK: it is a replay failure when one is no longer held or is asked for a
third time (R197). Each group received whose header carries NAK is one request (log 122). -/
def Chip.takeNak (c : Chip) (l : LinkId) (a : Byte) : Chip :=
  let k := c.link l
  let owed := (k.txSeq - 1 - a).toNat
  let c1 := c.modLink l (fun k => { k with resend := true, resent := 0, nakWin := some c.frm.window, held := k.held.map (fun h => { h with asked := h.asked + 1 }) })
  if k.held.length < owed || k.held.any (fun h => decide (2 ≤ h.asked)) then c1.replayFail l
  else if owed = 0 then c else c1

/-- A codeword that more than 15 symbols would have to be corrected in is uncorrectable (R192). -/
def Codeword.fixed (w : Codeword) : Option Nat := w.corrected.filter (fun n => decide (n ≤ 15))

/-- A lost codeword of a lane is counted; a second one within 1,024 frames drops the lane (R205). -/
def Chip.countLost (c : Chip) (l : LinkId) (lane : Nat) : Chip :=
  let last := tget 0 (c.link l).ucwFrame lane
  let c1 := c.modLink l (fun k => { k.raise 0 with
    cntUcw := satInc k.cntUcw 1, ucwFrame := tset 0 k.ucwFrame lane (c.frm.frame + 1) })
  if last ≠ 0 ∧ c.frm.frame + 1 < last + 1024 then c1.dropLanes l [lane] false else c1

/-- A codeword of a lane is received while the lane is in lock. -/
def Link.hears (k : Link) (w : Codeword) : Bool := (tget LaneStat.zero k.lanes w.lane.val).cdr

/-- The counts of one codeword: lost on a lane in use that is out of lock; a lane that is powered down and not in use receives none
(R198, R205). -/
def Chip.countCodeword (c : Chip) (l : LinkId) (w : Codeword) : Chip :=
  if !(c.link l).hears w then (if bit (c.link l).usedRx w.lane.val then c.countLost l w.lane.val else c)
  else
    let c1 := c.modLink l (fun k => { k with cntCw := satInc64 k.cntCw 1 })
    match Codeword.fixed w with
    | some n =>
      c1.modLink l (fun k => { k with
        cntCorr := if n = 0 then k.cntCorr else satInc64 k.cntCorr 1
        laneSe := tset 0 k.laneSe w.lane.val (satInc64 (tget 0 k.laneSe w.lane.val) n) })
    | none => c1.countLost l w.lane.val

/-- Tick `t` lies in a control-class window or one tick on either side (R195, R196). -/
def nearControl (t : Nat) : Bool := decide (t % 64 ≤ 8) || decide (t % 64 = 63)

/-- The receive window that a data group falls in: of two back to back, the later, unless a packet of the earlier is under
way (R179, R193). -/
def Chip.groupWindow (c : Chip) (l : LinkId) : Option PlanEntry :=
  let ws := c.rxWindows l c.frm.tick
  let k := c.link l
  match ws.find? (fun e => k.win == some (c.frm.frame, e.start) && k.dataPart.isSome) with
  | some e => some e
  | none => ws.foldl (fun (b : Option PlanEntry) e => if b.all (fun q => decide (q.start ≤ e.start)) then some e else b) none

/-- A group of data codewords, given by its used lanes in order, none where the codeword is lost: outside every receive
window its packets are dropped and counted (R179, R195), else it is sorted, up to the first lost flit (R193). -/
def Chip.takeData (c : Chip) (l : LinkId) (g : List (Option Codeword)) : Chip :=
  let lost := g.any (·.isNone)
  let fs := if lost then (g.takeWhile (·.isSome)).map (fun w => flit64 ((w.map (fun v => v.flits.getD 0 [])).getD []))
    else groupFlits (g.map (fun w => (w.map (·.flits)).getD []))
  match c.groupWindow l with
  | none =>
    let r := sortFlits none fs []
    (r.2 ++ (r.1.map (fun p => { hdr := p.hdr, flits := [] : Packet })).toList).foldl (fun c p => c.modRte (fun q => q.outside p)) c
  | some e =>
    c.modLink l (fun k =>
      let key := (c.frm.frame, e.start)
      let k1 := if k.win = some key then k else { k with win := some key, discard := false, dataPart := none }
      if k1.discard then k1
      else
        let r := sortFlits k1.dataPart fs []
        { k1 with dataPart := if lost then none else r.1, discard := lost, rxReady := k1.rxReady ++ r.2 })

/-- The codewords of a received group on the used lanes of a link, in ascending lane order (R194); none where the codeword is
uncorrectable, or did not arrive, or its lane is out of lock (R198). -/
def Link.usedGroup (k : Link) (g : List Codeword) : List (Option Codeword) :=
  (onesOf 16 k.usedRx.toNat).map (fun i =>
    (g.find? (fun w => w.lane.val == i)).filter (fun w => (Codeword.fixed w).isSome && (tget LaneStat.zero k.lanes i).cdr))

/-- The header of a good codeword: its ACK and NAK. -/
def Chip.takeHeader (c : Chip) (l : LinkId) (w : Codeword) : Chip :=
  let c1 := c.modLink l (fun k => k.acked w.ack)
  if w.nak then c1.takeNak l w.ack else c1

/-- A codeword has come at a time at which its KIND is not sent (R195): a management codeword while the link is UP, a control codeword
more than a tick outside a control-class window. -/
def Codeword.misplaced (t : Nat) (w : Codeword) : Bool := Codeword.kind w == 3 || (Codeword.kind w == 2 && !nearControl t)

/-- The codewords of a group that are counted, the used lanes on which none came included. -/
def Chip.countGroup (c : Chip) (l : LinkId) (g : List Codeword) : Chip :=
  let absent := (onesOf 16 (c.link l).usedRx.toNat).filter (fun i => g.all (fun w => w.lane.val != i))
  absent.foldl (fun c i => c.countLost l i) (g.foldl (fun c w => c.countCodeword l w) c)

/-- A group arrives on a link and its flits are sorted into streams. What is misplaced is dropped whole, its header with it, and
counted (R195). The KIND is that of the used lanes; where all of them are lost, what arrives in a receive window is data. -/
def codewordEffect (l : LinkId) (g : List Codeword) (c : Chip) : Chip :=
  if (c.link l).state != .up then c
  else
    let t := c.frm.tick
    let used := (c.link l).usedGroup g
    let good := used.filterMap id
    let heard := g.filter (fun w => (Codeword.fixed w).isSome && (c.link l).hears w)
    let off := heard.countP (Codeword.misplaced t)
    let taken := heard.filter (fun w => !Codeword.misplaced t w)
    let c1 := (c.countGroup l g).modLink l (fun k => if off = 0 then k else { k with cntMisplaced := satInc k.cntMisplaced off })
    let c2 := match taken.head? with
      | none => c1
      | some w => c1.takeHeader l w
    let c3 := taken.foldl (fun c w => c.mgmtBit l w) c2
    let kind : Nat := match good.head? with
      | some w => if Codeword.misplaced t w then 3 else w.kind
      | none => if (c.rxWindows l t).isEmpty then 0 else 1
    let lost := used.any (·.isNone)
    let c4 := if lost && nearControl t then c3.modLink l (fun k => { k with nakDue := true }) else c3
    let c5 := if lost && (kind = 1 || good.isEmpty) then c4.loseData l else c4
    let c6 := if kind = 2 then c5.modLink l (fun k => k.takeControls good)
      else if kind = 1 then c5.takeData l used
      else c5
    if (c6.link l).state == .up && (c6.link l).nakDue then c6.sendGroup l 0 0 [] else c6

/-- CODEWORD_RECEIVE: a group arrives from the peer. In loopback the receivers are joined to the own transmitters (R210). -/
def execCodewordReceive (l : LinkId) (g : List Codeword) (s : State) : Answer :=
  s.lift (fun c => if c.looped l then c else codewordEffect l (g.map wholeCodeword) c)

/-- CONTROL_REPLAY: in the control-class window after a NAK the held codewords are sent again (R196). -/
def execControlReplay (l : LinkId) (s : State) : Answer := s.lift (fun c => c.replay l)

/-- In loopback what is sent comes back to the own receivers (R210): the groups of commands and windows, else what the lanes carry
between them. -/
def Chip.loopTick (c : Chip) (l : LinkId) : Chip :=
  match (c.link l).loop with
  | [] => if c.looped l then codewordEffect l (c.lineGroup l) c else c
  | g :: gs => codewordEffect l g (c.modLink l (fun k => { k with loop := gs }))

/-- A write of LNK_CTL (R206, R207, R210). -/
def Chip.writeLnkCtl (c : Chip) (l : LinkId) (w : Word) : Chip :=
  let k := c.link l
  let old := k.ctl.val
  let loop := bit w 0 && (c.mbx.dstate == .bringup || bit old 0)
  let start := bit w 2 && k.state == .up && !k.requal
  let v := (w &&& 0xFFFFFFFA) ||| flag loop 0 ||| flag (k.requal || start) 2
  let width := 16 - 4 * bits w 6 5
  let c1 := c.modLink l (fun k =>
    let k1 := { k with ctl := CfgWord.of v, loopback := loop }
    if start then k1.startRequal c.uptime else k1)
  let c2 := if bits w 6 5 = bits old 6 5 then c1
    else if c.frm.valid then c1.modLink l (fun k => { k with planNext := k.planNext ++ [(width, if c.frm.tick ≤ 4080 then 1 else 2)] })
    else c1.modLink l (fun k => { k with planWidth := width })
  if bit old 1 && !bit w 1 then
    (if k.state == .up then c2.sendMgmt l (mgmtMessage 3 k.goodSent 0 0) none else c2).linkDown l 5
  else if !bit old 1 && bit w 1 then c2.startTraining l true 0 true
  else c2

end Sys2Proof.Machine
end

