-- ==== Sys2Proof/Machine/Route.lean ====
section
/-! DEFINITION. Packets, circuits, messages, control-class windows, draining (chapter 8, R250). -/
namespace Sys2Proof.Machine

/-! Forwarding (R222). -/

/-- The link die of a link: 0 LK0, 1 LK1. -/
def linkDie (l : Nat) : Nat := if l = 0 ∨ l = 1 ∨ l = 4 then 0 else 1

/-- The forwarding buffer of a link die. -/
def Rte.fwd (r : Rte) (die : Nat) : List Forwarded := if die = 0 then r.fwd0 else r.fwd1

/-- The routing state with a forwarding buffer replaced. -/
def Rte.setFwd (r : Rte) (die : Nat) (q : List Forwarded) : Rte := if die = 0 then { r with fwd0 := q } else { r with fwd1 := q }

/-- Bytes in a forwarding buffer. -/
def fwdBytes (q : List Forwarded) : Nat := q.foldl (fun n f => n + f.pkt.size) 0

/-- The present tick as a number that rises from frame to frame. -/
def Frm.absTick (f : Frm) : Nat := f.frame * 4096 + f.tick

/-- A forwarded packet is dropped, with a loss notice to the package that the entry names for its direction. -/
def Chip.forwardDrop (c : Chip) (f : Forwarded) : Chip :=
  let w := c.circ f.pkt.circuit
  (c.modRte (fun r => { r with cntFwdDrop := satInc r.cntFwdDrop 1 }.raise 8)).notifyDrop f.out f.pkt.circuit
    (if f.pkt.isResponse then circSrc w else circDst w)

/-- A packet enters the forwarding buffer of the die of its circuit's OUTLINK (R222). -/
def Chip.forward (c : Chip) (p : Packet) (out : LinkId) : Chip :=
  let die := linkDie (circOut (c.circ p.circuit))
  let f : Forwarded := { pkt := p, out := out, since := c.frm.absTick }
  if 4194304 < fwdBytes (c.rte.fwd die) + p.size then c.forwardDrop f
  else c.modRte (fun r => r.setFwd die (r.fwd die ++ [f]))

/-- The first transmit window of a circuit on a link that begins after a time: its first and its last tick. -/
def Chip.nextTx (c : Chip) (l : LinkId) (circuit since : Nat) : Option (Nat × Nat) :=
  ((c.planOn l).filter (fun e => !e.rx && e.circuit == circuit)).foldl (fun (best : Option (Nat × Nat)) e =>
    let at_ := since / 4096 * 4096 + e.start
    let s := if since < at_ then at_ else at_ + 4096
    match best with
    | some b => if s < b.1 then some (s, s + e.len - 1) else some b
    | none => some (s, s + e.len - 1)) none

/-- FORWARD_SEND: entry `i` of a forwarding buffer leaves in its window or, once that has passed or its link
cannot carry it whole, is dropped (R222, R227). -/
def forwardSendEffect (die : Fin 2) (i : Nat) (c : Chip) : Chip :=
  match (c.rte.fwd die.val)[i]? with
  | none => c
  | some f =>
    let now := c.frm.absTick
    let c1 := c.modRte (fun r => r.setFwd die.val (dropAt (r.fwd die.val) i))
    match c.nextTx f.out f.pkt.circuit f.since, c.txWindow f.out c.frm.tick with
    | none, _ => c1.forwardDrop f
    | some w, e =>
      if now < w.1 then c
      else if w.2 < now ∨ (c.link f.out).state ≠ .up ∨ (c.link f.out).short then c1.forwardDrop f
      else match e with
        | none => c1.forwardDrop f
        | some e =>
          if c.txRoom f.out e < f.pkt.line.length then c1.forwardDrop f
          else if packetHops f.pkt = 0 then c1.modRte (fun r => { r with cntTtl := satInc r.cntTtl 1 }.raise 4)
          else c1.sendPackets f.out e [decHops f.pkt]

/-- FORWARD_SEND. -/
def execForwardSend (die : Fin 2) (i : Nat) (s : State) : Answer := s.lift (forwardSendEffect die i)

/-! Circuit packets (R221). -/

/-- What the checks of R221 decide. -/
inductive CircuitFate where
  | orphan
  | late
  | outside
  | forward (out : LinkId)
  | arrived
deriving DecidableEq, Repr

/-- Every granule of a DATA packet goes to a served core's context area (R221 check 5). -/
def Chip.dataOk (c : Chip) (p : Packet) : Bool :=
  decide (p.dcore < 2448) && c.coreServed p.dcore
    && (List.range p.flits.length).all (fun i => inCtxArea (p.daddr + 64 * i) 64)

/-- Checks 1 to 3, and the way of a packet that passes. -/
def Chip.circuitFate (c : Chip) (l : LinkId) (p : Packet) : CircuitFate :=
  let e := c.circ p.circuit
  let role := circRole e
  let inward := circIn e == l.val && role != 0
  let back := p.isResponse && circOut e == l.val && decide (role ≤ 1)
  if p.circuit = 0 ∨ !circValid e ∨ !(inward || back) then .orphan
  else if circTomb e then .late
  else if !(c.rxWindows l c.frm.tick).any (fun w => w.circuit == p.circuit) then .outside
  else if role = 1 then .forward (linkId (if back then circIn e else circOut e))
  else .arrived

/-- Inbound transfer sums of a DATA packet (R245). -/
def Chip.sumInbound (c : Chip) (x : CtxId) (p : Packet) : Chip :=
  if c.checkOn x then
    c.modDig x (fun d => { d with inSums := addXfer d.inSums p.src p.lfn (packetHash (c.ctx x).job.toNat p.dcore p.daddr p.granules) })
  else c

/-- The step that core `n` runs has read a circuit, so that it cannot be replayed (R260). -/
def Chip.readsCircuit (c : Chip) (n : CoreId) (x : CtxId) : Chip :=
  match (c.core n).step with
  | some s => if (c.core n).ctx = some x then
      c.modDig x (fun d => { d with circuitSteps := (s.step :: d.circuitSteps.filter (fun q => q != s.step)).take 4096 }) else c
  | none => c

/-- A DATA packet is delivered (R88, R91). -/
def Chip.deliverData (c0 : Chip) (x : CtxId) (p : Packet) : Chip :=
  let c := c0.readsCircuit (Fin.ofNat 2448 p.dcore) x
  (p.granules.zip (List.range p.flits.length)).foldl (fun c g =>
    c.granuleAt (Fin.ofNat 2448 p.dcore) (some x) p.gen (p.daddr + 64 * g.2) p.dctr g.1) (c.sumInbound x p)

/-- A response of this target is queued for the windows of the circuit in reverse (R219, R230), naming what its request named;
requests are answered in a recovery too (R237). -/
def Chip.respond (c : Chip) (p : Packet) (ptype val pmask : Nat) (flits : List (List Byte)) (refused : Bool := false) : Chip :=
  let seq := tget 0 c.rte.respSeq p.circuit
  let h : Hdr := { ptype := ptype, last := leAt p.hdr 0 2 / 2048 % 2 == 1, dst := p.src, srack := c.rack, drack := p.srack, ctx := p.cx.val, gen := p.gen.toNat
                   circuit := p.circuit, seq := seq.toNat, dcore := p.dcore, dctr := p.dctr, val := val, daddr := p.daddr
                   maddr := p.maddr, job := p.job.toNat, pmask := pmask, score := p.score }
  let c1 := { c with rte := { c.rte with respSeq := tset 0 c.rte.respSeq p.circuit (seq + 1) } }
  c1.sendCircuit (linkId (circIn (c.circ p.circuit))) { c.packet h flits with refused := refused }

/-- The target serves a request for `n` lines (R154): its whole range is checked as a move's is (R140). -/
def Chip.remoteAllowed (c : Chip) (p : Packet) (n : Nat) : Bool :=
  c.flt.rphase == 0 && c.mbx.dstate != .recovering && c.mbx.dstate != .quarantined && (c.ctx p.cx).state != .none && (c.ctx p.cx).tray
    && (c.ctx p.cx).job == p.job && c.rangeOwned (some p.cx) (p.maddr / 64 * 64) (64 * n)

/-- A refused request is counted, at the stack of its first line (Table 5-7; log 21). -/
def Chip.countRefused (c : Chip) (p : Packet) : Chip :=
  c.modStack (stackId (lineStack (c.lineAt (p.maddr / 64 * 64)))) (fun k =>
    { k with cntRefused := satInc k.cntRefused 1, err := setBit k.err 4 })

/-- Local addresses of the lines of a request. -/
def requestLines (p : Packet) (n : Nat) : List Nat := (List.range n).map (fun i => p.maddr / 64 * 64 + 64 * i)

/-- A remote read at its target; a refused one is refused whole, each line arriving as a poisoned granule of free bytes (R154; log 22). -/
def Chip.serveRead (c : Chip) (p : Packet) (ups : Upsets) : Chip :=
  let as_ := requestLines p (min 16 p.val)
  if c.remoteAllowed p as_.length then
    let r := as_.foldl (fun (s : List Granule × Chip) a =>
      let g := s.2.readLine (c.lineAt a) ups false
      (s.1 ++ [g.1], g.2)) ([], c)
    r.2.respond p 3 0 (pmaskOf r.1) (r.1.map (·.data))
  else
    let r := as_.foldl (fun (s : List (List Byte) × Chip) _ => (s.1 ++ [s.2.freeLine.1], s.2.freeLine.2)) ([], c.countRefused p)
    r.2.respond p 3 0 (2 ^ as_.length - 1) r.1 true

/-- A remote write at its target (R145, R154, R258). -/
def Chip.serveWrite (c : Chip) (p : Packet) : Chip :=
  let n := p.flits.length
  if c.remoteAllowed p n then
    (((requestLines p n).zip p.granules).foldl (fun c1 q => c1.writeLine (some p.cx) (c.lineAt q.1) q.2.data q.2.poison) c).respond
      p 5 n 0 []
  else (c.countRefused p).respond p 5 n (2 ^ n - 1) []

/-- The remote flight of a core that waits for the granule at an SRAM address. -/
def Core.remoteFlight (k : Core) (kind ctr addr : Nat) : Option Nat :=
  k.flights.findIdx? (fun f => f.desc.kind == kind && f.desc.dctr == ctr && decide (f.desc.laddr ≤ addr)
    && decide (addr < f.desc.laddr + 64 * f.desc.len) && !f.done.contains ((addr - f.desc.laddr) / 64))

/-- The granules of a remote flight of core `n` that lie at an SRAM address are done. -/
def Core.remoteDone (k : Core) (kind ctr addr : Nat) : Core :=
  match k.remoteFlight kind ctr addr with
  | some i => match k.flights[i]? with
    | some f => k.flightDone i ((addr - f.desc.laddr) / 64)
    | none => k
  | none => k

/-- A response names the requesting core. -/
def respCore (p : Packet) : CoreId := Fin.ofNat 2448 p.dcore

/-- The move that raised MOVE_ADDR gets a final status and is listed with those that the stop discards (R89, R99, R154). -/
def Core.listMove (k : Core) (f : Flight) : Core :=
  if k.frec.discarded.contains f.desc then k else { k with frec := { k.frec with discarded := k.frec.discarded ++ [f.desc] } }

/-- A refusal of the move `f` reaches the requesting core (R154). -/
def Chip.refusedAt (c : Chip) (p : Packet) (f : Option Flight) : Chip :=
  let n := respCore p
  if (c.core n).accepts (some p.cx) p.gen then
    match f with
    | some f => if (c.core n).frec.discarded.contains f.desc then c.coreAsyncStop n 4
        else ((c.addNotDone f.ctx f.step 1).modCore n (fun k => k.listMove f)).coreAsyncStop n 4
    | none => c.coreAsyncStop n 4
  else c

/-- The flight that a response belongs to. -/
def Chip.respFlight (c : Chip) (p : Packet) (kind : Nat) : Option Flight :=
  ((c.core (respCore p)).remoteFlight kind p.dctr p.daddr).bind (fun i => (c.core (respCore p)).flights[i]?)

/-- A remote read response at its origin; one to a request that was refused stops the core (R154). -/
def Chip.readBack (c : Chip) (p : Packet) : Chip :=
  let n := respCore p
  let c1 := (p.granules.zip (List.range p.flits.length)).foldl (fun c g =>
    (c.modCore n (fun k => k.remoteDone 0 p.dctr (p.daddr + 64 * g.2))).granuleAt n (some p.cx) p.gen (p.daddr + 64 * g.2) p.dctr g.1)
    (c.readsCircuit n p.cx)
  if p.refused then c1.refusedAt p (c.respFlight p 0) else c1

/-- A remote write acknowledgement at its origin. -/
def Chip.writeBack (c : Chip) (p : Packet) : Chip :=
  let n := respCore p
  let c1 := (List.range p.val).foldl (fun c i => c.modCore n (fun k => k.remoteDone 1 p.dctr (p.daddr + 64 * i))) c
  let c2 := c1.ackAt n (some p.cx) p.gen p.dctr p.val
  if p.pmask ≠ 0 then c2.refusedAt p (c.respFlight p 1) else c2

/-- A circuit packet that has passed the first three checks reaches this package: PCRC (R217), then checks 4 and
5. -/
def Chip.arrived (c : Chip) (l : LinkId) (p : Packet) (ups : Upsets) : Chip :=
  let e := c.circ p.circuit
  let x : CtxId := Fin.ofNat 16 (circCtx e)
  if !p.pcrcOk then ((c.modRte Rte.pcrcDrop).modLink l (fun k => k.raise 1)).charge x c.resultFrame 4
  else if p.cx ≠ x then c.modRte (fun r => r.orphan p)
  else match p.ptype with
    | 1 =>
      if !c.dataOk p then c.modRte (fun r => r.orphan p)
      else if c.flt.rphase != 0 then c.modRte Rte.resetDrop
      else c.deliverData x p
    | 2 => c.serveRead p ups
    | 3 => if c.flt.rphase != 0 then c.modRte Rte.resetDrop else c.readBack p
    | 4 => c.serveWrite p
    | _ => if c.flt.rphase != 0 then c.modRte Rte.resetDrop else c.writeBack p

/-- A circuit packet arrives on a link. In a recovery what passes the checks and would end here is dropped, and
requests are refused (R237; log 45). -/
def Chip.circuitPacket (c : Chip) (l : LinkId) (p : Packet) (ups : Upsets) : Chip :=
  match c.circuitFate l p with
  | .orphan => c.modRte (fun r => r.orphan p)
  | .late => c.modRte (fun r => r.late 0 p)
  | .outside => c.modRte (fun r => r.outside p)
  | .forward out => c.forward p out
  | .arrived => c.arrived l p ups

/-! Messages (R224-R231). -/

/-- The window of one origin (R231): what becomes of a message with this SEQ. -/
inductive DedupFate where
  | fresh (d : Dedup)
  | duplicate
  | stale
deriving DecidableEq, Repr

/-- No message seen from an origin. -/
def Dedup.zero : Dedup := { seen := false, epoch := 0, highest := 0, marks := [] }

/-- A message is judged against the window of its origin; SEQ values are compared over half a range. -/
def Dedup.judge (d0 : Dedup) (epoch : Byte) (seq : Nat) : DedupFate :=
  let d := if d0.seen && d0.epoch == epoch then d0 else Dedup.zero
  let ahead := (seq + 2 ^ 24 - d.highest) % 2 ^ 24
  if !d.seen then .fresh { seen := true, epoch := epoch, highest := seq, marks := [seq] }
  else if d.marks.contains seq then .duplicate
  else if 0 < ahead ∧ ahead < 2 ^ 23 then
    .fresh { seen := true, epoch := epoch, highest := seq
             marks := seq :: d.marks.filter (fun m => decide ((seq + 2 ^ 24 - m) % 2 ^ 24 < 256)) }
  else if (d.highest + 2 ^ 24 - seq) % 2 ^ 24 < 256 then .fresh { d with marks := seq :: d.marks }
  else .stale

/-- Records of a DIGEST packet: 32 bytes each, the zero padding left out (R249). -/
def digestRecords (p : Packet) : List (List Byte) :=
  (p.flits.flatMap (fun f => [slice f 0 32, slice f 32 32])).filter (fun r => r.any (· != 0))

/-- A message for this package that its window accepts: arrivals are dropped in a recovery, CTRL packets reach the
active Ibex (R237). -/
def Chip.acceptMessage (c : Chip) (p : Packet) : Chip :=
  if p.ptype = 6 then
    if c.flt.rphase != 0 then c.modRte Rte.resetDrop
    else if c.destServed p.dcore then c.arriveAt p.dcore p.cx p.gen p.dctr p.val
    else c.modRte (fun r => r.orphan p)
  else if !c.mbx.fwRun then c
  else if p.val = 1 then c.recordsIn p.cx p.job p.lfn (digestRecords p)
  else c.chargeLoss (BitVec.ofNat 64 (leAt (p.flits.headD []) 0 8))

/-- A message for this package: PCRC, then the window of its origin for messages of the own rack (R217, R231). -/
def Chip.ownMessage (c : Chip) (p : Packet) : Chip :=
  if !p.pcrcOk then c.modRte Rte.pcrcDrop
  else if p.srack ≠ c.rack then c.acceptMessage p
  else match (tget Dedup.zero c.rte.dedup p.src).judge p.epoch p.seq.toNat with
    | .fresh d => (c.modRte (fun r => { r with dedup := tset Dedup.zero r.dedup p.src d })).acceptMessage p
    | .duplicate => c.modRte (fun r => { r with cntDup := satInc r.cntDup 1 }.raise 3)
    | .stale => c.modRte (fun r => r.late 3 p)

/-- The packet buffer of an input becomes free. -/
def Chip.freeBuffer (c : Chip) (l : LinkId) : Chip := c.modLink l (fun k => { k with freed := k.freed + 1 })

/-- A message that breaks the turn rule is dropped (R226). -/
def Rte.turnDrop (r : Rte) : Rte := { r with cntTurn := satInc r.cntTurn 1 }.raise 5

/-- A control-class packet arrives on a link: for this package, in transit, or dropped. -/
def Chip.messagePacket (c : Chip) (l : LinkId) (p : Packet) : Chip :=
  if p.ptype = 7 ∧ p.val ≠ 1 ∧ p.val ≠ 2 then (c.modRte (fun r => r.orphan p)).freeBuffer l
  else if p.dst = c.pkgNo ∧ p.drack = c.rack then (c.ownMessage p).freeBuffer l
  else if 4 ≤ l.val then (c.modRte Rte.turnDrop).freeBuffer l
  else c.modLink l (fun k => { k with transit := k.transit ++ [{ pkt := p, inLink := some l }] })

/-- A CREDIT packet, which ends at this package and so has its PCRC checked here, returns credits: at most 8 are held (R217,
R225). -/
def Chip.creditPacket (c : Chip) (l : LinkId) (p : Packet) : Chip :=
  if !p.pcrcOk then c.modRte Rte.pcrcDrop
  else c.modLink l (fun k => { k with credits := min 8 (k.credits + p.val) })

/-- A packet arrives on a link, by its type (Table 8-2). -/
def packetEffect (l : LinkId) (p : Packet) (ups : Upsets) (c0 : Chip) : Chip :=
  if (c0.link l).state != .up then c0
  else
    let c := c0.modLink l (fun k => { k with rxReady := k.rxReady.erase { p with refused := false } })
    match p.ptype with
    | 1 => c.circuitPacket l p ups
    | 2 => c.circuitPacket l p ups
    | 3 => c.circuitPacket l p ups
    | 4 => c.circuitPacket l p ups
    | 5 => c.circuitPacket l p ups
    | 6 => c.messagePacket l p
    | 7 => c.messagePacket l p
    | 15 => c.creditPacket l p
    | _ => c.modRte (fun r => r.orphan p)

/-- DATA. -/
def execData (l : LinkId) (p : Packet) (s : State) : Answer := s.lift (packetEffect l (wholePacket p) [])

/-- RD_REQ. -/
def execRdReq (l : LinkId) (p : Packet) (ups : Upsets) (s : State) : Answer :=
  s.lift (packetEffect l (wholePacket p) ups)

/-- RD_RESP. -/
def execRdResp (l : LinkId) (p : Packet) (s : State) : Answer := s.lift (packetEffect l (wholePacket p) [])

/-- WR. -/
def execWr (l : LinkId) (p : Packet) (s : State) : Answer := s.lift (packetEffect l (wholePacket p) [])

/-- WR_ACK. -/
def execWrAck (l : LinkId) (p : Packet) (s : State) : Answer := s.lift (packetEffect l (wholePacket p) [])

/-- ARRIVE_PACKET. -/
def execArrivePacket (l : LinkId) (p : Packet) (s : State) : Answer :=
  s.lift (packetEffect l (wholePacket p) [])

/-- DIGEST. -/
def execDigest (l : LinkId) (p : Packet) (s : State) : Answer := s.lift (packetEffect l (wholePacket p) [])

/-- LOSS. -/
def execLoss (l : LinkId) (p : Packet) (s : State) : Answer := s.lift (packetEffect l (wholePacket p) [])

/-- CREDIT. -/
def execCredit (l : LinkId) (p : Packet) (s : State) : Answer := s.lift (packetEffect l (wholePacket p) [])

/-! Sending (R224-R227, R250). -/

/-- Where a message goes. -/
inductive Way where
  | link (o : LinkId)
  | hold
  | unreach
deriving DecidableEq, Repr

/-- A route entry (Table 8-5): 48 is RTE_ROUTE_EXT. -/
def Rte.entry (r : Rte) (i : Nat) : Word := tget routeReset r.route i

/-- A link number of a route field, where it names one. -/
def linkOf (i : Nat) : Option LinkId := if h : i < 6 then some ⟨i, h⟩ else none

/-- The link for a message (R224): no link leads to the own package, whose entry is ignored (Table 8-6). -/
def Chip.way (c : Chip) (dst drack : Nat) : Way :=
  let e := if drack = c.rack ∧ dst = c.pkgNo then 0 else c.rte.entry (if drack = c.rack then dst else 48)
  let ls := if bit e 31 then (linkOf (bits e 30 28)).toList ++ (linkOf (bits e 27 25)).toList else []
  match ls.find? (fun l => (c.link l).state == .up && !(c.link l).draining) with
  | some l => .link l
  | none => if ls.any (fun l => (c.link l).state == .up) then .hold else .unreach

/-- A turn that R226 allows. -/
def turnOk (i o : Nat) : Bool :=
  if i < 2 then o != i else if i < 4 then o == 5 - i || decide (4 ≤ o) else false

/-- Credits that a packet needs on a link (R226): two to enter an X or Y ring. -/
def creditsFor (i : Option LinkId) (o : LinkId) : Nat :=
  if 4 ≤ o.val then 1
  else match i with
    | some l => if l.val ≠ o.val ∧ l.val / 2 = o.val / 2 then 1 else 2
    | none => 2

/-- A control packet takes a credit of a link and joins the flits that its control groups carry in this window (R194, R225). -/
def Chip.transmit (c : Chip) (o : LinkId) (p : Packet) : Chip :=
  (c.modLink o (fun k => { k with credits := k.credits - 1, ctlOut := k.ctlOut ++ p.line })).emit (.packet o true p)

/-- A message is sent where it can be. The second result says that it stays. -/
def Chip.trySend (c : Chip) (q : QPacket) : Chip × Bool :=
  match c.way q.pkt.dst q.pkt.drack with
  | .unreach => (c.modRte (fun r => { r with cntUnreach := satInc r.cntUnreach 1 }.raise 6), false)
  | .hold => (c, true)
  | .link o =>
    if q.inLink.any (fun i => !turnOk i.val o.val) then (c.modRte Rte.turnDrop, false)
    else if packetHops q.pkt = 0 then (c.modRte (fun r => { r with cntTtl := satInc r.cntTtl 1 }.raise 4), false)
    else if (c.link o).credits < creditsFor q.inLink o ∨ c.ctlRoom o < q.pkt.line.length then (c, true)
    else if q.inLink.isSome then (c.transmit o (decHops q.pkt), false)
    else
      let p := restamp q.pkt 12 (leBytes 3 c.rte.msgSeq.toNat ++ [c.rte.epoch])
      ((c.modRte (fun r => { r with msgSeq := r.msgSeq + 1 })).transmit o (decHops p), false)

/-- The transit packets of an input go on; the buffer of one that has left is free. -/
def Chip.sendTransit (c : Chip) (l : LinkId) : Chip :=
  let r := (c.link l).transit.foldl (fun (s : Chip × List QPacket) q =>
    let t := s.1.trySend q
    if t.2 then (t.1, s.2 ++ [q]) else (t.1.freeBuffer l, s.2)) (c, [])
  r.1.modLink l (fun k => { k with transit := r.2 })

/-- What a window has left: bytes and packets (R173, R250). -/
structure Room where
  bytes : Nat
  packets : Nat
deriving DecidableEq, Repr

/-- The messages of the origin queue go out in queue order as far as the budget allows; held ones stay. -/
def Chip.sendOrigin (c : Chip) : Chip × Room :=
  let r := c.rte.origin.foldl (fun (s : Chip × Room × Bool × List QPacket) q =>
    if s.2.2.1 || s.2.1.packets == 0 || decide (s.2.1.bytes < q.pkt.size) then (s.1, s.2.1, true, s.2.2.2 ++ [q])
    else
      let t := s.1.trySend { q with pkt := restamp q.pkt 38 (leBytes 2 c.frm.lfn.toNat) }
      if t.2 then (t.1, s.2.1, false, s.2.2.2 ++ [q])
      else (t.1, { bytes := s.2.1.bytes - q.pkt.size, packets := s.2.1.packets - 1 }, false, s.2.2.2))
    (c, { bytes := 256, packets := 2 }, false, [])
  (r.1.modRte (fun s => { s with origin := r.2.2.2 }), r.2.1)

/-- A digest record may be sent in the window that begins at the present tick: those of the present frame up to
tick 3,584, rollback notices in every window (R250; log 23). -/
def Chip.sendable (c : Chip) (r : SendRecord) : Bool :=
  decide (0 ≤ lfnDist r.lfn c.frm.lfn) && (r.rollback || decide (c.frm.tick / 64 * 64 ≤ 3584))

/-- Records that can no longer be sent are dropped with SEND_LATE. -/
def Chip.dropLateRecords (c : Chip) : Chip :=
  let late := c.dig.sendQ.filter (fun r => !r.rollback && decide (0 ≤ lfnDist r.lfn c.frm.lfn)
    && (decide (3584 < c.frm.tick / 64 * 64) || r.lfn != c.frm.lfn))
  if late.isEmpty then c
  else { c with dig := { c.dig with sendQ := c.dig.sendQ.filter (fun r => !late.contains r) } }.digErr 2

/-- Flits of up to six records. -/
def recordFlits : List (List Byte) → List (List Byte)
  | [] => []
  | [a] => [padTo a 64]
  | a :: b :: rs => (a ++ b) :: recordFlits rs

/-- One digest packet up to the room that is left: rollback notices first, records of one destination, context,
job and frame (R250). It waits while the origin queue is full (R227). -/
def Chip.sendDigest (c : Chip) (room : Room) : Chip :=
  let ok := c.dig.sendQ.filter c.sendable
  match (ok.filter (·.rollback) ++ ok.filter (fun r => !r.rollback)).head? with
  | none => c
  | some f =>
    let flits := min 3 ((room.bytes - 64) / 64)
    let take := (((ok.filter (·.rollback) ++ ok.filter (fun r => !r.rollback)).filter
      (fun r => r.dst == f.dst && r.ctx == f.ctx && r.job == f.job && r.lfn == f.lfn)).take (2 * flits))
    if room.packets = 0 ∨ room.bytes < 128 ∨ c.originFull then c
    else
      let p := c.packet { ptype := 7, dst := f.dst, srack := c.rack, drack := c.rack, ctx := f.ctx.val, val := 1, job := f.job.toNat }
        (recordFlits (take.map (·.bytes)))
      let t := c.trySend { pkt := restamp p 38 (leBytes 2 f.lfn.toNat), inLink := none }
      if t.2 then c else { t.1 with dig := { t.1.dig with sendQ := take.foldl (fun q r => q.erase r) t.1.dig.sendQ } }

/-- The last transmit window of the active plan toward a package of a context has passed. -/
def Chip.txPassed (c : Chip) (x : CtxId) (pkg : Nat) : Bool :=
  match c.plan.active with
  | none => true
  | some p => p.entries.all (fun e =>
      e.rx || (let w := c.circ e.circuit
               circRole w != 0 || circDst w != pkg || circCtx w != x.val) || decide (e.start + e.len ≤ c.frm.tick))

/-- XFER records of a context become due (R250). -/
def Chip.queueXfer (c : Chip) (x : CtxId) : Chip :=
  if !(c.ctx x).judged || !c.checkOn x then c
  else ((c.groups x).filter (fun g => g.kind == 1)).foldl (fun c g =>
    match (c.others g.mask).head? with
    | none => c
    | some p =>
      let d := c.digCtx x
      if d.xferSent.contains g.group || !c.txPassed x p then c
      else
        let sum := ((d.outSums.find? (fun s => s.pkg == p && s.lfn == c.frm.lfn)).map (·.sum)).getD 0
        (c.modDig x (fun d => { d with xferSent := g.group :: d.xferSent })).queueRecord x p c.frm.lfn false
          (recordBytes g.group 1 c.pkgNo 0 (leBytes 24 sum))) c

/-- Loss notices that wait enter the origin queue. -/
def Chip.refillNotices : Nat → Chip → Chip
  | 0, c => c
  | n + 1, c =>
    match c.rte.notices with
    | [] => c
    | w :: ws =>
      if c.originFull then c
      else Chip.refillNotices n ({ c with rte := { c.rte with notices := ws } }.enqueueMessage
        { ptype := 7, dst := w.1, srack := c.rack, drack := c.rack, val := 2 } [padTo (leBytes 8 w.2.toNat) 64])

/-- The engines whose completion waits for room send their signals (R227). -/
def Chip.refillSignals (c : Chip) : Chip :=
  (c.engines.filter (fun p => p.2.held.isSome)).foldl (fun c p =>
    let e : EngineId := Fin.ofNat 1632 p.1
    match (c.engine e).held with
    | some h => if c.originFull then c else (c.modEngine e (fun k => { k with held := none })).sgaFinish e (some h.1) h.2.1 h.2.2
    | none => c) c

/-- A CREDIT packet tells the peer of the buffers freed (R225). -/
def Chip.sendCredit (c : Chip) (l : LinkId) : Chip :=
  let k := c.link l
  if k.state != .up || k.freed == 0 || c.ctlRoom l == 0 then c
  else
    let p := decHops (c.packet { ptype := 15, dst := 0, srack := c.rack, drack := c.rack, val := k.freed } [])
    ((c.transmit l p).modLink l (fun q => { q with freed := 0, credits := k.credits }))

/-- What this package originates when a window opens (R173, R250): own messages, one digest packet in the room that they leave,
then waiting notices and signals take their place in the queue. What is submitted later waits for the next window. -/
def Chip.openWindow (c : Chip) : Chip :=
  if c.rte.opened = some c.frm.window then c
  else
    let o := (allCtxs.foldl Chip.queueXfer c.dropLateRecords).sendOrigin
    let c1 := o.1.sendDigest o.2
    ((Chip.refillNotices c1.rte.notices.length c1).refillSignals).modRte (fun r => { r with opened := some c.frm.window })

/-- CONTROL_WINDOW_OPEN: at a tick of a control-class window of R172. Draining bits take effect; codewords asked for go out
first, then transit packets, what this package originates, and CREDIT packets, in control groups (R196, R224-R227). -/
def controlWindowEffect (c : Chip) : Chip :=
  if c.frm.inWindow then
    let c1 := allLinks.foldl (fun c l => (c.modLink l (fun k => { k with draining := bit c.rte.ctl.val l.val })).replay l) c
    let c2 := (allLinks.foldl Chip.sendTransit c1).openWindow
    allLinks.foldl (fun c l => (c.sendCredit l).sendControl l) c2
  else c

/-- CONTROL_WINDOW_OPEN. -/
def execControlWindowOpen (s : State) : Answer := s.lift controlWindowEffect

/-! Draining, route and identity registers, tombstones. -/

/-- A write of RTE_CTL (R235): a link whose bit is cleared returns to routing. -/
def Chip.writeRteCtl (c : Chip) (w : Word) : Chip :=
  allLinks.foldl (fun c l => c.modLink l (fun k =>
    if bit w l.val then k else { k with draining := false, drained := false }))
    { c with rte := { c.rte with ctl := CfgWord.of w } }

/-- RTE_DRAIN_SET: a write of RTE_CTL through the set alias. -/
def execRteDrainSet (mask : BitVec 6) (s : State) : Answer :=
  s.lift (fun c => c.host (fun c => c.writeRteCtl (aliasRw .set c.rte.ctl.stored (mask.setWidth 32))))

/-- RTE_DRAIN_CLEAR: a write of RTE_CTL through the clear alias. -/
def execRteDrainClear (mask : BitVec 6) (s : State) : Answer :=
  s.lift (fun c => c.host (fun c => c.writeRteCtl (aliasRw .clear c.rte.ctl.stored (mask.setWidth 32))))

/-- LINK_DRAINED: the link has become drained, which RTE_STATUS shows for as long as it holds (R235). -/
def linkDrainedEffect (l : LinkId) (c : Chip) : Chip :=
  c.modLink l (fun k => if k.isDrained then { k with drained := true } else k)

/-- LINK_DRAINED. -/
def execLinkDrained (l : LinkId) (s : State) : Answer := s.lift (linkDrainedEffect l)

/-- A route entry is well formed (R228); `ext` for RTE_ROUTE_EXT. -/
def Fuse.routeOk (f : Fuse) (ext : Bool) (w : Word) : Bool :=
  let pri := bits w 30 28
  let alt := bits w 27 25
  let ph := bits w 24 22
  let ah := bits w 21 19
  !bit w 31 ||
    (decide (pri ≤ 5) && decide (1 ≤ ph) && decide (ph ≤ 6) && f.linkOn pri && pri != alt
      && (if alt = 7 then ah == 0 else decide (alt ≤ 5) && decide (1 ≤ ah) && decide (ah ≤ 6) && f.linkOn alt)
      && (!ext || (decide (4 ≤ pri) && decide (4 ≤ alt) && alt != 6)))

/-- The links that a route entry names. -/
def routeLinks (w : Word) : List LinkId := if bit w 31 then (linkOf (bits w 30 28)).toList ++ (linkOf (bits w 27 25)).toList else []

/-- A write of a route entry (R228). -/
def Chip.writeRoute (c : Chip) (i : Nat) (w : Word) : Chip :=
  let old := c.rte.entry i
  if c.mbx.dstate == .bringup
      || ((routeLinks old ++ routeLinks w).all (fun l => (c.link l).isDrained) && c.fuse.routeOk (i == 48) w) then
    c.modRte (fun r => { r with route := tset routeReset r.route i (w &&& 0xFFF80000) })
  else c.modRte (fun r => r.raise 10)

/-- A write of RTE_ID that a state rule does not refuse (R238). -/
def Chip.writeRteId (c : Chip) (w : Word) : Chip := { c with rte := { c.rte with id := CfgWord.of w, idWritten := true } }

/-- At the fourth boundary a tombstoned entry becomes what the active plan binds, or invalid
(R232, R233). -/
def Plan.expire (p : Plan) (i : Nat) : Plan :=
  if circTomb (tget 0 p.circ i) && decide (4 ≤ tget 0 p.tombAge i) then
    { p with circ := tset 0 p.circ i ((p.active.map (fun a => tget 0 a.circs i)).getD 0), tombAge := tset 0 p.tombAge i 0 }
  else p

/-- TOMB_EXPIRE: the entry expires; a circuit that becomes active starts its flows at SEQ 0 (R230), and RTE_RMEM follows
(R219). -/
def tombExpireEffect (circuit : BitVec 16) (c : Chip) : Chip :=
  { c with plan := c.plan.expire circuit.toNat }.circuitsChanged c.plan.circ

/-- TOMB_EXPIRE. -/
def execTombExpire (circuit : BitVec 16) (s : State) : Answer := s.lift (tombExpireEffect circuit)

end Sys2Proof.Machine
end

