-- ==== Sys2Proof/Machine/CtxCmds.lean ====
section
/-! DEFINITION. Mailbox commands of staging, plan, contexts and steps (R176, R220, R290, R291, R298-R309, R445,
R446): their checks and their effects. -/
namespace Sys2Proof.Machine

/-- A command as taken from its slot: payload up to LEN. -/
structure Req where
  cmd : Cmd
  len : Nat
  payload : List Byte
deriving DecidableEq, Repr

/-- A little-endian payload field. -/
def Req.u (r : Req) (off n : Nat) : Nat := leAt r.payload off n

/-- The context of a command. -/
def Req.x (r : Req) : CtxId := Fin.ofNat 16 r.cmd.ctx.toNat

/-- A refusal: status and DETAIL; none where the command passes its checks. -/
abbrev Refused := Option (BitVec 16 × Nat)

/-- The first refusal of a list of conditions. -/
def firstOf : List (Bool × BitVec 16 × Nat) → Refused
  | [] => none
  | (b, r) :: rest => if b then some r else firstOf rest

/-- STATE_CONFLICT of a command that names a context, as an image shows it (Table 10-5). -/
def Chip.ctxConflictOf (c : Chip) (i : Image) (x : CtxId) : BitVec 16 × Nat :=
  (stConflict, c.mbx.dstate.code + 256 * (tget Ctx.zero i.ctxs x.val).state.code)

/-- STATE_CONFLICT of an S command that names a context. -/
def Chip.ctxConflict (c : Chip) (x : CtxId) : BitVec 16 × Nat := c.ctxConflictOf c.img x

/-- STATE_CONFLICT of a command that names none. -/
def Chip.noCtxConflict (c : Chip) : BitVec 16 × Nat := (stConflict, c.mbx.dstate.code + 256 * 0xFE)

/-- An offset in a staged object (R282). -/
def staged (off : Nat) : Nat := 2 ^ 31 + off

/-- Bytes of the staging buffer. -/
def stagingBytes : Nat := 1048576

/-- The image that Q commands answer from: that of the last sealed copy, where there is one (R270). -/
def Chip.qImage (c : Chip) : Image := if c.mbx.synced then c.mbx.standby else c.img

/-! Plan (R176, R220, R445). -/

/-- Word of entry `i` of a bundle, at byte `o`. -/
def entryAt (b : List Byte) (link o : Nat) : PlanEntry :=
  let w := leAt b o 8
  { link := link, kind := w / 2 ^ 62, rx := w.testBit 61, ctx := w / 2 ^ 57 % 16, circuit := w / 2 ^ 41 % 65536
    len := w / 2 ^ 35 % 64, start := w % 4096 }

/-- COUNT of a link. -/
def planCount (b : List Byte) (l : Nat) : Nat := leAt b (4 + 2 * l) 2

/-- NCIRC. -/
def planCircs (b : List Byte) : Nat := leAt b 16 4

/-- Entries of all links before a link. -/
def planBefore (b : List Byte) : Nat → Nat
  | 0 => 0
  | l + 1 => planBefore b l + planCount b l

/-- Offset of the circuit records. -/
def planRecords (b : List Byte) : Nat := 64 + 8 * planBefore b 6

/-- The entries with their offsets, in image order. -/
def planEntries (b : List Byte) : List (Nat × PlanEntry) :=
  (List.range 6).flatMap (fun l => (List.range (planCount b l)).map (fun i =>
    let o := 64 + 8 * (planBefore b l + i)
    (o, entryAt b l o)))

/-- The circuit records with their offsets: circuit, reserved bytes, entry. -/
def planRecs (b : List Byte) : List (Nat × Nat × Nat × Word) :=
  (List.range (planCircs b)).map (fun i =>
    let o := planRecords b + 8 * i
    (o, leAt b o 2, leAt b (o + 2) 2, BitVec.ofNat 32 (leAt b (o + 4) 4)))

/-- The first record that breaks R445, records being in rising order after circuit `last`. -/
def badRecord : Nat → List (Nat × Nat × Nat × Word) → Option Nat
  | _, [] => none
  | last, (o, n, z, e) :: rest =>
    if n ≤ last ∨ z ≠ 0 ∨ !circValid e ∨ circTomb e ∨ circRole e = 3 ∨ circKind e = 3 ∨ bits e 3 0 ≠ 0 then some o
    else badRecord n rest

/-- A FORWARD entry may belong to a remote-memory circuit: SPKG names its origin (Table 8-3), or is 0, which package 0 of
tray 0 is too, and the target is another package of the origin's tray (R154, log 24). -/
def mayRemote (w : Word) : Bool := circSrc w / 4 == circDst w / 4 && circSrc w != circDst w

/-- Link and direction of a plan entry agree with its circuit's entry (R220). Windows in reverse are for the responses of a
remote-memory circuit. -/
def directionOk (w : Word) (e : PlanEntry) : Bool :=
  let out := circOut w == e.link
  let inn := circIn w == e.link
  match circRole w with
  | 0 => out && (!e.rx || e.kind == 1)
  | 1 => (if e.rx then inn else out) || (mayRemote w && (if e.rx then out else inn))
  | _ => inn && (e.rx || e.kind == 1)

/-- A plan entry agrees with the circuit records (R220). -/
def entryAgrees (recs : List (Nat × Nat × Nat × Word)) (e : PlanEntry) : Bool :=
  match recs.find? (fun r => r.2.1 == e.circuit) with
  | none => false
  | some r =>
    let w := r.2.2.2
    circKind w == e.kind && (circRole w == 1) == (e.kind == 2) && (e.kind == 2 || circCtx w == e.ctx) && directionOk w e

/-- Two windows share a tick. -/
def PlanEntry.overlaps (a b : PlanEntry) : Bool := decide (a.start < b.start + b.len) && decide (b.start < a.start + a.len)

/-- A plan entry on its own terms, with its word (R176 check 6). -/
def Chip.entryOk (c : Chip) (e : PlanEntry) (w : Nat) : Bool :=
  e.kind != 3 && e.circuit != 0 && decide (1 ≤ e.len) && decide (e.len ≤ 56) && (e.kind != 2 || e.ctx == 0)
    && w / 4096 % 2 ^ 23 == 0 && decide (e.start + e.len - 1 ≤ 4095)
    && (List.range e.len).all (fun i => decide (8 ≤ (e.start + i) % 64) && !c.frm.isSlip (e.start + i))

/-- The first entry that breaks check 6; `prev` are the entries before it, newest first. -/
def Chip.badEntry (c : Chip) (b : List Byte) (recs : List (Nat × Nat × Nat × Word)) (all : List (Nat × PlanEntry)) :
    List PlanEntry → List (Nat × PlanEntry) → Option Nat
  | _, [] => none
  | prev, (o, e) :: rest =>
    let mates := all.filter (fun q => q.1 != o && q.2.link == e.link && q.2.rx == e.rx)
    let before := prev.find? (fun q => q.link == e.link && q.rx == e.rx)
    if !c.entryOk e (leAt b o 8) || mates.any (fun q => q.2.overlaps e) || before.any (fun q => decide (e.start ≤ q.start))
        || !entryAgrees recs e then some o
    else Chip.badEntry c b recs all (e :: prev) rest

/-- The first bad header field of a bundle (R176 check 3). -/
def badHeader (b : List Byte) : Option Nat :=
  if leAt b 2 2 ≠ 0 then some 2
  else match (List.range 6).find? (fun l => decide (4096 < planCount b l)) with
    | some l => some (4 + 2 * l)
    | none => if 65535 < planCircs b then some 16
      else if (slice b 20 44).any (· != 0) then some 20 else none

/-- A named object of the staging buffer: offset and length fields at payload offsets `a` and `a + 4`. -/
def Req.range (r : Req) (a : Nat) : Nat × Nat := (r.u a 4, r.u (a + 4) 4)

/-- The bytes of a staged object. -/
def Chip.stagedBytes (c : Chip) (p : Nat × Nat) : List Byte := rdBytes c.img.staging p.1 p.2

/-- Checks of PLAN_LOAD in the order of R176, after those of R291: a length out of its own range names the length, a range
that ends beyond the staging buffer its offset. -/
def Chip.checkPlanLoad (c : Chip) (r : Req) : Refused :=
  let p := r.range 0
  if p.2 < 64 ∨ stagingBytes < p.2 then some (stRange, 36)
  else if stagingBytes < p.1 + p.2 then some (stRange, 32)
  else
    let b := c.stagedBytes p
    if p.2 ≠ planRecords b + 8 * planCircs b then some (stRange, 36)
    else if c.plan.pending.isSome then some (stBusy, 2)
    else if !c.frm.mapOk || c.frm.state == .freerun then some c.noCtxConflict
    else match badHeader b with
      | some o => some (stRange, staged o)
      | none =>
        let recs := planRecs b
        let off := fun (i : Nat) => decide (i < 6) && !c.fuse.linkOn i
        if (List.range 6).any (fun l => planCount b l != 0 && off l) || recs.any (fun q => off (circIn q.2.2.2) || off (circOut q.2.2.2)) then
          some (stUnsupported, 0)
        else match badRecord 0 recs with
          | some o => some (stRange, staged o)
          | none => match c.badEntry b recs (planEntries b) [] (planEntries b) with
            | some o => some (stRange, staged o)
            | none =>
              let ahead := (BitVec.ofNat 16 (leAt b 0 2) - c.frm.lfn).toNat
              if ahead < 2 ∨ 32768 < ahead then some c.noCtxConflict else none

/-- PLAN_LOAD makes the bundle the pending plan and circuit bank (R218). -/
def Chip.doPlanLoad (c : Chip) (r : Req) : Chip :=
  let b := c.stagedBytes (r.range 0)
  let img : PlanImage := { actLfn := BitVec.ofNat 16 (leAt b 0 2), entries := (planEntries b).map (·.2)
                           circs := (planRecs b).foldl (fun t q => tset 0 t q.2.1 q.2.2.2) [] }
  { c with plan := { c.plan with pending := some img } }.finish r.cmd false stOk 0 0 []

/-- Checks of PLAN_CANCEL. -/
def Chip.checkPlanCancel (c : Chip) (_r : Req) : Refused :=
  match c.plan.pending with
  | none => some c.noCtxConflict
  | some p => if lfnDist c.frm.lfn p.actLfn ≤ 2 then some c.noCtxConflict else none

/-- PLAN_CANCEL. -/
def Chip.doPlanCancel (c : Chip) (r : Req) : Chip :=
  { c with plan := { c.plan with pending := none } }.finish r.cmd false stOk 0 0 []

/-- PLAN_STATUS: 8 bytes (layout log 12). -/
def Chip.planStatus (c : Chip) : List Byte :=
  padTo (leBytes 2 ((c.plan.active.map (·.actLfn.toNat)).getD 0) ++ leBytes 2 ((c.plan.pending.map (·.actLfn.toNat)).getD 0)
    ++ [BitVec.ofNat 8 (b2n c.plan.pending.isSome)]) 8

/-! Staging. -/

/-- Checks of STAGE_WRITE. -/
def checkStageWrite (r : Req) : Refused :=
  if 4064 < r.len then some (stRange, 4) else if stagingBytes < r.u 0 4 + (r.len - 8) then some (stRange, 32) else none

/-- STAGE_WRITE. -/
def Chip.doStageWrite (c : Chip) (r : Req) : Chip :=
  { c with img := { c.img with staging := wrBytes c.img.staging (r.u 0 4) (slice r.payload 8 (r.len - 8)) } }.finish r.cmd false stOk 0 0 []

/-- Checks of STAGE_READ. -/
def checkStageRead (r : Req) : Refused :=
  if r.u 4 4 = 0 ∨ 4064 < r.u 4 4 then some (stRange, 36)
  else if stagingBytes < r.u 0 4 + r.u 4 4 then some (stRange, 32) else none

/-! CTX_CREATE (R298-R300). -/

/-- Cores that a request names. -/
def Req.cores (r : Req) : List Nat := (List.range 2448).filter (fun n => (byteAt r.payload (40 + n / 8)).toNat.testBit (n % 8))

/-- Stacks that a request names. -/
def Req.stks (r : Req) : List Nat := onesOf 24 (r.u 24 4)

/-- Engines that a request names, as indices. -/
def Req.engines (r : Req) : List Nat := r.stks.flatMap (fun s => (onesOf 64 (r.u 28 8)).map (fun c => 68 * s + c))

/-- Band rows that a request names. -/
def Req.rows (r : Req) : List Nat := onesOf 48 (r.u 8 6)

/-- The first field of a request that breaks check 4, as an offset in the payload. -/
def badParameter (r : Req) : Option Nat :=
  (([(decide (8 ≤ r.u 0 1) || r.u 0 1 / 2 % 4 == 3, 0), (r.u 1 1 == 0 || decide (48 < r.u 1 1), 1), (r.u 2 2 != 0, 2)
    , (r.u 0 1 % 2 == 1 && r.u 4 4 == 0, 4), (r.u 8 6 == 0, 8), (r.u 14 6 &&& r.u 8 6 != r.u 14 6, 14), (decide (47 < r.u 20 1), 20)
    , (decide (r.u 21 1 < r.u 20 1) || decide (47 < r.u 21 1), 21), (r.u 22 2 != 0, 22), (decide (2 ^ 24 ≤ r.u 24 4), 24), (r.u 36 4 != 0, 36)]
    ++ [(r.cores.any isSpareSite, 40)]
    ++ [((slice r.payload 346 166).any (· != 0), 346)] : List (Bool × Nat)).find? (·.1)).map (·.2)

/-- A core cannot be bound: it belongs to a context or is quarantined. -/
def Core.taken (k : Core) : Bool := k.ctx.isSome || k.state == .quarantined

/-- An engine cannot be bound. -/
def Engine.taken (k : Engine) : Bool := k.ctx.isSome || k.state == .quarantined

/-- Checks of CTX_CREATE in the order of Table 11-2. The frames that a clearing still needs are a free value of
1 to 4,096 (log 25). -/
def Chip.checkCreate (c : Chip) (r : Req) : Refused :=
  let x := r.x
  if r.len ≠ 512 then some (stRange, 4)
  else if (c.ctx x).state ≠ .none then some (c.ctxConflict x)
  else if !c.frm.mapOk || c.frm.state == .freerun then some (c.ctxConflict x)
  else match badParameter r with
    | some o => some (stRange, 32 + o)
    | none =>
      if r.cores.any (fun n => !c.fuse.coreNumber n) || r.stks.any (fun s => !c.fuse.stackOn s)
          || r.engines.any (fun e => !c.fuse.engineNumber e) then some (stUnsupported, 0)
      else if !r.engines.isEmpty && (List.range 48).any (fun b => decide (r.u 20 1 ≤ b) && decide (b ≤ r.u 21 1) && !r.rows.contains b) then
        some (stRange, 52)
      else if r.cores.any (fun n => (tget Core.zero c.cores n).taken) || r.engines.any (fun e => (tget Engine.zero c.engines e).taken)
          || r.rows.any (fun b => (c.band b).valid) then some (c.ctxConflict x)
      else if r.rows.any (fun b => (c.band b).clearing) then some (stRetry, (Config.clearFrames c.freeCount c.uptime).toNat % 4096 + 1)
      else none

/-- A core is bound to a context with a new generation (R91, R300). -/
def Core.bind (k : Core) (x : CtxId) : Core := if k.ctx = some x then k else { k with ctx := some x, gen := k.gen + 1 }

/-- An engine is bound to a context with its window. -/
def Engine.bind (k : Engine) (x : CtxId) (base limit : Nat) : Engine :=
  if k.ctx = some x then k
  else { k with ctx := some x, gen := k.gen + 1, winBase := BitVec.ofNat 25 base, winLimit := BitVec.ofNat 25 limit }

/-- The context that a request creates. -/
def Req.context (r : Req) (now : Dword) : Ctx :=
  { Ctx.zero with
    state := .creating, tray := r.u 0 1 % 2 == 1, contain := BitVec.ofNat 2 (r.u 0 1 / 2), span := r.u 1 1, job := BitVec.ofNat 32 (r.u 4 4)
    bands := BitVec.ofNat 48 (r.u 8 6), bmode := BitVec.ofNat 48 (r.u 14 6), winFirst := r.u 20 1, winLast := r.u 21 1
    stks := BitVec.ofNat 24 (r.u 24 4), columns := BitVec.ofNat 64 (r.u 28 8), cores := BitVec.ofNat 2448 (r.u 40 306), tchange := now }

/-- The RTE_RMEM entries of a context are cleared (R300); they are recorded at the next change of the plan or the circuits (R219). -/
def Rte.clearRmem (r : Rte) (x : CtxId) : Rte := { r with rmem := (List.range 4).foldl (fun t p => tset 0 t (4 * x.val + p) 0) r.rmem }

/-- CTX_CREATE (R300): band rows, windows, bindings, an empty context. Its ring entry follows at the boundary
after the seal. -/
def Chip.doCreate (c : Chip) (r : Req) : Chip :=
  let x := r.x
  let bands := r.rows.foldl (fun t b => tset Band.zero t b { valid := true, column := (r.u 14 6).testBit b, clearing := false, owner := x }) c.mem.bands
  let c1 := { c with mem := { c.mem with bands := bands } }
  let c2 := r.engines.foldl (fun c e => c.modEngine (Fin.ofNat 1632 e) (fun k =>
    k.bind x (524288 * r.u 20 1) (524288 * (r.u 21 1 + 1)))) c1
  let c3 := r.cores.foldl (fun c n => c.modCore (Fin.ofNat 2448 n) (fun k => k.bind x)) c2
  let c4 := (c3.modCtx x (fun _ => r.context c.now)).modDig x (fun _ => DigCtx.zero)
  (({ c4 with rte := c4.rte.clearRmem x }).finish r.cmd true stOk 0 0 [] (boundary := true)).refresh

/-! Hold, resume, reset, teardown (R306-R309). -/

/-- The context is LOADED, RUNNING or HELD. -/
def Ctx.settled (x : Ctx) : Bool := x.state == .loaded || x.state == .running || x.state == .held

/-- Checks of CTX_HOLD and CTX_RESET (Table 11-5). -/
def Chip.checkSettled (c : Chip) (r : Req) : Refused := if (c.ctx r.x).settled then none else some (c.ctxConflict r.x)

/-- CTX_HOLD: from the next boundary, or at once where the context is already held (Table 11-5). -/
def Chip.doHold (c : Chip) (r : Req) : Chip :=
  if (c.ctx r.x).state = .held then
    (c.modCtx r.x (fun k => { k with held := k.held ||| holdBit 0 })).finishAfter r.x r.cmd false stOk 0 0
  else c.modCtx r.x (fun k => { k with holdNext := k.holdNext ||| holdBit 0, holdCmds := k.holdCmds ++ [r.cmd] })

/-- CTX_RESET: at the next boundary. -/
def Chip.doCtxReset (c : Chip) (r : Req) : Chip := c.modCtx r.x (fun k => { k with resetCmds := k.resetCmds ++ [r.cmd] })

/-- Checks of CTX_TEARDOWN. -/
def Chip.checkTeardown (c : Chip) (r : Req) : Refused :=
  if (c.ctx r.x).settled || (c.ctx r.x).state == .resetting then none else some (c.ctxConflict r.x)

/-- CTX_TEARDOWN: the context is TEARING_DOWN, or will be when its reset ends where it is RESETTING (Table 11-5). -/
def Chip.doTeardown (c : Chip) (r : Req) : Chip :=
  let c1 := c.modCtx r.x (fun k => { k with teardownCmds := k.teardownCmds ++ [r.cmd] })
  if (c.ctx r.x).state = .resetting then c1 else c1.setCtxState r.x .tearingDown

/-- A reason of a held context cannot be cleared yet (Table 11-6). -/
def Chip.reasonStays (c : Chip) (x : CtxId) : Bool :=
  let k := c.ctx x
  (bit k.held 1 && c.frm.state != .locked && c.frm.state != .holdover)
    || (bit k.held 2 && allLinks.any (fun l => (c.link l).short && c.ctxOnLink l x))
    || (bit k.held 4 && (c.mbx.dstate == .recovering || c.flt.rphase != 0))
    || (bit k.held 5 && (k.needReload || !k.loads.isEmpty)) || bit k.held 6 || bit k.held 7

/-- Frames from the present one to a resume LFN of 4 bytes. -/
def Chip.resumeAhead (c : Chip) (r : Req) : Nat := if r.u 0 4 < 65536 then (BitVec.ofNat 16 (r.u 0 4) - c.frm.lfn).toNat else 0

/-- Checks of CTX_RESUME (R307, R333). -/
def Chip.checkResume (c : Chip) (r : Req) : Refused :=
  let x := r.x
  if (c.ctx x).state ≠ .held then some (c.ctxConflict x)
  else if c.resumeAhead r < 4 ∨ 32768 < c.resumeAhead r ∨ c.reasonStays x then some (c.ctxConflict x)
  else match c.flt.trial with
    | some t => if t ≠ x ∧ bit c.flt.suspect x.val then some (stRetry, max 1 (min 4096 c.flt.trialLeft)) else none
    | none => none

/-- The suspects that remain, lowest first. -/
def Flt.nextSuspect (f : Flt) : Option CtxId := allCtxs.find? (fun x => bit f.suspect x.val)

/-- The trial of a suspect may begin: no other runs, and it is the lowest of the suspects (R333, log 115). -/
def Chip.trialNext (c : Chip) (x : CtxId) : Bool := c.flt.trial.isNone && c.flt.nextSuspect == some x

/-- HANG_F of FLT_CTL (Table 12-14). -/
def Flt.hangF (f : Flt) : Nat := max 4 (bits f.ctl.val 11 0)

/-- A trial of a suspect begins, its restart `ahead` boundaries away (R333, R334). -/
def Chip.startTrial (c : Chip) (x : CtxId) (ahead : Nat) : Chip :=
  { c with flt := { c.flt with trial := some x, trialLeft := ahead + c.flt.hangF + 16 } }

/-- CTX_RESUME: the reasons are cleared, the loads repeated where the context has been reset since PROG_LOAD, each run starts again at its remembered step. The
resume of a suspect whose turn has come is its trial. -/
def Chip.doResume (c : Chip) (r : Req) : Chip :=
  let x := r.x
  let lfn := BitVec.ofNat 16 (r.u 0 4)
  let c1 := c.modCtx x (fun k => { k with
    held := 0, loads := if k.resetSince then k.loadList else k.loads, needReload := false, runs := k.runs.map (fun q => { q.remember with at_ := lfn }) })
  let c2 := c1.setCtxState x (if (c.ctx x).runs.isEmpty then .loaded else .running)
  let c3 := if c.trialNext x then c2.startTrial x (c.resumeAhead r) else c2
  (c3.modDig x (fun d => { d with restartAt := none, state := .run })).refresh.finish r.cmd false stOk 0 0 []

/-! Check table (R247, R446). -/

/-- A context is LOADED or HELD (Table 11-5). -/
def Ctx.quietState (x : Ctx) : Bool := x.state == .loaded || x.state == .held

/-- The groups of a check table in the staging buffer. -/
def tableGroups (t : List Byte) : List CheckGroup :=
  (List.range (leAt t 4 2)).map (fun i =>
    { group := BitVec.ofNat 16 (leAt t (16 + 16 * i) 2), kind := byteAt t (18 + 16 * i), mask := BitVec.ofNat 48 (leAt t (24 + 16 * i) 6) })

/-- Its replay map. -/
def tableReplay (t : List Byte) : List (BitVec 16 × BitVec 16) :=
  let o := leAt t 8 4
  if o = 0 then []
  else (List.range (leAt t o 4)).map (fun j => (BitVec.ofNat 16 (leAt t (o + 8 + 4 * j) 2), BitVec.ofNat 16 (leAt t (o + 10 + 4 * j) 2)))

/-- The first bad field of group `i`, whose number must differ from those before. -/
def Chip.badGroup (c : Chip) (t : List Byte) (seen : List (BitVec 16)) (i : Nat) : Option Nat :=
  let o := 16 + 16 * i
  let g := BitVec.ofNat 16 (leAt t o 2)
  let kind := leAt t (o + 2) 1
  let mask := leAt t (o + 8) 6
  let n := popCount 48 mask
  if g = 0 ∨ g ∈ seen then some o
  else if 1 < kind then some (o + 2)
  else if leAt t (o + 3) 5 ≠ 0 then some (o + 3)
  else if n < 2 ∨ (kind = 1 ∧ n ≠ 2) ∨ !mask.testBit c.pkgNo then some (o + 8)
  else if leAt t (o + 14) 2 ≠ 0 then some (o + 14)
  else none

/-- The first bad field of the groups from `i` on. -/
def Chip.badGroups (c : Chip) (t : List Byte) : Nat → List (BitVec 16) → Nat → Option Nat
  | 0, _, _ => none
  | n + 1, seen, i =>
    match c.badGroup t seen i with
    | some o => some o
    | none => Chip.badGroups c t n (BitVec.ofNat 16 (leAt t (16 + 16 * i) 2) :: seen) (i + 1)

/-- A unit number that a context owns. -/
def Chip.ownsUnit (c : Chip) (x : CtxId) (n : Nat) : Bool :=
  match unitOf n with
  | some u => c.unitCtx u == some x
  | none => false

/-- A unit number that names a unit which the fuses have off. -/
def Chip.fusedOff (c : Chip) (n : Nat) : Bool :=
  match unitOf n with
  | some (.core k) => !c.fuse.coreNumber k.val
  | some (.engine e) => !c.fuse.engineNumber e.val
  | none => false

/-- The first bad map entry: it names a fused-off unit (R2, R282), repeats a FROM, or its TO is not owned (R446). -/
def Chip.badMap (c : Chip) (x : CtxId) (o : Nat) : List (BitVec 16) → Nat → List (BitVec 16 × BitVec 16) → Refused
  | _, _, [] => none
  | seen, j, (f, t) :: rest =>
    if c.fusedOff f.toNat || c.fusedOff t.toNat then some (stUnsupported, 0)
    else if f ∈ seen ∨ !c.ownsUnit x t.toNat then some (stRange, staged (o + 8 + 4 * j))
    else Chip.badMap c x o (f :: seen) (j + 1) rest

/-- Checks of CHECK_LOAD (R247, R248, R446). -/
def Chip.checkCheckLoad (c : Chip) (r : Req) : Refused :=
  let x := r.x
  let p := r.range 0
  let t := c.stagedBytes p
  let ng := leAt t 4 2
  let m := leAt t 8 4
  let end_ := 16 + 16 * ng
  if stagingBytes < p.2 then some (stRange, 36)
  else if stagingBytes < p.1 + p.2 then some (stRange, 32)
  else if !(c.ctx x).quietState then some (c.ctxConflict x)
  else if p.2 = 0 then none
  else if p.2 < 16 then some (stRange, 36)
  else match firstOf [(decide (1 < leAt t 0 1), stRange, staged 0), (leAt t 0 1 == 1 && decide (1 < leAt t 1 1), stRange, staged 1)
      , (leAt t 3 1 != 0, stRange, staged 3), (decide (1024 < ng), stRange, staged 4), (leAt t 6 2 != 0, stRange, staged 6)
      , (m != 0 && (m % 8 != 0 || decide (m < end_)), stRange, staged 8), (leAt t 12 4 != 0, stRange, staged 12)
      , (m != 0 && decide (p.2 < m + 8), stRange, 36)
      , (m != 0 && (leAt t m 4 == 0 || decide (3840 < leAt t m 4)), stRange, staged m)
      , (m != 0 && leAt t (m + 4) 4 != 0, stRange, staged (m + 4))
      , (p.2 != (if m = 0 then end_ else m + 8 + 4 * leAt t m 4), stRange, 36)] with
    | some q => some q
    | none => match c.badGroups t ng [] 0 with
      | some o => some (stRange, staged o)
      | none => match c.badMap x m [] 0 (tableReplay t) with
        | some q => some q
        | none =>
          let groups := tableGroups t
          let row := leAt t 2 1
          if (c.ctx x).state == .held && (c.ctx x).runs.any (fun q => q.group != 0
              && !groups.any (fun g => g.group == q.group && g.kind == 0)) then some (c.ctxConflict x)
          else if leAt t 0 1 = 1 ∧ !(decide (row < 48) && (c.band row).valid && (c.band row).owner == x) then some (c.ctxConflict x)
          else none

/-- CHECK_LOAD; a length of 0 has no effect (Table 10-9). -/
def Chip.doCheckLoad (c : Chip) (r : Req) : Chip :=
  let p := r.range 0
  let t := c.stagedBytes p
  let tab : CheckTable := { check := leAt t 0 1 == 1, lprot := leAt t 1 1 == 1, undoRow := leAt t 2 1, groups := tableGroups t, replay := tableReplay t }
  (if p.2 = 0 then c else c.modCtx r.x (fun k => { k with check := some tab })).finish r.cmd false stOk 0 0 []

/-! Templates, runs and loads (R290). -/

/-- The entries of a template. -/
def templateUnits (t : List Byte) : List TemplateUnit :=
  (List.range (t.length / 8)).map (fun i => { unit := BitVec.ofNat 12 (leAt t (8 * i) 2), start := BitVec.ofNat 32 (leAt t (8 * i + 4) 4) })

/-- Checks of STEP_DEFINE (Tables 10-9, 11-5). A unit that the context does not own is a conflict (log 26). -/
def Chip.checkDefine (c : Chip) (r : Req) : Refused :=
  let x := r.x
  let p := r.range 4
  let t := c.stagedBytes p
  let nums := (List.range (p.2 / 8)).map (fun i => leAt t (8 * i) 2)
  if stagingBytes < p.2 then some (stRange, 40)
  else if stagingBytes < p.1 + p.2 then some (stRange, 36)
  else if !(c.ctx x).settled then some (c.ctxConflict x)
  else if p.2 = 0 ∨ p.2 % 8 ≠ 0 ∨ 30720 < p.2 then some (stRange, 40)
  else if (c.ctx x).state == .running && (c.ctx x).runs.any (fun q => q.template.toNat == r.u 0 1) then some (c.ctxConflict x)
  else match nums.findIdx? (fun n => (unitOf n).isNone) with
    | some i => some (stRange, staged (8 * i))
    | none =>
      if nums.any c.fusedOff then some (stUnsupported, 0)
      else if nums.any (fun n => !c.ownsUnit x n) then some (c.ctxConflict x) else none

/-- STEP_DEFINE. -/
def Chip.doDefine (c : Chip) (r : Req) : Chip :=
  (c.modCtx r.x (fun k => { k with templates := tset [] k.templates (r.u 0 1) (templateUnits (c.stagedBytes (r.range 4))) })).finish
    r.cmd false stOk 0 0 []

/-- Checks of STEP_RUN (R248, Tables 10-9, 11-5). A template that is not defined is a conflict (log 26). -/
def Chip.checkRun (c : Chip) (r : Req) : Refused :=
  let x := r.x
  let k := c.ctx x
  let g := BitVec.ofNat 16 (r.u 2 2)
  let ahead := (BitVec.ofNat 16 (r.u 14 2) - c.frm.lfn).toNat
  firstOf [(k.state != .loaded && k.state != .running, c.ctxConflict x), (r.u 8 4 == 0, stRange, 40)
    , (r.u 12 2 == 0 || decide (4096 < r.u 12 2), stRange, 44)
    , (g != 0 && !((k.check.map (·.groups)).getD []).any (fun q => q.group == g && q.kind == 0), stRange, 34)
    , (decide (ahead < 2) || decide (32768 < ahead), c.ctxConflict x)
    , ((tget [] k.templates (r.u 0 1)).isEmpty, c.ctxConflict x), (decide (16 ≤ k.runs.length), stBusy, 4)]

/-- STEP_RUN: its steps are PENDING, whatever an earlier run of the same numbers has left (R311). -/
def Chip.doRun (c : Chip) (r : Req) : Chip :=
  let q : Run := { template := BitVec.ofNat 8 (r.u 0 1), group := BitVec.ofNat 16 (r.u 2 2), base := BitVec.ofNat 32 (r.u 4 4), count := r.u 8 4
                   interval := r.u 12 2, next := 0, committed := 0, confirmed := 0, at_ := BitVec.ofNat 16 (r.u 14 2), running := none
                   replayed := false, cmd := r.cmd }
  (c.modCtx r.x (fun k => { k with
    runs := k.runs ++ [q], statuses := k.statuses.filter (fun s => !inSteps s.step q.base 0 q.count) })).setCtxState r.x .running

/-- The load list in the staging buffer: unit, zero, destination, source, length (layout log 12). -/
def loadEntries (t : List Byte) : List LoadEntry :=
  (List.range (t.length / 16)).map (fun i =>
    { unit := BitVec.ofNat 12 (leAt t (16 * i) 2), dest := BitVec.ofNat 32 (leAt t (16 * i + 4) 4), src := BitVec.ofNat 42 (leAt t (16 * i + 8) 6)
      len := BitVec.ofNat 16 (leAt t (16 * i + 14) 2) })

/-- The destination region holds a load of `len` granules: the context area of a core, the window of an engine (Table
10-9). -/
def Chip.loadFits (c : Chip) (n dest len : Nat) : Bool :=
  match unitOf n with
  | some (.core _) => dest % 64 == 0 && inCtxArea dest (64 * len)
  | some (.engine e) => c.engineReach e dest (dest + len)
  | none => false

/-- The first fault of a load list from entry `i` on. -/
def Chip.badLoad (c : Chip) (t : List Byte) : Nat → Nat → Refused
  | 0, _ => none
  | n + 1, i =>
    let o := 16 * i
    let u := leAt t o 2
    let len := leAt t (o + 14) 2
    if (unitOf u).isNone then some (stRange, staged o)
    else if c.fusedOff u then some (stUnsupported, 0)
    else if len = 0 ∨ 15360 < len then some (stRange, staged (o + 14))
    else if !c.loadFits u (leAt t (o + 4) 4) 1 then some (stRange, staged (o + 4))
    else if !c.loadFits u (leAt t (o + 4) 4) len then some (stRange, staged (o + 14))
    else Chip.badLoad c t n (i + 1)

/-- Checks of PROG_LOAD. -/
def Chip.checkProgLoad (c : Chip) (r : Req) : Refused :=
  let p := r.range 0
  if stagingBytes < p.2 then some (stRange, 36)
  else if stagingBytes < p.1 + p.2 then some (stRange, 32)
  else if !(c.ctx r.x).quietState then some (c.ctxConflict r.x)
  else if p.2 = 0 ∨ p.2 % 16 ≠ 0 ∨ 65536 < p.2 then some (stRange, 36)
  else c.badLoad (c.stagedBytes p) (p.2 / 16) 0

/-- PROG_LOAD: the loads are carried out at the next frame boundary (log 27); those of an earlier PROG_LOAD that
are still owed are carried out before them. -/
def Chip.doProgLoad (c : Chip) (r : Req) : Chip :=
  let l := loadEntries (c.stagedBytes (r.range 0))
  c.modCtx r.x (fun k => { k with
    loadsFirst := k.loadsFirst ++ (k.loadCmd.map (fun cmd => (cmd, k.loads))).toList, loadList := l, loads := l, loadCmd := some r.cmd, needReload := false, resetSince := false })

/-! Status queries (R311). -/

/-- The effective containment mode as CTX_STATUS shows it. -/
def Ctx.modeByte (x : Ctx) : Byte := if x.resetMode then 2 else 1

/-- CTX_STATUS (Table 11-9): the image of the last sealed copy, the energy from its live register. -/
def Chip.ctxStatus (c : Chip) (x : CtxId) : List Byte :=
  let k := tget Ctx.zero c.qImage.ctxs x.val
  let d := tget DigCtx.zero c.qImage.digs x.val
  [BitVec.ofNat 8 k.state.code, k.modeByte] ++ leBytes 2 (k.reasonMask d).toNat ++ leBytes 2 d.confirmed.toNat ++ [BitVec.ofNat 8 k.runs.length, 0]
    ++ leBytes 8 (c.ctx x).energy.toNat ++ leBytes 4 k.job.toNat ++ leBytes 4 0 ++ leBytes 8 k.tchange.toNat

/-- The code of a STEP without a record of its own: PENDING in a run, else UNKNOWN. -/
def Ctx.stepCode (x : Ctx) (step : Word) : Byte :=
  if x.runs.any (fun r => inSteps step r.base r.next r.count) then 0 else 0x0F

/-- STEP_STATUS (Table 11-8). -/
def Ctx.stepStatus (x : Ctx) (step : Word) : List Byte :=
  match x.statuses.find? (fun s => s.step == step) with
  | some s => [s.code, s.flags] ++ leBytes 2 s.lfn.toNat ++ leBytes 4 step.toNat ++ leBytes 2 s.notDone.toNat ++ leBytes 2 s.unit.toNat ++ leBytes 4 s.err.toNat
  | none => [x.stepCode step, 0] ++ leBytes 2 0 ++ leBytes 4 step.toNat ++ leBytes 2 0 ++ leBytes 2 0xFFFF ++ leBytes 4 0

/-- Checks of STEP_STATUS. -/
def Chip.checkStepStatus (c : Chip) (r : Req) : Refused :=
  if (tget Ctx.zero c.qImage.ctxs r.x.val).state = .none then some (c.ctxConflictOf c.qImage r.x) else none

/-- The digest kept of the first run of a STEP, with its template. -/
def DigCtx.keptOf (d : DigCtx) (step : Word) : Option OwnDigest := d.first.find? (fun o => o.step == step)

/-- A replay of a named STEP (R260, R261): the digest of its first run is kept, every unit of its unit list is mapped, it read no
circuit, and no replay is in progress. The run need not be in progress any more. -/
def Chip.checkReplay (c : Chip) (r : Req) : Refused :=
  let k := c.ctx r.x
  let d := c.digCtx r.x
  let step := BitVec.ofNat 32 (r.u 0 4)
  let ok := (d.keptOf step).any (fun o => k.allMapped o.template) && !d.circuitSteps.contains step
  if (k.state == .loaded || k.state == .running) && ok && k.replay.isNone then none else some (c.ctxConflict r.x)

/-- The replay starts at the next boundary; its slot stays TAKEN until it ends. -/
def Chip.doReplay (c : Chip) (r : Req) : Chip :=
  let step := BitVec.ofNat 32 (r.u 0 4)
  match (c.digCtx r.x).keptOf step with
  | none => c
  | some o =>
    let q : Run := { template := o.template, group := o.group, base := step, count := 1, interval := 1, next := 0, committed := 0
                     confirmed := 0, at_ := c.frm.lfn + 1, running := none, replayed := true, cmd := r.cmd }
    c.modCtx r.x (fun k => { k with replay := some q })

end Sys2Proof.Machine
end

