-- ==== Sys2Proof/Machine/Recovery.lean ====
section
/-! DEFINITION. Watchdogs, engine resets, the compute-domain reset and its phases, suspects and trials, spares,
beacons (chapter 12, R97, R103, R151). -/
namespace Sys2Proof.Machine

/-! Orders. -/

/-- The fault state changed. -/
def Chip.modFlt (c : Chip) (f : Flt → Flt) : Chip := { c with flt := f c.flt }

/-- Markhor orders a package reset, for a reason of Table 12-7; the first reason stands, and one in progress absorbs
it (R26). -/
def Chip.orderPackage (c : Chip) (reason : Nat) : Chip :=
  if c.flt.inPackage then c else c.modFlt (fun f => { f with resetPending := true, pkgReason := reason }.escalate 5 c.now)

/-- Contexts become suspects (R332). -/
def Flt.suspects (f : Flt) (mask : BitVec 16) : Flt := { f with suspect := f.suspect ||| mask }

/-- A mask of the contexts for which `p` holds. -/
def ctxMask (p : CtxId → Bool) : BitVec 16 := allCtxs.foldl (fun m x => if p x then m ||| ctxBit x else m) 0

/-- The contexts that are RUNNING. -/
def Chip.runningMask (c : Chip) : BitVec 16 := ctxMask (fun x => (c.ctx x).state == .running)

/-- A unit has an engine reset waiting or in progress. -/
def Flt.inReset (f : Flt) (u : UnitId) : Bool := f.waiting.any (fun w => w.1 == u) || f.running.any (fun w => w.1 == u)

/-- A reset of more than a unit is ordered or in progress: smaller ones are absorbed (R26). -/
def Flt.largerReset (f : Flt) : Bool := f.resetDue || f.rphase != 0 || f.resetPending || f.rdomain == 4

/-- An engine reset is requested: a ninth turns all that wait into one compute-domain reset (R325). -/
def Chip.requestEngine (c : Chip) (u : UnitId) (mover : Bool) : Chip :=
  if c.flt.largerReset then c
  else if 8 ≤ c.flt.waiting.length then ((c.modFlt (fun f => { f with waiting := [] })).orderCompute 3)
  else c.modFlt (fun f => { f with waiting := f.waiting ++ [(u, mover)] }.escalate 2 c.now)

/-! Watchdogs (R322). -/

/-- A watchdog fires: counted, and its row of Table 12-2 kept. -/
def Chip.countHang (c : Chip) (row : Byte) : Chip := c.modFlt (fun f => { f with cntHang := satInc f.cntHang 1, dog := row })

/-- The step number of a unit, 0 where it runs none. -/
def Chip.stepOf (c : Chip) (u : UnitId) : Nat := ((c.unitStep u).map (·.toNat)).getD 0

/-- ERR register of a unit. -/
def Chip.unitErr (c : Chip) : UnitId → Word
  | .core n => (c.core n).err
  | .engine e => (c.engine e).err

/-- A trial has failed (R334): the suspect is guilty, held with FAULT, its step STOPPED; the set is emptied. -/
def Chip.guilty (c : Chip) (x : CtxId) (u : UnitId) : Chip :=
  (((c.stepStopped u (c.unitErr u)).faultHold x).fltErr 9).event
    { code := 0x17, severity := 1, unit := unitNo u, ctxMask := ctxBit x, arg := c.stepOf u } |>.modFlt
      (fun f => { f with suspect := 0, trial := none, trialLeft := 0, guilty := f.guilty ||| ctxBit x })

/-- A step or mover watchdog fires on a unit: announced; its reset is requested; its context becomes a suspect, or
is guilty where it was on trial. A context that is RESETTING or TEARING_DOWN is no suspect (R323), nor is a guilty one, whose
hung units are reset (R334). -/
def Chip.hang (c : Chip) (u : UnitId) (mover : Bool) : Chip :=
  let x := c.unitCtx u
  let c1 := (((c.countHang (if mover then 2 else 1)).modFlt (fun f => f.trigger u)).fltErr (if mover then 1 else 0)).event
    { code := 0x10, severity := 1, unit := unitNo u, ctxMask := (x.map ctxBit).getD 0, arg := c.stepOf u }
  match x with
  | none => c1.requestEngine u mover
  | some i =>
    if (c.ctx i).state = .resetting ∨ (c.ctx i).state = .tearingDown ∨ bit c.flt.guilty i.val then c1.requestEngine u mover
    else if c.flt.trial = some i then (c1.requestEngine u mover).guilty i u
    else (c1.modFlt (fun f => f.suspects (ctxBit i))).requestEngine u mover

/-- Boundaries that a unit's step has passed. -/
def Chip.stepAge (c : Chip) : UnitId → Nat
  | .core n => ((c.core n).step.map (·.boundaries)).getD 0
  | .engine e => ((c.engine e).step.map (·.boundaries)).getD 0

/-- The step watchdog may fire on a unit: its program is in progress HANG_F boundaries after the step started. -/
def Chip.stepHung (c : Chip) (u : UnitId) : Bool :=
  (c.unitState u).active && (c.unitStep u).isSome && decide (c.flt.hangF ≤ c.stepAge u) && !c.flt.inReset u && !c.flt.largerReset

/-- STEP_WATCHDOG. -/
def execStepWatchdog (u : UnitId) (s : State) : Answer := s.lift (fun c => if c.stepHung u then c.hang u false else c)

/-- The mover watchdog may fire on a core: a load or a store in flight is not finished 2 boundaries after it
started. -/
def Chip.moverHung (c : Chip) (n : CoreId) : Bool :=
  (c.core n).flights.any (fun f => decide (f.desc.kind ≤ 1) && decide (f.frame + 2 ≤ c.frm.frame)) && !c.flt.inReset (.core n) && !c.flt.largerReset

/-- MOVER_WATCHDOG. -/
def execMoverWatchdog (n : CoreId) (s : State) : Answer := s.lift (fun c => if c.moverHung n then c.hang (.core n) true else c)

/-- A reset exceeds its limit: counted, announced with the domain that hung. -/
def Chip.resetHung (c : Chip) (row : Byte) (domain : Nat) : Chip :=
  (((c.countHang row).modFlt (fun f => f.escalate (BitVec.ofNat 8 domain) c.now)).fltErr 3).event { code := 0x12, severity := 2, arg := domain }

/-- A context reset is in progress: one that CTX_RESET ordered until it is done, any other from its boundary on (log 114). -/
def Ctx.inReset (x : Ctx) : Bool := x.state == .resetting || x.justReset

/-- CONTEXT_RESET_WATCHDOG: a compute-domain reset follows, and every RUNNING context is a suspect (R332). -/
def contextWatchdogEffect (x : CtxId) (c : Chip) : Chip :=
  if (c.ctx x).inReset && !c.flt.largerReset then
    ((c.resetHung 3 1).modFlt (fun f => f.suspects c.runningMask)).orderCompute 3
  else c

/-- CONTEXT_RESET_WATCHDOG. -/
def execContextResetWatchdog (x : CtxId) (s : State) : Answer := s.lift (contextWatchdogEffect x)

/-- ENGINE_RESET_WATCHDOG: the unit is quarantined, which orders a compute-domain reset. -/
def engineWatchdogEffect (c : Chip) : Chip :=
  match c.flt.running with
  | some (u, _) => ((c.resetHung 4 2).modFlt (fun f => { f with running := none, rdomain := 0 })).quarantine u
  | none => c

/-- ENGINE_RESET_WATCHDOG. -/
def execEngineResetWatchdog (s : State) : Answer := s.lift engineWatchdogEffect

/-- COMPUTE_RESET_WATCHDOG: a package reset follows; once for a recovery that hangs (R322). -/
def computeWatchdogEffect (c : Chip) : Chip := if c.flt.rphase != 0 && !c.flt.inPackage then (c.resetHung 5 3).orderPackage 1 else c

/-- COMPUTE_RESET_WATCHDOG. -/
def execComputeResetWatchdog (s : State) : Answer := s.lift computeWatchdogEffect

/-- UNIT_QUARANTINE: a UNIT-class condition of a unit in service. -/
def quarantineEffect (u : UnitId) (c : Chip) : Chip := if (c.unitState u).usable then c.quarantine u else c

/-- UNIT_QUARANTINE. -/
def execUnitQuarantine (u : UnitId) (s : State) : Answer := s.lift (quarantineEffect u)

/-! Engine resets (R24, R325). -/

/-- A core after an engine reset (R24, R62, R89): SRAM kept, the firmware region reloaded, moves in flight kept. -/
def Core.engineReset (k0 : Core) (frame : Nat) : Core :=
  let k := k0.quiet
  { Core.zero with
    flights := k.flights.map (fun f => { f with frame := frame }), sram := k.sram, poison := tclear k.poison 0 (saveLo / 64)
    sramErr := tclear k.sramErr 0 (saveLo / 8), fw := true, state := .stopped, ctx := k.ctx, gen := k.gen, clock := k.clock
    therm := k.therm, servedBy := k.servedBy, serves := k.serves, frec := k.frec, step := k.step, quarSite := k.quarSite }

/-- An engine after an engine reset: counters, ledgers and scratch cleared, as R128 has it where Table 1-7 keeps scratch (log 131), the
firmware region reloaded (R24, R325). -/
def Engine.engineReset (k0 : Engine) : Engine :=
  let k := k0.quiet
  { Engine.zero with
    state := .stopped, pc := k.pc, ctx := k.ctx, gen := k.gen, servedBy := k.servedBy, serves := k.serves, winBase := k.winBase
    winLimit := k.winLimit, gated := k.gated, temp := k.temp, down := k.down, step := k.step, fw := true, region := k.region, quarSite := k.quarSite }

/-- The mover of a core is reset: its queue is discarded (R89). -/
def Core.moverReset (k0 : Core) (frame : Nat) : Core :=
  let k := k0.quiet
  { k with flights := k.flights.map (fun f => { f with frame := frame }) }

/-- ENGINE_RESET: the next waiting reset is carried out; the context rolls back the frame (R325). -/
def engineResetEffect (c : Chip) : Chip :=
  match c.flt.waiting with
  | [] => c
  | w :: rest =>
    if c.flt.running.isSome || c.flt.largerReset then c
    else
      let x := c.unitCtx w.1
      let c1 := c.collect { domain := 2, event := 0x10, unit := unitNo w.1, ctxMask := (x.map ctxBit).getD 0 }
      let c2 := c1.modFlt (fun f => { f with waiting := rest, running := some w, rdomain := 2 })
      let c3 := match w.1 with
        | .core n => c2.modCore n (fun k => if w.2 then k.moverReset c.frm.frame else k.engineReset c.frm.frame)
        | .engine e => c2.modEngine e Engine.engineReset
      match x with
      | some i => if (c.ctx i).judged then c3.chargeStop i else c3
      | none => c3

/-- ENGINE_RESET. -/
def execEngineReset (s : State) : Answer := s.lift engineResetEffect

/-- Boundaries until a context restarts (R254): those to its restart LFN, or 4. -/
def Chip.restartAhead (c : Chip) (x : CtxId) : Nat :=
  match (c.digCtx x).restartAt with
  | some r => (lfnDist c.frm.lfn r).toNat
  | none => 4

/-- A unit in service again after an engine reset. -/
def Chip.unitIdle (c : Chip) : UnitId → Chip
  | .core n => c.modCore n (fun k => if k.state == .stopped then { k with state := .idle } else k)
  | .engine e => c.modEngine e (fun k => if k.state == .stopped then { k with state := .idle } else k)

/-- ENGINE_RESET_COMPLETE: the unit returns to service; the restart of its context is its trial where its turn has come (R325, R333). -/
def engineCompleteEffect (c : Chip) : Chip :=
  match c.flt.running with
  | none => c
  | some (u, _) =>
    let c1 := (c.unitIdle u).modFlt (fun f => { f with running := none, rdomain := if f.rdomain = 2 then 0 else f.rdomain, cntEngine := satInc f.cntEngine 1 })
    let c2 := (c1.fltErr 2).event
      { code := 0x11, severity := 0, unit := unitNo u, dossier := ((c.flt.dossiers.find? (fun d => d.domain == 2)).map (·.seq)).getD 0, arg := (unitNo u).toNat }
    let c3 := c2.modFlt Flt.settled
    match c.unitCtx u with
    | some x => if c.trialNext x && !c.cannotRestart x && c.checkOn x then c3.startTrial x (c.restartAhead x) else c3
    | none => c3

/-- ENGINE_RESET_COMPLETE. -/
def execEngineResetComplete (s : State) : Answer := s.lift engineCompleteEffect

/-! Trials (R333, R334). -/

/-- The trial of the next suspect begins, where it is not held: its frame is rolled back and it restarts. -/
def Chip.tryNext (c : Chip) : Chip :=
  match c.flt.nextSuspect with
  | none => (c.fltErr 10).event { code := 0x18, severity := 0 }
  | some x => if !c.cannotRestart x && (c.ctx x).judged && c.checkOn x then (c.chargeStop x).startTrial x 4 else c

/-- TRIAL_END: the trial passes when its time has elapsed or the suspect's last run has ended. -/
def trialEndEffect (c : Chip) : Chip :=
  match c.flt.trial with
  | none => c
  | some x =>
    if c.flt.trialLeft = 0 ∨ (c.ctx x).runs = [] then
      (c.modFlt (fun f => { f with trial := none, trialLeft := 0, suspect := f.suspect &&& ~~~ ctxBit x })).tryNext
    else c

/-- TRIAL_END. -/
def execTrialEnd (s : State) : Answer := s.lift trialEndEffect

/-! Spares (R97, R103). -/

/-- Distance of two sites of a die. -/
def siteDistance (a b : Nat) : Nat :=
  ((coreRow a : Int) - coreRow b).natAbs + ((coreCol a : Int) - coreCol b).natAbs

/-- The free spare cores of a die. -/
def Chip.freeSpares (c : Chip) (die : Nat) : List Nat :=
  (List.range 2448).filter (fun n => isSpareSite n && coreDie n == die && (tget Core.zero c.cores n).state == .spare
    && (tget Core.zero c.cores n).serves.isNone)

/-- The spare that lies nearest to a failed site, the lower number first. -/
def Chip.nearestSpare (c : Chip) (site : Nat) : Option Nat :=
  (c.freeSpares (coreDie site)).foldl (fun (best : Option Nat) n =>
    match best with
    | some b => if siteDistance site n < siteDistance site b then some n else best
    | none => some n) none

/-- A spare takes the number of a core whose site has failed (R97, R98): its SRAM and registers start empty, its
fused maximum and sensors are its own. The second result says whether a spare was left. -/
def Chip.substituteCore (c : Chip) (n : CoreId) : Chip × Bool :=
  let k := c.core n
  match c.nearestSpare (k.site n.val) with
  | none => (c, false)
  | some m =>
    let sp : CoreId := Fin.ofNat 2448 m
    let q := c.core sp
    let c1 := match k.servedBy with
      | some old => c.modCore (Fin.ofNat 2448 old.toNat) (fun q => { q with state := .quarantined, serves := none })
      | none => c
    let c2 := c1.modCore sp (fun q => { q with serves := some (BitVec.ofNat 12 n.val) })
    (c2.setCore n { Core.zero with
      state := .idle, ctx := k.ctx, gen := k.gen, clock := q.clock, therm := q.therm, servedBy := some (BitVec.ofNat 12 m) }, true)

/-- A spare engine of the same stack takes the number of a failed one (R103): the lowest that is free. -/
def Chip.substituteEngine (c : Chip) (e : EngineId) : Chip × Bool :=
  let k := c.engine e
  let s := engStack e.val
  match ([64, 65, 66, 67] : List Nat).find? (fun i => (tget Engine.zero c.engines (68 * s + i)).state == .spare
      && (tget Engine.zero c.engines (68 * s + i)).serves.isNone) with
  | none => (c, false)
  | some i =>
    let c1 := match k.servedBy with
      | some old => c.modEngine (Fin.ofNat 1632 (68 * s + old.toNat)) (fun q => { q with state := .quarantined, serves := none })
      | none => c
    let c2 := c1.modEngine (Fin.ofNat 1632 (68 * s + i)) (fun q => { q with serves := some (BitVec.ofNat 7 (engIdx e.val)) })
    (c2.setEngine e { Engine.zero with
      state := .idle, ctx := k.ctx, gen := k.gen, winBase := k.winBase, winLimit := k.winLimit, servedBy := some (BitVec.ofNat 7 i) }, true)

/-! The compute-domain reset (R330, Table 12-6). -/

/-- A core after a compute-domain reset (R24): SRAM cleared, its firmware region until the broadcast of phase F; identity,
binding and clocks kept. -/
def Core.domainReset (k : Core) : Core :=
  { Core.zero with
    state := if k.state.usable then .idle else k.state, ctx := k.ctx, gen := k.gen
    clock := { k.clock with off := false }
    therm := k.therm, servedBy := k.servedBy, serves := k.serves, quarSite := k.quarSite }

/-- An engine after a compute-domain reset. -/
def Engine.domainReset (k : Engine) : Engine :=
  { Engine.zero with
    state := if k.state.usable then .idle else k.state, ctx := k.ctx, gen := k.gen, winBase := k.winBase, winLimit := k.winLimit
    servedBy := k.servedBy, serves := k.serves, gated := k.gated, temp := k.temp, down := k.down, quarSite := k.quarSite }

/-- All cores and engines changed. -/
def Chip.mapUnits (c : Chip) (f : Core → Core) (g : Engine → Engine) : Chip :=
  let c1 := c.cores.foldl (fun c p => c.modCore (Fin.ofNat 2448 p.1) f) c
  c1.engines.foldl (fun c p => c.modEngine (Fin.ofNat 1632 p.1) g) c1

/-- All stacks that are in service changed. -/
def Chip.mapStacks (c : Chip) (f : Stack → Stack) : Chip := allStacks.foldl (fun c s => if (c.stack s).state = .none then c else c.modStack s f) c

/-- A context is held with RECOVERY at the start of the reset, with what was to hold it at the boundary; the frame in progress is
to be rolled back where the check mode is ON (Tables 12-6, 12-7a). The reset clears the SRAM of every context, so that the last load list
is to be repeated, that of a context already HELD too (R304). -/
def Chip.recoverCtx (c : Chip) (x : CtxId) : Chip :=
  let k := c.ctx x
  if k.state = .none then c
  else
    let c1 := (if k.judged && c.checkOn x then c.chargeStop x else c).enterHold x (holdBit 4 ||| k.holdNext)
    let cmds := (c1.ctx x).holdCmds
    (cmds.foldl (fun c cmd => c.finishAfter x cmd true stOk 0 0) c1).modCtx x (fun k => { k with
      holdCmds := [], loads := if k.state = .tearingDown then k.loads else k.loadList, resetSince := true })

/-- Phase D: dossier, contexts held, RECOVERING. Engine resets are preempted and reported as absorbed (R26). -/
def Chip.phaseD (c : Chip) : Chip :=
  let c0 := { c with
    flt := { c.flt.absorb (c.ctxResets ++ c.flt.engineResets) with
      rphase := 1, rdomain := 3, resetDue := false, waiting := [], running := none, cntCompute := satInc c.flt.cntCompute 1, since := c.frm.frame }
    dig := { c.dig with sendQ := [] } }
  let all := ctxMask (fun x => (c.ctx x).state != .none)
  let c1 := (c0.collect { domain := 3, event := 0x13, unit := c.flt.trigUnit, ctxMask := all }).fltErr 4
  let c2 := (c1.setDState .recovering).event
    { code := 0x13, severity := 2, ctxMask := all, dossier := c1.flt.dossierSeq, arg := c.flt.reason }
  allCtxs.foldl Chip.recoverCtx c2

/-- Phase Q: units stopped, moves in flight going on (Table 5-5 step 1). The decision on the frame that phase D found in progress
is applied, with its undo, at the boundary that ends it (R253). -/
def Chip.phaseQ (c : Chip) : Chip := (c.mapUnits Core.quiet Engine.quiet).modFlt (fun f => { f with rphase := 2 })

/-- The moves that core `n` still has in flight get their final status, not done, each in the status of its step (R89,
Table 5-5). -/
def Chip.endFlights (c : Chip) (n : CoreId) : Chip :=
  ((c.core n).flights.foldl (fun c f => c.addNotDone f.ctx f.step 1) c).modCore n (fun k => { k with flights := [] })

/-- Phase R: every move in flight has completed or gets its final status, memory enters self-refresh (Table 5-5 steps 1 to
3), the compute domain is reset, and links begin to requalify. -/
def Chip.phaseR (c0 : Chip) : Chip :=
  let c := (c0.cores.foldl (fun c p => c.endFlights (Fin.ofNat 2448 p.1)) c0).mapStacks
    (fun k => if k.state = .up then { k with state := .selfRefresh, scrub := false } else k)
  let c1 := (c.mapUnits Core.domainReset Engine.domainReset).modFlt (fun f => { f with rphase := 3 })
  allLinks.foldl (fun c l => c.modLink l (fun k =>
    if k.state == .up then k.startRequal c0.uptime else k)) (c1.dropQueued (fun p => !p.isResponse))

/-- Phase M: stack ports retrain; their stacks show TRAINING (log 120). -/
def Chip.phaseM (c : Chip) : Chip :=
  (c.mapStacks (fun k => if k.state = .selfRefresh then { k with state := .training } else k)).modFlt (fun f => { f with rphase := 4 })

/-- Phase C: memory is UP again and scrub resumes; every unit is checked, and those that fail are quarantined. -/
def Chip.phaseC (c : Chip) (failed : List UnitId) : Chip :=
  let c1 := (c.mapStacks (fun k => if k.state = .training then { k with state := .up, scrub := true } else k)).modFlt (fun f => { f with rphase := 5 })
  failed.foldl (fun c u => if (c.unitState u).usable then c.quarantine u else c) c1

/-- The firmware region of a core as the broadcast leaves it (R24, R356, Table 3-2): the section of core firmware, zero behind it
(log 4), without errors or poison. -/
def Core.takeFirmware (image : List Byte) (k : Core) : Core :=
  if k.state.usable then
    { k with fw := true, sram := wrBytes k.sram 0 (padTo image saveLo), poison := tclear k.poison 0 (saveLo / 64), sramErr := tclear k.sramErr 0 (saveLo / 8) }
  else k

/-- The firmware region of an engine as the broadcast leaves it (Table 4-1). -/
def Engine.takeFirmware (image : List Byte) (k : Engine) : Engine :=
  if k.state.usable then { k with fw := true, region := padTo image 4096 } else k

/-- The active Ibex broadcasts the core and the engine firmware to every unit in service (R17, R356). -/
def Chip.broadcast (c : Chip) : Chip := c.mapUnits (Core.takeFirmware c.pkg.fwCore) (Engine.takeFirmware c.pkg.fwSga)

/-- A core as the spare that took its number leaves it when the site it had was quarantined (R12, R336). -/
def Chip.markQuarCore (c : Chip) (n : CoreId) : Chip := c.modCore n (fun k => { k with quarSite := true })

/-- The same for an engine. -/
def Chip.markQuarEngine (c : Chip) (e : EngineId) : Chip := c.modEngine e (fun k => { k with quarSite := true })

/-- Spares for the quarantined numbers and the broadcast of firmware; a context whose number stays without a unit is held
with UNIT. -/
def Chip.phaseF (c : Chip) : Chip :=
  let hold := fun (c : Chip) (x : Option CtxId) => match x with
    | some i => c.modCtx i (fun k => { k with held := k.held ||| holdBit 6 })
    | none => c
  let c1 := (c.cores.filter (fun p => p.2.state == .quarantined && !isSpareSite p.1)).foldl (fun c p =>
    let r := c.substituteCore (Fin.ofNat 2448 p.1)
    if r.2 then r.1.markQuarCore (Fin.ofNat 2448 p.1) else hold r.1 p.2.ctx) c
  let c2 := (c1.engines.filter (fun p => p.2.state == .quarantined && decide (engIdx p.1 < 64))).foldl (fun c p =>
    let r := c.substituteEngine (Fin.ofNat 1632 p.1)
    if r.2 then r.1.markQuarEngine (Fin.ofNat 1632 p.1) else hold r.1 p.2.ctx) c1
  c2.broadcast.modFlt (fun f => { f with rphase := 6 })

/-- Phase B: bindings, generations, windows and circuit entries are those kept. -/
def Chip.phaseB (c : Chip) : Chip := c.modFlt (fun f => { f with rphase := 7 })

/-- The undo of phase Q is restored: the frame that phase D found in progress has ended with its decision (R330). -/
def Chip.undone (c : Chip) : Bool := !c.frm.valid || decide (c.flt.since < c.frm.frame)

/-- The package is in service, so that a compute-domain reset can begin (Table 10-8a). -/
def DState.inService : DState → Bool
  | .ready => true
  | .service => true
  | .degraded => true
  | _ => false

/-- COMPUTE_DOMAIN_RESET: an ordered reset begins with phase D; each further command begins the next phase (log
28). -/
def computeDomainEffect (failed : List UnitId) (c : Chip) : Chip :=
  match c.flt.rphase.toNat with
  | 0 => if c.flt.resetDue && c.mbx.dstate.inService && !c.flt.resetPending then c.phaseD else c
  | 1 => c.phaseQ
  | 2 => if c.undone then c.phaseR else c
  | 3 => c.phaseM
  | 4 => c.phaseC failed
  | 5 => c.phaseF
  | 6 => if allLinks.any (fun l => (c.link l).requal) then c else c.phaseB
  | _ => c

/-- COMPUTE_DOMAIN_RESET. -/
def execComputeDomainReset (failed : List UnitId) (s : State) : Answer := s.lift (computeDomainEffect failed)

/-- RECOVERY_END: phase B ends; the device enters its new state, or stays QUARANTINED where the reset has made it so, and the commands that wait get OK. -/
def recoveryEndEffect (ms : Nat) (c : Chip) : Chip :=
  if c.flt.rphase = 7 then
    let c1 := c.modFlt (fun f => { f with rphase := 0, rdomain := 0, regFault := false, computeCmds := [] }.settled)
    let c2 := (if c1.mbx.dstate = .recovering then c1.setDState c1.serviceState else c1).event { code := 0x14, severity := 0, arg := ms }
    c.flt.computeCmds.foldl (fun c cmd => c.finish cmd true stOk 0 0 []) c2
  else c

/-- RECOVERY_END. -/
def execRecoveryEnd (ms : Nat) (s : State) : Answer := s.lift (recoveryEndEffect ms)

/-! Beacons and the reset sequence of FLT_PKGRST. -/

/-- BEACON_REPEAT: the next copy of the beacon whose last copy is the oldest falls due; with BEACON_EN 0 none is sent (R338). -/
def beaconRepeatEffect (c : Chip) : Chip :=
  match c.flt.beacons with
  | [] => c
  | b :: bs =>
    let b1 := { b with left := b.left - 1 }
    let c1 := c.modFlt (fun f => { f with beacons := if b1.left = 0 then bs else bs ++ [b1] })
    if bit c.flt.ctl.val 12 then c1.sendBeacon b (3 - b.left) else c1

/-- BEACON_REPEAT. -/
def execBeaconRepeat (s : State) : Answer := s.lift beaconRepeatEffect

/-- A write of FLT_PKGRST (R327): 0x5A5A and then 0xA5A5 order a package reset; anything else cancels. -/
def Chip.writePkgrst (c : Chip) (w : Word) : Chip :=
  if w = 0x00005A5A then c.modFlt (fun f => { f with pkgrst := true })
  else if w = 0x0000A5A5 ∧ c.flt.pkgrst then (c.modFlt (fun f => { f with pkgrst := false })).orderPackage 2
  else c.modFlt (fun f => { f with pkgrst := false })

/-- PKGRST_SEQ_TIMEOUT. -/
def execPkgrstSeqTimeout (s : State) : Answer := s.lift (fun c => c.modFlt (fun f => { f with pkgrst := false }))

end Sys2Proof.Machine
end

