-- ==== Sys2Proof/Machine/CfgRegs.lean ====
section
/-! DEFINITION. What every register write shares: aliases, reserved bits, refused writes and held configuration
words (R415-R427). -/
namespace Sys2Proof.Machine

/-- Offset bits [27:26] of an alias (R415). -/
def aliasCode : RegAlias → Nat
  | .normal => 0
  | .set => 1
  | .clear => 2
  | .toggle => 3

/-- The alias of a BAR0 offset. -/
def aliasOf (off : Nat) : RegAlias :=
  match off / 0x4000000 % 4 with
  | 0 => .normal
  | 1 => .set
  | 2 => .clear
  | _ => .toggle

/-- The BAR0 offset of a register through an alias. -/
def aliasOffset (a : RegAlias) (off : Nat) : Nat := aliasCode a * 0x4000000 + off

/-- Causes of refused writes (Table 16-4b). -/
def cRv : Nat := 1
/-- RO_WRITE. -/
def cRo : Nat := 2
/-- UNLISTED. -/
def cUnlisted : Nat := 3
/-- WO_ALIAS. -/
def cWo : Nat := 4
/-- HEAD_RANGE. -/
def cHead : Nat := 5
/-- STATE_WRITE. -/
def cState : Nat := 6
/-- VALUE. -/
def cValue : Nat := 7

/-- A write discarded wholly or in part is recorded once with all its causes (R422). -/
def Chip.refuse (c : Chip) (off : Nat) (causes : List Nat) : Chip :=
  match causes with
  | [] => c
  | k :: ks =>
    let low := ks.foldl min k
    { c with pkg := { c.pkg with
        err := causes.foldl setBit c.pkg.err, regAddr := fld low 28 ||| BitVec.ofNat 32 (off % 2 ^ 28)
        regTime := c.now, cntRefused := satInc c.pkg.cntRefused 1 } }

/-- A cause, where it holds. -/
def causeIf (b : Bool) (k : Nat) : List Nat := if b then [k] else []

/-- What a write makes of a word whose bits `rw` are RW and whose others are RV (Table 16-2, R421), and whether
reserved bits were written with other values. -/
def rwWord (a : RegAlias) (rw old d : Word) : Word × Bool :=
  ((old &&& ~~~ rw) ||| (aliasRw a old d &&& rw), a == .normal && (d &&& ~~~ rw) != (old &&& ~~~ rw))

/-- What a write makes of a word whose bits `m` are W1C and whose others are RV or RO of value zero. -/
def w1cWord (a : RegAlias) (m old d : Word) : Word × Bool :=
  ((old &&& ~~~ m) ||| (aliasW1c a old d &&& m), a == .normal && (d &&& ~~~ m) != (old &&& ~~~ m))

/-- The same for a configuration word: a normal write replaces all bits of a held word (R425). -/
def CfgWord.put (k : CfgWord) (a : RegAlias) (rw d : Word) : Word × Bool :=
  if k.held && a == .normal then (d, false) else rwWord a rw k.stored d

/-- A normal write that ends a hold with the last good value is refused by no state rule (R426). -/
def CfgWord.endsHold (k : CfgWord) (a : RegAlias) (d : Word) : Bool := k.held && a == .normal && d == k.good

end Sys2Proof.Machine
end

