-- ==== Sys2Proof/Machine/Power.lean ====
section
/-! DEFINITION. Power, thermal and cooling (chapter 14): caps, the airflow derate, sensors and thermal actions,
ballast, power faults. -/
namespace Sys2Proof.Machine

/-- The power manager changed. -/
def Chip.modPwr (c : Chip) (f : Pwr → Pwr) : Chip := { c with pwr := f c.pwr }

/-- The thermal state changed. -/
def Chip.modThm (c : Chip) (f : Thm → Thm) : Chip := { c with thm := f c.thm }

/-- Markhor runs only while the 48 V entry is in range (R361). -/
def Chip.whenOn (c : Chip) (f : Chip → Chip) : Chip := if c.pkg.entryIn then f c else c

/-- A POWER_THERMAL beacon (R388): `arg` holds ARG [31:8]. -/
def Chip.powerBeacon (c : Chip) (cause severity arg : Nat) (unit : BitVec 16 := 0xFFFF) : Chip :=
  c.event { code := 0x50, severity := severity, unit := unit, arg := cause + 256 * arg }

/-! The cap in force (R363-R365). -/

/-- The maximum cap of the fuse map in W. -/
def Fuse.maxCap (f : Fuse) : Nat := 10 * f.maxcap.toNat

/-- The hard cap as it acts (R379). -/
def Chip.hardCap (c : Chip) : Nat := max 400 (min c.fuse.maxCap c.pwr.hardcap.toNat)

/-- Both heat-sink thermistors are faulty (R376). -/
def Thm.hsFault (t : Thm) : Bool := t.hs0.isNone && t.hs1.isNone

/-- An airflow failure is asserted or declared. -/
def Pwr.airFail (p : Pwr) : Bool := p.airPin || p.airDeclared

/-- The package has not passed bring-up step 6 (term 6 of Table 14-2). -/
def Chip.capBringup (c : Chip) : Bool :=
  c.mbx.dstate == .off || (c.mbx.dstate == .bringup && decide (c.bru.passed.toNat < 6))

/-- The terms of the cap in force, lowest code first (Table 14-2). -/
def Chip.capTerms (c : Chip) : List (Nat × Nat) :=
  let p := c.pwr
  let term := fun (b : Bool) (v code : Nat) => if b then [(v, code)] else []
  [(p.ramp, if p.ramp = p.setCap then 0 else 1)] ++ term p.storeLow c.hardCap 2 ++ term p.airFail 400 3
    ++ term p.derateNow.isSome (p.derateNow.getD 0) 4 ++ term c.thm.hsFault 1100 5 ++ term c.capBringup 900 6

/-- The smallest term; of equal terms the one with the lowest code. -/
def Chip.capNow (c : Chip) : Nat × Nat :=
  c.capTerms.foldl (fun (b : Nat × Nat) t => if t.1 < b.1 then t else b) (65536, 0)

/-- What a class of block that asks for `w` gets of the `left` watts that the classes before it have left (Table 14-4). -/
def grant (left w : Nat) : Nat := min w left

/-- Budgets in the order of PWR_BUDGET, each granted in the order of Table 14-4 as far as `e` watts have room. -/
def fitBudgets (e : Nat) (ask : Nat → Nat) : List Nat :=
  let iod := grant e (ask 6)
  let links := grant (e - iod) (ask 4)
  let bridge := grant (e - iod - links) (ask 5)
  let dram := grant (e - iod - links - bridge) (ask 3)
  let left := e - iod - links - bridge - dram
  let loss := grant left (ask 7)
  let sga := grant (left - loss) (ask 2)
  let ld0 := grant (left - loss - sga) (ask 0)
  [ld0, grant (left - loss - sga - ld0) (ask 1), sga, dram, links, bridge, iod, loss]

/-- A table of 16-bit figures from a list. -/
def figures (l : List Nat) : Tab (BitVec 16) :=
  (List.range l.length).foldl (fun (t : Tab (BitVec 16)) i => tset 0 t i (BitVec.ofNat 16 (min 0xFFFF (l.getD i 0)))) []

/-- The sum of the budgets of the present frame in W. -/
def Pwr.budgetSum (p : Pwr) : Nat := ((List.range 8).map (fun i => (tget 0 p.budget i).toNat)).sum

/-- The budgets never sum to more than the cap in force (R20): a cap that falls within a frame cuts them from the end of the
order of Table 14-4 (log 126). -/
def Pwr.fitted (p : Pwr) : Pwr :=
  if p.force < p.budgetSum then { p with budget := figures (fitBudgets p.force (fun i => (tget 0 p.budget i).toNat)) } else p

/-- E and LIMIT follow the terms (R365); since when term 2 or 3 has set E is kept (R366). -/
def Chip.recap (c : Chip) : Chip :=
  let e := c.capNow
  let hard := e.2 == 2 || e.2 == 3
  c.modPwr (fun p => Pwr.fitted { p with
    force := e.1, limit := BitVec.ofNat 4 e.2
    hardAt := if hard then (if p.hardAt.isNone then some c.uptime else p.hardAt) else none })

/-- The terms other than R that are in force, by their codes. -/
def Chip.termCodes (c : Chip) : List Nat := (c.capTerms.map (·.2)).filter (fun k => decide (2 ≤ k))

/-- A change with which terms may lift: where one does, R is first set to the E of that moment, if R is higher, and then ramps
(R365). -/
def Chip.liftTerm (c : Chip) (f : Chip → Chip) : Chip :=
  let c1 := f c
  let lifts := c.termCodes.any (fun k => !c1.termCodes.contains k)
  (if lifts then c1.modPwr (fun p => { p with ramp := min p.ramp c.pwr.force }) else c1).recap

/-- R moves toward S by at most 20 W (R364), and the derate term down toward D by at most 20 W (R377). -/
def Pwr.ramped (p : Pwr) : Pwr :=
  { p with
    ramp := if p.ramp ≤ p.setCap then min p.setCap (p.ramp + 20) else max p.setCap (p.ramp - 20)
    derateNow := match p.derate, p.derateNow with
      | some d, some n => some (if d < n then max d (n - 20) else n)
      | _, n => n }

/-- The first frame in which R equals S (R367). -/
def Chip.complyLfn (c : Chip) (w : Nat) : BitVec 16 :=
  c.frm.lfn + BitVec.ofNat 16 (((if c.pwr.ramp ≤ w then w - c.pwr.ramp else c.pwr.ramp - w) + 19) / 20)

/-- A set cap within range (R363). -/
def Fuse.capOk (f : Fuse) (w : Nat) : Bool := decide (600 ≤ w ∧ w ≤ f.maxCap)

/-- SET_CAP takes effect (R367). -/
def Chip.putCap (c : Chip) (w : Nat) : Chip :=
  (c.modPwr (fun p => { p with setCap := w, comply := c.complyLfn w })).recap

/-- The response of SET_CAP (Table 14-3), from the package before it takes effect. -/
def Chip.capResponse (c : Chip) (w : Nat) : List Byte :=
  leBytes 2 w ++ leBytes 2 c.pwr.force ++ leBytes 2 (c.complyLfn w).toNat ++ [0, 0]

/-! Alert, ballast on and off. -/

/-- A DRAM die is at 95 degrees C or more (R375, Table 14-12). -/
def Chip.dramHot (c : Chip) : Bool := c.stks.any (fun p => decide (1520 ≤ p.2.dram.toInt))

/-- PKG_THERM_ALERT is to be asserted (R375). -/
def Chip.alertNow (c : Chip) : Bool :=
  c.cores.any (fun p => p.2.clock.gated) || c.dramHot || c.thm.hsHigh || c.pwr.airPin || c.thm.shutdown

/-- PKG_THERM_ALERT follows R375. -/
def Chip.realert (c : Chip) : Chip :=
  let on := c.alertNow
  let c1 := c.modThm (fun t => { t with alert := on })
  if on && !c.thm.alert then c1.thmErr 0 else c1

/-- A waiting core that is not too hot for ballast work (R373, R383). -/
def Core.canBallast (k : Core) : Bool :=
  (k.state == .waitSync || k.state == .waitTick) && !k.wakeHold && !k.clock.gated && decide (k.therm.eff.toInt < 1600)

/-- A core runs ballast work at a level in sixteenths, or none. -/
def Core.setBallast (level : Nat) (k : Core) : Core :=
  if 0 < level ∧ k.canBallast then { k with ballast := true, ballastLevel := level, clock := { k.clock with off := false } }
  else { k with ballast := false, ballastLevel := 0 }

/-- No core runs ballast work. -/
def Chip.noBallast (c : Chip) : Chip := c.mapUnits (fun k => k.setBallast 0) id

/-- The cores on which ballast work can run. -/
def Chip.ballastUnits (c : Chip) : List CoreId := (c.cores.filter (fun p => p.2.canBallast)).map (fun p => Fin.ofNat 2448 p.1)

/-- Ballast work of `total` sixteenths, spread over the waiting cores as evenly as whole sixteenths can be (R383). -/
def Chip.spreadBallast (c : Chip) (total : Nat) : Chip :=
  let ws := c.ballastUnits
  (ws.foldl (fun (r : Chip × Nat) n =>
    (r.1.modCore n (fun k => k.setBallast (total / ws.length + b2n (decide (r.2 < total % ws.length)))), r.2 + 1)) (c.noBallast, 0)).1

/-- Ballast work is suspended (R383). -/
def Chip.stopBallast (c : Chip) : Chip := c.noBallast.modPwr (fun p => { p with ballastOn := false, windows := 0 })

/-! Airflow and stored energy (R378, R379). -/

/-- What an airflow failure does, asserted or declared (R378). -/
def Chip.airflowFailure (c : Chip) (declared : Bool) : Chip :=
  let c1 := c.modPwr (fun p => { p with ckptReq := true, cntAirflow := satInc p.cntAirflow 1 })
  ((c1.pwrErr 3).powerBeacon 2 2 (b2n declared)).stopBallast.recap.realert

/-- What PWR_STORE_LOW does (R379). -/
def Chip.storeLowOn (c : Chip) : Chip :=
  let c1 := (c.modPwr (fun p => { p with cntStoreLow := satInc p.cntStoreLow 1 })).pwrErr 2
  (c1.powerBeacon 1 1 c.hardCap).stopBallast.recap

/-- A cause of an airflow failure ends: with the last of them term 3 lifts, CKPT_REQ clears and E rises under R365. -/
def Chip.airflowEnd (c : Chip) (f : Pwr → Pwr) : Chip :=
  (c.liftTerm (fun c => c.modPwr (fun p => let q := f p; { q with ckptReq := q.airFail }))).realert

/-- PWR_STORE_LOW_ASSERT. -/
def storeAssertEffect (c : Chip) : Chip :=
  if c.pwr.storeLow then c else (c.modPwr (fun p => { p with storeLow := true })).whenOn (·.storeLowOn)

/-- PWR_STORE_LOW_ASSERT. -/
def execPwrStoreLowAssert (s : State) : Answer := s.lift storeAssertEffect

/-- PWR_STORE_LOW_RELEASE. -/
def execPwrStoreLowRelease (s : State) : Answer :=
  s.lift (fun c =>
    if !c.pwr.storeLow then c
    else if c.pkg.entryIn then c.liftTerm (·.modPwr (fun p => { p with storeLow := false }))
    else c.modPwr (fun p => { p with storeLow := false }))

/-! Heat sink, inlet and derate (R376, R377). -/

/-- T_hs in 0.0625 degrees C: the higher of the thermistors that are not faulty. -/
def Thm.hs (t : Thm) : Option Int :=
  match t.hs0, t.hs1 with
  | some a, some b => some (max a.toInt b.toInt)
  | some a, none => some a.toInt
  | none, some b => some b.toInt
  | none, none => none

/-- T_in: 35 degrees C unless one has arrived within 10 s. -/
def Thm.tin (t : Thm) : Int := if t.inletValid then t.inlet.toInt else 560

/-- INLET_STALE. -/
def inletStaleEffect (c : Chip) : Chip :=
  ((c.modThm (fun t => { t with inletValid := false, inlet := 560 })).thmErr 7).powerBeacon 10 1 0

/-- INLET_STALE. -/
def execInletStale (s : State) : Answer := s.lift (fun c => c.whenOn inletStaleEffect)

/-- Theta in 0.0001 degrees C per W at a mean power (R377); below 300 W, or without T_hs, the last. -/
def Chip.thetaAt (c : Chip) (p : Nat) : Nat :=
  match c.thm.hs with
  | some t => if 300 ≤ p then min 0xFFFF (((t - c.thm.tin) * 10000 / (16 * (p : Int))).toNat) else c.pwr.theta.toNat
  | none => c.pwr.theta.toNat

/-- S x theta0 / theta in W; no limit at theta 0. -/
def Pwr.airflowCap (p : Pwr) (theta : Nat) : Nat := if theta = 0 then 65535 else p.setCap * p.theta0.toNat / theta

/-- The derate D that a theta asks for (R377). -/
def Pwr.derateAt (p : Pwr) (theta : Nat) : Option Nat :=
  if bit p.ctl.val 3 ∧ 105 * p.theta0.toNat < 100 * theta then some (p.airflowCap theta / 10 * 10) else none

/-- A derate comes into force, changes, or ends (R377). -/
def Chip.putDerate (c : Chip) (d : Option Nat) : Chip :=
  match d, c.pwr.derate with
  | none, none => c
  | none, some _ => c.liftTerm (·.modPwr (fun p => { p with derate := none, derateNow := none }))
  | some w, none =>
    ((c.modPwr (fun p => { p with derate := d, derateNow := some (max w p.force) })).pwrErr 4).powerBeacon 3 1 w |>.recap
  | some w, some _ => (c.modPwr (fun p => { p with derate := d, derateNow := p.derateNow.map (max w) })).recap

/-- THETA_UPDATE: theta, the derate, and an airflow failure declared or ended (R377). -/
def thetaEffect (p : Nat) (c : Chip) : Chip :=
  let th := c.thetaAt p
  let c1 := c.modPwr (fun p => { p with theta := BitVec.ofNat 16 th })
  let d := c1.pwr.derateAt th
  let c2 := c1.putDerate d
  if !c2.pwr.airDeclared && d.any (fun w => decide (w < 600)) then
    (c2.modPwr (fun p => { p with airDeclared := true })).airflowFailure true
  else if c2.pwr.airDeclared && decide (700 ≤ c2.pwr.airflowCap th) then c2.airflowEnd (fun p => { p with airDeclared := false })
  else c2

/-- THETA_UPDATE. -/
def execThetaUpdate (meanPower : BitVec 16) (s : State) : Answer := s.lift (fun c => c.whenOn (thetaEffect meanPower.toNat))

/-! Thermal shutdown (R374). -/

/-- A thermal shutdown for a row of Table 14-5 as the beacon names it: everything gated, and a package reset. -/
def Chip.thermalShutdown (c : Chip) (row : Nat) : Chip :=
  if c.thm.shutdown then c
  else
    let c1 := c.mapUnits (fun k => { k with clock := { k.clock with gated := true, gatedFrame := true } }) (fun k => { k with gated := true })
    let c2 := (c1.modThm (fun t => { t with shutdown := true, cntShutdown := satInc t.cntShutdown 1 })).realert
    (c2.powerBeacon 7 2 row).orderPackage 1

/-- HS_THERMISTOR_READ (R376, Table 14-5). -/
def hsReadEffect (t0 t1 : Option (BitVec 16)) (c : Chip) : Chip :=
  let old := c.thm
  let put := fun (c : Chip) => c.modThm (fun t => { t with hs0 := t0, hs1 := t1 })
  let c1 := c.liftTerm put
  let c2 := if (old.hs0.isSome && t0.isNone) || (old.hs1.isSome && t1.isNone) then c1.thmErr 6 else c1
  let c3 := if c2.thm.hsFault && !old.hsFault then c2.powerBeacon 9 1 0 else c2
  match c3.thm.hs with
  | none => c3.realert
  | some t =>
    if 1600 ≤ t then c3.thermalShutdown 5
    else if 1440 ≤ t ∧ !old.hsHigh then
      ((c3.modThm (fun t => { t with hsHigh := true })).thmErr 5).powerBeacon 6 1 (t / 16).toNat |>.realert
    else if t ≤ 1360 then (c3.modThm (fun t => { t with hsHigh := false })).realert
    else c3.realert

/-- HS_THERMISTOR_READ. -/
def execHsThermistorRead (t0 t1 : Option (BitVec 16)) (s : State) : Answer := s.lift (fun c => c.whenOn (hsReadEffect t0 t1))

/-! Core sensors (R371). -/

/-- The effective temperature of a pair in agreement or not, none where the pair is faulty. -/
def pairTemp (t0 t1 : Int) : Option Int :=
  let d := (t0 - t1).natAbs
  if d ≤ 96 then some ((t0 + t1) / 2) else if d ≤ 240 then some (max t0 t1) else none

/-- The highest of a list of temperatures. -/
def hottest : List Int → Option Int
  | [] => none
  | t :: ts => some (ts.foldl max t)

/-- The cores in service whose pairs are not faulty, with their numbers. -/
def Chip.soundCores (c : Chip) : List (Nat × Core) := c.cores.filter (fun p => p.2.state.usable && !p.2.therm.bad)

/-- Two sites are grid neighbours on one die. -/
def gridNear (a b : Nat) : Bool :=
  coreDie a == coreDie b && decide (((coreRow a : Int) - coreRow b).natAbs ≤ 1) && decide (((coreCol a : Int) - coreCol b).natAbs ≤ 1)

/-- The substitute temperature of a core whose pair is faulty (R371): neighbours, then the die, then the other
die, then the heat sink. Where both thermistors are faulty too the value is free. -/
def Chip.substituteTemp (c : Chip) (n : CoreId) : Int :=
  let site := (c.core n).site n.val
  let pick := fun (p : Nat → Bool) => hottest ((c.soundCores.filter (fun q => p (q.2.site q.1))).map (·.2.therm.eff.toInt))
  match pick (gridNear site), pick (fun m => coreDie m == coreDie site), pick (fun _ => true) with
  | some t, _, _ => t + 80
  | none, some t, _ => t + 80
  | none, none, some t => t + 80
  | none, none, none => match c.thm.hs with
    | some t => t + 304 * (c.pwr.mean.toNat : Int) / 1000 + 80
    | none => (Config.blindTemp n.val c.freeCount c.uptime).toInt

/-- A thermal limit is lowered by 25 MHz from a frequency, at least to 350 MHz. -/
def throttledTo (f : Nat) : Byte := BitVec.ofNat 8 (max 70 (f - 5))

/-- A throttle step is counted (Table 14-13). -/
def Chip.countThrottle (c : Chip) : Chip := (c.modThm (fun t => { t with cntThrot := satInc t.cntThrot 1 })).thmErr 1

/-- A core's effective temperature is `e`: the actions of Table 14-5. What a thermal shutdown has gated stays so (R374). -/
def Chip.coreTemp (c : Chip) (n : CoreId) (e : Int) : Chip :=
  let k := c.core n
  let old := k.therm.eff.toInt
  let c1 := c.modCore n (fun k => { k with therm := { k.therm with eff := BitVec.ofInt 16 e } })
  if 2000 ≤ e then c1.thermalShutdown 1
  else
    let c2 := if 1680 ≤ e ∧ old < 1680 then
        (c1.modCore n (fun k => { k with clock := { k.clock with limit := throttledTo (min (c.coreFree n) k.clock.limit.toNat) } })).countThrottle
      else c1
    let c3 := if 1840 ≤ e ∧ !k.clock.gated then
        (((c2.modCore n (fun k => { k with clock := { k.clock with gated := true, gatedFrame := true } })).modThm
          (fun t => { t with cntGate := satInc t.cntGate 1 })).thmErr 2).powerBeacon 4 1 0 (unitNo (.core n))
      else if e ≤ 1728 ∧ !c2.thm.shutdown then c2.modCore n (fun k => { k with clock := { k.clock with gated := false } })
      else c2
    let c4 := if 1600 ≤ e then c3.modCore n (fun k => { k with ballast := false, ballastLevel := 0 }) else c3
    c4.realert

/-- A faulty pair is found (R371). -/
def Chip.sensorFault (c : Chip) (n : CoreId) : Chip :=
  let c1 := c.modCore n (fun k => { k with err := setBit k.err 19, therm := { k.therm with bad := true } })
  ((c1.modThm (fun t => { t with cntSensor := satInc t.cntSensor 1 })).thmErr 3).powerBeacon 9 1 0 (unitNo (.core n))

/-- The substitute temperatures are derived again. -/
def Chip.resubstitute (c : Chip) : Chip :=
  (c.cores.filter (fun p => p.2.state.usable && p.2.therm.bad)).foldl (fun c p =>
    let n : CoreId := Fin.ofNat 2448 p.1
    let free := c.soundCores.isEmpty && c.thm.hs.isNone
    let t := c.substituteTemp n
    (if free then { c with freeCount := c.freeCount + 1 } else c).coreTemp n t) c

/-- The two sensors of a core in service are read. -/
def Chip.readCore (c : Chip) (n : CoreId) (t0 t1 : BitVec 16) : Chip :=
  if (c.core n).state.usable then
    let c1 := c.modCore n (fun k => { k with therm := { k.therm with t0 := t0, t1 := t1 } })
    match pairTemp t0.toInt t1.toInt with
    | none => (if (c.core n).therm.bad then c1 else c1.sensorFault n).resubstitute
    | some e => (if (c.core n).therm.bad then c1 else c1.coreTemp n e).resubstitute
  else c

/-- The base and the hottest DRAM die of a stack are read (Table 14-5). -/
def Chip.readStack (c : Chip) (i : StackId) (base dram : BitVec 16) : Chip :=
  if (c.stack i).state = .none then c
  else
    let c1 := c.modStack i (fun k => { k with base := base, dram := dram })
    if 2000 ≤ base.toInt then c1.thermalShutdown 2
    else if 1680 ≤ dram.toInt then c1.thermalShutdown 3
    else if 1520 ≤ dram.toInt ∧ !(c.stack i).dramHot then
      ((c1.modStack i (fun k => { k with dramHot := true })).thmErr 4).powerBeacon 5 1 i.val |>.realert
    else if dram.toInt ≤ 1440 then (c1.modStack i (fun k => { k with dramHot := false })).realert
    else c1.realert

/-- SENSOR_READ. -/
def sensorEffect (r : SensorReading) (c : Chip) : Chip :=
  match r with
  | .core n t0 t1 => c.readCore n t0 t1
  | .engine e t =>
    let c1 := c.modEngine e (fun k => if k.state.usable then { k with temp := t } else k)
    if (c.engine e).state.usable && decide (2000 ≤ t.toInt) then c1.thermalShutdown 2 else c1
  | .stack i base dram => c.readStack i base dram
  | .other t => if 2000 ≤ t.toInt then c.thermalShutdown 4 else c

/-- SENSOR_READ. -/
def execSensorRead (r : SensorReading) (s : State) : Answer := s.lift (fun c => c.whenOn (sensorEffect r))

/-- A core is lowered by 25 MHz at 105 degrees C or more, raised at 100 or less until its limit limits nothing. -/
def Chip.stepCore (c : Chip) (n : CoreId) : Chip :=
  let k := c.core n
  let t := k.therm.eff.toInt
  let put := fun (v : Byte) => c.modCore n (fun k => { k with clock := { k.clock with limit := v } })
  if 1680 ≤ t then
    if 70 < k.clock.limit.toNat then (put (throttledTo k.clock.limit.toNat)).countThrottle else c
  else if t ≤ 1600 then
    put (if c.coreFree n ≤ k.clock.limit.toNat + 5 then 164 else k.clock.limit + 5)
  else c

/-- The duty of an engine is lowered by one sixteenth, down to 1/16, or raised by one (R372). Steps that its stack's share has
made void meanwhile do not delay the rise. -/
def Chip.stepEngine (c : Chip) (e : EngineId) (lower : Bool) : Chip :=
  let room := (tget 16 c.pwr.sgaDuty (engStack e.val)).toNat - 1
  if lower then
    if (c.engine e).down < room then (c.modEngine e (fun k => { k with down := k.down + 1 })).countThrottle else c
  else c.modEngine e (fun k => { k with down := min k.down room - 1 })

/-- THROTTLE_STEP. -/
def throttleEffect (u : ThermalUnit) (c : Chip) : Chip :=
  match u with
  | .core n => if (c.core n).state.usable then c.stepCore n else c
  | .engine e =>
    let k := c.engine e
    if !k.state.usable then c
    else if 1680 ≤ k.temp.toInt then c.stepEngine e true
    else if k.temp.toInt ≤ 1600 ∧ !(c.stack (Fin.ofNat 24 (engStack e.val))).dramHot then c.stepEngine e false
    else c
  | .stack i =>
    let all := (List.range 68).map (fun k => (Fin.ofNat 1632 (68 * i.val + k) : EngineId))
    let live := all.filter (fun e => (c.engine e).state.usable)
    if 1520 ≤ (c.stack i).dram.toInt then live.foldl (fun c e => c.stepEngine e true) c
    else if (c.stack i).dram.toInt ≤ 1440 then
      live.foldl (fun c e => if (c.engine e).temp.toInt ≤ 1600 then c.stepEngine e false else c) c
    else c

/-- THROTTLE_STEP. -/
def execThrottleStep (u : ThermalUnit) (s : State) : Answer := s.lift (fun c => c.whenOn (throttleEffect u))

/-! Samples and power windows (R366, R369, R370, R382, R383). -/

/-- A free ceiling between 350 MHz and the present one. -/
def lowerCeiling (old : Byte) (free : Word) : Byte := BitVec.ofNat 8 (70 + free.toNat % (old.toNat - 70 + 1))

/-- An excursion is cut: the lattice ceilings fall by what brings the draw to E, which the spec does not state. -/
def Chip.cutExcursion (c : Chip) : Chip :=
  let a := c.freeWord
  let b := a.2.freeWord
  (b.2.modPwr (fun p => { p with
    cut := true, ceil0 := lowerCeiling p.ceil0 a.1, ceil1 := lowerCeiling p.ceil1 b.1
    cntExcursion := satInc p.cntExcursion 1 })).pwrErr 7

/-- No transient above E is allowed: term 2 or 3 sets E, and 1 ms has passed since its cause (R366). -/
def Chip.noTransient (c : Chip) : Bool := c.pwr.hardAt.any (fun t => decide (t + 40960 ≤ c.uptime))

/-- Microseconds above E in the last 10 ms (R366). -/
def Pwr.overMicros (p : Pwr) : Nat := p.samples.countP (fun q => decide (10000 * q.2 < q.1))

/-- The mean input power of the last 10 ms is above the mean E of those 10 ms (R366). -/
def Pwr.meanOver (p : Pwr) : Bool :=
  p.samples.length == 10000 && decide (10000 * (p.samples.map (·.2)).sum < (p.samples.map (·.1)).sum)

/-- POWER_SAMPLE: voltage and current of 1 microsecond, in 0.01 V and 0.01 A (R361, R366). Samples are kept for 10 ms, each with
the E of its moment: both limits hold over any 10 ms. -/
def sampleEffect (v a : BitVec 16) (c : Chip) : Chip :=
  let w := v.toNat * a.toNat
  let beyond := decide (10000 * c.pwr.force < w)
  let c1 := c.modPwr (fun p => { p with
    voltage := v, current := a, excursion := beyond, cut := p.cut && beyond, samples := ((w, p.force) :: p.samples).take 10000 })
  if beyond && !c1.pwr.cut
      && (decide (19000000 < w) || decide (2000 < c1.pwr.overMicros) || c1.pwr.meanOver || c.noTransient) then c1.cutExcursion
  else c1

/-- POWER_SAMPLE. -/
def execPowerSample (v a : BitVec 16) (s : State) : Answer := s.lift (fun c => c.whenOn (sampleEffect v a))

/-- Ballast work is allowed (R383). -/
def Chip.ballastAllowed (c : Chip) : Bool :=
  bit c.pwr.ctl.val 4 && c.pwr.limit != 2 && c.pwr.limit != 3 && c.flt.rphase == 0 && !c.flt.resetPending

/-- The mean of the last 64 windows' currents. -/
def Pwr.meanCurrent (p : Pwr) : Nat := if p.currents.isEmpty then 0 else p.currents.foldl (· + ·) 0 / p.currents.length

/-- The input current at which the package draws E, in 0.01 A; none before the first sample. -/
def Pwr.capCurrent (p : Pwr) : Option Nat := if p.voltage = 0 then none else some (p.force * 1000000 / (100 * p.voltage.toNat))

/-- The floor for the present window in 0.01 A, held at or below E (R382, R383). -/
def Pwr.floorNow (p : Pwr) : Nat :=
  let f := if p.ballastOn then p.floorStart * (1024 - (p.windows + 1)) / 1024 else 92 * p.meanCurrent / 100
  min f (p.capCurrent.getD f)

/-- The sixteenths of ballast work by which `n` waiting cores, which can add `room` together, lift the current from `own` to the
floor: rounded up to a whole one, but never so that the package is raised above E (R383). -/
def Pwr.sixteenths (p : Pwr) (n own room floor : Nat) : Nat :=
  if room = 0 then 0
  else
    let need := (16 * n * (floor - own) + room - 1) / room
    min (min need (16 * n)) (match p.capCurrent with
      | some i => 16 * n * (i - own) / room
      | none => 16 * n)

/-- Ballast begins, goes on or stops in a power window with the blocks' own current and what the waiting cores
can add (R382, R383). -/
def Chip.ballastWindow (c : Chip) (own room : Nat) : Chip :=
  let p := c.pwr
  let floor := p.floorNow
  let n := c.ballastUnits.length
  if c.ballastAllowed && decide (own < floor) then
    let total := p.sixteenths n own room floor
    let c1 := (c.spreadBallast total).modPwr (fun p => { p with
      floor := floor, floorStart := if p.ballastOn then p.floorStart else floor, windows := if p.ballastOn then p.windows + 1 else 0
      ballastOn := true, currents := ((own + total * room / (16 * n)) :: p.currents).take 64 })
    if n = 0 ∨ room < floor - own then (c1.modPwr (fun p => { p with cntBallastShort := satInc p.cntBallastShort 1 })).pwrErr 6 else c1
  else
    let shed := p.ballastOn && decide (1024 ≤ p.windows + 1)
    let c1 := c.stopBallast.modPwr (fun p => { p with floor := floor, currents := (own :: p.currents).take 64 })
    if shed then c1.pwrErr 1 else c1

/-- A ceiling in its range of 350 to 820 MHz. -/
def clampCeiling (b : Byte) : Byte := if b.toNat < 70 then 70 else if 164 < b.toNat then 164 else b

/-- The duties of the stacks' engines, 1 to 16 sixteenths. -/
def dutyTable (l : List (BitVec 5)) : Tab (BitVec 5) :=
  (List.range 24).foldl (fun (t : Tab (BitVec 5)) i =>
    let d := (l.getD i 16).toNat
    tset 16 t i (BitVec.ofNat 5 (max 1 (min 16 d)))) []

/-- Pacing of movers begins, changes or ends (R370). -/
def Chip.putPace (c : Chip) (p : BitVec 16) : Chip :=
  let on := decide (1 < p.toNat)
  let c1 := c.modPwr (fun q => { q with pace := p, pacing := on })
  if on && !c.pwr.pacing then (c1.pwrErr 5).powerBeacon 11 1 p.toNat else c1

/-- k - 1 of a die: its issue is gated only where it already runs at 350 MHz, the lowest ceiling (R369). -/
def dieDuty (ceiling : Byte) (duty : Fin 16) : BitVec 4 := if ceiling = 70 then BitVec.ofNat 4 duty.val else 15

/-- POWER_WINDOW. The ceilings, duties and p that the calibrated model predicts to fit the budgets are operands (log 10). -/
def windowEffect (m : WindowMeasure) (c : Chip) : Chip :=
  let f0 := clampCeiling m.ceiling0
  let f1 := clampCeiling m.ceiling1
  let c1 := c.modPwr (fun p => { p with
    ceil0 := f0, ceil1 := f1, duty0 := dieDuty f0 m.duty0, duty1 := dieDuty f1 m.duty1, sgaDuty := dutyTable m.sgaDuty })
  (c1.putPace m.pace).ballastWindow m.ownCurrent m.ballastRoom

/-- POWER_WINDOW. -/
def execPowerWindow (m : WindowMeasure) (s : State) : Answer :=
  s.lift (fun c => c.whenOn (windowEffect m))

/-! The frame boundary (R364, R368, R384, R386). -/

/-- A context has run one full frame at the boundary that ends frame `f` (R368). -/
def Chip.ranFull (c : Chip) (f : Nat) : Bool :=
  allCtxs.any (fun x => (c.ctx x).state == .running && decide ((c.ctx x).tchange.toNat ≤ f * 4096))

/-- The mean slack of a context over the last 16 frames; none where no frame has one (Table 14-8). -/
def Ctx.meanSlack (x : Ctx) : Option Int :=
  let vs := x.slackLog.filterMap id
  if vs.isEmpty then none else some (vs.foldl (· + ·) 0 / (vs.length : Int))

/-- A context has a core on a die. -/
def Chip.holdsDie (c : Chip) (die : Nat) (x : CtxId) : Bool := c.cores.any (fun p => p.2.ctx == some x && coreDie p.1 == die)

/-- The die that is served in full first: the one that alone holds the context with the lowest mean slack (R369, R384). -/
def Chip.firstDie (c : Chip) : Option Nat :=
  let least := (allCtxs.filterMap (fun x => (c.ctx x).meanSlack)).foldl (fun (b : Option Int) t => some ((b.map (min t)).getD t)) none
  let on := fun d => allCtxs.any (fun x => least.isSome && (c.ctx x).meanSlack == least && c.holdsDie d x)
  if on 0 && !on 1 then some 0 else if on 1 && !on 0 then some 1 else none

/-- How the last class of Table 14-4 divides `left` watts over LD0, LD1 and Saiga, which ask for `d` at full speed: in
proportion, but where the two dies cannot both be given their demand the one that holds the context with the lowest mean slack
is served in full first (R368, R369). Rounding goes to LD1 (log 126); where nothing asks, the shares are the free `a` and `b`. -/
def divide (left : Nat) (d : Nat × Nat × Nat) (first : Option Nat) (a b : Nat) : Nat × Nat × Nat :=
  let all := d.1 + d.2.1 + d.2.2
  if all = 0 then
    let s := a % (left + 1)
    let x := b % (left - s + 1)
    (x, left - s - x, s)
  else
    let s := left * d.2.2 / all
    let lat := left - s
    let even := left * d.1 / all
    let x := if d.1 + d.2.1 ≤ lat then even
      else match first with
        | some 0 => min lat d.1
        | some _ => lat - min lat d.2.1
        | none => even
    (x, lat - x, s)

/-- The budgets of the next frame, in the order of PWR_BUDGET (R368, Tables 1-5 and 14-4), which sum to E. The estimated losses
and the demands of lattice and Saiga at full speed are measured (log 10). -/
def Chip.budgets (c : Chip) (m : FrameMeasure) (a b : Nat) : List Nat :=
  let e := c.pwr.force
  let at_ := fun w => w * e / 1400
  let more := fun i => (tget 0 c.pwr.draw i).toNat * 105 / 100
  let run := c.pwr.anyRun
  let set := fun (i w : Nat) => if run then more i else at_ w
  let ask := fun i => match i with
    | 6 => 40
    | 4 => set 4 140
    | 5 => set 5 36
    | 3 => set 3 300
    | 7 => if run then m.losses.toNat else at_ 107
    | 2 => at_ 72
    | 0 => at_ 705 / 2
    | _ => e
  let l := fitBudgets e ask
  if run then
    let r := divide (l.getD 0 0 + l.getD 1 0 + l.getD 2 0) ((m.demands.getD 0 0).toNat, (m.demands.getD 1 0).toNat, (m.demands.getD 2 0).toNat)
      c.firstDie a b
    [r.1, r.2.1, r.2.2] ++ l.drop 3
  else l

/-- Slack of the frame that ends, saturated (R384). -/
def clampSlack (i : Int) : Int := max (-32767) (min 32767 i)

/-- A context is charged with energy: it exists, and its teardown has not taken effect (R309, R312). -/
def Ctx.charged (x : Ctx) : Bool := x.state != .none && !(x.state == .tearingDown && x.bands == 0)

/-- Slack of a context in the frame that ends (R384): the least number of ticks that a core of it that ran spent in waits, less
the greatest lateness of a tick wait of its units; none where no core ran. -/
def Chip.slackOf (c : Chip) (x : CtxId) : Option Int :=
  let ran := (c.cores.filter (fun p => p.2.ctx == some x && p.2.slack.ran)).map (fun p => p.2.waitedBy c.uptime)
  let late := ((c.cores.filter (fun p => p.2.ctx == some x)).map (·.2.slack.late)
    ++ (c.engines.filter (fun p => p.2.ctx == some x)).map (·.2.late)).foldl max 0
  match ran with
  | [] => none
  | t :: ts => some (clampSlack ((ts.foldl min t : Nat) - (late : Int)))

/-- The slack of the next frame is measured anew. -/
def Chip.newSlack (c : Chip) : Chip :=
  c.mapUnits (fun k => { k with slack := { since := c.uptime, ticks := 0, late := 0, ran := k.state.active } }) (fun k => { k with late := 0 })

/-- Energy and slack of the frame that ends are charged to the contexts (R312, R384). -/
def Chip.chargeFrame (c : Chip) (m : FrameMeasure) : Chip :=
  let c1 := allCtxs.foldl (fun c x =>
    if !(c.ctx x).charged then
      { c with pwr := { c.pwr with epkg := satInc64 c.pwr.epkg (m.energy.getD x.val 0) } }
    else c.modCtx x (fun k => { k with
      energy := satInc64 k.energy (m.energy.getD x.val 0)
      slackLog := (c.slackOf x :: k.slackLog).take 16 })) c
  c1.newSlack.modPwr (fun p => { p with epkg := satInc64 p.epkg m.energyPkg })

/-- What the power manager does at a frame boundary; `f` is the frame that ends. -/
def Chip.powerBoundary (c : Chip) (m : FrameMeasure) (f : Nat) : Chip :=
  let c1 := (c.chargeFrame m).modPwr (fun p => { p.ramped with
    anyRun := p.anyRun || c.ranFull f, mean := m.meanPower, peak := m.peakPower
    draw := figures (m.draws.map (·.toNat)), parity := BitVec.ofNat 2 (bits p.ctl.val 2 1)
    cntPacing := satInc p.cntPacing (b2n (m.paced || p.pacing)) })
  let c2 := c1.recap
  let a := c2.freeWord
  let b := a.2.freeWord
  let c3 := b.2.modPwr (fun p => { p with budget := figures (c2.budgets m a.1.toNat b.1.toNat) })
  let c4 := c3.mapUnits (fun k => { k with clock := { k.clock with gatedFrame := k.clock.gated } }) id
  if c2.pwr.force = c.pwr.force then c4 else c4.pwrErr 0

/-! Registers and power faults. -/

/-- A write of PWR_CTL (Table 14-11). -/
def Chip.writePwrCtl (c : Chip) (w : Word) : Chip :=
  let c1 := c.modPwr (fun p => { p with ctl := CfgWord.of w })
  let c2 := if bit w 4 then c1 else c1.stopBallast
  if bit w 3 then c2 else c2.putDerate none

/-- PARITY: it takes effect at the next frame boundary (R386). -/
def execParity (v : BitVec 2) (s : State) : Answer :=
  s.lift (fun c => c.host (fun c => c.writePwrCtl ((c.pwr.ctl.stored &&& 0xFFFFFFF9) ||| fld v.toNat 1)))

/-- BALLAST_EN. -/
def execBallastEn (on : Bool) (s : State) : Answer :=
  s.lift (fun c => c.host (fun c => c.writePwrCtl (if on then setBit c.pwr.ctl.stored 4 else clrBit c.pwr.ctl.stored 4)))

/-- DERATE_EN. -/
def execDerateEn (on : Bool) (s : State) : Answer :=
  s.lift (fun c => c.host (fun c => c.writePwrCtl (if on then setBit c.pwr.ctl.stored 3 else clrBit c.pwr.ctl.stored 3)))

/-- A write of PWR_HARDCAP (R379). -/
def Chip.writeHardcap (c : Chip) (a : RegAlias) (d : Word) : Chip :=
  let r := rwWord a 0xFFFF (c.pwr.hardcap.setWidth 32) d
  ((c.modPwr (fun p => { p with hardcap := r.1.setWidth 16 })).recap).refuse (aliasOffset a 0x2B00014) (causeIf r.2 cRv)

/-- PWR_HARDCAP_WRITE. -/
def execPwrHardcapWrite (a : RegAlias) (d : Word) (s : State) : Answer := s.lift (fun c => c.host (fun c => c.writeHardcap a d))

/-- A write of PWR_THETA0, refused outside BRINGUP and READY (R377). -/
def Chip.writeTheta0 (c : Chip) (a : RegAlias) (d : Word) : Chip :=
  let r := rwWord a 0xFFFF (c.pwr.theta0.setWidth 32) d
  let ok := c.mbx.dstate == .bringup || c.mbx.dstate == .ready
  (if ok then c.modPwr (fun p => { p with theta0 := r.1.setWidth 16 }) else c).refuse (aliasOffset a 0x2B00018)
    (causeIf r.2 cRv ++ causeIf (!ok) cState)

/-- PWR_THETA0_WRITE. -/
def execPwrTheta0Write (a : RegAlias) (d : Word) (s : State) : Answer := s.lift (fun c => c.host (fun c => c.writeTheta0 a d))

/-- ARG [31:8] of a REG_FAULT beacon (Table 14-7). -/
def regulatorArg : Regulator → Nat
  | .ld0 => 0
  | .ld1 => 1
  | .engineRail i => 2 + 256 * i.val
  | .memoryRail i => 3 + 256 * i.val
  | .linkDie => 4
  | .bridge => 5
  | .iod => 6

/-- A regulator whose fault a compute-domain reset answers (R387). -/
def coreRegulator : Regulator → Bool
  | .ld0 => true
  | .ld1 => true
  | .engineRail _ => true
  | .memoryRail _ => false
  | .linkDie => false
  | .bridge => false
  | .iod => false

/-- REG_FAULT (R387). -/
def regFaultEffect (r : Regulator) (c : Chip) : Chip :=
  let c1 := (c.pwrErr 8).powerBeacon 8 2 (regulatorArg r)
  if coreRegulator r && !c.flt.regFault then (c1.modFlt (fun f => { f with regFault := true })).orderCompute 5
  else c1.orderPackage 1

/-- REG_FAULT. -/
def execRegFault (r : Regulator) (s : State) : Answer := s.lift (fun c => c.whenOn (regFaultEffect r))

end Sys2Proof.Machine
end

