-- ==== Sys2Proof/Machine/Firmware.lean ====
section
/-! DEFINITION. Firmware images, staging, activation and attestation (R404-R413), the defect list (R353), the
telemetry record, the management port (R397-R400) and MCTP over I3C (R401-R403). -/
namespace Sys2Proof.Machine

/-- The host side changed. -/
def Chip.modPkg (c : Chip) (f : Pkg → Pkg) : Chip := { c with pkg := f c.pkg }

/-- A page of an object from an offset, at most `n` bytes; none beyond the object (R291, R400). -/
def paged (obj : List Byte) (off n : Nat) : Option (List Byte) :=
  if off ≤ obj.length then some ((obj.drop off).take n) else none

/-! Images (R407, Table 15-6). -/

/-- `n` bytes of an image. Of what was delivered State holds bytes 16 to 18; the spec gives none of the rest (log 4). -/
def FwSlot.at_ (i : FwSlot) (off n : Nat) : List Byte :=
  if !i.factory || (decide (16 ≤ off) && decide (off + n ≤ 19)) then rdBytes i.bytes off n else slice Config.factoryImage off n

/-- A little-endian field of an image. -/
def FwSlot.num (i : FwSlot) (off n : Nat) : Nat := unle (i.at_ off n)

/-- NSEC. -/
def FwSlot.nsec (i : FwSlot) : Nat := i.num 20 4

/-- SVN. -/
def FwSlot.svn (i : FwSlot) : Nat := i.num 16 1

/-- The bytes that the signature covers. -/
def FwSlot.head (i : FwSlot) : List Byte := i.at_ 0 (24 + 48 * i.nsec)

/-- FWID (R407). -/
def FwSlot.fwid (i : FwSlot) : List Byte := shake24 i.head

/-- Type, offset and length of section `k`. -/
def FwSlot.section_ (i : FwSlot) (k : Nat) : Nat × Nat × Nat :=
  (i.num (24 + 48 * k) 1, i.num (28 + 48 * k) 4, i.num (32 + 48 * k) 4)

/-- Digest entry of section `k`. -/
def FwSlot.secDigest (i : FwSlot) (k : Nat) : List Byte := i.at_ (48 + 48 * k) 24

/-- A section's digest matches its entry, and it fits its region. -/
def FwSlot.sectionOk (i : FwSlot) (k : Nat) : Bool :=
  let t := i.section_ k
  decide (t.2.1 + t.2.2 ≤ i.size) && shake24 (i.at_ t.2.1 t.2.2) == i.secDigest k
    && !(t.1 == 3 && decide (32768 < t.2.2)) && !(t.1 == 4 && decide (4096 < t.2.2))

/-- Where the sections end: the signer's certificate begins there (log 12). -/
def FwSlot.secEnd (i : FwSlot) : Nat :=
  (List.range i.nsec).foldl (fun e k => max e ((i.section_ k).2.1 + (i.section_ k).2.2)) (24 + 48 * i.nsec)

/-- Bytes of an ML-DSA-65 signature (Table 15-7). -/
def sigBytes : Nat := 3309

/-- The signer's certificate, between the sections and the signature. -/
def FwSlot.cert (i : FwSlot) : List Byte := i.at_ i.secEnd (i.size - sigBytes - i.secEnd)

/-- The signature, at the end of the image. -/
def FwSlot.sig (i : FwSlot) : List Byte := i.at_ (i.size - sigBytes) sigBytes

/-- The code of a variant (Table 13-2a). -/
def Variant.code : Variant → Nat
  | .f => 1
  | .m => 2
  | .t => 3

/-- Length range of an image (Table 15-6). -/
def imageLenOk (n : Nat) : Bool := decide (4096 ≤ n ∧ n ≤ 6291456)

/-- The image is for this variant and not below the anti-rollback counter (R407). -/
def FwSlot.allowed (i : FwSlot) (v : Variant) (counter : Nat) : Bool :=
  (i.num 18 1).testBit v.code && decide (counter ≤ i.svn) && decide (i.svn ≤ 64)

/-- The header is well formed, allowed, and signed under the Beldeni root (R407). -/
def FwSlot.trusted (i : FwSlot) (v : Variant) (counter : Nat) : Bool :=
  i.at_ 0 8 == ascii "GL4FWIM1" && imageLenOk i.size && i.num 8 4 == i.size && decide (1 ≤ i.nsec ∧ i.nsec ≤ 8)
    && i.allowed v counter
    && Config.chains i.cert && Config.mldsaVerify (Config.certKey i.cert) (ascii "GL4FW") i.head i.sig

/-- The image verifies (R407). -/
def FwSlot.verifies (i : FwSlot) (v : Variant) (counter : Nat) : Bool := i.trusted v counter && (List.range i.nsec).all i.sectionOk

/-- The Markhor section of the image verifies: there is one, and its digest matches (R404, R407). -/
def FwSlot.bootOk (i : FwSlot) (v : Variant) (counter : Nat) : Bool :=
  let isM := fun k => (i.section_ k).1 == 1
  i.trusted v counter && (List.range i.nsec).any isM && (List.range i.nsec).all (fun k => !isM k || i.sectionOk k)

/-- The bytes of the first section of a type; none without one. -/
def FwSlot.sectionBytes (i : FwSlot) (t : Nat) : List Byte :=
  match (List.range (min 8 i.nsec)).find? (fun k => (i.section_ k).1 == t) with
  | some k => i.at_ (i.section_ k).2.1 (i.section_ k).2.2
  | none => []

/-- The digest of the Markhor section, none without one. -/
def FwSlot.markhor (i : FwSlot) : Option (List Byte) :=
  ((List.range (min 8 i.nsec)).find? (fun k => (i.section_ k).1 == 1)).map i.secDigest

/-- The slot marked active. -/
def Nor.active (n : Nor) : FwSlot := if n.active1 then n.slot1 else n.slot0

/-- The slot not marked active. -/
def Nor.inactive (n : Nor) : FwSlot := if n.active1 then n.slot0 else n.slot1

/-- The inactive slot replaced. -/
def Nor.setInactive (n : Nor) (i : FwSlot) : Nor := if n.active1 then { n with slot0 := i } else { n with slot1 := i }

/-- An empty slot. -/
def emptySlot : FwSlot := { bytes := [], size := 0, staged := false, factory := false }

/-! Staging and activation (R408, R409). -/

/-- Why a chunk is refused: 0 its offset, 4 the image length, as offsets in the request (R408). -/
def Chip.stageRefusal (c : Chip) (mctp : Bool) (off len chunk : Nat) : Option Nat :=
  if !imageLenOk len then some 4
  else if len < off + chunk then some 0
  else if off = 0 then none
  else match c.pkg.session with
    | some s => if s.mctp != mctp then some 0 else if s.len ≠ len then some 4 else if s.have_ ≠ off then some 0 else none
    | none => some 0

/-- A chunk is staged; the last one triggers verification (R408). The second result is the status. -/
def Chip.stageChunk (c : Chip) (mctp : Bool) (off len : Nat) (chunk : List Byte) : Chip × BitVec 16 :=
  let base := if off = 0 then [] else c.nor.inactive.bytes
  let slot : FwSlot := { bytes := wrBytes base off chunk, size := len, staged := false, factory := false }
  let have_ := off + chunk.length
  if have_ < len then
    ({ c with nor := c.nor.setInactive slot, pkg := { c.pkg with session := some { mctp := mctp, len := len, have_ := have_ } } }, stOk)
  else
    let ok := slot.verifies c.fuse.variant c.nor.antiRollback.toNat
    ({ c with
      nor := c.nor.setInactive (if ok then { slot with staged := true } else emptySlot)
      pkg := { c.pkg with session := none } }, if ok then stOk else stAuth)

/-- The staged image verifies again (R409). -/
def Chip.canActivate (c : Chip) : Bool :=
  c.nor.inactive.staged && c.nor.inactive.verifies c.fuse.variant c.nor.antiRollback.toNat

/-- The staged image is marked active, PKG_FWSTAT is PENDING, and a package reset is ordered (R409, R410). -/
def Chip.activate (c : Chip) (mctp : Bool) (tag : Word) (ctag : Option Word) : Chip :=
  let i := c.nor.inactive
  let fresh := match i.markhor with
    | some d => d != c.pkg.markhorDigest
    | none => false
  let n := c.nor.setInactive { i with staged := false }
  ({ c with
    nor := { n with active1 := !n.active1 }
    pkg := { c.pkg with fwResult := 1, fwSource := mctp, fwTag := tag, fwCtag := ctag, markhorPending := c.pkg.markhorPending || fresh } }).orderPackage 2

/-- FW_STAGE and FW_ACTIVATE of the mailbox, and FW_ACTIVATE of MCTP, are legal (Table 10-8b); in recovery mode
they are too (R404). -/
def Chip.fwLegal (c : Chip) : Bool :=
  match c.mbx.dstate with
  | .ready => true
  | .degraded => !c.anyCtx
  | .quarantined => true
  | .off => c.pkg.recovery
  | _ => false

/-- PKG_FWSTAT (Table 15-9). -/
def Chip.fwStat (c : Chip) : Word :=
  fld c.pkg.fwResult.toNat 28 ||| flag c.pkg.markhorPending 27 ||| flag c.pkg.fwSource 26 ||| flag c.nor.active1 25
    ||| flag c.nor.inactive.staged 24

/-! The defect list (Table 13-5). -/

/-- Bytes of an entry. -/
def Defect.bytes (d : Defect) : List Byte :=
  [d.kind, d.test] ++ leBytes 2 d.site.toNat ++ leBytes 4 d.boot.toNat ++ leBytes 2 d.detail.toNat ++ [d.fuse]
    ++ List.replicate 5 0

/-- Bytes 0 to 15 of the list. -/
def Nor.defectHead (n : Nor) : List Byte :=
  ascii "GL4DEFL1" ++ leBytes 2 n.defects.length ++ [0, 0] ++ leBytes 4 n.boots.toNat

/-- DIGEST of the list. -/
def Nor.defectDigest (n : Nor) : List Byte := shake24 (n.defectHead ++ n.defects.flatMap (·.bytes))

/-- The list in force as bytes. -/
def Nor.defectBytes (n : Nor) : List Byte :=
  n.defectHead ++ n.defectDigest ++ List.replicate 24 0 ++ n.defects.flatMap (·.bytes)

/-! The fuse map (Table 13-2a) as bits. -/

/-- FMAX of a core site: fused (f - 700 MHz) / 5 MHz. -/
def Fuse.fmaxOf (f : Fuse) (n : Nat) : Nat := (f.field (fun k => tget 0 k.fmax n)).toNat

/-- A field of `w` bits of each site below `n`, packed from bit 0 up. -/
def packSites (w : Nat) (f : Nat → Nat) : Nat → Nat
  | 0 => 0
  | n + 1 => packSites w f n + f n * 2 ^ (w * n)

/-- The fuse map as one number, its fields in the order of Table 13-2a from bit 0 up (log 12). -/
def Fuse.mapBits (f : Fuse) : Nat :=
  f.code.toNat + f.stackEn.toNat * 2 ^ 4 + f.linkEn.toNat * 2 ^ 28 + f.maxcap.toNat * 2 ^ 34
    + packSites 2 f.coreState 2448 * 2 ^ 42 + packSites 2 f.sgaState 1632 * 2 ^ 4938 + packSites 5 f.fmaxOf 2448 * 2 ^ 8202

/-- Its bytes. -/
def Fuse.mapBytes (f : Fuse) : List Byte := leBytes 2556 f.mapBits

/-! Attestation (R412, R413). -/

/-- The beacon configuration without the key. -/
def BeaconCfg.bytes (b : BeaconCfg) : List Byte :=
  leBytes 16 b.dest1.toNat ++ leBytes 16 b.dest2.toNat ++ leBytes 16 b.unicast.toNat ++ [b.hop, BitVec.ofNat 8 (b2n b.keyed)]

/-- The configuration record (R413). -/
def Chip.configRecord (c : Chip) : List Byte :=
  ([c.rte.id.val, c.frm.ctl.val] ++ (List.range 128).map c.frm.mapWord
    ++ [c.pwr.ctl.val, c.pwr.hardcap.setWidth 32, c.pwr.theta0.setWidth 32, c.flt.ctl.val, c.mbx.ctl.val]
    ++ allLinks.map (fun l => if c.fuse.linkOn l.val then (c.link l).ctl.val else 0)).flatMap wordBytes
    ++ c.nor.beacon.bytes

/-- Bytes 0 to 255 of a report (Table 15-7). -/
def Chip.reportBody (c : Chip) (nonce : List Byte) : List Byte :=
  let staged := if c.nor.inactive.staged then c.nor.inactive.fwid else List.replicate 24 0
  padTo (ascii "GL4ATST1" ++ leBytes 4 (3572 + Config.chain.length) ++ leBytes 4 c.nor.boots.toNat ++ padTo nonce 32 ++ devId
    ++ leBytes 8 c.now.toNat
    ++ [BitVec.ofNat 8 c.mbx.dstate.code, BitVec.ofNat 8 c.fuse.variant.code, BitVec.ofNat 8 c.nor.antiRollback.toNat
       , BitVec.ofNat 8 c.pkg.fwResult.toNat]
    ++ leBytes 4 c.pkg.fwVersion.toNat ++ padTo c.pkg.fwId 24 ++ padTo c.pkg.markhorDigest 24 ++ shake24 c.fuse.mapBytes
    ++ c.nor.defectDigest ++ shake24 c.configRecord ++ staged) 256

/-- A report (R412): body, signature, certificate chain. -/
def Chip.report (c : Chip) (nonce : List Byte) : List Byte :=
  let b := c.reportBody nonce
  b ++ padTo (Config.mldsaSign (ascii "GL4ATTEST") b) sigBytes ++ [0, 0, 0] ++ leBytes 4 Config.chain.length ++ Config.chain

/-- What ATTEST answers: bytes, or the field that is out of range (0 the nonce, 32 the offset), and the report
that the interface keeps. -/
def Chip.attestWith (c : Chip) (last : Option (List Byte)) (nonce : List Byte) (off n : Nat) :
    Option (List Byte) × Nat × Option (List Byte) :=
  if off = 0 then
    let r := c.report nonce
    (some (r.take n), 0, some r)
  else match last with
    | none => (none, 32, last)
    | some r =>
      if slice r 16 32 != padTo nonce 32 then (none, 0, last)
      else (paged r off n, 32, last)

/-! Telemetry (Table 15-5). -/

/-- The hottest effective core temperature and its core, of the cores in service. -/
def Chip.hotCore (c : Chip) : Option (Int × Nat) :=
  (c.cores.filter (fun p => p.2.state.usable)).foldl (fun (b : Option (Int × Nat)) p =>
    match b with
    | some (t, n) => if t < p.2.therm.eff.toInt then some (p.2.therm.eff.toInt, p.1) else some (t, n)
    | none => some (p.2.therm.eff.toInt, p.1)) none

/-- PWR_SLACK (Table 14-8): 0x8000 when there is none. -/
def Ctx.slackWord (x : Ctx) : Word :=
  let mean : BitVec 16 := (x.meanSlack.map (BitVec.ofInt 16)).getD 0x8000
  let last : BitVec 16 := match x.slackLog.head? with
    | some (some v) => BitVec.ofInt 16 v
    | _ => 0x8000
  mean ++ last

/-- A temperature as two bytes, 0x8000 when there is none. -/
def tempBytes (t : Option Int) : List Byte := match t with
  | some v => leBytes 2 (BitVec.ofInt 16 v).toNat
  | none => leBytes 2 0x8000

/-- The telemetry record. -/
def Chip.telemetryBytes (c : Chip) : List Byte :=
  leBytes 8 c.now.toNat ++ [BitVec.ofNat 8 c.mbx.dstate.code, BitVec.ofNat 8 (b2n c.mbx.activeB + 2 * b2n c.mbx.synced)]
    ++ leBytes 2 c.pwr.force ++ leBytes 2 c.pwr.setCap ++ leBytes 2 c.pwr.mean.toNat
    ++ tempBytes c.thm.hs ++ tempBytes (some c.thm.tin) ++ tempBytes (c.hotCore.map (·.1))
    ++ [BitVec.ofNat 8 c.pwr.limit.toNat, BitVec.ofNat 8 c.mbx.shed.toNat]
    ++ leBytes 2 (ctxMask (fun x => (c.ctx x).state != .none)).toNat ++ leBytes 2 (ctxMask (fun x => (c.ctx x).state == .held)).toNat
    ++ leBytes 4 c.flt.beaconSeq.toNat ++ leBytes 2 c.thm.airflow.toNat ++ List.replicate 30 0
    ++ allCtxs.flatMap (fun x => wordBytes (c.ctx x).slackWord)

/-! The management port (R397-R400). -/

/-- An address of the package. -/
def Chip.ownAddress (c : Chip) (a : BitVec 128) : Bool :=
  a == linkLocal || (c.unicastUsed && a == c.nor.beacon.unicast)

/-- The port receives: the entry is in range, the link is up, and duplicate address detection has not found the link-local address
in use, which would disable IP on it (R397, log 130). -/
def Chip.portUp (c : Chip) : Bool := c.pkg.entryIn && c.pkg.mgmtUp && !c.pkg.dupLocal

/-- A keyed request with a valid tag (R399, R400): sequence number, OP, INDEX, OFFSET. -/
def Chip.request (c : Chip) (p : List Byte) : Option (Word × Nat × Nat × Nat) :=
  let body := p.take 48
  if c.nor.beacon.keyed && p.length == 64 && p.take 4 == ascii "GL4B" && byteAt p 4 == 1 && byteAt p 5 == 3 && byteAt p 7 == 1
      && byteAt p 33 == 0 && slice p 40 8 == List.replicate 8 0 && slice p 48 16 == c.mgmtTag body then
    some (BitVec.ofNat 32 (leAt p 20 4), leAt p 32 1, leAt p 34 2, leAt p 36 4)
  else none

/-- A keyed response goes to the request's source address and port, from the address that was asked (R400). -/
def Chip.mgmtRespond (c : Chip) (src : Peer) (seq : Word) (status : BitVec 16) (data : List Byte) : Chip :=
  let head := c.mgmtHeader 2 0 seq ++ leBytes 2 status.toNat ++ leBytes 2 data.length ++ data
  (c.emit (c.outbound src.sentTo src.addr src.port (head ++ c.mgmtTag head))).modPkg (fun p => { p with served := p.served + 1 })

/-- A datagram is dropped silently and counted. -/
def Chip.dropDatagram (c : Chip) : Chip := c.modPkg (fun p => { p with mgmtDrop := satInc p.mgmtDrop 1 })

/-- A page of an object, or LENGTH_RANGE. -/
def Chip.respondPage (c : Chip) (src : Peer) (seq : Word) (obj : Option (List Byte)) (off : Nat) : Chip :=
  match obj with
  | none => c.mgmtRespond src seq stRange []
  | some b => match paged b off 1024 with
    | none => c.mgmtRespond src seq stRange []
    | some d => c.mgmtRespond src seq stOk d

/-- A datagram to port 47,460 of an address of the package: served when it is a valid keyed request within 256 in this second, else dropped. -/
def Chip.datagram (c : Chip) (src : Peer) (p : List Byte) : Chip :=
  if !c.portUp || !c.ownAddress src.sentTo then c
  else match c.request p with
    | none => c.dropDatagram
    | some (seq, op, index, off) =>
      if 256 ≤ c.pkg.served then c.dropDatagram
      else if op = 1 then c.respondPage src seq ((c.flt.dossierAt index).map (·.bytes)) off
      else if op = 2 then c.respondPage src seq (some c.telemetryBytes) off
      else c.dropDatagram

/-- DOSSIER_READ. -/
def execDossierRead (src : Peer) (payload : List Byte) (s : State) : Answer := s.lift (fun c => c.datagram src payload)

/-- STATE_READ. -/
def execStateRead (src : Peer) (payload : List Byte) (s : State) : Answer := s.lift (fun c => c.datagram src payload)

/-- MGMT_DATAGRAM_DROP. -/
def execMgmtDatagramDrop (src : Peer) (payload : List Byte) (s : State) : Answer := s.lift (fun c => c.datagram src payload)

/-- NEIGHBOR_SOLICITATION: answered for the package's addresses (R397). -/
def execNeighborSolicitation (target : BitVec 128) (s : State) : Answer :=
  s.lift (fun c => if c.portUp && c.ownAddress target then c.emit (.advertisement target) else c)

/-- ECHO_REQUEST. -/
def execEchoRequest (dst : BitVec 128) (payload : List Byte) (s : State) : Answer :=
  s.lift (fun c => if c.portUp && c.ownAddress dst then c.emit (.echoReply dst payload) else c)

/-- A Neighbor Solicitation for an address of its own, which duplicate address detection sends (R397). -/
def Chip.probe (c : Chip) (a : BitVec 128) : Chip := c.emit (.probe a)

/-- The management port's link changes: on coming up, auto-negotiation and duplicate address detection of the package's addresses
run (R397). -/
def portLinkEffect (l : PortLink) (c : Chip) : Chip :=
  let on := l.up && c.pkg.entryIn
  let u := c.nor.beacon.unicast
  let c1 := c.modPkg (fun p => { p with
    mgmtUp := on, mgmtAuto := on, dupLocal := on && l.dupLocal, dupUnicast := on && u != 0 && l.dupUnicast })
  let c2 := if on then c1.probe linkLocal else c1
  if on && u != 0 then c2.probe u else c2

/-- MGMT_PORT_LINK. -/
def execMgmtPortLink (up : PortLink) (s : State) : Answer := s.lift (portLinkEffect up)

/-! I3C and MCTP (R401-R403). -/

/-- ENTDAA. -/
def execEntdaa (addr : BitVec 7) (s : State) : Answer :=
  s.lift (fun c => c.whenOn (·.modPkg (fun p => { p with i3cAddr := some addr })))

/-- The response to an MCTP control message: message type 0, the command's code, the completion code and the rest (R401, log 127). -/
def Chip.control (c : Chip) (code : Byte) (body : List Byte) : Chip := c.emit (.mctp ([0, code] ++ body))

/-- SET_ENDPOINT_ID: operations 0 and 1 set the identifier; the null and the broadcast identifier, and the operations that ask for
a static identifier or a discovered flag, of which the endpoint has none, are answered with invalid data (DSP0236, log 127). -/
def setEidEffect (e : SetEid) (c : Chip) : Chip :=
  if e.eid = 0 ∨ e.eid = 0xFF ∨ 2 ≤ e.op.toNat then c.control 1 [2]
  else (c.modPkg (fun p => { p with eid := some e.eid })).control 1 [0, 0, e.eid, 0]

/-- SET_ENDPOINT_ID. -/
def execSetEndpointId (eid : SetEid) (s : State) : Answer := s.lift (fun c => c.whenOn (setEidEffect eid))

/-- GET_ENDPOINT_ID. -/
def execGetEndpointId (s : State) : Answer :=
  s.lift (fun c => c.whenOn (fun c => c.control 2 [0, c.pkg.eid.getD 0, 0, 0]))

/-- GET_MCTP_VERSION_SUPPORT: one version, whose number the spec does not state (log 127). -/
def versionEffect (c : Chip) : Chip := c.freeWord.2.control 4 ([0, 1] ++ wordBytes c.freeWord.1)

/-- GET_MCTP_VERSION_SUPPORT. -/
def execGetMctpVersionSupport (s : State) : Answer := s.lift (fun c => c.whenOn versionEffect)

/-- GET_MESSAGE_TYPE_SUPPORT: vendor-defined PCI. -/
def execGetMessageTypeSupport (s : State) : Answer := s.lift (fun c => c.whenOn (fun c => c.control 5 [0, 1, 0x7E]))

/-- A vendor-defined response: message type 0x7E, the PCI vendor ID with its high byte first (DSP0236), and the fields of R403. -/
def Chip.vendor (c : Chip) (cmd : Byte) (tag : BitVec 16) (status : BitVec 16) (data : List Byte) : Chip :=
  c.emit (.mctp ([0x7E, Config.vendorId.extractLsb' 8 8, Config.vendorId.setWidth 8, cmd, 0] ++ leBytes 2 tag.toNat ++ leBytes 2 status.toNat ++ data))

/-- TELEMETRY. -/
def execTelemetry (tag : BitVec 16) (s : State) : Answer :=
  s.lift (fun c => c.whenOn (fun c => c.vendor 1 tag stOk c.telemetryBytes))

/-- INLET (R376). -/
def execInlet (tag tin airflow : BitVec 16) (s : State) : Answer :=
  s.lift (fun c => c.whenOn (fun c =>
    (c.modThm (fun t => { t with inletValid := true, inlet := tin, airflow := airflow })).vendor 2 tag stOk []))

/-- ATTEST over MCTP: the interface keeps its own report (R412). -/
def mctpAttestEffect (tag : BitVec 16) (nonce : List Byte) (off : Word) (c : Chip) : Chip :=
  let r := c.attestWith c.pkg.reportMctp (padTo nonce 32) off.toNat 1024
  let c1 := c.modPkg (fun p => { p with reportMctp := r.2.2 })
  match r.1 with
  | some d => c1.vendor 3 tag stOk d
  | none => c1.vendor 3 tag stRange []

/-- MCTP_ATTEST. -/
def execMctpAttest (tag : BitVec 16) (nonce : List Byte) (off : Word) (s : State) : Answer :=
  s.lift (fun c => c.whenOn (mctpAttestEffect tag nonce off))

/-- FW_STAGE over MCTP: legal in every state (R408). A chunk has at most 1,024 bytes (Table 15-4); a longer one is answered with
LENGTH_RANGE (log 40). -/
def mctpStageEffect (tag : BitVec 16) (off len : Word) (chunk : List Byte) (c : Chip) : Chip :=
  if 1024 < chunk.length then c.vendor 4 tag stRange [] else
  match c.stageRefusal true off.toNat len.toNat chunk.length with
  | some _ => c.vendor 4 tag stRange []
  | none =>
    let r := c.stageChunk true off.toNat len.toNat chunk
    r.1.vendor 4 tag r.2 []

/-- MCTP_FW_STAGE. -/
def execMctpFwStage (tag : BitVec 16) (off len : Word) (chunk : List Byte) (s : State) : Answer :=
  s.lift (fun c => c.whenOn (mctpStageEffect tag off len chunk))

/-- FW_ACTIVATE over MCTP (R403, R409). -/
def mctpActivateEffect (tag : BitVec 16) (c : Chip) : Chip :=
  if !c.fwLegal then c.vendor 5 tag stConflict []
  else if c.canActivate then (c.activate true (tag.setWidth 32) none).vendor 5 tag stOk []
  else c.vendor 5 tag stAuth []

/-- MCTP_FW_ACTIVATE. -/
def execMctpFwActivate (tag : BitVec 16) (s : State) : Answer := s.lift (fun c => c.whenOn (mctpActivateEffect tag))

/-- DOSSIER_READ over MCTP. -/
def mctpDossierEffect (tag index : BitVec 16) (off : Word) (c : Chip) : Chip :=
  match (c.flt.dossierAt index.toNat).bind (fun d => paged d.bytes off.toNat 1024) with
  | some b => c.vendor 6 tag stOk b
  | none => c.vendor 6 tag stRange []

/-- MCTP_DOSSIER_READ. -/
def execMctpDossierRead (tag index : BitVec 16) (off : Word) (s : State) : Answer :=
  s.lift (fun c => c.whenOn (mctpDossierEffect tag index off))

/-- BEACON_CFG: stored in the NOR (Table 15-4); the hop limit is 1 to 255. With the port up, duplicate address detection asks for
the new unicast address (R397). -/
def beaconCfgEffect (tag : BitVec 16) (b : BeaconCfg) (dup : Bool) (c : Chip) : Chip :=
  if b.hop = 0 then c.vendor 7 tag stRange []
  else
    let asks := c.portUp && b.unicast != 0
    let c1 := { c with nor := { c.nor with beacon := b } }.modPkg (fun p => { p with dupUnicast := asks && dup })
    (if asks then c1.probe b.unicast else c1).vendor 7 tag stOk []

/-- BEACON_CFG. -/
def execBeaconCfg (tag : BitVec 16) (d1 d2 : BitVec 128) (unicast : Unicast) (hop : Byte) (key : BitVec 256) (s : State) : Answer :=
  s.lift (fun c => c.whenOn
    (beaconCfgEffect tag { dest1 := d1, dest2 := d2, unicast := unicast.addr, hop := hop, key := key } unicast.dup))

/-! The PCI Express endpoint and MSI-X (R394, R395). -/

/-- A DW of the function's configuration space, where the spec says what it holds (R390): identity, Command, class code, a Type 0
header of one function, and the three 64-bit BARs, of which BAR4 alone is prefetchable. No row of the table is a configuration
request (log 129). -/
def Pkg.configDw (p : Pkg) (i : Nat) : Word :=
  let low := fun (b : Dword) (flags : Word) => (b.setWidth 32 &&& 0xFFFFFFF0) ||| flags
  let high := fun (b : Dword) => b.extractLsb' 32 32
  match i with
  | 0 => Config.deviceId ++ Config.vendorId
  | 1 => (0x0010 : BitVec 16) ++ p.pcie.command
  | 2 => (0x120000 : BitVec 24) ++ Config.revisionId
  | 4 => low p.pcie.bar0 4
  | 5 => high p.pcie.bar0
  | 6 => low p.pcie.bar2 4
  | 7 => high p.pcie.bar2
  | 8 => low p.pcie.bar4 12
  | 9 => high p.pcie.bar4
  | _ => 0

/-- PCIE_LINK_LOSS: configuration space returns to its reset values, and nothing else changes; the endpoint stays enabled, so that
the link can train again (R395, log 35). -/
def pcieLossEffect (c : Chip) : Chip :=
  (c.setBar4Size 6).modPkg (fun p => { p with pcie := PcieCfg.zero, aer := false, msixEn := false })

/-- PCIE_LINK_LOSS. -/
def execPcieLinkLoss (s : State) : Answer := s.lift pcieLossEffect

/-- MSIX_MESSAGE: a vector with its pending bit set, or with events merged, sends once it can (R394). -/
def msixEffect (v : Fin 8) (c : Chip) : Chip :=
  if (bit c.pkg.pba v.val || bit c.pkg.merge v.val) && c.pkg.canSend v.val && !c.vectorBusy v.val then c.sendVector v.val else c

/-- MSIX_MESSAGE. -/
def execMsixMessage (v : Fin 8) (s : State) : Answer := s.lift (msixEffect v)

/-- A write of PKG_IRQ_STATUS: a bit written 1 is cleared and its vector re-armed (R394). -/
def Chip.writeIrqStatus (c : Chip) (a : RegAlias) (d : Word) : Chip :=
  let r := w1cWord a 7 c.pkg.irqStatus d
  (c.modPkg (fun p => { p with irqStatus := r.1 })).refuse (aliasOffset a 0x24) (causeIf r.2 cRv)

/-- PKG_IRQ_STATUS_CLEAR. -/
def execPkgIrqStatusClear (a : RegAlias) (d : Word) (s : State) : Answer := s.lift (fun c => c.host (fun c => c.writeIrqStatus a d))

end Sys2Proof.Machine
end

