-- ==== Sys2Proof/Machine/Bringup.lean ====
section
/-! DEFINITION. Bring-up (chapter 13): the ten steps, the start-up test and its reconciliation, firmware load,
final state; and the two events of AIRFLOW_FAIL, which bring-up waits for (R345). -/
namespace Sys2Proof.Machine

/-- Bring-up changed. -/
def Chip.modBru (c : Chip) (f : Bru → Bru) : Chip := { c with bru := f c.bru }

/-- A bit of BRU_ERR. -/
def Chip.bruErr (c : Chip) (b : Nat) : Chip := c.modBru (fun k => { k with err := setBit k.err b })

/-- RESULT codes (Table 13-9). -/
def bruPass : Nat := 1
/-- DEGRADED. -/
def bruDegraded : Nat := 2
/-- QUARANTINE. -/
def bruQuarantine : Nat := 3
/-- FAIL. -/
def bruFail : Nat := 4

/-- Result and device time of step `k`. -/
def Bru.stepOf (b : Bru) (k : Nat) : BruStep := tget { result := 0, ms := 0 } b.steps k

/-- The step table with an entry for step `k`. -/
def Bru.putStep (b : Bru) (k : Nat) (v : BruStep) : Bru := { b with steps := tset { result := 0, ms := 0 } b.steps k v }

/-- Maximum time of step `k` in ms (Table 13-1). -/
def bruMax (warm : Bool) (k : Nat) : Nat :=
  (if warm then [150, 20, 10, 40, 250, 1800, 400, 700, 10, 100] else [150, 20, 10, 100, 600, 8000, 400, 2010, 10, 100]).getD (k - 1) 0

/-- Markhor sets the package QUARANTINED (R337): the warm record becomes invalid (R359). -/
def Chip.quarantinePackage (c : Chip) (cause : Nat) : Chip :=
  let c1 := { c with nor := { c.nor with warm := none } }.liftTerm (fun c => c.setDState .quarantined)
  c1.event { code := 0x60, severity := 2, arg := cause }

/-- A stack port loses training: outside a reset its error bit is set (Table 5-9); one that does not retrain in step 4 of Table 5-5
fails its stack, and the package is QUARANTINED (R150, R337, log 119). -/
def portTrainingLostEffect (s : StackId) (c : Chip) : Chip :=
  let k := c.stack s
  if k.state = .up ∧ c.flt.rphase = 0 then c.modStack s (fun k => { k with err := setBit k.err 0 })
  else if k.state = .training ∧ c.flt.rphase = 4 then
    (c.modStack s (fun k => { k with state := .failed, scrub := false })).quarantinePackage 1
  else c

/-- PORT_TRAINING_LOST. -/
def execPortTrainingLost (s : StackId) (st : State) : Answer := st.lift (portTrainingLostEffect s)

/-! The sequence (R341, R342, R345). -/

/-- The warm record verifies, and its digest is that of the present fuse map (R359). -/
def Chip.warmRecordOk (c : Chip) : Bool := match c.nor.warm with
  | some (d, _) => !c.nor.warmBad && d == shake24 c.fuse.mapBytes
  | none => false

/-- Step 1 takes WARM and REBUILD (R342, R359). -/
def Chip.takeMode (c : Chip) : Chip :=
  let w := c.bru.ctl.val
  let warm := bit w 6 && c.warmRecordOk && !bit w 7 && !c.bru.fromQuar
  c.modBru (fun b => { b with warm := warm, warmRefused := bit w 6 && !warm, rebuild := bit w 7, total := 0, endedAt := c.micros })

/-- Step `k` starts: the gap since the last step counts in BRU_TOTAL when the step ends (Table 13-7). Step 8 starts the training of every
enabled link, with RTE_ID as it is now (R357). -/
def Chip.startStepK (c : Chip) (k : Nat) : Chip :=
  let c1 := if k = 1 then c.takeMode else c
  let c2 := c1.modBru (fun b => { (b.putStep k { result := 0, ms := 0 }) with
    step := BitVec.ofNat 4 k, running := true, waitAir := false, gap := (c.micros - b.endedAt) / 1000
    rteId := if k = 8 then some c.rte.id.val else none })
  if k = 8 then allLinks.foldl (fun c l => c.startTraining l (!c2.bru.warm) (if c2.bru.warm then 0 else 2) false) c2 else c2

/-- The sequence goes on to RUN_TO. While AIRFLOW_FAIL is asserted steps 5 and 6 do not start. -/
def Chip.bruNext (c : Chip) : Chip :=
  let n := bits c.bru.ctl.val 3 0
  let k := c.bru.passed.toNat + 1
  if c.mbx.dstate == .bringup && !c.bru.running && decide (k ≤ n) && decide (n ≤ 10) then
    if c.pwr.airPin && (k == 5 || k == 6) then c.modBru (fun b => { b with waitAir := true }) else c.startStepK k
  else c

/-- The step in progress has passed: the next follows. The term of bring-up lifts when step 6 has passed. -/
def Chip.passStep (c : Chip) (k : Nat) : Chip :=
  let put := fun (c : Chip) => c.modBru (fun b => { b with passed := BitVec.ofNat 4 k })
  (if k = 6 then c.liftTerm put else put c).bruNext

/-- The cause of R337 when a step fails for the third time. -/
def failCause (k : Nat) : Nat := if k = 7 then 2 else 4

/-- The step in progress has failed: the third failure of some steps quarantines the package (R344). -/
def Chip.failStep (c : Chip) (k : Nat) : Chip :=
  let n := min 3 (tget 0 c.bru.fails k + 1)
  let c1 := c.modBru (fun b => { b with fails := tset 0 b.fails k n })
  if n = 3 ∧ k ≠ 2 ∧ k ≠ 8 ∧ k ≠ 9 then c1.quarantinePackage (failCause k) else c1

/-- The step in progress ends with a result after `ms`. -/
def Chip.endStep (c : Chip) (result ms : Nat) : Chip :=
  let k := c.bru.step.toNat
  let c1 := c.modBru (fun b => { (b.putStep k { result := BitVec.ofNat 3 result, ms := BitVec.ofNat 16 ms }) with
    running := false, waitAir := false, endedAt := c.micros, total := b.total + BitVec.ofNat 32 (b.gap + ms), gap := 0, rteId := none })
  if result = bruFail then c1.failStep k else c1.passStep k

/-- Step `k` is in progress and not paused. -/
def Chip.inStep (c : Chip) (k : Nat) : Bool :=
  c.mbx.dstate == .bringup && c.bru.running && decide (c.bru.step.toNat = k) && !c.bru.waitAir

/-- Step `k` ends after `ms`, carried out by `f`, which gives its result. One that takes longer than its maximum
has failed (R341). -/
def Chip.runStep (c : Chip) (k : Nat) (ms : BitVec 16) (f : Chip → Chip × Nat) : Chip :=
  if !c.inStep k then c
  else if bruMax c.bru.warm k < ms.toNat then (c.bruErr 13).endStep bruFail (bruMax c.bru.warm k)
  else
    let r := f c
    r.1.endStep r.2 ms.toNat

/-- A step that passes, or fails with an error bit. -/
def passOr (ok : Bool) (b : Nat) (c : Chip) : Chip × Nat := if ok then (c, bruPass) else (c.bruErr b, bruFail)

/-- BRU_STEP_TIMEOUT. -/
def bruTimeoutEffect (c : Chip) : Chip :=
  if c.mbx.dstate == .bringup && c.bru.running && !c.bru.waitAir then
    (c.bruErr 13).endStep bruFail (bruMax c.bru.warm c.bru.step.toNat)
  else c

/-- BRU_STEP_TIMEOUT. -/
def execBruStepTimeout (s : State) : Answer := s.lift bruTimeoutEffect

/-! AIRFLOW_FAIL (R345, R378, R438). -/

/-- AIRFLOW_FAIL_ASSERT: before power-on only the pin is known; a running step 6 pauses. -/
def airAssertEffect (c : Chip) : Chip :=
  if c.pwr.airPin then c
  else
    let c1 := (c.modPwr (fun p => { p with airPin := true })).whenOn (fun c => c.airflowFailure false)
    if c1.bru.running && c1.bru.step == 6 then c1.modBru (fun b => { b with waitAir := true }) else c1

/-- AIRFLOW_FAIL_ASSERT. -/
def execAirflowFailAssert (s : State) : Answer := s.lift airAssertEffect

/-- A step that waits for AIRFLOW_FAIL starts, or one that it paused goes on (R345). -/
def Chip.endAirWait (c : Chip) : Chip :=
  if c.bru.waitAir then (c.modBru (fun b => { b with waitAir := false })).bruNext else c

/-- AIRFLOW_FAIL_RELEASE: bring-up goes on where it waited. -/
def airReleaseEffect (c : Chip) : Chip :=
  if !c.pwr.airPin then c
  else if c.pkg.entryIn then (c.airflowEnd (fun p => { p with airPin := false })).endAirWait
  else c.modPwr (fun p => { p with airPin := false })

/-- AIRFLOW_FAIL_RELEASE. -/
def execAirflowFailRelease (s : State) : Answer := s.lift airReleaseEffect

/-! Steps 1 to 5. -/

/-- BRU_RAILS. -/
def execBruRails (ok : Bool) (ms : BitVec 16) (s : State) : Answer := s.lift (fun c => c.runStep 1 ms (passOr ok 1))

/-- Step 2: the clocks lock to the carrier of an input, which is in use from then on. -/
def clockStep (ok : Bool) (c : Chip) : Chip × Nat :=
  passOr ok 2 (if ok then { c with frm := { c.frm with srcB := c.frm.carrierInput == .b } } else c)

/-- BRU_CLOCK_LOCK. -/
def execBruClockLock (ok : Bool) (ms : BitVec 16) (s : State) : Answer := s.lift (fun c => c.runStep 2 ms (clockStep ok))

/-- Stacks of a variant (Table 13-2b). -/
def Variant.stks : Variant → BitVec 24
  | .f => 0xFFFFFF
  | .m => 0x0FF0FF
  | .t => 0xFFFFFF

/-- Links of a variant; indices 2 and 3 are YP and YN. -/
def Variant.links : Variant → BitVec 6
  | .t => 0x33
  | .f => 0x3F
  | .m => 0x3F

/-- MAXCAP of a variant. -/
def Variant.maxcap : Variant → Byte
  | .f => 160
  | .m => 150
  | .t => 140

/-- Numbers of a die that a variant has (Table 13-2b). -/
def Variant.perDie : Variant → Nat
  | .t => 960
  | .f => 1152
  | .m => 1152

/-- The fuse map keeps the rules of Table 13-2b. -/
def Fuse.consistent (f : Fuse) : Bool :=
  let sites := List.range 2448
  let on := fun die => sites.countP (fun n => coreDie n == die && !isSpareSite n && (f.coreState n == 0 || f.coreState n == 2))
  (Variant.ofCode f.code).isSome && f.stackEn == f.variant.stks && f.linkEn == f.variant.links && f.maxcap == f.variant.maxcap
    && on 0 == f.variant.perDie && on 1 == f.variant.perDie
    && sites.all (fun n => if isSpareSite n then f.coreState n == 1 || f.coreState n == 2 else f.coreState n != 1)
    && (List.range 1632).all (fun e =>
      if !f.stackOn (engStack e) then f.sgaState e == 3
      else f.sgaState e == 2 || f.sgaState e == (if engIdx e < 64 then 0 else 1))
    && sites.all (fun n => decide (f.fmaxOf n ≤ 24))

/-- A NOR record that failed its check starts empty (R354): 0 defect list, 1 pending list, 2 repair tables, 3 Fmax
table, 4 training parameters, 5 warm record. -/
def Nor.rebuild (n : Nor) (k : Fin 8) : Nor :=
  match k.val with
  | 0 => { n with defects := [] }
  | 1 => { n with pending := [], unlisted := [] }
  | 2 => { n with repairs := [], columns := [], retired := [] }
  | 3 => { n with fmax := [] }
  | 4 => { n with params := [], d2d := none, memParams := [] }
  | 5 => { n with warm := none, warmBad := false }
  | _ => n

/-- The copy of the defect list that step 3 takes: the valid one with the higher BOOTS (R353); true for the second. -/
def Nor.takesSecond (n : Nor) (bad0 bad1 : Bool) : Bool := bad0 || (!bad1 && decide (n.copy0.boots.toNat < n.copy1.boots.toNat))

/-- The defect list of a copy is in force. -/
def Nor.takeDefects (n : Nor) (second : Bool) : Nor :=
  let k := if second then n.copy1 else n.copy0
  { n with defects := k.entries, boots := k.boots }

/-- The NOR records that fail their check in both copies: those named below 6, and the defect list where 6 and 7, its two copies, are
both named. -/
def lostRecords (bad : List (Fin 8)) : List (Fin 8) :=
  (if bad.contains 6 && bad.contains 7 then [0] else []) ++ bad.filter (fun k => decide (k.val < 6))

/-- Step 3 (R346, R353, R354). `majority` says that every bit of the map had a majority of its copies when they were read; what
the majority is, the copies of State give. A warm record that fails its check is known to be bad from then on (R359). -/
def fuseNorStep (majority : Bool) (bad : List (Fin 8)) (c : Chip) : Chip × Nat :=
  let fuseOk := majority && c.fuse.consistent
  let lost := lostRecords bad
  let c1 := if fuseOk then c else c.bruErr 3
  let c2 := if lost.isEmpty then c1 else c1.bruErr 4
  if !fuseOk || (!lost.isEmpty && !c.bru.rebuild) then ({ c2 with nor := { c2.nor with warmBad := c2.nor.warmBad || lost.contains 5 } }, bruFail)
  else
    let second := c.nor.takesSecond (bad.contains 6) (bad.contains 7)
    ({ c2 with nor := lost.foldl Nor.rebuild (c2.nor.takeDefects second) }.modBru (fun b => { b with fuseRead := true, second := second }), bruPass)

/-- BRU_FUSE_NOR. -/
def execBruFuseNor (majority : Bool) (bad : List (Fin 8)) (ms : BitVec 16) (s : State) : Answer :=
  s.lift (fun c => c.runStep 3 ms (fuseNorStep majority bad))

/-- Step 4: a cold start trains, with parameters that the spec does not give (a free value), a warm one takes those stored
(R359). -/
def d2dStep (ok : Bool) (c : Chip) : Chip × Nat :=
  if !ok then passOr ok 5 c
  else if c.bru.warm then passOr ok 5 (c.modBru (fun b => { b with d2d := c.nor.d2d }))
  else passOr ok 5 (c.freeWord.2.modBru (fun b => { b with d2d := some c.freeWord.1 }))

/-- BRU_D2D_TRAINING. -/
def execBruD2dTraining (ok : Bool) (ms : BitVec 16) (s : State) : Answer := s.lift (fun c => c.runStep 4 ms (d2dStep ok))

/-- Stacks that fail: they end the step with QUARANTINE (R349). -/
def Chip.failStacks (c : Chip) (bad : List StackId) : Chip × Nat :=
  if bad.isEmpty then (c, bruPass)
  else ((bad.foldl (fun c i => c.modStack i (fun k => { k with state := .failed, scrub := false })) c).bruErr 6, bruQuarantine)

/-- The stacks that the fuses enable. -/
def Fuse.stackList (f : Fuse) : List StackId := allStacks.filter (fun i => f.stackOn i.val)

/-- The repair table of a stack is loaded into its base (R148). -/
def Chip.loadRepair (c : Chip) (i : StackId) : Chip :=
  c.modStack i (fun k => { k with
    repairRows := BitVec.ofNat 16 (tget [] c.nor.repairs i.val).length, repairCols := BitVec.ofNat 16 (tget [] c.nor.columns i.val).length
    retired := tget [] c.nor.retired i.val })

/-- A stack with more than 256 retired rows fails (R150). -/
def Chip.tooRetired (c : Chip) (i : StackId) : Bool := decide (256 < (c.stack i).retired.length)

/-- The training parameters of a stack's port: those stored in a warm start, new ones, which the spec does not give (a free
value), in a cold one (R359). -/
def Chip.trainStack (c : Chip) (i : StackId) : Chip :=
  if c.bru.warm then c.modBru (fun b => { b with memParams := tset 0 b.memParams i.val (tget 0 c.nor.memParams i.val) })
  else c.freeWord.2.modBru (fun b => { b with memParams := tset 0 b.memParams i.val c.freeWord.1 })

/-- Step 5: every enabled stack is trained and its repair table loaded. -/
def memoryStep (failed : BitVec 24) (c : Chip) : Chip × Nat :=
  let on := c.fuse.stackList
  let c1 := on.foldl (fun c i => ((c.trainStack i).modStack i (fun k => { k with state := .up, scrub := true })).loadRepair i) c
  c1.failStacks (on.filter (fun i => bit failed i.val || c1.tooRetired i))

/-- BRU_MEMORY_TRAINING. -/
def execBruMemoryTraining (failed : BitVec 24) (ms : BitVec 16) (s : State) : Answer :=
  s.lift (fun c => c.runStep 5 ms (memoryStep failed))

/-! Step 6 (R147-R149, R347-R352). -/

/-- A failing row is mapped onto a spare row, or retired where its bank's 16 spares or the 2,048 entries are used
up (R148, R149). -/
def Nor.failRow (n : Nor) (i : StackId) (row : Nat) : Nor :=
  let used := tget [] n.repairs i.val
  if used.countP (fun r => decide (r / 24576 = row / 24576)) < 16 ∧ used.length < 2048 then
    { n with repairs := tset [] n.repairs i.val (used ++ [row]) }
  else if row ∈ tget [] n.retired i.val then n
  else { n with retired := tset [] n.retired i.val (tget [] n.retired i.val ++ [row]) }

/-- A failing bit column of a bank is mapped onto a spare column group, while 4 per bank and 256 entries last. -/
def Nor.failColumn (n : Nor) (i : StackId) (bank : Nat) : Nor :=
  let used := tget [] n.columns i.val
  if used.count bank < 4 ∧ used.length < 256 then { n with columns := tset [] n.columns i.val (used ++ [bank]) } else n

/-- Row number within its stack (R131). -/
def RowTest.key (r : RowTest) : Nat := (r.column.val * 32 + r.bank.val) * 24576 + r.row.val

/-- The DRAM part of the start-up test. A reduced test retests pending rows only. -/
def Chip.testRows (c : Chip) (rows : List RowTest) (cols : List (StackId × Fin 2048)) : Chip :=
  let due := rows.filter (fun r => !c.bru.warm || decide (RowTest.key r ∈ (c.stack r.stack).pending))
  let n1 := (due.filter (·.fails)).foldl (fun n r => n.failRow r.stack (RowTest.key r)) c.nor
  let n2 := cols.foldl (fun (n : Nor) x => n.failColumn x.1 x.2.val) n1
  c.fuse.stackList.foldl (fun c i => (c.modStack i (fun k => { k with pending := [] })).loadRepair i) { c with nor := n2 }

/-- What the start-up test decides about one site. -/
structure Recon where
  nor : Nor
  off : List (Bool × Nat)
  held : Nat
  new : Nat
  fusedGood : Nat
  full : Bool
  failed : Bool

/-- A unit that failed is listed, or held off where the list is full (R350, R352). A unit held off is remembered, so that the next
start-up test tests it (log 48). -/
def Recon.list (r : Recon) (isCore : Bool) (site fuse : Nat) (t : BitVec 8) (sub : BitVec 16) : Recon :=
  let r1 := { r with off := (isCore, site) :: r.off, failed := true }
  if 1024 ≤ r.nor.defects.length then
    { r1 with held := r.held + 1, full := true, nor := { r.nor with unlisted := r.nor.unlisted ++ [(isCore, site)] } }
  else { r1 with new := r.new + 1, nor := { r.nor with defects := r.nor.defects ++
      [{ kind := if isCore then 1 else 2, test := t, site := BitVec.ofNat 16 site, boot := r.nor.boots, detail := sub
         fuse := BitVec.ofNat 8 fuse }] } }

/-- A site is in the defect list. -/
def Nor.listed (n : Nor) (isCore : Bool) (site : Nat) : Bool :=
  n.defects.any (fun d => (d.kind == 1) == isCore && d.site.toNat == site)

/-- The fate of a site (Table 13-4): `f` is its fuse state, `t` its test. -/
def Recon.site (r : Recon) (cold isCore : Bool) (site f : Nat) (t : Option SiteTest) : Recon :=
  let fails := t.any (fun x => x.test != 0)
  let code : BitVec 8 := (t.map (·.test)).getD 0
  let sub : BitVec 16 := (t.map (·.subtest)).getD 0
  let pend := decide ((isCore, site) ∈ r.nor.pending)
  let heldOff := decide ((isCore, site) ∈ r.nor.unlisted)
  if f = 3 then r
  else if f = 2 then { r with off := (isCore, site) :: r.off, fusedGood := if cold && !fails then r.fusedGood + 1 else r.fusedGood }
  else if r.nor.listed isCore site then { r with off := (isCore, site) :: r.off }
  else if pend then
    let r1 := { r with nor := { r.nor with pending := r.nor.pending.filter (fun p => p != (isCore, site)) } }
    if fails then r1.list isCore site f 9 sub else r1
  else if heldOff then
    let r1 := { r with nor := { r.nor with unlisted := r.nor.unlisted.filter (fun p => p != (isCore, site)) } }
    if fails then r1.list isCore site f code sub else r1
  else if cold && fails then r.list isCore site f code sub
  else r

/-- The reconciliation of all sites (R350). -/
def Chip.reconcile (c : Chip) (tests : List SiteTest) : Recon :=
  let cold := !c.bru.warm
  let find := fun (isCore : Bool) (n : Nat) => tests.find? (fun t => t.isCore == isCore && t.site == n)
  let r0 : Recon := { nor := { c.nor with boots := c.nor.boots + 1 }, off := [], held := 0, new := 0, fusedGood := 0, full := false, failed := false }
  let r1 := (List.range 2448).foldl (fun (r : Recon) n => r.site cold true n (c.fuse.coreState n) (find true n)) r0
  (List.range 1632).foldl (fun (r : Recon) e => r.site cold false e (c.fuse.sgaState e) (find false e)) r1

/-- FMAX of a core site in 5 MHz units above 700 MHz: the lowered value of the NOR's table, or the fused one. -/
def Chip.fmaxSite (c : Chip) (n : Nat) : Nat :=
  let v := (tget 31 c.nor.fmax n).toNat
  if v = 31 then c.fuse.fmaxOf n else v

/-- The Fmax test of a full test (R348): a core that failed at its FMAX gets the highest passing frequency less 10
MHz, at least 700 MHz. -/
def Chip.testFmax (c : Chip) (l : List (CoreId × BitVec 5)) : Chip :=
  if c.bru.warm then c
  else l.foldl (fun c p =>
    if p.2.toNat < c.fmaxSite p.1.val ∧ c.fuse.coreState p.1.val ≤ 1 ∧ ¬ c.nor.listed true p.1.val then
      { c with nor := { c.nor with fmax := tset 31 c.nor.fmax p.1.val (BitVec.ofNat 5 (p.2.toNat - 2)) } }
    else c) c

/-- A core after the test: enabled sites in service are IDLE, free spares SPARE, a number whose site is off
QUARANTINED until a spare serves it (R351). -/
def Chip.testedCore (c : Chip) (off : List (Bool × Nat)) (n : Nat) : Core :=
  let base := { Core.zero with clock := { Core.zero.clock with fmax := BitVec.ofNat 8 (140 + c.fmaxSite n) } }
  let isOff := decide ((true, n) ∈ off)
  if c.fuse.coreState n = 3 then Core.zero
  else if isSpareSite n then (if isOff then Core.zero else { base with state := .spare })
  else { base with state := if isOff then .quarantined else .idle }

/-- The same for an engine. -/
def Chip.testedEngine (c : Chip) (off : List (Bool × Nat)) (e : Nat) : Engine :=
  let isOff := decide ((false, e) ∈ off)
  if c.fuse.sgaState e = 3 then Engine.zero
  else if 64 ≤ engIdx e then (if isOff then Engine.zero else { Engine.zero with state := .spare })
  else { Engine.zero with state := if isOff then .quarantined else .idle }

/-- A table of `n` entries given by a function. -/
def tabOf {α : Type} [DecidableEq α] (d : α) (n : Nat) (f : Nat → α) : Tab α :=
  (List.range n).filterMap (fun i => if f i = d then none else some (i, f i))

/-- Spares take the numbers whose sites are off, in ascending order (R351). -/
def Chip.serveNumbers (c : Chip) : Chip :=
  let c1 := (List.range 2448).foldl (fun c n =>
    if (tget Core.zero c.cores n).state = .quarantined then (c.substituteCore (Fin.ofNat 2448 n)).1 else c) c
  (List.range 1632).foldl (fun c e =>
    if (tget Engine.zero c.engines e).state = .quarantined then (c.substituteEngine (Fin.ofNat 1632 e)).1 else c) c1

/-- A number is served by no unit. -/
def Chip.short (c : Chip) : Bool :=
  c.cores.any (fun p => p.2.state == .quarantined) || c.engines.any (fun p => p.2.state == .quarantined)

/-- What steps 6 and 7 change, as it is now. -/
def Chip.bruUndo (c : Chip) : BruUndo :=
  { nor := c.nor, stks := c.stks, cores := c.cores, engines := c.engines, fusedGood := c.bru.fusedGood, held := c.bru.held
    newEntries := c.bru.newEntries }

/-- Step 6. -/
def defectStep (sites : List SiteTest) (fmax : List (CoreId × BitVec 5)) (rows : List RowTest)
    (cols : List (StackId × Fin 2048)) (stks : BitVec 24) (c0 : Chip) : Chip × Nat :=
  let c := (c0.modBru (fun b => { b with before := some c0.bruUndo, defShown := true })).testRows rows cols
  let c1 := c.testFmax fmax
  let r := c1.reconcile sites
  let c2 := { c1 with nor := r.nor, cores := tabOf Core.zero 2448 (c1.testedCore r.off), engines := tabOf Engine.zero 1632 (c1.testedEngine r.off) }
  let c3 := c2.serveNumbers.modBru (fun b => { b with
    newEntries := BitVec.ofNat 11 r.new, held := BitVec.ofNat 32 r.held
    fusedGood := if b.warm then b.fusedGood else BitVec.ofNat 32 r.fusedGood })
  let c4 := if r.failed then c3.bruErr 7 else c3
  let c5 := if r.full then c4.bruErr 8 else c4
  let q := c5.failStacks (c5.fuse.stackList.filter (fun i =>
    (c5.stack i).state != .failed && (bit stks i.val || c5.tooRetired i)))
  (q.1, if q.2 = bruQuarantine then bruQuarantine else if c5.short then bruDegraded else bruPass)

/-- BRU_DEFECT_TEST. -/
def execBruDefectTest (sites : List SiteTest) (fmax : List (CoreId × BitVec 5)) (rows : List RowTest)
    (cols : List (StackId × Fin 2048)) (stks : BitVec 24) (ms : BitVec 16) (s : State) : Answer :=
  s.lift (fun c => c.runStep 6 ms (defectStep sites fmax rows cols stks))

/-! Step 7 (R355, R356). -/

/-- A slot verifies (R407). Whether the digests, certificate and signature of what was delivered verify, the operand says (log 4);
its variant bit and its SVN are checked as those of any image. -/
def Chip.slotOk (c : Chip) (i : FwSlot) (delivered : Bool) : Bool :=
  let v := c.fuse.variant
  let n := c.nor.antiRollback.toNat
  if i.factory then delivered && i.allowed v n else i.verifies v n

/-- The Markhor section of a slot verifies (R404). -/
def Chip.bootOk (c : Chip) (i : FwSlot) (delivered : Bool) : Bool :=
  let v := c.fuse.variant
  let n := c.nor.antiRollback.toNat
  if i.factory then delivered && i.allowed v n else i.bootOk v n

/-- A unit whose firmware digest did not match twice: its site is listed with TEST 7, and a spare serves its
number (R356). -/
def Chip.firmwareBad (c : Chip) (u : UnitId) : Chip :=
  let one := fun (c : Chip) (isCore : Bool) (site f : Nat) =>
    let r0 : Recon := { nor := c.nor, off := [], held := 0, new := 0, fusedGood := 0, full := false, failed := false }
    let r := r0.list isCore site f 7 0
    let c1 := ({ c with nor := r.nor }.modBru (fun b => { b with
      newEntries := b.newEntries + BitVec.ofNat 11 r.new, held := b.held + BitVec.ofNat 32 r.held })).bruErr 7
    if r.full then c1.bruErr 8 else c1
  match u with
  | .core n =>
    let k := c.core n
    if !k.state.usable then c
    else
      let r := (one c true (k.site n.val) (c.fuse.coreState (k.site n.val))).substituteCore n
      let c1 := match k.servedBy with
        | some old => r.1.modCore (Fin.ofNat 2448 old.toNat) (fun q => { q with state := .none, serves := none })
        | none => r.1
      if r.2 then c1 else c1.modCore n (fun q => { q with state := .quarantined })
  | .engine e =>
    let k := c.engine e
    if !k.state.usable then c
    else
      let r := (one c false (k.site e.val) (c.fuse.sgaState (k.site e.val))).substituteEngine e
      let c1 := match k.servedBy with
        | some old => r.1.modEngine (Fin.ofNat 1632 (68 * engStack e.val + old.toNat)) (fun q => { q with state := .none, serves := none })
        | none => r.1
      if r.2 then c1 else c1.modEngine e (fun q => { q with state := .quarantined })

/-- Step 7. -/
def firmwareStep (activeOk otherOk startA startB : Bool) (bad : List UnitId) (c : Chip) : Chip × Nat :=
  let useActive := c.slotOk c.nor.active activeOk
  if !useActive && !c.slotOk c.nor.inactive otherOk then
    ((c.bruErr 9).modPkg (fun p => { p with fwResult := if p.fwResult = 1 then 4 else p.fwResult }), bruFail)
  else if !startA && !startB then (c.bruErr 10, bruFail)
  else
    let i := if useActive then c.nor.active else c.nor.inactive
    let c1 := (c.modBru (fun b => { b with before7 := some c.bruUndo })).modPkg (fun p => { p with
      fwVersion := BitVec.ofNat 32 (i.num 12 4), fwSvn := BitVec.ofNat 8 i.svn, fwId := i.fwid, fwRaise := (i.num 17 1).testBit 0
      fwCore := i.sectionBytes 3, fwSga := i.sectionBytes 4
      fwResult := if p.fwResult = 1 then (if useActive then 2 else 3) else p.fwResult })
    let c2 := { c1 with mbx := { c1.mbx with
      fwRun := true, activeB := !startA, unitA := { running := startA, failed := !startA }
      unitB := { running := startB, failed := !startB } } }
    let c3 := { bad.foldl Chip.firmwareBad c2 with mem := { (bad.foldl Chip.firmwareBad c2).mem with ilvMap := true } }.broadcast
    if startA && startB then (c3, if c3.short then bruDegraded else bruPass) else (c3.bruErr 10, bruDegraded)

/-- BRU_FIRMWARE_LOAD. -/
def execBruFirmwareLoad (activeOk otherOk startA startB : Bool) (bad : List UnitId) (ms : BitVec 16) (s : State) : Answer :=
  s.lift (fun c => c.runStep 7 ms (firmwareStep activeOk otherOk startA startB bad))

/-! Steps 8 to 10 (R357, R358, R411). -/

/-- Step 8: a link that is not UP at 16 lanes makes it DEGRADED. -/
def linkStep (c : Chip) : Chip × Nat :=
  if allLinks.any (fun l => c.fuse.linkOn l.val && ((c.link l).state != .up || decide ((c.link l).width < 16))) then
    (c.bruErr 11, bruDegraded)
  else (c, bruPass)

/-- No enabled link is in an attempt: the training of step 8 has ended (R357). -/
def Chip.linksTried (c : Chip) : Bool := allLinks.all (fun l => !c.fuse.linkOn l.val || (c.link l).attempt.isNone)

/-- BRU_LINK_TRAINING: the step ends when the training of every enabled link has. -/
def execBruLinkTraining (ms : BitVec 16) (s : State) : Answer :=
  s.lift (fun c => if c.linksTried then c.runStep 8 ms linkStep else c)

/-- BRU_FRAME_LOCK. -/
def execBruFrameLock (ms : BitVec 16) (s : State) : Answer :=
  s.lift (fun c => c.runStep 9 ms (fun c => passOr (c.frm.state == .locked) 12 c))

/-- A step of this bring-up ended with a result. -/
def Bru.ended (b : Bru) (r : Nat) : Bool := (List.range 9).any (fun k => (b.stepOf (k + 1)).result.toNat == r)

/-- The anti-rollback counter after a bring-up with an image that raises it (R411). -/
def Chip.raisedSvn (c : Chip) : BitVec 7 :=
  if c.pkg.fwRaise then BitVec.ofNat 7 (max c.nor.antiRollback.toNat (min 64 c.pkg.fwSvn.toNat)) else c.nor.antiRollback

/-- The first frame-end copy is sealed: with both units running the standby is synced (R358). -/
def Chip.firstSeal (c : Chip) : Chip :=
  let both := c.mbx.unitA.ok && c.mbx.unitB.ok
  { c with mbx := { c.mbx with
      synced := both, standby := if both then c.img else Image.zero
      sealedFrame := if both && c.frm.frame != 0 then some (c.frm.frame - 1) else none, copyLfn := if both then c.frm.lfn - 1 else c.mbx.copyLfn } }

/-- The defect list in force is written over the copy that was not taken (R353). -/
def Nor.writeDefects (n : Nor) (second : Bool) : Nor :=
  let k : DefectCopy := { entries := n.defects, boots := n.boots }
  if second then { n with copy0 := k } else { n with copy1 := k }

/-- Step 10: NOR records are written, the first copy is sealed, and the device state is set. -/
def readyStep (c : Chip) : Chip × Nat :=
  let quar := c.bru.ended bruQuarantine
  let n := { c.nor.writeDefects c.bru.second with
    warm := if !c.bru.warm && !quar then some (shake24 c.fuse.mapBytes, c.nor.boots) else c.nor.warm
    warmBad := c.nor.warmBad && (c.bru.warm || quar), antiRollback := c.raisedSvn
    d2d := if c.bru.warm then c.nor.d2d else c.bru.d2d, memParams := if c.bru.warm then c.nor.memParams else c.bru.memParams }
  let c1 := (({ c with nor := n }.modBru (fun b => { b with before := none, before7 := none, fromQuar := b.fromQuar && quar })).modFlt
    (fun f => { f with outage := false })).firstSeal
  if quar then (c1.quarantinePackage 1, bruPass)
  else (c1.setDState (if c.bru.ended bruDegraded || c1.reasons != 0 then .degraded else .ready), bruPass)

/-- BRU_READY: the step waits for the frame clock to be LOCKED. -/
def execBruReady (ms : BitVec 16) (s : State) : Answer :=
  s.lift (fun c => if c.frm.state == .locked then c.runStep 10 ms readyStep else c)

/-! Registers (R342). -/

/-- A write of BRU_CTL: outside BRINGUP it is discarded with SEQ, unless it ends a hold (R342, R426). -/
def Chip.writeBruCtl (c : Chip) (a : RegAlias) (d : Word) : Chip :=
  let r := c.bru.ctl.put a 0xCF d
  let ok := c.mbx.dstate == .bringup || c.bru.ctl.endsHold a d
  let c1 := if ok then (c.modBru (fun b => { b with ctl := CfgWord.of r.1 })).bruNext else c.bruErr 0
  c1.refuse (aliasOffset a 0x2E00008) (causeIf r.2 cRv ++ causeIf (!ok) cState)

/-- RUN_TO. -/
def execRunTo (a : RegAlias) (d : Word) (s : State) : Answer := s.lift (fun c => c.host (fun c => c.writeBruCtl a d))

/-- The NOR records, the stacks and the units as they were when `u` was taken; counters and error bits stay. -/
def Chip.undoTo (c : Chip) (u : BruUndo) : Chip :=
  let c1 := allStacks.foldl (fun c i => c.modStack i (fun k =>
    let o := tget Stack.zero u.stks i.val
    { k with state := o.state, scrub := o.scrub, pending := o.pending, repairRows := o.repairRows, repairCols := o.repairCols
             retired := o.retired })) c
  let n := u.nor
  { c1 with cores := tabOf Core.zero 2448 (tget Core.zero u.cores), engines := tabOf Engine.zero 1632 (tget Engine.zero u.engines), nor := { c1.nor with
      defects := n.defects, boots := n.boots, pending := n.pending, unlisted := n.unlisted, fmax := n.fmax, repairs := n.repairs
      columns := n.columns, retired := n.retired, params := n.params } }.modBru (fun b =>
    { b with fusedGood := u.fusedGood, held := u.held, newEntries := u.newEntries })

/-- The records as they were before a start-up test, or a firmware load, whose results were not written (R358). -/
def Chip.revertNor (c : Chip) : Chip :=
  match c.bru.before, c.bru.before7 with
  | some u, _ => (c.undoTo u).modBru (fun b => { b with before := none, before7 := none })
  | none, some u => (c.undoTo u).modBru (fun b => { b with before7 := none })
  | none, none => c

/-- What the firmware load of step 7 has listed and substituted is undone. -/
def Chip.undoLoad (c : Chip) : Chip :=
  match c.bru.before7 with
  | some u => (c.undoTo u).modBru (fun b => { b with before7 := none })
  | none => c

/-- The frame clock without lock. -/
def Frm.unlock (f : Frm) : Frm :=
  { f with state := .unlocked, valid := false, broken := false, holdFrames := 0, debt := 0, slipNow := 0, planSlip := none
           model := none, next := none }

/-- No link is trained (step 8). -/
def Chip.untrainLinks (c : Chip) : Chip :=
  allLinks.foldl (fun c l => c.modLink l (fun q =>
    { q.clearStreams with state := .none, width := 0, usedRx := 0, goodRx := 0, goodTx := 0, goodSent := 0, attempt := none, upNext := false
                          lanes := [], changes := [] })) c

/-- No unit runs firmware, and the bindings it made are gone (step 7). -/
def Chip.unloadFirmware (c : Chip) : Chip :=
  let idle : Ibex := { running := false, failed := false }
  { c with
    mbx := { c.mbx with fwRun := false, unitA := idle, unitB := idle, activeB := false }
    mem := { c.mem with ilvMap := false }
    pkg := { c.pkg with fwVersion := 0, fwSvn := 0, fwId := [], fwRaise := false, fwCore := [], fwSga := [] } }

/-- No core or engine has been tested (step 6). -/
def Chip.untestUnits (c : Chip) : Chip :=
  { c with cores := [], engines := [] }.modBru (fun b => { b with fusedGood := 0, held := 0, newEntries := 0, defShown := false })

/-- No stack is trained (step 5). -/
def Chip.untrainStacks (c : Chip) : Chip :=
  (allStacks.foldl (fun c i => c.modStack i (fun q =>
    { q with state := .none, scrub := false, repairRows := 0, repairCols := 0, retired := [] })) c).modBru (fun b => { b with memParams := [] })

/-- What steps `k` and later have set up is undone (R342). -/
def Chip.undoSteps (c : Chip) (k : Nat) : Chip :=
  let c1 := if k ≤ 9 then { c with frm := c.frm.unlock } else c
  let c2 := if k ≤ 8 then c1.untrainLinks else c1
  let c3 := if k ≤ 7 then c2.unloadFirmware.undoLoad else c2
  let c4 := if k ≤ 6 then c3.revertNor.untestUnits else c3
  let c5 := if k ≤ 5 then c4.untrainStacks else c4
  let c6 := if k ≤ 4 then c5.modBru (fun b => { b with d2d := none }) else c5
  if k ≤ 3 then c6.modBru (fun b => { b with fuseRead := false }) else c6

/-- A write of BRU_RESTART that is taken. The registers lose the values of the last bring-up (R360): BRU_ERR, BRU_TOTAL, STEP and with
it RESULT and FAILS, WARM_REFUSED, and BRU_STEP from `k` on. What still counts is kept: BRU_STEP below `k` (R342), the mode that
step 1 took, and how often each step has failed (log 118). -/
def Chip.restartAt (c : Chip) (k : Nat) : Chip :=
  ((c.undoSteps k).modBru (fun b => { b with
    passed := BitVec.ofNat 4 (k - 1), waitAir := false, steps := b.steps.filter (fun p => decide (p.1 < k)), err := 0, total := 0, step := 0
    warmRefused := false, endedAt := c.micros })).recap

/-- A write of BRU_RESTART (R342): write-only; a write that breaks the conditions raises SEQ. -/
def Chip.writeBruRestart (c : Chip) (a : RegAlias) (d : Word) : Chip :=
  let k := bits d 3 0
  if a != .normal then c.refuse (aliasOffset a 0x2E0000C) [cWo]
  else if c.mbx.dstate == .bringup && !c.bru.running && decide (1 ≤ k) && decide (k ≤ c.bru.passed.toNat + 1) then c.restartAt k
  else (c.bruErr 0).refuse 0x2E0000C [cState]

/-- BRU_RESTART. -/
def execBruRestart (a : RegAlias) (d : Word) (s : State) : Answer := s.lift (fun c => c.host (fun c => c.writeBruRestart a d))

end Sys2Proof.Machine
end

