-- ==== Sys2Proof/Machine/PackageReset.lean ====
section
/-! DEFINITION. Power-on and power loss (R25, R404, R436), the package reset (R24, R327, R337), the release of the
reset (R288) and of a thermal shutdown (R374). -/
namespace Sys2Proof.Machine

/-- The package without power: the NOR and the fuses stay, and the pins keep their levels (R438). The stacks' pending lists, which the
bases hold, are lost with the DRAM (log 120). -/
def Chip.unpowered (c0 : Chip) : Chip :=
  let c := c0.revertNor
  { Chip.zero with
    nor := c.nor, fuse := c.fuse, out := c.out, freeCount := c.freeCount
    pwr := { Pwr.zero with airPin := c.pwr.airPin, storeLow := c.pwr.storeLow } }

/-- POWER_LOSS: everything stops, Markhor included. -/
def execPowerLoss (s : State) : Answer := s.lift Chip.unpowered

/-- POWER_ON: Markhor starts from the active slot, or from the other, or in recovery mode (R404). An assertion
present at power-on takes effect (R438). -/
def powerOnEffect (activeOk otherOk : Bool) (c : Chip) : Chip :=
  if c.pkg.entryIn then c
  else
    let useActive := c.bootOk c.nor.active activeOk
    let ok := useActive || c.bootOk c.nor.inactive otherOk
    let i := if useActive then c.nor.active else c.nor.inactive
    let c1 := c.modPkg (fun p => { p with
      entryIn := true, markhor := ok, recovery := !ok, pcieUp := ok, markhorPending := false
      markhorDigest := if ok then (i.markhor.getD []) else [] })
    let c2 := if c1.pwr.airPin then c1.airflowFailure false else c1
    (if c2.pwr.storeLow then c2.storeLowOn else c2).recap.realert

/-- POWER_ON. -/
def execPowerOn (activeOk otherOk : Bool) (s : State) : Answer := s.lift (powerOnEffect activeOk otherOk)

/-! The package reset. -/

/-- 24 hours in tick periods: 864,000,000 frames (R337). -/
def dayPeriods : Nat := 864000000 * 4096

/-- Times of the package resets ordered by Markhor within 24 hours. -/
def Chip.recentResets (c : Chip) : List Nat :=
  let l := c.flt.resetTimes.filter (fun t => decide (c.uptime - t < dayPeriods))
  if c.flt.pkgReason = 2 then l else c.uptime :: l

/-- The resets that a package reset preempts (R26). -/
def Flt.preempted (f : Flt) : List (Byte × BitVec 16) :=
  (if f.rdomain = 4 then [(4, 0xFFFF)] else []) ++ (if f.resetDue || f.rphase != 0 then [(3, 0xFFFF)] else []) ++ f.engineResets

/-- What Markhor keeps of the fault state (R329, R338, R340). -/
def Chip.keptFlt (c : Chip) : Flt :=
  { Flt.zero with
    absorbed := (c.flt.absorb (c.flt.preempted ++ c.ctxResets)).absorbed, silent := c.flt.silent, rdomain := 5, cntEngine := c.flt.cntEngine, cntCompute := c.flt.cntCompute, cntPackage := satInc c.flt.cntPackage 1
    cntHang := c.flt.cntHang, cntQuar := c.flt.cntQuar, cntPoison := c.flt.cntPoison, cntBeacon := c.flt.cntBeacon
    cntSuppr := c.flt.cntSuppr, service := c.flt.service, unavail := c.flt.unavail, dossiers := c.flt.dossiers
    shorts := c.flt.shorts, dossierSeq := c.flt.dossierSeq, beacons := c.flt.beacons, beaconSeq := c.flt.beaconSeq
    thisSecond := c.flt.thisSecond, suppressed := c.flt.suppressed, resetTimes := c.recentResets
    quarCause := if 3 ≤ c.recentResets.length then 3 else 0, outage := c.flt.pkgReason != 2 }

/-- What Markhor keeps of the power manager (R363, R389), and the pins. -/
def Chip.keptPwr (c : Chip) : Pwr :=
  { Pwr.zero with
    setCap := c.pwr.setCap, ramp := c.pwr.setCap, airPin := c.pwr.airPin, storeLow := c.pwr.storeLow, ckptReq := c.pwr.airPin
    ctl := c.pwr.ctl, hardcap := c.pwr.hardcap, theta0 := c.pwr.theta0, cntExcursion := c.pwr.cntExcursion
    cntStoreLow := c.pwr.cntStoreLow, cntAirflow := c.pwr.cntAirflow, cntBallastShort := c.pwr.cntBallastShort
    cntWake := c.pwr.cntWake, cntPacing := c.pwr.cntPacing }

/-- What Markhor keeps of the thermal state: counters, and what it reads and receives itself. -/
def Chip.keptThm (c : Chip) : Thm := { c.thm with err := 0, alert := c.thm.hsHigh || c.pwr.airPin || c.thm.shutdown }

/-- What is kept of the host side: Markhor, its interfaces and its firmware registers (R414). -/
def Chip.keptPkg (c : Chip) : Pkg :=
  { Pkg.zero with
    entryIn := true, markhor := c.pkg.markhor, recovery := c.pkg.recovery, markhorDigest := c.pkg.markhorDigest
    fwResult := c.pkg.fwResult, markhorPending := c.pkg.markhorPending, fwSource := c.pkg.fwSource, fwTag := c.pkg.fwTag
    mgmtDrop := c.pkg.mgmtDrop, mgmtUp := c.pkg.mgmtUp, mgmtAuto := c.pkg.mgmtAuto, dupLocal := c.pkg.dupLocal
    dupUnicast := c.pkg.dupUnicast
    i3cAddr := c.pkg.i3cAddr, eid := c.pkg.eid, served := c.pkg.served, session := c.pkg.session
    reportBox := c.pkg.reportBox, reportMctp := c.pkg.reportMctp }

/-- Every block but Markhor and the NOR is reset (R24, R25, R428). The stacks' pending lists are kept for the next
start-up test. -/
def Chip.resetBlocks (c0 : Chip) : Chip :=
  let c := c0.revertNor
  { Chip.zero with
    stks := tabOf Stack.zero 24 (fun i => { Stack.zero with pending := (tget Stack.zero c.stks i).pending })
    rte := { Rte.zero with epoch := c.rte.epoch + 1 }, flt := c.keptFlt, nor := c.nor, fuse := c.fuse
    bru := { Bru.zero with fromQuar := c.bru.fromQuar || c0.mbx.dstate == .quarantined }
    pwr := c.keptPwr, thm := c.keptThm, pkg := c.keptPkg, uptime := c.uptime, out := c.out, freeCount := c.freeCount }

/-- PACKAGE_RESET: an ordered reset is carried out: dossier, beacon, reset (R327). -/
def packageResetEffect (c : Chip) : Chip :=
  if c.flt.resetPending && c.pkg.entryIn then
    let c1 := c.collect { domain := 5, event := 0x15, unit := c.flt.trigUnit, ctxMask := ctxMask (fun x => (c.ctx x).state != .none) }
    let c2 := c1.event { code := 0x15, severity := 2, dossier := c1.flt.dossierSeq, arg := c.flt.pkgReason }
    let off := c2.setDState .off
    { off with mbx := { off.mbx with dstate := c.mbx.dstate } }.resetBlocks.recap
  else c

/-- PACKAGE_RESET. -/
def execPackageReset (s : State) : Answer := s.lift packageResetEffect

/-- A package reset is in progress. -/
def Chip.inPackageReset (c : Chip) : Bool := c.flt.rdomain == 5 && c.mbx.dstate == .off && !c.flt.keptOff

/-- PACKAGE_RESET_WATCHDOG: 6 V is switched off, and only a power cycle leaves OFF (R327). -/
def packageWatchdogEffect (c : Chip) : Chip :=
  if c.inPackageReset then (c.resetHung 6 5).modFlt (fun f => { f with keptOff := true }) else c

/-- PACKAGE_RESET_WATCHDOG. -/
def execPackageResetWatchdog (s : State) : Answer := s.lift packageWatchdogEffect

/-! The release of the reset. -/

/-- The device enters BRINGUP; a third package reset in 24 hours quarantines the package (R288, R337). -/
def Chip.releaseReset (c : Chip) : Chip :=
  let why := c.flt.quarCause
  let c1 := ((c.modFlt (fun f => { f with rdomain := 0, quarCause := 0 })).modPkg (fun p => { p with pcieUp := true })).setDState .bringup
  (if why = 0 then c1 else c1.quarantinePackage why).recap

/-- Markhor can release the reset: it runs its firmware, the device is OFF, no reset is ordered or hung. -/
def Chip.canRelease (c : Chip) : Bool :=
  c.pkg.entryIn && c.pkg.markhor && c.mbx.dstate == .off && !c.flt.resetPending && !c.flt.keptOff

/-- MARKHOR_RESET_RELEASE. -/
def releaseEffect (c : Chip) : Chip := if c.canRelease && !c.thm.shutdown then c.releaseReset else c

/-- MARKHOR_RESET_RELEASE. -/
def execMarkhorResetRelease (s : State) : Answer := s.lift releaseEffect

/-- The hold of a thermal shutdown is over: 10 s and 60 degrees C or less, or 60 s with both thermistors faulty. -/
def Chip.cooled (c : Chip) (seconds : Nat) : Bool := match c.thm.hs with
  | some t => decide (10 ≤ seconds) && decide (t ≤ 960)
  | none => decide (60 ≤ seconds)

/-- SHUTDOWN_RELEASE. -/
def shutdownReleaseEffect (seconds : Nat) (c : Chip) : Chip :=
  if c.canRelease && c.thm.shutdown && c.cooled seconds then (c.modThm (fun t => { t with shutdown := false })).realert.releaseReset else c

/-- SHUTDOWN_RELEASE. -/
def execShutdownRelease (seconds : Nat) (s : State) : Answer := s.lift (shutdownReleaseEffect seconds)

end Sys2Proof.Machine
end

