-- ==== Sys2Proof/Machine/MailboxTake.lean ====
section
/-! DEFINITION. Posting a slot, taking a command and carrying it out (R268-R270, R279-R294, Tables 10-6, 10-8,
10-9, 10-11). -/
namespace Sys2Proof.Machine

/-- The operations of Tables 10-8 and 10-11. -/
inductive Op where
  | getInfo
  | getState
  | readFaultMap
  | readDossier
  | readDefects
  | attest
  | setCap
  | computeReset
  | fwStage
  | fwActivate
  | stageWrite
  | stageRead
  | planLoad
  | planCancel
  | planStatus
  | ctxCreate
  | ctxTeardown
  | ctxReset
  | ctxHold
  | ctxResume
  | checkLoad
  | ctxStatus
  | stepDefine
  | stepRun
  | stepStatus
  | progLoad
  | replay
deriving DecidableEq, Repr

/-- The operation of a UCI-2 opcode (Table 10-8). -/
def uci2Op : Nat → Option Op
  | 0x0001 => some .getInfo
  | 0x0002 => some .getState
  | 0x0003 => some .readFaultMap
  | 0x0004 => some .readDossier
  | 0x0005 => some .readDefects
  | 0x0006 => some .attest
  | 0x0007 => some .setCap
  | 0x0008 => some .computeReset
  | 0x0009 => some .fwStage
  | 0x000A => some .fwActivate
  | 0x0100 => some .stageWrite
  | 0x0101 => some .stageRead
  | 0x0102 => some .planLoad
  | 0x0103 => some .planCancel
  | 0x0104 => some .planStatus
  | 0x0200 => some .ctxCreate
  | 0x0201 => some .ctxTeardown
  | 0x0202 => some .ctxReset
  | 0x0203 => some .ctxHold
  | 0x0204 => some .ctxResume
  | 0x0205 => some .checkLoad
  | 0x0206 => some .ctxStatus
  | 0x0207 => some .stepDefine
  | 0x0208 => some .stepRun
  | 0x0209 => some .stepStatus
  | 0x020A => some .progLoad
  | _ => none

/-- The operation of a UCI-1 OP (Table 10-11). -/
def uci1Op : Nat → Option Op
  | 0x01 => some .getInfo
  | 0x02 => some .stageWrite
  | 0x03 => some .planLoad
  | 0x04 => some .ctxCreate
  | 0x05 => some .ctxTeardown
  | 0x06 => some .ctxReset
  | 0x07 => some .stepRun
  | 0x08 => some .stepStatus
  | 0x09 => some .replay
  | 0x0A => some .readFaultMap
  | _ => none

/-- Kind S (Table 10-8). -/
def Op.isS : Op → Bool
  | .getInfo => false
  | .getState => false
  | .readFaultMap => false
  | .readDossier => false
  | .readDefects => false
  | .attest => false
  | .stageRead => false
  | .planStatus => false
  | .ctxStatus => false
  | .stepStatus => false
  | _ => true

/-- Pages (Table 10-8); the replay of UCI-1 has no entry there and is counted as a step run. -/
def Op.pages : Op → Nat
  | .setCap => 1
  | .computeReset => 1
  | .fwStage => 2
  | .fwActivate => 1
  | .stageWrite => 2
  | .planLoad => 128
  | .planCancel => 1
  | .ctxCreate => 16
  | .ctxTeardown => 8
  | .ctxReset => 2
  | .ctxHold => 2
  | .ctxResume => 2
  | .checkLoad => 8
  | .stepDefine => 8
  | .stepRun => 2
  | .progLoad => 4
  | .replay => 2
  | _ => 0

/-- The blocks outside the active unit that a command will write (R264, R269). -/
def Op.writes : Op → List FwBlock
  | .setCap => [.powerCap]
  | .computeReset => [.resetOrder]
  | .fwStage => [.firmware]
  | .fwActivate => [.firmware, .resetOrder]
  | .planLoad => [.planBank, .circuitBank]
  | .planCancel => [.planBank]
  | .ctxCreate => [.bandTable, .engineWindows, .bindings]
  | .ctxTeardown => [.bandTable, .engineWindows, .bindings, .circuitBank, .unitState]
  | .ctxReset => [.circuitBank, .unitState]
  | .ctxHold => [.circuitBank, .unitState]
  | .ctxResume => [.unitState]
  | .checkLoad => [.undoRow]
  | .stepRun => [.unitState]
  | .progLoad => [.unitState]
  | .replay => [.unitState]
  | _ => []

/-- Bytes of an intent record on the private link: slot, header, digest, 4 bytes a write (R269, log 97). -/
def Op.intentBytes (o : Op) : Nat := 1 + 32 + 24 + 4 * o.writes.length

/-- Bytes of a heartbeat on the private link (log 97). -/
def heartbeatBytes : Nat := 8

/-- What 48 ticks of the private link carry at 64 GB/s (R267). -/
def linkShare : Nat := 75000

/-- Bytes of the fixed request fields (Tables 10-8, 10-9); CTX_CREATE checks its length itself (Table 11-2). -/
def Op.fixed : Op → Nat
  | .readFaultMap => 8
  | .readDossier => 12
  | .readDefects => 8
  | .attest => 40
  | .setCap => 8
  | .computeReset => 4
  | .fwStage => 16
  | .fwActivate => 8
  | .stageWrite => 8
  | .stageRead => 8
  | .planLoad => 8
  | .ctxResume => 4
  | .checkLoad => 8
  | .stepDefine => 12
  | .stepRun => 16
  | .stepStatus => 4
  | .progLoad => 8
  | .replay => 4
  | _ => 0

/-- The command returns ACCEPTED (Table 10-8). -/
def Op.accepts : Op → Bool
  | .computeReset => true
  | .fwActivate => true
  | .ctxCreate => true
  | .ctxTeardown => true
  | .ctxReset => true
  | .ctxHold => true
  | .stepRun => true
  | .progLoad => true
  | .replay => true
  | _ => false

/-- The command names a context (opcodes 0x02xx). -/
def Op.ofCtx : Op → Bool
  | .ctxCreate => true
  | .ctxTeardown => true
  | .ctxReset => true
  | .ctxHold => true
  | .ctxResume => true
  | .checkLoad => true
  | .ctxStatus => true
  | .stepDefine => true
  | .stepRun => true
  | .stepStatus => true
  | .progLoad => true
  | .replay => true
  | _ => false

/-- The command is legal in the device state (Table 10-8b). -/
def Chip.opLegal (c : Chip) (o : Op) : Bool :=
  match o with
  | .getInfo => true
  | .getState => true
  | .readFaultMap => true
  | .readDossier => true
  | .readDefects => true
  | .attest => true
  | .setCap => c.mbx.dstate != .quarantined
  | .computeReset => c.mbx.dstate.inService || c.mbx.dstate == .recovering
  | .fwStage => c.fwLegal
  | .fwActivate => c.fwLegal
  | .stageWrite => c.mbx.dstate.inService
  | .stageRead => c.mbx.dstate.inService
  | .planLoad => c.mbx.dstate.inService
  | .planCancel => c.mbx.dstate.inService
  | .planStatus => c.mbx.dstate.inService
  | .ctxCreate => c.mbx.dstate.inService && !(c.mbx.dstate == .degraded && c.frm.state == .freerun)
  | _ => c.mbx.dstate == .service || c.mbx.dstate == .degraded

/-! A posted slot. -/

/-- A byte of a slot. -/
def Mbx.slotByte (m : Mbx) (s : SlotId) (i : Nat) : Byte := rdByte m.store (slotBase s + i)

/-- A little-endian field of a slot. -/
def Mbx.slotNum (m : Mbx) (s : SlotId) (i n : Nat) : Nat := unle (rdBytes m.store (slotBase s + i) n)

/-- VER is 1: the slot speaks UCI-1 (R281). -/
def Mbx.isUci1 (m : Mbx) (s : SlotId) : Bool := m.slotByte s 1 == 1

/-- The operation that a posted slot asks for; none for an unknown opcode, OP or VER. -/
def Mbx.slotOp (m : Mbx) (s : SlotId) : Option Op :=
  if m.slotByte s 1 = 1 then uci1Op (m.slotNum s 2 1) else if m.slotByte s 1 = 2 then uci2Op (m.slotNum s 2 2) else none

/-- The command of a slot, with a completion tag (Tables 10-4, 10-10). -/
def Mbx.slotCmd (m : Mbx) (s : SlotId) (ctag : Word) : Cmd :=
  if m.isUci1 s then
    { slot := s, ver1 := true, opcode := BitVec.ofNat 16 (m.slotNum s 2 1), ctx := m.slotByte s 3
      tag := BitVec.ofNat 32 (m.slotNum s 8 4), ctag := ctag, notify := false }
  else
    { slot := s, ver1 := false, opcode := BitVec.ofNat 16 (m.slotNum s 2 2), ctx := m.slotByte s 6
      tag := BitVec.ofNat 32 (m.slotNum s 8 4), ctag := ctag, notify := bit (m.slotByte s 7) 0 }

/-- The longest payload (R281, R292). -/
def maxPayload (ver1 : Bool) : Nat := if ver1 then 4080 else 4064

/-- The request in a slot: bytes beyond LEN are ignored (R291). -/
def Mbx.slotReq (m : Mbx) (s : SlotId) (ctag : Word) : Req :=
  let len := m.slotNum s 4 2
  { cmd := m.slotCmd s ctag, len := len
    payload := rdBytes m.store (slotBase s + if m.isUci1 s then 16 else 32) (min len (maxPayload (m.isUci1 s))) }

/-- The operation of a command once taken. -/
def Cmd.op (c : Cmd) : Option Op := if c.ver1 then uci1Op c.opcode.toNat else uci2Op c.opcode.toNat

/-! Service order (R268, R283). -/

/-- Pages that the slot's command needs. -/
def Mbx.slotPages (m : Mbx) (s : SlotId) : Nat := ((m.slotOp s).map Op.pages).getD 0

/-- Bytes that the intent of the slot's command takes of the private link: none for a Q command, or without a synced standby. -/
def Mbx.slotIntent (m : Mbx) (s : SlotId) : Nat :=
  match m.slotOp s with
  | some o => if o.isS && m.synced then o.intentBytes else 0
  | none => 0

/-- The command fits in what remains of the frame's budget of 768 pages and of the private link's share of 48 ticks; before frames
run there is no budget (R267, R268). -/
def Chip.slotFits (c : Chip) (s : SlotId) : Bool :=
  !c.frm.valid || (decide (c.mbx.pages + c.mbx.slotPages s ≤ 768)
    && (c.mbx.slotIntent s == 0 || decide (c.mbx.linkBytes + c.mbx.slotIntent s ≤ linkShare)))

/-- POSTED for 16 frames. -/
def Chip.aged (c : Chip) (p : SlotId × Nat) : Bool := c.frm.valid && decide (p.2 + 16 ≤ c.frm.frame)

/-- The slot that is served next: one that has waited 16 frames, or else the first of the lowest class. -/
def Chip.nextSlot (c : Chip) : Option SlotId :=
  let l := c.mbx.posted.filter (fun p => c.slotFits p.1)
  let byClass := fun (k : Nat) => l.find? (fun p => p.1.val / 8 == k)
  let first := match l.find? c.aged with
    | some p => some p
    | none => ([0, 1, 2, 3] : List Nat).findSome? byClass
  first.map (·.1)

/-! Shedding (R285, Table 10-6). -/

/-- RETRY_AFTER of a command shed at the level in force. -/
def Mbx.shedFrames (m : Mbx) (class_ : Nat) (s : Bool) : Option Nat :=
  match m.shed.toNat with
  | 0 => none
  | 1 => if class_ = 3 ∧ !s then some 1 else none
  | 2 => if class_ = 3 then some 4 else if class_ = 2 ∧ !s then some 1 else none
  | _ => if 2 ≤ class_ then some 4 else if class_ = 1 ∧ s then some 1 else none

/-! Checks. -/

/-- Header checks and legality in the device state (Tables 10-5, 10-8b, 10-9). -/
def Chip.checkHeader (c : Chip) (o : Op) (r : Req) : Refused :=
  if maxPayload r.cmd.ver1 < r.len ∨ r.len < o.fixed then some (stRange, 4)
  else if 15 < r.cmd.ctx.toNat then some (stRange, 6)
  else if !c.opLegal o then some (if o.ofCtx then c.ctxConflictOf (if o.isS then c.img else c.qImage) r.x else c.noCtxConflict)
  else none

/-- Checks of SET_CAP (R363, Table 10-9). -/
def Chip.checkCap (c : Chip) (r : Req) : Refused := if c.fuse.capOk (r.u 0 4) then none else some (stRange, 32)

/-- Checks of FW_STAGE (R408). -/
def Chip.checkStageFw (c : Chip) (r : Req) : Refused := (c.stageRefusal false (r.u 0 4) (r.u 4 4) (r.len - 16)).map (fun o => (stRange, 32 + o))

/-- The checks of an S command's own. -/
def Chip.checkOp (c : Chip) (o : Op) (r : Req) : Refused :=
  match o with
  | .setCap => c.checkCap r
  | .fwStage => c.checkStageFw r
  | .stageWrite => checkStageWrite r
  | .planLoad => c.checkPlanLoad r
  | .planCancel => c.checkPlanCancel r
  | .ctxCreate => c.checkCreate r
  | .ctxTeardown => c.checkTeardown r
  | .ctxReset => c.checkSettled r
  | .ctxHold => c.checkSettled r
  | .ctxResume => c.checkResume r
  | .checkLoad => c.checkCheckLoad r
  | .stepDefine => c.checkDefine r
  | .stepRun => c.checkRun r
  | .progLoad => c.checkProgLoad r
  | .replay => c.checkReplay r
  | _ => none

/-- The command is one that its context takes without ACCEPTED: CTX_HOLD of a held context (Table 11-5). -/
def Chip.heldAlready (c : Chip) (o : Op) (r : Req) : Bool := o == .ctxHold && (c.ctx r.x).state == .held

/-- The command would return ACCEPTED. -/
def Chip.wouldAccept (c : Chip) (o : Op) (r : Req) : Bool := o.accepts && !r.cmd.ver1 && !c.heldAlready o r

/-- All checks of an S command; BUSY while completions are held (R286). -/
def Chip.checkS (c : Chip) (o : Op) (r : Req) : Refused :=
  match c.checkHeader o r with
  | some q => some q
  | none => match c.checkOp o r with
    | some q => some q
    | none => if c.wouldAccept o r && !c.img.held.isEmpty then some (stBusy, 3) else none

/-! Effects of S commands. -/

/-- ACCEPTED is written to the slot at once (R270); a UCI-1 slot, or one already DONE, stays as it is (R292). -/
def Chip.accept (c : Chip) (cmd : Cmd) : Chip :=
  if cmd.ver1 || c.mbx.slotState cmd.slot != 2 then c else c.slotDone cmd stAccepted 0 0 cmd.ctag []

/-- SET_CAP. -/
def Chip.doSetCap (c : Chip) (r : Req) : Chip := (c.putCap (r.u 0 4)).finish r.cmd false stOk 0 0 (c.capResponse (r.u 0 4))

/-- COMPUTE_RESET (R324); in RECOVERING it is absorbed (R26). Its ring entry follows when recovery ends. -/
def Chip.doComputeReset (c : Chip) (r : Req) : Chip :=
  let c1 := c.modFlt (fun f => { f with computeCmds := if r.cmd ∈ f.computeCmds then f.computeCmds else f.computeCmds ++ [r.cmd] })
  if c.mbx.dstate.inService then c1.orderCompute 4 else c1

/-- FW_STAGE (R408). -/
def Chip.doStageFw (c : Chip) (r : Req) : Chip :=
  let q := c.stageChunk false (r.u 0 4) (r.u 4 4) (slice r.payload 16 (r.len - 16))
  q.1.finish r.cmd false q.2 0 0 []

/-- FW_ACTIVATE (R409): the package reset that follows leaves no ring entry; a takeover that carries out its intent again (R272)
finds it done. -/
def Chip.doActivate (c : Chip) (r : Req) : Chip :=
  if c.pkg.fwResult = 1 ∧ c.pkg.fwCtag = some r.cmd.ctag then c
  else if c.canActivate then c.activate false r.cmd.tag (some r.cmd.ctag)
  else c.finish r.cmd true stAuth 0 0 []

/-- The effect of an S command that has passed its checks. -/
def Chip.doOp (c : Chip) (o : Op) (r : Req) : Chip :=
  match o with
  | .setCap => c.doSetCap r
  | .computeReset => c.doComputeReset r
  | .fwStage => c.doStageFw r
  | .fwActivate => c.doActivate r
  | .stageWrite => c.doStageWrite r
  | .planLoad => c.doPlanLoad r
  | .planCancel => c.doPlanCancel r
  | .ctxCreate => c.doCreate r
  | .ctxTeardown => c.doTeardown r
  | .ctxReset => c.doCtxReset r
  | .ctxHold => c.doHold r
  | .ctxResume => c.doResume r
  | .checkLoad => c.doCheckLoad r
  | .stepDefine => c.doDefine r
  | .stepRun => c.doRun r
  | .progLoad => c.doProgLoad r
  | .replay => c.doReplay r
  | _ => c

/-- A command is carried out as its intent says: refused, or accepted and put into effect (R269, R270). -/
def Chip.carryOut (c : Chip) (i : Intent) : Chip :=
  let r : Req := { cmd := i.cmd, len := i.payload.length, payload := i.payload }
  match i.refusal, i.cmd.op with
  | some q, _ => c.finish i.cmd false q.1 (BitVec.ofNat 32 q.2) 0 []
  | none, some o => (if o.accepts && !c.heldAlready o r then c.accept i.cmd else c).doOp o r
  | none, none => c

/-! Q commands (R270, R291). -/

/-- The fault map (R149): the local address of each line of each retired row, 8 bytes each (layout log 12). -/
def Chip.faultMap (c : Chip) : List Byte :=
  allStacks.flatMap (fun s => (c.stack s).retired.flatMap (fun k => (List.range 32).flatMap (fun i =>
    leBytes 8 (c.localOf (lineOf s.val (k / 24576 / 32) (k % 24576 * 1024 + k / 24576 % 32 * 32 + i))))))

/-- GET_INFO (layout log 12). -/
def Chip.info (c : Chip) : List Byte :=
  padTo ([BitVec.ofNat 8 c.fuse.variant.code, 0] ++ leBytes 2 ((List.range 2448).countP c.fuse.coreNumber)
    ++ leBytes 2 (popCount 24 c.fuse.stackEn.toNat) ++ leBytes 2 (popCount 6 c.fuse.linkEn.toNat) ++ leBytes 4 c.pkg.fwVersion.toNat
    ++ [c.pkg.fwSvn, 0, 0, 0] ++ leBytes 4 c.nor.defects.length ++ leBytes 4 c.rte.id.val.toNat) 64

/-- GET_STATE (layout log 12). -/
def Chip.stateBytes (c : Chip) : List Byte :=
  padTo ([BitVec.ofNat 8 c.mbx.dstate.code, 0] ++ leBytes 2 c.reasons.toNat
    ++ leBytes 2 (ctxMask (fun x => (tget Ctx.zero c.qImage.ctxs x.val).state != .none)).toNat ++ [BitVec.ofNat 8 c.frm.state.code]) 16

/-- What a Q command answers: the report kept, and a refusal or the response. -/
structure Reply where
  report : Option (List Byte)
  refusal : Refused
  resp : List Byte

/-- A plain answer. -/
def Chip.reply (c : Chip) (resp : List Byte) : Reply := { report := c.pkg.reportBox, refusal := none, resp := resp }

/-- A page of an object, its offset being the first 8 bytes of the request. -/
def Chip.replyPage (c : Chip) (obj : List Byte) (r : Req) : Reply :=
  match paged obj (r.u 0 8) 4064 with
  | some b => c.reply b
  | none => { report := c.pkg.reportBox, refusal := some (stRange, 32), resp := [] }

/-- A refusal where there is one, or else the answer. -/
def Chip.replyIf (c : Chip) (q : Refused) (resp : List Byte) : Reply := { report := c.pkg.reportBox, refusal := q, resp := resp }

/-- READ_DOSSIER (R329): an index that names no dossier is out of range. -/
def Chip.replyDossier (c : Chip) (r : Req) : Reply :=
  match c.flt.dossierAt (r.u 8 4) with
  | some d => c.replyPage d.bytes r
  | none => c.replyIf (some (stRange, 40)) []

/-- ATTEST (R412): the mailbox keeps its last report. -/
def Chip.replyAttest (c : Chip) (r : Req) : Reply :=
  let q := c.attestWith c.pkg.reportBox (slice r.payload 0 32) (r.u 32 8) 4064
  match q.1 with
  | some b => { report := q.2.2, refusal := none, resp := b }
  | none => { report := q.2.2, refusal := some (stRange, 32 + q.2.1), resp := [] }

/-- The answer of a Q command. -/
def Chip.query (c : Chip) (o : Op) (r : Req) : Reply :=
  match o with
  | .getInfo => c.reply c.info
  | .getState => c.reply c.stateBytes
  | .readFaultMap => c.replyPage c.faultMap r
  | .readDossier => c.replyDossier r
  | .readDefects => c.replyPage c.nor.defectBytes r
  | .attest => c.replyAttest r
  | .stageRead => c.replyIf (checkStageRead r) (rdBytes c.qImage.staging (r.u 0 4) (r.u 4 4))
  | .planStatus => c.reply c.planStatus
  | .ctxStatus => c.reply (c.ctxStatus r.x)
  | .stepStatus => c.replyIf (c.checkStepStatus r) ((tget Ctx.zero c.qImage.ctxs r.x.val).stepStatus (BitVec.ofNat 32 (r.u 0 4)))
  | _ => c.reply []

/-- A Q command completes at once (R270). -/
def Chip.answer (c : Chip) (o : Op) (r : Req) : Chip :=
  match c.checkHeader o r with
  | some q => c.slotDone r.cmd q.1 (BitVec.ofNat 32 q.2) 0 0 []
  | none =>
    let a := c.query o r
    let c1 := c.modPkg (fun p => { p with reportBox := a.report })
    match a.refusal with
    | some q => c1.slotDone r.cmd q.1 (BitVec.ofNat 32 q.2) 0 0 []
    | none => c1.slotDone r.cmd stOk 0 0 0 a.resp

/-! Taking a command. -/

/-- The next completion tag, never 0. -/
def nextTag (w : Word) : Word := if w + 1 = 0 then 1 else w + 1

/-- The slot is TAKEN (Table 10-3), counted, and its pages and its intent leave the budgets (R267, R268). -/
def Chip.markTaken (c : Chip) (s : SlotId) (pages : Nat) : Chip :=
  { c with mbx := { c.mbx with
      linkBytes := c.mbx.linkBytes + c.mbx.slotIntent s
      posted := c.mbx.posted.filter (fun p => p.1 != s), store := wrByte c.mbx.store (slotBase s) 2
      cntTaken := satInc c.mbx.cntTaken 1, pages := c.mbx.pages + pages } }

/-- An S command is taken: its intent waits for the standby's acknowledgement, or where no standby is synced the
command is carried out at once (R269). -/
def Chip.submit (c : Chip) (i : Intent) : Chip :=
  if c.mbx.synced then { c with mbx := { c.mbx with waitAck := some i } } else c.carryOut i

/-- A known command is served: shed, answered, or submitted. -/
def Chip.serve (c0 : Chip) (o : Op) (r : Req) : Chip :=
  let shed := c0.mbx.shedFrames (r.cmd.slot.val / 8) o.isS
  let c := if shed.isSome then { c0 with mbx := { c0.mbx with cntShed := satInc c0.mbx.cntShed 1 } } else c0
  if o.isS then
    let q : Refused := match shed with
      | some n => some (stRetry, n)
      | none => c.checkS o r
    let drew := shed.isNone && o == .ctxCreate && q.any (fun p => p.1 == stRetry)
    let c1 := { c with freeCount := c.freeCount + b2n drew, img := { c.img with nextCtag := nextTag c.img.nextCtag } }
    c1.submit { cmd := r.cmd, payload := r.payload, digest := shake24 r.payload, writes := if q.isSome then [] else o.writes, refusal := q, frame := c.frm.frame }
  else match shed with
    | some n => c.slotDone r.cmd stRetry (BitVec.ofNat 32 n) 0 0 []
    | none => c.answer o r

/-- An unknown opcode, OP or VER completes with NOT_SUPPORTED (R281, R282, R293). -/
def Chip.serveUnknown (c : Chip) (r : Req) : Chip :=
  let c1 := if c.mbx.slotByte r.cmd.slot 1 = 1 ∨ c.mbx.slotByte r.cmd.slot 1 = 2 then c else c.mbxErr 1
  c1.slotDone r.cmd stUnsupported 0 0 0 []

/-- The active unit takes commands: its firmware runs, it has not failed, and no intent waits (R264, R269, R288). -/
def Chip.takes (c : Chip) : Bool :=
  c.mbx.fwRun && c.mbx.dstate != .off && c.mbx.waitAck.isNone && (c.mbx.unit c.mbx.active).ok

/-- A command of the table is taken from a slot: the slot is the next to be served and asks for it. A slot with an
unknown command is taken by whichever command names it. -/
def Chip.takeSlot (c : Chip) (s : SlotId) (ver1 : Bool) (o : Op) : Chip :=
  if c.takes && c.nextSlot == some s then
    let r := c.mbx.slotReq s c.img.nextCtag
    match c.mbx.slotOp s with
    | none => (c.markTaken s 0).serveUnknown r
    | some q => if q = o ∧ r.cmd.ver1 = ver1 then (c.markTaken s q.pages).serve q r else c
  else c

/-- INTENT_ACK: the standby has acknowledged the intent of a command, which is now carried out (R269, R270). -/
def intentAckEffect (s : SlotId) (c : Chip) : Chip :=
  match c.mbx.waitAck with
  | none => c
  | some i =>
    if i.cmd.slot = s then
      let i1 := { i with frame := c.frm.frame }
      { c with mbx := { c.mbx with waitAck := none, intents := c.mbx.intents ++ [i1] } }.carryOut i1
    else c

/-- INTENT_ACK. -/
def execIntentAck (s : SlotId) (st : State) : Answer := st.lift (intentAckEffect s)

/-! BAR2 (R279, R280). -/

/-- What a host read of BAR2 answers: slots and ring as they stand, zero in reserved space (Table 10-2). No row of the table is
such a read. -/
def Mbx.bar2 (m : Mbx) (off n : Nat) : List Byte :=
  (List.range n).map (fun i => if off + i < 0x30000 then rdByte m.store (off + i) else 0)

/-- A memory after a write of bytes, of which those without their byte enable stay (R391). -/
def wrEnabled (m : Mem) (a : Nat) : List (Option Byte) → Mem
  | [] => m
  | some b :: bs => wrEnabled (wrByte m a b) (a + 1) bs
  | none :: bs => wrEnabled m (a + 1) bs

/-- A host write that falls in one slot, from offset `w` of it. One that does not write byte 0 changes no STATE (R280). -/
def Chip.writeSlot (c : Chip) (s : SlotId) (w : Nat) (bs : List (Option Byte)) : Chip :=
  let st := (c.mbx.slotState s).toNat
  if st = 1 ∨ st = 2 then
    { c with mbx := { c.mbx with cntOwned := satInc c.mbx.cntOwned 1 } }.mbxErr 0
  else
    let v := if w = 0 then (bs.head?.bind id).map (·.toNat) else none
    if v.any (fun v => decide (v ≠ 0 ∧ v ≠ 1 ∧ ¬ (v = 3 ∧ st = 3))) then c
    else
      { c with mbx := { c.mbx with
          store := wrEnabled c.mbx.store (slotBase s + w) bs
          posted := if v = some 1 then c.mbx.posted ++ [(s, c.frm.frame)] else c.mbx.posted } }

/-- Max_Payload_Size as programmed, in bytes (R390). -/
def Pkg.maxPayload (p : Pkg) : Nat := 128 * 2 ^ p.pcie.maxPayload.val

/-- A host write of BAR2, with none for a byte whose byte enable is clear: the ring and the reserved space discard it. One longer
than Max_Payload_Size or past the end of BAR2 breaks the row of Table 15-1: an Unsupported Request with no effect (R390, R391). -/
def slotPostEffect (off : Nat) (data : List (Option Byte)) (c : Chip) : Chip :=
  if c.pkg.maxPayload < data.length ∨ 1048576 < off + data.length then c.unsupported else
  (spans 4096 off data.length).foldl (fun c k =>
    if h : k < 32 then
      let lo := max off (4096 * k)
      let hi := min (off + data.length) (4096 * k + 4096)
      c.writeSlot ⟨k, h⟩ (lo - 4096 * k) ((data.drop (lo - off)).take (hi - lo))
    else c) c

/-- SLOT_POST. -/
def execSlotPost (off : BitVec 20) (data : List (Option Byte)) (s : State) : Answer :=
  s.lift (fun c => c.host (slotPostEffect off.toNat data))

/-! One meaning per command of UCI-2. -/

/-- GET_INFO. -/
def execGetInfo (s : SlotId) (st : State) : Answer := st.lift (fun c => c.takeSlot s false .getInfo)
/-- GET_STATE. -/
def execGetState (s : SlotId) (st : State) : Answer := st.lift (fun c => c.takeSlot s false .getState)
/-- READ_FAULT_MAP. -/
def execReadFaultMap (s : SlotId) (st : State) : Answer := st.lift (fun c => c.takeSlot s false .readFaultMap)
/-- READ_DOSSIER. -/
def execReadDossier (s : SlotId) (st : State) : Answer := st.lift (fun c => c.takeSlot s false .readDossier)
/-- READ_DEFECTS. -/
def execReadDefects (s : SlotId) (st : State) : Answer := st.lift (fun c => c.takeSlot s false .readDefects)
/-- ATTEST. -/
def execAttest (s : SlotId) (st : State) : Answer := st.lift (fun c => c.takeSlot s false .attest)
/-- SET_CAP. -/
def execSetCap (s : SlotId) (st : State) : Answer := st.lift (fun c => c.takeSlot s false .setCap)
/-- COMPUTE_RESET. -/
def execComputeReset (s : SlotId) (st : State) : Answer := st.lift (fun c => c.takeSlot s false .computeReset)
/-- FW_STAGE. -/
def execFwStage (s : SlotId) (st : State) : Answer := st.lift (fun c => c.takeSlot s false .fwStage)
/-- FW_ACTIVATE. -/
def execFwActivate (s : SlotId) (st : State) : Answer := st.lift (fun c => c.takeSlot s false .fwActivate)
/-- STAGE_WRITE. -/
def execStageWrite (s : SlotId) (st : State) : Answer := st.lift (fun c => c.takeSlot s false .stageWrite)
/-- STAGE_READ. -/
def execStageRead (s : SlotId) (st : State) : Answer := st.lift (fun c => c.takeSlot s false .stageRead)
/-- PLAN_LOAD. -/
def execPlanLoad (s : SlotId) (st : State) : Answer := st.lift (fun c => c.takeSlot s false .planLoad)
/-- PLAN_CANCEL. -/
def execPlanCancel (s : SlotId) (st : State) : Answer := st.lift (fun c => c.takeSlot s false .planCancel)
/-- PLAN_STATUS. -/
def execPlanStatus (s : SlotId) (st : State) : Answer := st.lift (fun c => c.takeSlot s false .planStatus)
/-- CTX_CREATE. -/
def execCtxCreate (s : SlotId) (st : State) : Answer := st.lift (fun c => c.takeSlot s false .ctxCreate)
/-- CTX_TEARDOWN. -/
def execCtxTeardown (s : SlotId) (st : State) : Answer := st.lift (fun c => c.takeSlot s false .ctxTeardown)
/-- CTX_RESET. -/
def execCtxReset (s : SlotId) (st : State) : Answer := st.lift (fun c => c.takeSlot s false .ctxReset)
/-- CTX_HOLD. -/
def execCtxHold (s : SlotId) (st : State) : Answer := st.lift (fun c => c.takeSlot s false .ctxHold)
/-- CTX_RESUME. -/
def execCtxResume (s : SlotId) (st : State) : Answer := st.lift (fun c => c.takeSlot s false .ctxResume)
/-- CHECK_LOAD. -/
def execCheckLoad (s : SlotId) (st : State) : Answer := st.lift (fun c => c.takeSlot s false .checkLoad)
/-- CTX_STATUS. -/
def execCtxStatus (s : SlotId) (st : State) : Answer := st.lift (fun c => c.takeSlot s false .ctxStatus)
/-- STEP_DEFINE. -/
def execStepDefine (s : SlotId) (st : State) : Answer := st.lift (fun c => c.takeSlot s false .stepDefine)
/-- STEP_RUN. -/
def execStepRun (s : SlotId) (st : State) : Answer := st.lift (fun c => c.takeSlot s false .stepRun)
/-- STEP_STATUS. -/
def execStepStatus (s : SlotId) (st : State) : Answer := st.lift (fun c => c.takeSlot s false .stepStatus)
/-- PROG_LOAD. -/
def execProgLoad (s : SlotId) (st : State) : Answer := st.lift (fun c => c.takeSlot s false .progLoad)

/-! One meaning per operation of UCI-1 (Table 10-11). -/

/-- INFO. -/
def execUci1Info (s : SlotId) (st : State) : Answer := st.lift (fun c => c.takeSlot s true .getInfo)
/-- STAGE. -/
def execUci1Stage (s : SlotId) (st : State) : Answer := st.lift (fun c => c.takeSlot s true .stageWrite)
/-- PLAN. -/
def execUci1Plan (s : SlotId) (st : State) : Answer := st.lift (fun c => c.takeSlot s true .planLoad)
/-- OPEN_JOB. -/
def execOpenJob (s : SlotId) (st : State) : Answer := st.lift (fun c => c.takeSlot s true .ctxCreate)
/-- CLOSE_JOB. -/
def execCloseJob (s : SlotId) (st : State) : Answer := st.lift (fun c => c.takeSlot s true .ctxTeardown)
/-- RESET_JOB. -/
def execResetJob (s : SlotId) (st : State) : Answer := st.lift (fun c => c.takeSlot s true .ctxReset)
/-- RUN. -/
def execUci1Run (s : SlotId) (st : State) : Answer := st.lift (fun c => c.takeSlot s true .stepRun)
/-- STEP_STATE. -/
def execStepState (s : SlotId) (st : State) : Answer := st.lift (fun c => c.takeSlot s true .stepStatus)
/-- REPLAY. -/
def execUci1Replay (s : SlotId) (st : State) : Answer := st.lift (fun c => c.takeSlot s true .replay)
/-- FAULTS. -/
def execFaults (s : SlotId) (st : State) : Answer := st.lift (fun c => c.takeSlot s true .readFaultMap)

end Sys2Proof.Machine
end

