-- ==== Sys2Proof/Machine/Ibex.lean ====
section
/-! DEFINITION. The two Ibex units: frame-end copy, failure, takeover, resynchronisation, role swap, and the held
completions of the ring (R264-R278, R286). -/
namespace Sys2Proof.Machine

/-- The mailbox changed. -/
def Chip.modMbx (c : Chip) (f : Mbx → Mbx) : Chip := { c with mbx := f c.mbx }

/-- The mailbox with a unit replaced. -/
def Mbx.setUnit (m : Mbx) (u : IbexUnit) (k : Ibex) : Mbx :=
  match u with
  | .a => { m with unitA := k }
  | .b => { m with unitB := k }

/-- Final statuses that satisfy `p` are written (R270). -/
def Chip.release_ (c : Chip) (p : Final → Bool) : Chip :=
  let c1 := { c with img := { c.img with finals := c.img.finals.filter (fun f => !p f) } }
  (c.img.finals.filter p).foldl Chip.putFinal c1

/-- No standby keeps a copy any longer: what waited for it goes on at once (R264). -/
def Chip.dropSync (c : Chip) : Chip :=
  let c1 := c.modMbx (fun m => { m with
    synced := false, standby := Image.zero, copy := none, intents := [], waitAck := none, swapping := false, swapCopy := none
    resyncing := false, resync := 0 })
  let c2 := c1.release_ (fun f => !f.boundary)
  match c.mbx.waitAck with
  | some i => c2.carryOut i
  | none => c2

/-- A unit fails (R271-R273, R278). The active one is followed by the standby, where that is synced; otherwise a
package reset is ordered. With the standby a swap is abandoned. -/
def Chip.failIbex (c : Chip) (u : IbexUnit) : Chip :=
  if !(c.mbx.unit u).ok then c
  else
    let c1 := c.modMbx (fun m => m.setUnit u { running := (m.unit u).running, failed := true })
    if u = c.mbx.active then
      if c.mbx.synced && (c.mbx.unit c.mbx.other).ok then (c1.modMbx (fun m => { m with failFrame := some c.frm.frame })).refresh
      else (c1.orderPackage 3).refresh
    else if !(c.mbx.unit c.mbx.active).ok then (c1.orderPackage 3).refresh
    else
      let c2 := if c.mbx.swapping then c1.mbxErr 4 else c1
      c2.dropSync.refresh

/-- HEARTBEAT: the two units exchange a heartbeat in a control-class window; it takes its share of the private link (R267, R271). -/
def heartbeatEffect (c : Chip) : Chip :=
  if c.frm.inWindow && c.mbx.unitA.ok && c.mbx.unitB.ok then
    c.modMbx (fun m => { m with lastBeat := some c.frm.window, linkBytes := m.linkBytes + 2 * heartbeatBytes })
  else c

/-- HEARTBEAT. -/
def execHeartbeat (s : State) : Answer := s.lift heartbeatEffect

/-- No heartbeat came in this window and the one before; they are counted from the first frame boundary that both units have run. -/
def Chip.beatMissed (c : Chip) : Bool := c.frm.valid && c.mbx.lastBeat.any (fun w => decide (w + 2 ≤ c.frm.window))

/-- HEARTBEAT_MISS: a unit that has missed two consecutive heartbeats reports the other failed (R271). -/
def heartbeatMissEffect (by_ : IbexUnit) (c : Chip) : Chip :=
  if (c.mbx.unit by_).ok && c.beatMissed then c.failIbex (match by_ with
    | .a => .b
    | .b => .a)
  else c

/-- HEARTBEAT_MISS. -/
def execHeartbeatMiss (by_ : IbexUnit) (s : State) : Answer := s.lift (heartbeatMissEffect by_)

/-- IBEX_MEM_UE: the active unit counts as failed. -/
def execIbexMemUe (s : State) : Answer := s.lift (fun c => c.failIbex c.mbx.active)

/-- IBEX_WATCHDOG (R322): counted, and the unit is failed. -/
def ibexWatchdogEffect (u : IbexUnit) (c : Chip) : Chip := if (c.mbx.unit u).ok then (c.countHang 7).failIbex u else c

/-- IBEX_WATCHDOG. -/
def execIbexWatchdog (u : IbexUnit) (s : State) : Answer := s.lift (ibexWatchdogEffect u)

/-! The frame-end copy (R266, R270). -/

/-- The page verifies: its header has the LFN of the copy and the digest of its bytes. -/
def copyPageOk (lfn : BitVec 16) (p : CopyPage) : Bool := p.lfn == lfn && p.digest == (shake24 p.data).take 16

/-- The 32 bytes of a page header (R266; their order is log 98). -/
def copyHeader (p : CopyPage) : List Byte := padTo (leBytes 4 p.number.val ++ leBytes 4 p.lfn.toNat ++ p.digest) 32

/-- The standby verifies every page and the seal record of the copy of frame `lfn` (R266). -/
def sealOk (lfn : BitVec 16) (r : SealRecord) : Bool :=
  r.pages.all (copyPageOk lfn) && r.lfn == lfn && r.count == r.pages.length && r.digest == shake24 (r.pages.flatMap copyHeader)

/-- SEAL_RECORD: the standby acknowledges a copy that verifies, and applies its delta when the copy is sealed. -/
def sealRecordEffect (r : SealRecord) (c : Chip) : Chip :=
  match c.mbx.copy with
  | none => c
  | some k => if sealOk k.lfn r then c.modMbx (fun m => { m with copy := some { k with acked := true } }) else c

/-- SEAL_RECORD. -/
def execSealRecord (r : SealRecord) (s : State) : Answer := s.lift (sealRecordEffect r)

/-- The commands of slots and ring entries that a context still owes a status. -/
def Ctx.owed (x : Ctx) : List Cmd :=
  x.runs.map (·.cmd) ++ x.replay.toList.map (·.cmd) ++ x.holdCmds ++ x.resetCmds ++ x.teardownCmds ++ x.loadsFirst.map (·.1) ++ x.loadCmd.toList ++ x.unpaid.map (·.cmd)

/-- A sealed copy of a frame covers the completion of a command: the image owes it nothing, and no final status of a later
frame waits in it (R269). -/
def Copy.covers (k : Copy) (computeCmds : List Cmd) (cmd : Cmd) : Bool :=
  !((k.image.ctxs.flatMap (fun p => p.2.owed)) ++ computeCmds).contains cmd
    && !k.image.finals.any (fun f => f.cmd == cmd && (f.boundary || decide (k.frame < f.frame)))

/-- A copy is sealed: its image is the standby's, intents whose completion it covers are dropped, and the final statuses that it
covers are written (R266, R269, R270). -/
def Chip.sealCopy (c : Chip) (k : Copy) : Chip :=
  (c.modMbx (fun m => { m with
    copy := none, standby := k.image, sealedFrame := some k.frame, copyLfn := k.lfn
    intents := m.intents.filter (fun i => decide (k.frame < i.frame) || !k.covers c.flt.computeCmds i.cmd) })).release_
    (fun f => !f.boundary && decide (f.frame ≤ k.frame))

/-- COPY_SEAL: the acknowledgement reaches the active unit, and the copy is sealed. -/
def copySealEffect (c : Chip) : Chip :=
  match c.mbx.copy with
  | none => c
  | some k => if k.acked then c.sealCopy k else c

/-- COPY_SEAL. -/
def execCopySeal (s : State) : Answer := s.lift copySealEffect

/-- COPY_DEADLINE: a copy that is due is not sealed by tick 2,816 (R271). -/
def copyDeadlineEffect (c : Chip) : Chip :=
  if c.mbx.synced && c.mbx.copy.isSome && decide (2816 ≤ c.frm.tick) && c.mbx.failFrame.isNone then c.failIbex c.mbx.active else c

/-- COPY_DEADLINE. -/
def execCopyDeadline (s : State) : Answer := s.lift copyDeadlineEffect

/-! Takeover (R272). -/

/-- The intents of commands that the last sealed copy does not hold: a takeover completes them (R272). -/
def Mbx.openIntents (m : Mbx) : List Intent := m.intents.filter (fun i => m.sealedFrame.all (fun k => decide (k < i.frame)))

/-- A slot that is TAKEN belongs to a command that the package's image knows of. -/
def Chip.knows (c : Chip) (s : SlotId) : Bool :=
  c.mbx.openIntents.any (fun i => i.cmd.slot == s) || c.img.finals.any (fun f => (!f.ring || f.cmd.ver1) && f.cmd.slot == s)
    || (c.img.ctxs.flatMap (fun p => p.2.owed) ++ c.flt.computeCmds).any (fun k => k.ver1 && k.slot == s)

/-- A TAKEN slot returns to POSTED, ahead of those posted since. -/
def Chip.repost (c : Chip) (s : SlotId) : Chip :=
  if c.mbx.slotState s = 2 then
    c.modMbx (fun m => { m with store := wrByte m.store (slotBase s) 1, posted := (s, c.frm.frame) :: m.posted })
  else c

/-- A context being created is ready (R300): LOADED, or HELD for a reason that came meanwhile. -/
def Chip.created (c : Chip) (x : CtxId) : Chip :=
  if (c.ctx x).state = .creating then c.setCtxState x (if (c.ctx x).held = 0 then .loaded else .held) else c

/-- A context of an older image as a compute-domain reset in progress leaves it: HELD, at its first step not committed, its SRAM
cleared (R306, R326, R331). -/
def Ctx.recovering (x live : Ctx) : Ctx :=
  if x.state = .none ∨ x.state = .tearingDown then x
  else
    { x.recode (fun b => if b = 1 then 8 else b) with
      held := x.held ||| live.held ||| holdBit 4, state := if x.state = .creating ∨ x.state = .resetting then x.state else .held
      runs := x.runs.map (·.remember), loads := x.loadList, resetSince := true }

/-- A context of the image that the new active unit starts from: its energy counter lies in the power manager and has gone on (R312,
R313); a compute-domain reset goes on from its phase (R326). -/
def Chip.takeCtx (c : Chip) (x : CtxId) (k : Ctx) : Ctx :=
  let k1 := { k with energy := (c.ctx x).energy }
  if c.flt.rphase != 0 then k1.recovering (c.ctx x) else k1

/-- The image that the new active unit starts from: that of the last sealed copy, or the present one after
write-through (R276). A status that the failed unit has written after a seal is not written again; those that a seal has not yet
covered are still owed. -/
def Chip.takeImage (c : Chip) : Chip :=
  if c.mbx.swapping then c
  else
    let old := c.mbx.standby
    let done := old.finals.filter (fun f => f.boundary && decide (f.frame + 2 ≤ c.frm.frame))
    let c1 := { c with img := { old with
      finals := old.finals.filter (fun f => if f.boundary then decide (c.frm.frame < f.frame + 2) else c.mbx.sealedFrame.all (fun k => decide (k < f.frame)))
      held := c.img.held, nextCtag := c.img.nextCtag } }
    let c2 := allCtxs.foldl (fun q x => q.modCtx x (c.takeCtx x)) c1
    done.foldl (fun c f => c.created (Fin.ofNat 16 f.cmd.ctx.toNat)) c2

/-- Rollback of one context at a takeover, `n` frames after the last that was sealed: every frame since then, the frame of the
report among them (R252, R253, R255, R272). Where two frames have passed, the image is that of the frame before them: that one is
confirmed, and the first of the two counts as committed, to be revoked at the boundary. -/
def Chip.takeoverCtx (c : Chip) (n : Nat) (x : CtxId) : Chip :=
  let lfn := c.frm.lfn
  if !(c.ctx x).judged then c
  else if !c.checkOn x then c.chargeStop x
  else if 3 ≤ n then c.noticeLate x
  else
    let c1 := if n = 2 then
        (if (c.digCtx x).prevOpen then c.confirm x (lfn - 2) else c).modDig x (fun d => { d with prevOpen := true })
      else c
    let named := if n = 2 then lfn - 1 else lfn
    let hold := c1.cannotRestart x
    let d := c1.digCtx x
    let cause := orCase (orCase (orCase (if named = lfn then d.cause else d.lateCause) (decide (named ∈ d.losses)) 4)
      (decide (named ∈ d.stops)) 5) true 6
    let c2 := c1.modDig x (fun d =>
      let d1 := d.addNotice { lfn := named, restart := named + 4, hold := hold }
      if d1.decided then { d1 with forced := true, cause := lowerCause d1.cause 5 } else d1)
    c2.sendNotices x named (named + 4) lfn (cause.getD 6) hold

/-- IBEX_TAKEOVER: the standby has been granted control. -/
def takeoverEffect (c : Chip) : Chip :=
  match c.mbx.failFrame with
  | none => c
  | some _ =>
    if !(c.mbx.unit c.mbx.other).ok then c
    else
      let n := c.frm.frame - c.mbx.sealedFrame.getD 0
      let redo := if c.mbx.swapping then [] else c.mbx.openIntents
      let c1 := c.takeImage.modMbx (fun m => { m with
        activeB := !m.activeB, failFrame := none, synced := false, standby := Image.zero, copy := none, swapping := false, swapCopy := none
        resyncing := false, resync := 0, waitAck := none, cntTakeover := satInc m.cntTakeover 1 })
      let c2 := match c.mbx.waitAck with
        | some i => c1.repost i.cmd.slot
        | none => c1
      let c3 := (List.finRange 32).foldl (fun c s => if c.knows s then c else c.repost s) c2
      let c4 := redo.foldl Chip.carryOut c3
      let c5 := { c4.modMbx (fun m => { m with intents := [] }) with dig := { c4.dig with sendQ := [] } }
      let c6 := allCtxs.foldl (fun c x => c.takeoverCtx n x) (c5.release_ (fun f => !f.boundary))
      ((c6.mbxErr 3).event { code := 0x40, severity := 1, arg := b2n c.mbx.activeB }).refresh

/-- IBEX_TAKEOVER. -/
def execIbexTakeover (s : State) : Answer := s.lift takeoverEffect

/-! Reset and resynchronisation (R274). -/

/-- A unit that has failed and can be reset. -/
def Mbx.failedUnit (m : Mbx) : Option IbexUnit := if !(m.unit m.active).ok || (m.unit m.other).ok then none else some m.other

/-- IBEX_UNIT_RESET: dossier; the failed unit is reloaded, and the whole image of 8,192 pages is to be sent to it: until that is
done the package runs on a single unit. Ordered while both units run, it is a failure of the active one (R24, R271; log 68). Engine
resets are preempted and reported as absorbed (R26); it waits for a compute-domain reset, which goes on across a takeover (R326, log
114), and lasts until the next boundary. -/
def unitResetEffect (c : Chip) : Chip :=
  if c.mbx.failFrame.isSome || c.flt.inPackage then c
  else match c.mbx.failedUnit with
    | none => if c.mbx.unitA.ok && c.mbx.unitB.ok then c.failIbex c.mbx.active else c
    | some u =>
      if c.flt.resetDue || c.flt.rphase != 0 then c
      else
        let c1 := (c.collect { domain := 4, event := 0x40 }).modFlt (fun f =>
          { f.absorb f.engineResets with waiting := [], running := none, rdomain := 4 })
        (c1.modMbx (fun m => { m.setUnit u { running := true, failed := false } with
          resyncing := true, resync := 8192, lastBeat := some c.frm.window })).refresh

/-- IBEX_UNIT_RESET. -/
def execIbexUnitReset (s : State) : Answer := s.lift unitResetEffect

/-- RESYNC_DONE: every page has been sent, and after the seal of the last frame's copy the standby holds the whole image (R267,
R274). -/
def resyncDoneEffect (c : Chip) : Chip :=
  if c.mbx.resyncing && c.mbx.resync == 0 && c.mbx.copy.isNone && c.mbx.sealedFrame == some (c.frm.frame - 1) && c.mbx.failFrame.isNone then
    ((c.modMbx (fun m => { m with synced := true, resyncing := false })).mbxErr 5).refresh
  else c

/-- RESYNC_DONE. -/
def execResyncDone (s : State) : Answer := s.lift resyncDoneEffect

/-! Role swap (R275-R278). -/

/-- ROLE_SWAP: after the seal in a swap frame, write-through begins. -/
def roleSwapEffect (c : Chip) : Chip :=
  if c.mbx.swapDue && decide (c.frm.frame % 1024 = 0) && c.mbx.synced && !c.mbx.resyncing && c.mbx.failFrame.isNone && c.mbx.copy.isNone
      && c.mbx.sealedFrame == some (c.frm.frame - 1) then
    c.modMbx (fun m => { m with swapping := true, swapDue := false })
  else c

/-- ROLE_SWAP. -/
def execRoleSwap (s : State) : Answer := s.lift roleSwapEffect

/-- SWAP_HANDOVER: at tick 32 of the frame after the swap frame the grant moves to the incoming unit, which holds the image as it
stood at the end of the swap frame: what the seal of a copy of that frame would do, which the host could observe, is done now
(R276, R277). -/
def handoverEffect (c : Chip) : Chip :=
  match c.mbx.swapCopy with
  | some k =>
    if c.mbx.swapping && decide (32 ≤ c.frm.tick) && c.mbx.failFrame.isNone && decide (k.frame < c.frm.frame) then
      (c.modMbx (fun m => { m with activeB := !m.activeB, swapping := false, swapCopy := none })).sealCopy k
    else c
  | none => c

/-- SWAP_HANDOVER. -/
def execSwapHandover (s : State) : Answer := s.lift handoverEffect

/-! Held completions (R286). -/

/-- RING_WRITE: the first held completion is written as space appears. -/
def ringWriteEffect (c : Chip) : Chip :=
  match c.img.held with
  | [] => c
  | f :: fs => if c.mbx.ringFull || !c.mbx.fwRun || c.mbx.failFrame.isSome then c else { c with img := { c.img with held := fs } }.ringPut f

/-- RING_WRITE. -/
def execRingWrite (s : State) : Answer := s.lift ringWriteEffect

end Sys2Proof.Machine
end

