-- ==== Sys2Proof/Machine/Boundary.lean ====
section
/-! DEFINITION. The frame boundary (R164) and the clearing of released band rows (R135, R309): what every block does
when a frame ends and the next begins. -/
namespace Sys2Proof.Machine

/-! Units. -/

/-- A core's step has passed a boundary; a frame in which its clock was gated does not count (R322). -/
def Core.age (k : Core) : Core :=
  if k.clock.gatedFrame then k else { k with step := k.step.map (fun s => { s with boundaries := s.boundaries + 1 }) }

/-- An engine's step has passed a boundary. -/
def Engine.age (k : Engine) : Engine :=
  if k.gated then k else { k with step := k.step.map (fun s => { s with boundaries := s.boundaries + 1 }) }

/-! Plan (R177, R178, R218, R232, R233). -/

/-- Every tombstone is one boundary older. -/
def Plan.age (p : Plan) : Plan :=
  { p with tombAge := p.circ.foldl (fun t e => if circTomb e.2 then tset 0 t e.1 (tget 0 t e.1 + 1) else t) p.tombAge }

/-- A circuit that ORIGINates or TERMINATEs here and that a bundle does not bind. -/
def PlanImage.ceases (g : PlanImage) (e : Nat × Word) : Bool :=
  circValid e.2 && !circTomb e.2 && circRole e.2 != 1 && tget 0 g.circs e.1 == 0

/-- A bundle becomes active: circuits that cease are tombstoned, and a tombstoned circuit is bound only when its
tombstone expires. -/
def Plan.activate (p : Plan) (g : PlanImage) : Plan :=
  let kept := { p with circ := p.circ.filter (fun e => circTomb e.2 || g.ceases e) }
  let dead := (p.circ.filter g.ceases).foldl (fun (q : Plan) e => q.tomb e.1) kept
  { dead with
    active := some g, pending := none
    circ := g.circs.foldl (fun t e => if circTomb (tget 0 t e.1) then t else tset 0 t e.1 e.2) dead.circ }

/-- The pending plan is due: the LFN that begins lies at or after ACT_LFN (R178). -/
def Plan.due (p : Plan) (lfn : BitVec 16) : Option PlanImage := p.pending.filter (fun g => decide (0 ≤ lfnDist g.actLfn lfn))

/-- The plan at the boundary that begins frame `lfn`; after FREERUN it runs again with the new lock (R170, R171). -/
def Chip.planBoundary (c : Chip) (lfn : BitVec 16) : Chip :=
  let c1 := { c with plan := { c.plan with stopped := c.plan.stopped && decide (c.frm.state = FrmState.freerun) } }
  match c1.plan.due lfn with
  | none => c1
  | some g => { c1 with plan := c1.plan.activate g }.circuitsChanged c.plan.circ

/-! Contexts (R300, R304, R306-R309). -/

/-- Commands that wait get OK in the ring. -/
def Chip.finishAll (c : Chip) (cmds : List Cmd) : Chip := cmds.foldl (fun c cmd => c.finish cmd true stOk 0 0 []) c

/-- CTX_HOLD commands that wait get OK in the ring, after the memory accesses of the context (R287). -/
def Chip.finishHolds (c : Chip) (x : CtxId) (cmds : List Cmd) : Chip := cmds.foldl (fun c cmd => c.finishAfter x cmd true stOk 0 0) c

/-- Holds that fall due, and runs that end with FAULTED (R251, R306). -/
def Chip.holdBoundary (c : Chip) (x : CtxId) : Chip :=
  let k := c.ctx x
  let c1 := if k.holdNext = 0 then c else c.enterHold x k.holdNext
  let c2 := if k.stopNext then (c1.endRuns x).modCtx x (fun k => { k with stopNext := false }) else c1
  (c2.modCtx x (fun k => { k with holdCmds := [] })).finishHolds x k.holdCmds

/-- The codes of steps that a reset or a teardown cuts off: running ones are ABANDONED, ones to be started again
become NOT_RUN. -/
def cutCode (b : Byte) : Byte := if b = 1 ∨ b = 2 then 8 else if b = 5 then 7 else b

/-- CTX_RESET takes effect: runs end, the context is reset, FAULT is cleared (R308), and it is guilty no more (R334). -/
def Chip.resetBoundary (c : Chip) (x : CtxId) : Chip :=
  (((c.endRuns x).resetOnce x |>.modCtx x (fun k => { k.recode cutCode with held := k.held &&& ~~~ holdBit 7 })).modFlt (fun f =>
    { f with guilty := f.guilty &&& ~~~ ctxBit x })).setCtxState x .resetting

/-- A context whose reset and repetition are complete: LOADED, or HELD where a reason remains; a teardown that
waited begins (Table 11-5). A repetition of which a load failed leaves the reason RELOAD (log 116). -/
def Chip.resetDone (c : Chip) (x : CtxId) : Chip :=
  let k := c.ctx x
  let held := k.held ||| (if k.needReload then holdBit 5 else 0)
  let next : CtxState := if k.teardownCmds ≠ [] then .tearingDown else if held = 0 then .loaded else .held
  ((c.modCtx x (fun k => { k with resetCmds := [], held := held })).setCtxState x next).finishAll k.resetCmds

/-- A core without a context. -/
def Core.unbind (k : Core) : Core := { k with ctx := none }

/-- An engine without a context: its window is zero. -/
def Engine.unbind (k : Engine) : Engine := { k with ctx := none, winBase := 0, winLimit := 0 }

/-- The rows of a context, in order. -/
def Chip.rowsOf (c : Chip) (x : CtxId) : List (Fin 48) := (List.finRange 48).filter (fun b => (c.band b.val).valid && (c.band b.val).owner == x)

/-- The rows of a context are released and wait to be cleared (R135). -/
def Chip.releaseRows (c : Chip) (x : CtxId) : Chip :=
  let rows := c.rowsOf x
  { c with mem := { c.mem with
      bands := rows.foldl (fun t b => tmod Band.zero t b.val (fun d => { d with valid := false, clearing := true })) c.mem.bands
      waiting := c.mem.waiting ++ rows, undo := c.mem.undo.filter (fun u => u.ctx != x) } }

/-- Loads in progress end with their context: their commands get FAULTED with nothing completed. -/
def Chip.dropLoad (c : Chip) (x : CtxId) : Chip :=
  let cmds := (c.ctx x).loadsFirst.map (·.1) ++ (c.ctx x).loadCmd.toList
  cmds.foldl (fun c cmd => c.finish cmd true stFaulted 0 0 []) (c.modCtx x (fun k => { k with loadCmd := none, loadsFirst := [] }))

/-- CTX_TEARDOWN takes effect (R309): frames not confirmed are dropped, runs end, units are reset and unbound, rows
are released, and the context leaves the suspect set (R333). A CTX_RESET that was to take effect at the same boundary is done with it
(log 116). -/
def Chip.teardownBoundary (c : Chip) (x : CtxId) : Chip :=
  let cmds := (c.ctx x).holdCmds ++ (c.ctx x).resetCmds
  let c1 := ((c.endRuns x).dropLoad x).resetOnce x
  let c2 := (c1.modUnits x Core.unbind Engine.unbind).releaseRows x
  let c3 := { c2 with plan := c2.plan.dropCtx x }
  let c4 := { c3 with dig := { c3.dig with sendQ := c3.dig.sendQ.filter (fun r => r.ctx != x) } }.modFlt (fun f =>
    { f with suspect := f.suspect &&& ~~~ ctxBit x, guilty := f.guilty &&& ~~~ ctxBit x })
  (c4.modCtx x (fun k => { k.recode cutCode with
    bands := 0, bmode := 0, loads := [], loadList := [], holdCmds := [], resetCmds := [], holdNext := 0, stopNext := false })).finishHolds x cmds

/-- A context at a boundary. -/
def Chip.ctxBoundary (c0 : Chip) (x : CtxId) : Chip :=
  let c := c0.payUnpaid x
  match (c.ctx x).state with
  | .none => c
  | .tearingDown => if (c.ctx x).bands = 0 then c else c.teardownBoundary x
  | .resetting =>
    let c0 := c.holdBoundary x
    let c1 := if (c0.ctx x).loads.isEmpty then c0.resetDone x else c0
    if (c1.ctx x).state = .tearingDown then c1.teardownBoundary x else c1
  | _ => if (c.ctx x).resetCmds = [] then c.holdBoundary x else (c.holdBoundary x).resetBoundary x

/-- The loads that a context owes are carried out, but not during a compute-domain reset (R304). -/
def Chip.loadBoundary (ups : Upsets) (c : Chip) (x : CtxId) : Chip :=
  if c.flt.rphase = 0 ∧ (c.ctx x).state ≠ .none ∧ (c.ctx x).state ≠ .tearingDown then c.carryLoads x ups else c

/-- Contexts whose creation is covered by a seal are ready, and their ring entries are written (R300). -/
def Chip.createBoundary (c : Chip) : Chip :=
  let due := fun (f : Final) => f.boundary && (!c.mbx.synced || c.mbx.sealedFrame.any (fun k => decide (f.frame ≤ k)))
  let ready := (c.img.finals.filter due).map (fun f => Fin.ofNat 16 f.cmd.ctx.toNat)
  (ready.foldl Chip.created c).release_ due

/-- A step replay that UCI-1 asked for starts (R261), none before the restart LFN (R254). -/
def Chip.replayStart (c : Chip) (lfn : BitVec 16) (x : CtxId) : Chip :=
  match (c.ctx x).replay with
  | some r =>
    if r.running.isNone && (c.digCtx x).restartAt.all (fun q => decide (0 ≤ lfnDist q lfn)) then
      let r1 := { r with running := some 0, next := 1 }
      (c.modCtx x (fun k => { k with replay := some r1 })).startStep x r1
    else c
  | none => c

/-- A context whose restore is not complete at its restart boundary: UNDO_SLOW, a ROLLBACK record with HOLD, and the context is
held (R254, R259). -/
def Chip.undoBoundary (c : Chip) (slow : BitVec 16) (lfn : BitVec 16) (x : CtxId) : Chip :=
  let d := c.digCtx x
  if bit slow x.val && c.checkOn x && d.restartAt == some lfn && (c.ctx x).settled then
    (((c.digErr 5).sendNotices x (d.rolled.headD lfn) lfn lfn 5 true)).enterHold x (holdBit 3)
  else c

/-- What a context starts at the boundary that begins frame `lfn` (R60, R106, R254, R260, R290). -/
def Chip.startBoundary (c : Chip) (lfn : BitVec 16) (x : CtxId) : Chip :=
  if c.flt.rphase = 0 ∧ ((c.ctx x).settled) then (c.ctxStarts x lfn).replayStart lfn x else c

/-! The mailbox (R266, R268, R275, R285). -/

/-- SHED_LEVEL of a load in percent (Table 10-6). -/
def shedLevel (load : Nat) : BitVec 2 := if load < 75 then 0 else if load < 85 then 1 else if load < 95 then 2 else 3

/-- The frame-end copy of frame `f` begins where one is due or a unit is being resynchronised (R266, R274); of a swap frame none is
sent (R276). A delta of more than 1,024 pages is a failure of the active unit, be there a standby or not (R268). -/
def Chip.copyBoundary (c : Chip) (f : Nat) (lfn : BitVec 16) (m : FrameMeasure) : Chip :=
  let k : Copy := { frame := f, lfn := lfn, image := c.img, acked := false }
  let c1 := if c.mbx.synced && c.mbx.swapping then c.modMbx (fun m => { m with swapCopy := some k })
    else if c.mbx.synced || c.mbx.resyncing then
      c.modMbx (fun q => { q with copy := some k, resync := q.resync - BitVec.ofNat 16 (min m.resyncPages q.resync.toNat) })
    else c
  if 1024 < m.deltaPages then c1.failIbex c.mbx.active else c1

/-- Load, budget and swap frame of the frame that begins. -/
def Chip.mbxBoundary (c : Chip) (load : Nat) : Chip :=
  c.modMbx (fun m => { m with
    pages := 0, linkBytes := 0, load := BitVec.ofNat 8 load, shed := shedLevel load, swapDue := m.swapDue || decide (c.frm.frame % 4194304 = 0)
    lastBeat := m.lastBeat.orElse (fun _ => if m.unitA.ok && m.unitB.ok then some c.frm.window else none) })

/-! The boundary. -/

/-- A core's firmware region is read through ECC (R62). -/
def Core.readFirmware (k : Core) : Core := (k.sramErr.filter (fun e => decide (e.1 < saveLo / 8))).foldl (fun k e => k.eccWord e.1) k

/-- Every core in service has fetched its firmware (log 90); a fetch from a poisoned granule of the firmware region is a fault of
the unit (R63, Table 12-1). -/
def Chip.fetchFirmware (c : Chip) : Chip :=
  c.cores.foldl (fun c p =>
    let n : CoreId := Fin.ofNat 2448 p.1
    if (c.core n).fw && (c.core n).state.usable then
      let c1 := c.modCore n Core.readFirmware
      if (c1.core n).poison.any (fun g => g.2 && decide (g.1 < saveLo / 64)) then c1.quarantine (.core n) else c1
    else c) c

/-- What ends with frame `f`: waits, measurements, links, and the decision on every context (R186, R206, R312). -/
def Chip.endFrame (c : Chip) (m : FrameMeasure) (next : BitVec 16) : Chip :=
  let c0 := allCtxs.foldl (fun c x => c.modCtx x (fun k => { k with justReset := false })) c.waitsBoundary
  let c1 := ((c0.mapUnits Core.age Engine.age).fetchFirmware).powerBoundary m c0.frm.frame
  let c2 := { c1 with plan := c1.plan.age }
  let c3 := allLinks.foldl (fun c l => (c.linkBoundary next l).shortBoundary l) c2
  allCtxs.foldl (fun c x => if (c.ctx x).judged then c.applyDecision x c.frm.lfn else c) c3

/-- What begins with the next frame. -/
def Chip.beginFrame (c : Chip) (m : FrameMeasure) (f : Nat) (old : BitVec 16) : Chip :=
  let lfn := c.frm.lfn
  let c1 := allCtxs.foldl Chip.ctxBoundary (c.planBoundary lfn)
  let c2 := (allCtxs.foldl (Chip.loadBoundary m.ups) c1).createBoundary
  let c3 := (c2.copyBoundary f old m).mbxBoundary m.load.val
  let c4 := allCtxs.foldl (fun c x => (c.undoBoundary m.slowUndo lfn x).startBoundary lfn x) c3
  let c5 := { c4 with
    flt := { c4.flt with trialLeft := c4.flt.trialLeft - 1 }.ibexDone, dig := { c4.dig with inbound := 0 }
    rte := { c4.rte with llogged := [], lossSent := c4.rte.lossSent.filter (fun p => decide (0 ≤ lfnDist lfn (BitVec.ofNat 16 p.lfn))) } }
  (allLinks.foldl Chip.shortNotices c5).refresh

/-- A frame ends and the next begins; where FREERUN is due, it is entered at this boundary (R170). -/
def Chip.passBoundary (c0 : Chip) (m : FrameMeasure) : Chip :=
  let c := freerunEffect (allLinks.foldl Chip.flushTx c0)
  let c1 := c.endFrame m c.frm.nextFrame.lfn
  { c1 with frm := c1.frm.nextFrame }.beginFrame m c.frm.frame c.frm.lfn

/-- FRAME_BOUNDARY: the boundary is passed once the frame has lasted its time (R164, R184). Before lock there are no
frames. -/
def frameBoundaryEffect (m : FrameMeasure) (c : Chip) : Chip := if c.frm.ended then c.passBoundary m else c

/-- FRAME_BOUNDARY. -/
def execFrameBoundary (m : FrameMeasure) (s : State) : Answer := s.lift (frameBoundaryEffect m)

/-! Clearing (R135, R309). -/

/-- A context whose last row has been released no longer exists; its energy counter can still be read (R309,
R312). -/
def Chip.ctxGone (c0 : Chip) (x : CtxId) : Chip :=
  let c := c0.payUnpaid x
  let k := c.ctx x
  let c1 := (c.modCtx x (fun k => { Ctx.zero with energy := k.energy, tchange := c.now })).modDig x (fun _ => DigCtx.zero)
  ((c1.recordRmem x).finishAll k.teardownCmds).refresh

/-- BAND_CLEAR_DONE: the row that is being cleared is zero, and unowned. It is not done while a move in flight of its context can
still write to it (R287, Table 11-7). -/
def bandClearEffect (b : Fin 48) (c : Chip) : Chip :=
  if c.mem.waiting.head? = some b ∧ ¬ c.inFlight (c.band b.val).owner then
    let x := (c.band b.val).owner
    let c1 := c.clearRow b.val
    if (c.ctx x).state = .tearingDown ∧ !c1.mem.waiting.any (fun w => (c1.band w.val).owner == x) then c1.ctxGone x else c1
  else c

/-- BAND_CLEAR_DONE. -/
def execBandClearDone (b : Fin 48) (s : State) : Answer := s.lift (bandClearEffect b)

end Sys2Proof.Machine
end

