-- ==== Sys2Proof/Machine/CoreVec.lean ====
section
/-! DEFINITION. The vector unit (R67, R74-R78). -/
namespace Sys2Proof.Machine

/-- The operand fields of a VEC instruction (Table 3-5). -/
structure VecOp where
  vd : Nat
  vs1 : Nat
  vs2 : Nat
  vs3 : Nat
  a : Nat
  off : Nat
  fmt : Nat
  blk : Nat
  sub : Nat

/-- The fields of a VEC instruction. -/
def vecOp (w : BitVec 54) : VecOp :=
  { vd := bits w 53 49, vs1 := bits w 48 44, vs2 := bits w 43 39, vs3 := bits w 38 34, a := bits w 33 30
    off := bits w 29 18, fmt := bits w 17 14, blk := bits w 13 6, sub := bits w 5 0 }

/-- A block operand: its element bytes start at `el` and are `len` long, its header byte is at `hd` unless
the format has none. -/
structure BlockRef where
  base : Nat
  el : Nat
  len : Nat
  hd : Option Nat

/-- Block `i` of a block vector at `x` whose elements have `width` bits; FP32 has no header. -/
def blockRef (f : Fmt) (x i : Nat) : BlockRef :=
  { base := x, el := vecBlockAt f x i, len := 4 * f.width
    hd := if f = .conv .fp32 then none else some (vecExpAt f.width x i) }

/-- The whole block lies in the context area. -/
def BlockRef.inArea (b : BlockRef) : Bool :=
  inCtxArea b.el b.len && match b.hd with
    | some h => inCtxArea h 1
    | none => true

/-- A block is read through ECC. -/
def BlockRef.touch (b : BlockRef) (k : Core) : Core :=
  let k1 := k.touch b.el b.len
  match b.hd with
  | some h => k1.touch h 1
  | none => k1

/-- The poisoned granules that a read of the block consumes. -/
def BlockRef.poison (b : BlockRef) (k : Core) : List Nat :=
  (k.poisonedIn b.el b.len ++ match b.hd with
    | some h => k.poisonedIn h 1
    | none => []).eraseDups

/-- A format code of a VLD or VST: the format of its elements, codes 0-9. -/
def vecFmt (code : Nat) : Option Fmt :=
  match rawOf code with
  | some f => some (.oct f)
  | none => fmtOf code

/-- One lane of a VLD: the word and whether the conversion reported SAT (R63, R77, R78). -/
def vldLane (code : Nat) (f : Fmt) (e : Option Nat) (b : Byte) : Word × Bool :=
  match rawOf code with
  | some o => (BitVec.ofNat 32 (e.getD o.nar + 65536 * b.toNat), false)
  | none =>
    if f = .conv .fp32 then
      match e with
      | some v => (BitVec.ofNat 32 v, false)
      | none => (0x7FC00001, false)
    else match e with
      | none => (0x7FC00001, false)
      | some v => let r := CFmt.fp32.encode (f.value v b); (BitVec.ofNat 32 r.1, r.2)

/-- VLD in a core. -/
def coreVld (w : BitVec 54) (k : Core) : CoreOut :=
  let o := vecOp w
  match vecFmt o.fmt with
  | none => .fail k 0
  | some f =>
    let b := blockRef f (k.opAddr o.a o.off) o.blk
    if b.base % 64 ≠ 0 then .fail k 1
    else if !b.inArea then .fail k 2
    else
      let k1 := b.touch k
      let ex := match b.hd with
        | some h => k1.expAt h
        | none => 0
      let ls := (k1.blockAt f.width b.el).map (fun e => vldLane o.fmt f e ex)
      { core := (k1.setV o.vd (ls.map (·.1))).raiseSat (ls.countP (·.2)), poison := b.poison k1 }

/-- VLD. -/
def execVld (n : CoreId) (w : BitVec 54) (s : State) : Answer := s.lift (fun c => c.coreStep n (.vld n w) (coreVld w))

/-- A block to write: its header byte, its codes, and how many conversions saturated. -/
structure BlockOut where
  head : Byte
  codes : List Nat
  sat : Nat

/-- The block that a conversion of values writes: block exponent BO, or the automatic one (R50, R77). -/
def convBlock (f : Fmt) (auto : Bool) (bo : Byte) (vs : List Val) : BlockOut :=
  match f with
  | .oct o =>
    let e := if auto then o.autoExp vs else bexp bo
    let rs := vs.map (o.round e)
    { head := ofBexp e, codes := rs.map (·.1), sat := rs.countP (·.2) }
  | .conv o =>
    let rs := vs.map o.encode
    { head := 0, codes := rs.map (·.1), sat := rs.countP (·.2) }

/-- What writing blocks writes: their elements, then their header bytes. -/
def blockWrites (width : Nat) (bs : List (BlockRef × BlockOut)) : List (Nat × List Byte) :=
  bs.map (fun p => (p.1.el, packBlock width p.2.codes))
    ++ bs.filterMap (fun p => p.1.hd.map (fun h => (h, [p.2.head])))

/-- The core with a block written. -/
def BlockRef.write (b : BlockRef) (k : Core) (width : Nat) (o : BlockOut) : Core := k.storeAll (blockWrites width [(b, o)])

/-- VST in a core. -/
def coreVst (w : BitVec 54) (k : Core) : CoreOut :=
  let o := vecOp w
  let ls := k.vreg o.vs1
  let auto := bit w 0
  let bo : Byte := BitVec.ofNat 8 (bits w 43 36)
  match vecFmt o.fmt with
  | none => .fail k 0
  | some f =>
    let b := blockRef f (k.opAddr o.a o.off) o.blk
    let ex0 := bits (ls.getD 0 0) 23 16
    let raw := (rawOf o.fmt).isSome
    let octave : Bool := match f with
      | .oct _ => true
      | .conv _ => false
    if b.base % 64 ≠ 0 ∨ (raw ∧ ¬ ls.all (fun l => bits l 23 16 == ex0)) ∨ (octave ∧ ¬ raw ∧ ¬ auto ∧ bo = 0x80) then
      .fail k 1
    else if !b.inArea then .fail k 2
    else
      let out : BlockOut :=
        if raw then { head := BitVec.ofNat 8 ex0, codes := ls.map (fun l => l.toNat % 2 ^ f.width), sat := 0 }
        else if f = .conv .fp32 then { head := 0, codes := ls.map (·.toNat), sat := 0 }
        else convBlock f auto bo (ls.map ofFp32)
      .ok ((b.write k f.width out).raiseSat out.sat)

/-- VST. -/
def execVst (n : CoreId) (w : BitVec 54) (s : State) : Answer := s.lift (fun c => c.coreStep n (.vst n w) (coreVst w))

/-- An instruction that writes v[VD] from the core's registers. -/
def vecWrite (w : BitVec 54) (f : VecOp → Core → List Word) (k : Core) : CoreOut :=
  let o := vecOp w
  .ok (k.setV o.vd (f o k))

/-- A lane operation of two registers. -/
def lanes2 (f : Word → Word → Word) (o : VecOp) (k : Core) : List Word :=
  List.zipWith f (k.vreg o.vs1) (k.vreg o.vs2)

/-- A lane operation of three registers. -/
def lanes3 (f : Word → Word → Word → Word) (o : VecOp) (k : Core) : List Word :=
  (List.range 32).map (fun i => f (k.laneOf o.vs1 i) (k.laneOf o.vs2 i) (k.laneOf o.vs3 i))

/-- A lane operation of one register. -/
def lanes1 (f : Word → Word) (o : VecOp) (k : Core) : List Word := (k.vreg o.vs1).map f

/-- VADD. -/
def execVadd (n : CoreId) (w : BitVec 54) (s : State) : Answer :=
  s.lift (fun c => c.coreStep n (.vadd n w) (vecWrite w (lanes2 fAdd)))

/-- VSUB. -/
def execVsub (n : CoreId) (w : BitVec 54) (s : State) : Answer :=
  s.lift (fun c => c.coreStep n (.vsub n w) (vecWrite w (lanes2 fSub)))

/-- VMUL. -/
def execVmul (n : CoreId) (w : BitVec 54) (s : State) : Answer :=
  s.lift (fun c => c.coreStep n (.vmul n w) (vecWrite w (lanes2 fMul)))

/-- VFMA: VS1 x VS2 + VS3 with one rounding. -/
def execVfma (n : CoreId) (w : BitVec 54) (s : State) : Answer :=
  s.lift (fun c => c.coreStep n (.vfma n w) (vecWrite w (lanes3 fFma)))

/-- VMAX. -/
def execVmax (n : CoreId) (w : BitVec 54) (s : State) : Answer :=
  s.lift (fun c => c.coreStep n (.vmax n w) (vecWrite w (lanes2 fMax)))

/-- VMIN. -/
def execVmin (n : CoreId) (w : BitVec 54) (s : State) : Answer :=
  s.lift (fun c => c.coreStep n (.vmin n w) (vecWrite w (lanes2 fMin)))

/-- VEXP2. -/
def execVexp2 (n : CoreId) (w : BitVec 54) (s : State) : Answer :=
  s.lift (fun c => c.coreStep n (.vexp2 n w) (vecWrite w (lanes1 fExp2)))

/-- VLOG2. -/
def execVlog2 (n : CoreId) (w : BitVec 54) (s : State) : Answer :=
  s.lift (fun c => c.coreStep n (.vlog2 n w) (vecWrite w (lanes1 fLog2)))

/-- VRCP. -/
def execVrcp (n : CoreId) (w : BitVec 54) (s : State) : Answer :=
  s.lift (fun c => c.coreStep n (.vrcp n w) (vecWrite w (lanes1 fRcp)))

/-- VRSQ. -/
def execVrsq (n : CoreId) (w : BitVec 54) (s : State) : Answer :=
  s.lift (fun c => c.coreStep n (.vrsq n w) (vecWrite w (lanes1 fRsq)))

/-- VCMP in a core: SUB 0 EQ, 1 LT, 2 LE, 3 NE; any other is illegal. -/
def coreVcmp (w : BitVec 54) (k : Core) : CoreOut :=
  let o := vecOp w
  if 3 < o.sub then .fail k 0 else vecWrite w (lanes2 (fCmp o.sub)) k

/-- VCMP. -/
def execVcmp (n : CoreId) (w : BitVec 54) (s : State) : Answer := s.lift (fun c => c.coreStep n (.vcmp n w) (coreVcmp w))

/-- One lane of VSEL: VS1 where the lane of VS3 is not zero, else VS2. A poison NaN in any of the three lanes gives the
poison NaN, and a selected NaN is written as 0x7FC0_0000 (R75). -/
def fSel (a b m : Word) : Word :=
  let x := if m = 0 then b else a
  if a = 0x7FC00001 ∨ b = 0x7FC00001 ∨ m = 0x7FC00001 then 0x7FC00001
  else match ofFp32 x with
    | .nan => 0x7FC00000
    | _ => x

/-- VSEL. -/
def execVsel (n : CoreId) (w : BitVec 54) (s : State) : Answer :=
  s.lift (fun c => c.coreStep n (.vsel n w) (vecWrite w (lanes3 fSel)))

/-- VSUM: the exact sum in lane 0, zero in the others (R76). -/
def execVsum (n : CoreId) (w : BitVec 54) (s : State) : Answer :=
  s.lift (fun c => c.coreStep n (.vsum n w) (vecWrite w (fun o k => [fSum (k.vreg o.vs1)])))

/-- VMAXR: the largest lane in lane 0, zero in the others. -/
def execVmaxr (n : CoreId) (w : BitVec 54) (s : State) : Answer :=
  s.lift (fun c => c.coreStep n (.vmaxr n w) (vecWrite w (fun o k => [fMaxAll (k.vreg o.vs1)])))

/-- One raw lane of VOMUL (R78) and whether its rounding reported SAT. -/
def vomulLane (f : OFmt) (a b : Word) : Word × Bool :=
  let r := f.vomul (a.toNat % 2 ^ f.width) (BitVec.ofNat 8 (bits a 23 16)) (b.toNat % 2 ^ f.width)
    (BitVec.ofNat 8 (bits b 23 16))
  (BitVec.ofNat 32 (r.1 + 65536 * r.2.1.toNat), r.2.2)

/-- VOMUL in a core: FMT must be 7, 8 or 9 (R78). -/
def coreVomul (w : BitVec 54) (k : Core) : CoreOut :=
  let o := vecOp w
  match rawOf o.fmt with
  | none => .fail k 0
  | some f =>
    let ls := List.zipWith (vomulLane f) (k.vreg o.vs1) (k.vreg o.vs2)
    .ok ((k.setV o.vd (ls.map (·.1))).raiseSat (ls.countP (·.2)))

/-- VOMUL. -/
def execVomul (n : CoreId) (w : BitVec 54) (s : State) : Answer := s.lift (fun c => c.coreStep n (.vomul n w) (coreVomul w))

/-- VMOVA in a core: SUB 0 fills the lanes with a[A], SUB 1 moves lane BLK[4:0] of VS1 to a[A]. -/
def coreVmova (w : BitVec 54) (k : Core) : CoreOut :=
  let o := vecOp w
  if o.sub = 0 then .ok (k.setV o.vd (List.replicate 32 (k.areg o.a)))
  else if o.sub = 1 then .ok (k.setA o.a (k.laneOf o.vs1 (o.blk % 32)))
  else .fail k 0

/-- VMOVA. -/
def execVmova (n : CoreId) (w : BitVec 54) (s : State) : Answer := s.lift (fun c => c.coreStep n (.vmova n w) (coreVmova w))

end Sys2Proof.Machine
end

