-- ==== Sys2Proof/Machine/CoreLedg.lean ====
section
/-! DEFINITION. LEDG instructions of a lattice core (R41, R71, R72, R242). -/
namespace Sys2Proof.Machine

/-- Ledgers LB to LB + N of an instruction (R71). -/
def ledgRange (w : BitVec 54) : List Nat := (List.range (bits w 47 42 + 1)).map (fun m => bits w 53 48 + m)

/-- LB + N is 63 at most (R71). -/
def ledgRangeOk (w : BitVec 54) : Bool := decide (bits w 53 48 + bits w 47 42 ≤ 63)

/-- The core with `f` applied to each ledger of the range in ascending order. -/
def onLedgers (w : BitVec 54) (f : Nat → Core → Core × Raised) (k : Core) : Core × Raised :=
  (ledgRange w).foldl (fun s i => let r := f i s.1; (r.1, s.2.or r.2)) (k, Raised.none)

/-- LEDG.CLR in a core. -/
def coreLedgClr (w : BitVec 54) (k : Core) : CoreOut :=
  if bits w 27 0 ≠ 0 then .fail k 0
  else if !ledgRangeOk w then .fail k 1
  else
    let l := Ledger.clear (BitVec.ofNat 3 (bits w 41 39)) (BitVec.ofNat 11 (bits w 38 28))
    let r := onLedgers w (fun i k => (k.setLedger i l.1, l.2)) k
    { core := r.1, raised := r.2 }

/-- LEDG.CLR. -/
def execLedgClr (n : CoreId) (w : BitVec 54) (s : State) : Answer := s.lift (fun c => c.coreStep n (.ledgClr n w) (coreLedgClr w))

/-- A read of ledger `i` (R46, R241). -/
def Core.readLedger (k : Core) (lprot : Bool) (i : Nat) : Core × Raised :=
  let r := (k.ledger i).read lprot
  (k.setLedger i r.1, r.2)

/-- Ledger `i` as a conversion reads it (R46, R241). -/
def Core.convLedger (k : Core) (lprot : Bool) (i : Nat) : Core × Raised :=
  let r := (k.ledger i).conv lprot k.convBad
  (k.setLedger i r.1, r.2)

/-- The blocks of values that a conversion of `vs` makes: 32 elements each. -/
def valBlocks : Nat → List Val → List (List Val)
  | 0, _ => []
  | n + 1, vs => vs.take 32 :: valBlocks n (vs.drop 32)

/-- A block with zero codes in its unused elements. -/
def padBlock (b : BlockOut) : BlockOut := { b with codes := b.codes ++ List.replicate (32 - b.codes.length) 0 }

/-- Whether a LEDG.CVT is legal in its formats (R68, R71). -/
def cvtLegal (w : BitVec 54) : Bool :=
  let fmt := bits w 25 22
  let auto := bit w 21
  let n1 := bits w 47 42 + 1
  decide (fmt ≤ 6) && bits w 3 0 == 0 && !(decide (3 ≤ fmt) && (auto || bits w 20 13 != 0))
    && !(auto && (bits w 53 48 % 32 != 0 || !(n1 == 32 || n1 == 64)))

/-- LEDG.CVT in a core (R71). -/
def coreLedgCvt (w : BitVec 54) (lprot : Bool) (k : Core) : CoreOut :=
  let auto := bit w 21
  let bo : Byte := BitVec.ofNat 8 (bits w 20 13)
  let x := k.opAddr (bits w 41 38) (bits w 37 26)
  let blk := bits w 11 4
  match fmtOf (bits w 25 22) with
  | none => .fail k 0
  | some f =>
    let refs := (List.range (bits w 47 42 / 32 + 1)).map (fun i => blockRef f x (blk + i))
    if !cvtLegal w then .fail k 0
    else if !ledgRangeOk w || (bits w 25 22 < 3 && !auto && bo == 0x80) || x % 64 != 0 then .fail k 1
    else if !refs.all (·.inArea) then .fail k 2
    else
      let r := onLedgers w (fun i k => k.convLedger lprot i) k
      let vs := (ledgRange w).map (fun i => (r.1.ledger i).value)
      let outs := (valBlocks refs.length vs).map (fun b => padBlock (convBlock f auto bo b))
      let k1 := r.1.storeAll (blockWrites f.width (refs.zip outs))
      let cl := if bit w 12 then
          onLedgers w (fun i k => let l := Ledger.clear (k.ledger i).mode (k.ledger i).g; (k.setLedger i l.1, l.2)) k1
        else (k1, Raised.none)
      { core := cl.1.raiseSat (outs.map (·.sat)).sum, raised := r.2.or cl.2 }

/-- LEDG.CVT. -/
def execLedgCvt (n : CoreId) (w : BitVec 54) (s : State) : Answer :=
  s.lift (fun c => c.coreStep n (.ledgCvt n w) (coreLedgCvt w (c.lprot (c.core n).ctx)))

/-- LEDG.FLG in a core (R72). -/
def coreLedgFlg (w : BitVec 54) (lprot : Bool) (k : Core) : CoreOut :=
  if bits w 47 42 ≠ 0 ∨ bits w 37 0 ≠ 0 then .fail k 0
  else
    let r := k.readLedger lprot (bits w 53 48)
    { core := r.1.setA (bits w 41 38) (r.1.ledger (bits w 53 48)).flagWord, raised := r.2 }

/-- LEDG.FLG. -/
def execLedgFlg (n : CoreId) (w : BitVec 54) (s : State) : Answer :=
  s.lift (fun c => c.coreStep n (.ledgFlg n w) (coreLedgFlg w (c.lprot (c.core n).ctx)))

/-- Where ledger `i` lies in the save area: image IMG, ledger number (R72). -/
def saveAddr (w : BitVec 54) (i : Nat) : Nat := saveLo + 2048 * bits w 37 36 + 32 * i

/-- Reserved bits of LEDG.SAVE and LEDG.LOAD, [41:38] and [35:0], are zero (R66, Table 3-5). -/
def ledgImgLegal (w : BitVec 54) : Bool := bits w 41 38 == 0 && bits w 35 0 == 0

/-- The 32 bytes of a saved ledger: the complete state of Table 2-5 with the residue of R240. The order of the fields is
the model's choice (log 79). -/
def Ledger.image (l : Ledger) : List Byte :=
  leBytes 12 l.acc.toNat ++ leBytes 7 l.count.toNat ++ leBytes 2 l.g.toNat
    ++ [BitVec.ofNat 8 l.flags, l.mode.setWidth 8, l.par.setWidth 8] ++ leBytes 2 l.res.toNat ++ List.replicate 6 0

/-- The ledger that 32 saved bytes hold. -/
def Ledger.ofImage (b : List Byte) : Ledger :=
  let f := byteAt b 21
  { acc := BitVec.ofNat 96 (leAt b 0 12), count := BitVec.ofNat 49 (leAt b 12 7), g := BitVec.ofNat 11 (leAt b 19 2)
    nar := bit f 0, low := bit f 1, range := bit f 2, ovf := bit f 3, cnt := bit f 4, modef := bit f 5
    mode := (byteAt b 22).setWidth 3, par := (byteAt b 23).setWidth 4, res := BitVec.ofNat 16 (leAt b 24 2) }

/-- The core with saved bytes in its save area; fetch never reaches them. -/
def Core.storeImage (k : Core) (a : Nat) (bs : List Byte) : Core := { k.store a bs with stale := k.stale }

/-- LEDG.SAVE in a core (R72): the ledgers are read, and their images written to the save area through ECC (R61, R62). -/
def coreLedgSave (w : BitVec 54) (lprot : Bool) (k : Core) : CoreOut :=
  if !ledgImgLegal w then .fail k 0
  else if !ledgRangeOk w then .fail k 1
  else
    let r := onLedgers w (fun i k => k.readLedger lprot i) k
    { core := r.1.storeImage (saveAddr w (bits w 53 48)) ((ledgRange w).flatMap (fun i => (r.1.ledger i).image))
      raised := r.2 }

/-- LEDG.SAVE. -/
def execLedgSave (n : CoreId) (w : BitVec 54) (s : State) : Answer :=
  s.lift (fun c => c.coreStep n (.ledgSave n w) (coreLedgSave w (c.lprot (c.core n).ctx)))

/-- The ledger saved at address `a`, its parity checked (R72); one whose granule is poisoned is NaR (log 79). -/
def Core.savedLedger (k : Core) (lprot : Bool) (a : Nat) : Ledger × Raised :=
  let l := (Ledger.ofImage (k.bytes a 32)).read lprot
  if k.poisoned a then (Ledger.seal { l.1 with nar := true }, l.2) else l

/-- LEDG.LOAD in a core: the state of the image, read through ECC (R62, R72). -/
def coreLedgLoad (w : BitVec 54) (lprot : Bool) (k : Core) : CoreOut :=
  if !ledgImgLegal w then .fail k 0
  else if !ledgRangeOk w then .fail k 1
  else
    let k1 := k.touch (saveAddr w (bits w 53 48)) (32 * (bits w 47 42 + 1))
    let r := onLedgers w (fun i q => let l := k1.savedLedger lprot (saveAddr w i); (q.setLedger i l.1, l.2)) k1
    { core := r.1, raised := r.2 }

/-- LEDG.LOAD. -/
def execLedgLoad (n : CoreId) (w : BitVec 54) (s : State) : Answer :=
  s.lift (fun c => c.coreStep n (.ledgLoad n w) (coreLedgLoad w (c.lprot (c.core n).ctx)))

/-- LEDG.DIG in a core: one record per ledger into the digest lane (R72, R242). -/
def coreLedgDig (w : BitVec 54) (lprot : Bool) (k : Core) : CoreOut :=
  if bits w 41 0 ≠ 0 then .fail k 0
  else if !ledgRangeOk w then .fail k 1
  else
    let r := onLedgers w (fun i k =>
      let r := k.readLedger lprot i
      ({ r.1 with lane := r.1.lane.absorb ((r.1.ledger i).record i) }, r.2)) k
    { core := r.1, raised := r.2 }

/-- LEDG.DIG. -/
def execLedgDig (n : CoreId) (w : BitVec 54) (s : State) : Answer :=
  s.lift (fun c => c.coreStep n (.ledgDig n w) (coreLedgDig w (c.lprot (c.core n).ctx)))

end Sys2Proof.Machine
end

