-- ==== Sys2Proof/Machine/CoreMma.lean ====
section
/-! DEFINITION. The MMA instruction (R69, R70). -/
namespace Sys2Proof.Machine

/-- Operands of an MMA (Table 3-5). -/
structure MmaOp where
  w : Nat
  x : Nat
  lb : Nat
  rows : Nat
  nblk : Nat
  wf : Fmt
  xf : Fmt

/-- Number of rows that ROWS encodes. -/
def rowsOf (v : Nat) : Nat := 64 / 2 ^ v

/-- Whether MMA takes this pair of formats (R68, R70): codes 0-5, equal or both FP8. -/
def mmaFormats (w x : Nat) : Bool :=
  decide (w ≤ 5) && decide (x ≤ 5) && (w == x || ((w == 3 || w == 4) && (x == 3 || x == 4)))

/-- The fields of an MMA in a core. -/
def mmaOp (w : BitVec 54) (k : Core) : MmaOp :=
  let nb := bits w 13 6
  { w := k.opAddr (bits w 53 50) (bits w 49 38), x := k.opAddr (bits w 37 34) (bits w 33 22)
    lb := bits w 21 16, rows := rowsOf (bits w 15 14), nblk := if nb = 0 then 256 else nb
    wf := (fmtOf (bits w 5 3)).getD (.conv .fp32), xf := (fmtOf (bits w 2 0)).getD (.conv .fp32) }

/-- Bytes of the weight tile. -/
def MmaOp.wBytes (o : MmaOp) : Nat := o.nblk * slabBytes o.wf.width o.rows

/-- Bytes of the block vector from its start to its last element. -/
def MmaOp.xBytes (o : MmaOp) : Nat := vecBlockAt o.xf 0 (o.nblk - 1) + 4 * o.xf.width

/-- One product; an element from a poisoned granule is NaR. -/
def elemProduct (f g : Fmt) (a : Option Nat) (ba : Byte) (b : Option Nat) (bb : Byte) : Prod :=
  match a, b with
  | some x, some y => f.product g x ba y bb
  | _, _ => .nar

/-- The 32 products of row `j` and block `i`. -/
def MmaOp.group (o : MmaOp) (k : Core) (i j : Nat) : List Prod :=
  let slab := o.w + i * slabBytes o.wf.width o.rows
  let ws := k.blockAt o.wf.width (slab + 64 + j * (4 * o.wf.width))
  let xs := k.blockAt o.xf.width (vecBlockAt o.xf o.x i)
  let be := k.expAt (slab + j)
  let bx := k.expAt (vecExpAt o.xf.width o.x i)
  (List.range 32).map (fun e => elemProduct o.wf o.xf (ws.getD e none) be (xs.getD e none) bx)

/-- One row of one block reaches its ledger. -/
def MmaOp.row (o : MmaOp) (lprot : Bool) (i : Nat) (s : Core × Raised) (j : Nat) : Core × Raised :=
  let r := (s.1.ledger (o.lb + j)).group lprot o.wf.mode (o.group s.1 i j)
  (s.1.setLedger (o.lb + j) r.1, s.2.or r.2)

/-- The whole multiply, block by block. -/
def MmaOp.run (o : MmaOp) (lprot : Bool) (k : Core) : Core × Raised :=
  (List.range o.nblk).foldl (fun s i => (List.range o.rows).foldl (o.row lprot i) s) (k, Raised.none)

/-- MMA in a core. -/
def coreMma (w : BitVec 54) (lprot : Bool) (k : Core) : CoreOut :=
  let o := mmaOp w k
  if !mmaFormats (bits w 5 3) (bits w 2 0) then .fail k 0
  else if 64 < o.lb + o.rows ∨ o.w % 64 ≠ 0 ∨ o.x % 64 ≠ 0 then .fail k 1
  else if !inCtxArea o.w o.wBytes || !inCtxArea o.x o.xBytes then .fail k 2
  else
    let k1 := (k.touch o.w o.wBytes).touch o.x o.xBytes
    let r := o.run lprot k1
    { core := r.1, raised := r.2
      poison := (k1.poisonedIn o.w o.wBytes ++ k1.poisonedIn o.x o.xBytes).eraseDups }

/-- MMA. -/
def execMma (n : CoreId) (w : BitVec 54) (s : State) : Answer :=
  s.lift (fun c => c.coreStep n (.mma n w) (coreMma w (c.lprot (c.core n).ctx)))

end Sys2Proof.Machine
end

