-- ==== Sys2Proof/Machine/RegMap.lean ====
section
/-! DEFINITION. The register map of BAR0 (Table 16-1): which offsets are listed, how each is accessed, and what a
read of it shows (R415-R417, R420, R427, R429; Tables 3-10, 4-9, 5-7, 6-9, 7-8, 8-6, 9-8, 10-13, 11-11, 12-10,
13-7, 14-8, 15-8, 16-4). -/
namespace Sys2Proof.Machine

/-- A block of Table 16-1, with its instance. -/
inductive RegBlock where
  | pkg
  | mbx
  | core (n : CoreId)
  | sga (e : EngineId)
  | stk (s : StackId)
  | mem
  | lnk (l : LinkId)
  | pwr
  | frm
  | flt
  | bru
  | rte
deriving DecidableEq, Repr

/-- How a listed register is accessed; `w1c` with the bits that are W1C. -/
inductive RegKind where
  | unlisted
  | ro
  | wo
  | rw
  | w1c (mask : Word)
deriving DecidableEq, Repr

/-- Instance `i` of a block with `n` instances. -/
def regInstance (n i : Nat) (f : Fin n → RegBlock) (o : Nat) : Option (RegBlock × Nat) :=
  if h : i < n then some (f ⟨i, h⟩, o) else none

/-- The block and the offset in it of a normal offset (Table 16-1). -/
def regAt (o : Nat) : Option (RegBlock × Nat) :=
  if o < 0x100000 then some (.pkg, o)
  else if o < 0x1000000 then some (.mbx, o - 0x100000)
  else if o < 0x2000000 then regInstance 2448 ((o - 0x1000000) / 0x1000) .core (o % 0x1000)
  else if o < 0x2800000 then regInstance 1632 ((o - 0x2000000) / 0x800) .sga (o % 0x800)
  else if o < 0x29F0000 then regInstance 24 ((o - 0x2800000) / 0x10000) .stk (o % 0x10000)
  else if o < 0x2A00000 then some (.mem, o - 0x29F0000)
  else if o < 0x2B00000 then regInstance 6 ((o - 0x2A00000) / 0x10000) .lnk (o % 0x10000)
  else if o < 0x2C00000 then some (.pwr, o - 0x2B00000)
  else if o < 0x2D00000 then some (.frm, o - 0x2C00000)
  else if o < 0x2E00000 then some (.flt, o - 0x2D00000)
  else if o < 0x2F00000 then some (.bru, o - 0x2E00000)
  else if o < 0x3000000 then some (.rte, o - 0x2F00000)
  else none

/-- An instance that is fused off (R2), or that a compute-domain reset hides (R27): it reads zero and its writes
are discarded with no record. -/
def Chip.gone (c : Chip) : RegBlock → Bool
  | .core n => c.fuse.coreState n.val == 3 || c.flt.rphase != 0
  | .sga e => c.fuse.sgaState e.val == 3 || c.flt.rphase != 0
  | .stk s => !c.fuse.stackOn s.val
  | .lnk l => !c.fuse.linkOn l.val
  | .pkg => false
  | .mbx => false
  | .mem => false
  | .pwr => false
  | .frm => false
  | .flt => false
  | .bru => false
  | .rte => false

/-- Offset `o` lies in a range, ends included. -/
def inSpan (o lo hi : Nat) : Bool := decide (lo ≤ o) && decide (o ≤ hi)

/-- Offset `o` lies in one of some ranges. -/
def inSpans (o : Nat) (l : List (Nat × Nat)) : Bool := l.any (fun p => inSpan o p.1 p.2)

/-- RO where listed. -/
def roIn (o : Nat) (l : List (Nat × Nat)) : RegKind := if inSpans o l then .ro else .unlisted

/-- Access of a register of a block. -/
def RegBlock.kind (b : RegBlock) (o : Nat) : RegKind :=
  match b with
  | .pkg =>
    if o = 0x20 then .rw
    else if o = 0x24 then .w1c 7
    else if o = 0x40 then .w1c 0xFF
    else if inSpan o 0x8000 0x807C then .rw
    else roIn o [(0, 0x1C), (0x28, 0x2C), (0x44, 0x48), (0x50, 0x58), (0x9000, 0x9000)]
  | .mbx =>
    if o = 4 then .w1c 0xFF
    else if o = 8 ∨ o = 0x1C then .rw
    else roIn o [(0, 0), (0xC, 0x18), (0x20, 0x24), (0x30, 0x40)]
  | .core _ => if o = 4 then .w1c 0x1FFFFF else roIn o [(0, 0), (8, 0x18), (0x20, 0x34), (0x400, 0x7FC)]
  | .sga _ => if o = 4 then .w1c 0x3FFD else roIn o [(0, 0), (8, 0x30), (0x40, 0x7C)]
  | .stk _ => if o = 4 then .w1c 0x3F else roIn o [(0, 0), (8, 0x20), (0x100, 0x2FC)]
  | .mem =>
    if o = 8 ∨ o = 0xC then .rw
    else if o = 0x10 then .w1c 1
    else roIn o [(0, 0), (0x100, 0x27C), (0x800, 0x8BC)]
  | .lnk _ =>
    if o = 4 then .w1c 0x1FFF
    else if o = 8 then .rw
    else roIn o [(0, 0), (0xC, 0x40), (0x80, 0xBC), (0x100, 0x1BC)]
  | .pwr =>
    if o = 4 then .w1c 0x3FF
    else if o = 0x804 then .w1c 0xFF
    else if o = 8 ∨ o = 0x14 ∨ o = 0x18 then .rw
    else roIn o [(0, 0), (0xC, 0x10), (0x1C, 0x28), (0x30, 0x44), (0x100, 0x13C), (0x200, 0x21C), (0x400, 0x484),
      (0x800, 0x800), (0x808, 0x820)]
  | .frm =>
    if o = 4 then .w1c 0x1FFF
    else if o = 8 ∨ inSpan o 0x400 0x5FC then .rw
    else roIn o [(0, 0), (0x10, 0x40)]
  | .flt =>
    if o = 4 then .w1c 0x3FFF
    else if o = 0x8000 then .w1c 0x1FF
    else if o = 8 then .rw
    else if o = 0xC then .wo
    else roIn o [(0, 0), (0x10, 0x4C), (0x8004, 0x8018), (0x8100, 0x813C)]
  | .bru =>
    if o = 4 then .w1c 0x7FFF
    else if o = 8 then .rw
    else if o = 0xC then .wo
    else roIn o [(0, 0), (0x10, 0x18), (0x40, 0x64), (0x100, 0x360), (0x400, 0x594), (0x1000, 0x1008), (0x1100, 0x1230),
      (0x1300, 0x13BC)]
  | .rte =>
    if o = 8 then .w1c 0x1FFF
    else if o = 0 ∨ o = 0xC ∨ inSpan o 0x100 0x1C0 then .rw
    else roIn o [(4, 4), (0x10, 0x38), (0x200, 0x27C), (0x400, 0x47C), (0x40000, 0x7FFFC)]

/-! Words of the single registers that no other file gives. -/

/-- The blocks with a configuration word of some kind, by the bits of PKG_CFGSUM (Table 16-5). -/
def Chip.cfgBits (c : Chip) (f : CfgWord → Bool) : Word :=
  flag (f c.pkg.irqEn) 0 ||| flag (f c.mbx.ctl) 1 ||| flag (allLinks.any (fun l => f (c.link l).ctl)) 2
    ||| flag (f c.pwr.ctl) 3 ||| flag (f c.frm.ctl || c.frm.slipMap.any (fun p => f p.2)) 4
    ||| flag (f c.flt.ctl) 5 ||| flag (f c.bru.ctl) 6 ||| flag (f c.rte.id || f c.rte.ctl) 7

/-- PKG_CFGSUM (Table 16-7). -/
def Chip.cfgSum (c : Chip) : Word := c.cfgBits (·.held)

/-- PKG_MGMT. -/
def Chip.mgmtWord (c : Chip) : Word :=
  let b := c.nor.beacon
  flag c.pkg.mgmtUp 31 ||| flag b.keyed 30 ||| fld (b2n (b.dest1 != 0) + b2n (b.dest2 != 0)) 28 ||| flag c.unicastUsed 27

/-- Cores that run ballast work. -/
def Chip.ballastCores (c : Chip) : Nat := c.cores.countP (fun p => p.2.ballast)

/-- Frames of ballast fade that remain (R382): 64 power windows each. -/
def Pwr.fade (p : Pwr) : Nat := if p.ballastOn then min 16 ((1024 - p.windows + 63) / 64) else 0

/-- PWR_STATUS (Table 14-9). -/
def Chip.pwrStatus (c : Chip) : Word :=
  let p := c.pwr
  fld p.limit.toNat 28 ||| flag p.storeLow 27 ||| flag p.airFail 26 ||| flag p.ckptReq 25 ||| flag (decide (0 < c.ballastCores)) 24
    ||| flag p.pacing 23 ||| flag p.excursion 22 ||| fld p.fade 16 ||| fld c.ballastCores 0

/-- Cores throttled by temperature. -/
def Chip.throttledCores (c : Chip) : Nat := c.cores.countP (fun p => c.throttled (Fin.ofNat 2448 p.1))

/-- Cores whose clock is gated. -/
def Chip.gatedCores (c : Chip) : Nat := c.cores.countP (fun p => p.2.clock.gated)

/-- THM_STATUS.LEVEL. -/
def Chip.thermLevel (c : Chip) : Nat :=
  if c.thm.shutdown then 3
  else if 0 < c.gatedCores then 2
  else if 0 < c.throttledCores ∨ c.engines.any (fun p => decide (0 < p.2.down)) = true then 1
  else 0

/-- THM_STATUS (Table 14-12). -/
def Chip.thmStatus (c : Chip) : Word :=
  fld c.thermLevel 28 ||| flag c.thm.alert 27 ||| flag c.thm.hsFault 26 ||| flag c.thm.inletValid 25
    ||| flag c.dramHot 24 ||| fld c.throttledCores 12 ||| fld c.gatedCores 0

/-- A thermistor in THM_HS. -/
def hsWord (t : Option (BitVec 16)) : Nat := (t.getD 0x8000).toNat

/-- THM_HOT. -/
def Chip.hotWord (c : Chip) : Word :=
  match c.hotCore with
  | some (t, n) => fld (BitVec.ofInt 16 t).toNat 16 ||| fld n 0
  | none => 0

/-- FRM_OFFSET: the target offset and A. -/
def Frm.offsetWord (f : Frm) : Word := fld (((f.aoff : Int) + f.debt) % 4096).toNat 16 ||| fld (f.aoff % 4096) 0

/-- FRM_PLAN. -/
def Plan.frmWord (p : Plan) : Word :=
  match p.pending with
  | some q => flag true 16 ||| fld q.actLfn.toNat 0
  | none => 0

/-- FLT_DIG_CTX (Table 9-10). -/
def Chip.digCtxWord (c : Chip) (x : CtxId) : Word :=
  let d := c.digCtx x
  flag (c.checkOn x) 31 ||| flag (c.lprot (some x)) 30 ||| fld d.state.code 28 ||| fld (min 3 d.rbRun) 26 ||| fld d.confirmed.toNat 0

/-- BRU_STATUS (Table 13-8). -/
def Bru.statusWord (b : Bru) : Word :=
  let k := b.step.toNat
  fld k 28 ||| fld b.passed.toNat 24 ||| flag b.running 23 ||| flag b.warm 22 ||| flag b.warmRefused 21 ||| flag b.waitAir 20
    ||| fld (b.stepOf k).result.toNat 17 ||| fld (tget 0 b.fails k) 15

/-- BRU_STEP[k]. -/
def Bru.stepWord (b : Bru) (k : Nat) : Word := fld (b.stepOf k).result.toNat 29 ||| fld (b.stepOf k).ms.toNat 0

/-- BRU_FUSE_VAR. -/
def Fuse.varWord (f : Fuse) : Word := fld f.code.toNat 28 ||| fld f.linkEn.toNat 22 ||| fld f.maxcap.toNat 14

/-- A word of sixteen 2-bit codes. -/
def codeWord (f : Nat → Nat) (w : Nat) : Word := (List.range 16).foldl (fun a i => a ||| fld (f (16 * w + i) % 4) (2 * i)) 0

/-- A word of 32 bits. -/
def flagsWord (f : Nat → Bool) (w : Nat) : Word := (List.range 32).foldl (fun a i => a ||| flag (f (32 * w + i)) i) 0

/-- Engine number `64 x stack + engine` is served. -/
def Chip.engineInUse (c : Chip) (k : Nat) : Bool :=
  c.engineServed (Fin.ofNat 1632 (68 * (k / 64) + k % 64))

/-- DEF_STATUS (Table 13-12): zero until a start-up test of this bring-up has ended (R360, log 118). -/
def Chip.defStatus (c : Chip) : Word :=
  if !c.bru.defShown then 0 else flag (decide (1024 ≤ c.nor.defects.length)) 31 ||| fld c.nor.defects.length 20 ||| fld c.nor.pending.length 11
    ||| fld c.bru.newEntries.toNat 0

/-- LNK_LANE_STAT (Table 7-14). -/
def LaneStat.word (s : LaneStat) : Word := fld s.state.toNat 28 ||| flag s.inv 27 ||| flag s.cdr 26 ||| fld s.ber.toNat 0

/-- A word of the interleave map: four entries, little-endian (Table 5-7). -/
def Chip.ilvWord (c : Chip) (p : Nat) : Word :=
  if c.mem.ilvMap then (List.range 4).foldl (fun a i => a ||| fld (c.fuse.ilvEntry (p + i)) (8 * i)) 0 else 0

/-- CORE_CLK (Table 3-13): before the start-up test of a site it shows the site's FMAX in force and the reset value of
FNOW. -/
def Chip.coreClk (c : Chip) (n : CoreId) : Word :=
  if (c.core n).state = .none then fld (140 + c.fmaxSite n.val) 16 ||| fld 140 8 else c.clkWord n

/-! Reading. -/

/-- Registers of the package-control block. -/
def Chip.pkgReg (c : Chip) (o : Nat) : Word :=
  match o with
  | 0x10 => c.pkg.fwVersion
  | 0x14 => fld c.pkg.fwSvn.toNat 8 ||| fld c.nor.antiRollback.toNat 0
  | 0x18 => c.fwStat
  | 0x1C => c.pkg.fwTag
  | 0x20 => c.pkg.irqEn.stored
  | 0x24 => c.pkg.irqStatus
  | 0x28 => c.mgmtWord
  | 0x2C => c.pkg.mgmtDrop
  | 0x40 => c.pkg.err
  | 0x44 => c.cfgSum
  | 0x48 => c.pkg.regAddr
  | 0x58 => c.pkg.cntRefused
  | 0x9000 => c.pkg.pbaWord.setWidth 32
  | _ => if inSpan o 0x8000 0x807C then tget (msixReset ((o - 0x8000) / 4)) c.pkg.msix ((o - 0x8000) / 4) else 0

/-- Registers of the mailbox. -/
def Chip.mbxReg (c : Chip) (o : Nat) : Word :=
  match o with
  | 0 => c.mbx.statusWord
  | 4 => c.mbx.err
  | 8 => c.mbx.ctl.stored
  | 0xC => c.mbx.ibexWord
  | 0x10 => c.mbx.slotsWord false
  | 0x14 => c.mbx.slotsWord true
  | 0x18 => c.mbx.ringTail.setWidth 32
  | 0x1C => c.mbx.ringHead.setWidth 32
  | 0x20 => fld c.img.held.length 0
  | 0x24 => c.mbx.copyLfn.setWidth 32
  | 0x30 => c.mbx.cntTaken
  | 0x34 => c.mbx.cntShed
  | 0x38 => c.mbx.cntOwned
  | 0x3C => c.mbx.cntTakeover
  | 0x40 => c.mbx.cntDigDrop
  | _ => 0

/-- Registers of a core. -/
def Chip.coreReg (c : Chip) (n : CoreId) (o : Nat) : Word :=
  let k := c.core n
  match o with
  | 0 => k.statusWord
  | 4 => k.err
  | 8 => k.pc.setWidth 32
  | 0xC => ctxWord k.ctx k.gen
  | 0x10 => c.coreClk n
  | 0x14 => k.siteWord n.val
  | 0x18 => fld k.therm.t1.toNat 16 ||| fld k.therm.t0.toNat 0
  | 0x20 => k.cntCe
  | 0x24 => k.cntSat
  | 0x28 => k.cntTickLate
  | 0x2C => k.cntMoveLate
  | 0x30 => k.cntStale
  | 0x34 => k.cntPoison
  | _ => if inSpan o 0x400 0x7FC then tget 0 k.ctr ((o - 0x400) / 4) else 0

/-- Registers of an engine. -/
def Chip.sgaReg (c : Chip) (e : EngineId) (o : Nat) : Word :=
  let k := c.engine e
  match o with
  | 0 => k.statusWord
  | 4 => k.err
  | 8 => k.pc.setWidth 32
  | 0xC => ctxWord k.ctx k.gen
  | 0x10 => k.siteWord e.val
  | 0x14 => k.winBase.setWidth 32
  | 0x18 => k.winLimit.setWidth 32
  | 0x1C => fld (c.sgaDuty e) 0
  | 0x20 => k.cntPoison
  | 0x24 => k.cntSat
  | 0x28 => k.cntTickLate
  | 0x2C => k.cntStale
  | 0x30 => k.cntCmds
  | _ => if inSpan o 0x40 0x7C then tget 0 k.ctr ((o - 0x40) / 4) else 0

/-- Registers of a stack. -/
def Chip.stkReg (c : Chip) (s : StackId) (o : Nat) : Word :=
  let k := c.stack s
  match o with
  | 0 => k.statusWord
  | 4 => k.err
  | 8 => k.cntCe
  | 0xC => k.cntUe
  | 0x10 => fld k.pending.length 0
  | 0x14 => fld k.retired.length 0
  | 0x18 => fld k.repairCols.toNat 16 ||| fld k.repairRows.toNat 0
  | 0x1C => k.cntRefused
  | 0x20 => k.cntScrub
  | _ => 0

/-- Memory-wide registers. -/
def Chip.memReg (c : Chip) (o : Nat) : Word :=
  if o = 0 then c.mem.cntRefused
  else if o = 0x10 then flag c.mem.wbaseErr 0 ||| flag c.mem.woff 1
  else if inSpan o 0x100 0x27C then c.ilvWord (o - 0x100)
  else if inSpan o 0x800 0x8BC then (tget Band.zero c.mem.bands ((o - 0x800) / 4)).word
  else 0

/-- Registers of a link. -/
def Chip.lnkReg (c : Chip) (l : LinkId) (o : Nat) : Word :=
  let k := c.link l
  match o with
  | 0 => c.linkStatus l
  | 4 => k.err
  | 8 => k.ctl.stored
  | 0xC => fld k.usedRx.toNat 16 ||| fld k.goodSent.toNat 0
  | 0x10 => fld k.peer.toNat 16
  | 0x14 => k.est.setWidth 32
  | 0x28 => k.cntUcw
  | 0x2C => k.cntReplay
  | 0x30 => k.cntCtlLost
  | 0x34 => k.cntLoss
  | 0x38 => k.cntDown
  | 0x3C => k.cntWidth
  | 0x40 => k.cntMisplaced
  | _ =>
    if inSpan o 0x80 0xBC then tget 0 k.hist ((o - 0x80) / 4)
    else if inSpan o 0x180 0x1BC then (tget LaneStat.zero k.lanes ((o - 0x180) / 4)).word
    else 0

/-- Power and thermal registers. -/
def Chip.pwrReg (c : Chip) (o : Nat) : Word :=
  let p := c.pwr
  match o with
  | 0 => c.pwrStatus
  | 4 => p.err
  | 8 => p.ctl.stored
  | 0xC => fld p.force 16 ||| fld p.setCap 0
  | 0x10 => fld p.comply.toNat 16 ||| fld p.ramp 0
  | 0x14 => p.hardcap.setWidth 32
  | 0x18 => p.theta0.setWidth 32
  | 0x1C => fld p.theta.toNat 16 ||| fld (p.derate.getD 0xFFFF) 0
  | 0x20 => fld p.voltage.toNat 16 ||| fld p.current.toNat 0
  | 0x24 => fld p.peak.toNat 16 ||| fld p.mean.toNat 0
  | 0x28 => fld p.ceil1.toNat 24 ||| fld p.ceil0.toNat 16 ||| fld p.duty1.toNat 12 ||| fld p.duty0.toNat 8
  | 0x30 => p.cntExcursion
  | 0x34 => p.cntStoreLow
  | 0x38 => p.cntAirflow
  | 0x3C => p.cntBallastShort
  | 0x40 => p.cntWake
  | 0x44 => p.cntPacing
  | 0x800 => c.thmStatus
  | 0x804 => c.thm.err
  | 0x808 => fld (hsWord c.thm.hs1) 16 ||| fld (hsWord c.thm.hs0) 0
  | 0x80C => flag c.thm.inletValid 16 ||| fld c.thm.inlet.toNat 0
  | 0x810 => c.hotWord
  | 0x814 => c.thm.cntThrot
  | 0x818 => c.thm.cntGate
  | 0x81C => c.thm.cntSensor
  | 0x820 => c.thm.cntShutdown
  | _ =>
    if inSpan o 0x100 0x13C then (c.ctx (Fin.ofNat 16 ((o - 0x100) / 4))).slackWord
    else if inSpan o 0x200 0x21C then
      fld (tget 0 p.draw ((o - 0x200) / 4)).toNat 16 ||| fld (tget 0 p.budget ((o - 0x200) / 4)).toNat 0
    else 0

/-- Registers of the frame clock. FRM_SLIPK.K shows K modulo 256, which an invalid map of more slip ticks alone can pass (log 123). -/
def Chip.frmReg (c : Chip) (o : Nat) : Word :=
  let f := c.frm
  match o with
  | 0 => f.statusWord
  | 4 => f.err
  | 8 => f.ctl.stored
  | 0x18 => fld f.lfn0.toNat 16 ||| fld f.lfn.toNat 0
  | 0x1C => f.offsetWord
  | 0x20 => (BitVec.ofInt 12 f.debt).setWidth 32
  | 0x24 => f.skew.setWidth 32
  | 0x28 => flag f.mapOk 8 ||| fld (f.slipK % 256) 0
  | 0x2C => c.plan.frmWord
  | 0x30 => f.cntFailover
  | 0x34 => f.cntMarkA
  | 0x38 => f.cntMarkB
  | 0x3C => f.cntHoldover
  | 0x40 => f.cntRealign
  | _ =>
    if inSpan o 0x400 0x5FC then
      (tget (CfgWord.of (slipMapReset ((o - 0x400) / 4))) f.slipMap ((o - 0x400) / 4)).stored
    else 0

/-- Registers of faults, digests and commit. -/
def Chip.fltReg (c : Chip) (o : Nat) : Word :=
  match o with
  | 0 => c.fltStatus
  | 4 => c.flt.err
  | 8 => c.flt.ctl.stored
  | 0x18 => c.flt.lastCode.setWidth 32
  | 0x1C => c.flt.suspect.setWidth 32
  | 0x20 => c.flt.cntEngine
  | 0x24 => c.flt.cntCompute
  | 0x28 => c.flt.cntPackage
  | 0x2C => c.flt.cntHang
  | 0x30 => c.flt.cntQuar
  | 0x34 => c.flt.cntPoison
  | 0x38 => c.flt.cntBeacon
  | 0x3C => c.flt.cntSuppr
  | 0x8000 => c.dig.err
  | 0x8004 => c.dig.cntRollback
  | 0x8008 => c.dig.cntRevoke
  | 0x800C => c.dig.cntMismatch
  | 0x8010 => c.dig.cntMissing
  | 0x8014 => c.dig.cntResidue
  | 0x8018 => c.dig.cntReplay
  | _ => if inSpan o 0x8100 0x813C then c.digCtxWord (Fin.ofNat 16 ((o - 0x8100) / 4)) else 0

/-- Registers of bring-up. The fuse map is shown once step 3 has read it. -/
def Chip.bruReg (c : Chip) (o : Nat) : Word :=
  let b := c.bru
  let fuse := fun (w : Word) => if b.fuseRead then w else 0
  match o with
  | 0 => b.statusWord
  | 4 => b.err
  | 8 => b.ctl.stored
  | 0x10 => b.total
  | 0x14 => fuse c.fuse.varWord
  | 0x18 => fuse (c.fuse.stackEn.setWidth 32)
  | 0x1000 => c.defStatus
  | 0x1004 => b.fusedGood
  | 0x1008 => b.held
  | _ =>
    if inSpan o 0x40 0x64 then b.stepWord ((o - 0x40) / 4 + 1)
    else if inSpan o 0x100 0x360 then fuse (codeWord c.fuse.coreState ((o - 0x100) / 4))
    else if inSpan o 0x400 0x594 then fuse (codeWord c.fuse.sgaState ((o - 0x400) / 4))
    else if inSpan o 0x1100 0x1230 then flagsWord c.coreServed ((o - 0x1100) / 4)
    else if inSpan o 0x1300 0x13BC then flagsWord c.engineInUse ((o - 0x1300) / 4)
    else 0

/-- Registers of routing. -/
def Chip.rteReg (c : Chip) (o : Nat) : Word :=
  let r := c.rte
  match o with
  | 0 => r.id.stored
  | 4 => c.rteStatus
  | 8 => r.err
  | 0xC => r.ctl.stored
  | 0x10 => r.cntLate
  | 0x14 => r.cntOrphan
  | 0x18 => r.cntWindow
  | 0x1C => r.cntDup
  | 0x20 => r.cntTtl
  | 0x24 => r.cntTurn
  | 0x28 => r.cntUnreach
  | 0x2C => r.cntResetDrop
  | 0x30 => r.cntFwdDrop
  | 0x34 => r.cntPcrc
  | 0x38 => r.epoch.setWidth 32
  | _ =>
    if inSpan o 0x100 0x1C0 then r.entry ((o - 0x100) / 4)
    else if inSpan o 0x200 0x27C then
      let i := (o - 0x200) / 4
      fld (tget 0 r.rmem (2 * i + 1)).toNat 16 ||| fld (tget 0 r.rmem (2 * i)).toNat 0
    else if inSpan o 0x40000 0x7FFFC then tget 0 c.plan.circ ((o - 0x40000) / 4)
    else 0

/-- A 32-bit register. -/
def Chip.readWord (c : Chip) (b : RegBlock) (o : Nat) : Word :=
  match b with
  | .pkg => c.pkgReg o
  | .mbx => c.mbxReg o
  | .core n => c.coreReg n o
  | .sga e => c.sgaReg e o
  | .stk s => c.stkReg s o
  | .mem => c.memReg o
  | .lnk l => c.lnkReg l o
  | .pwr => c.pwrReg o
  | .frm => c.frmReg o
  | .flt => c.fltReg o
  | .bru => c.bruReg o
  | .rte => c.rteReg o

/-- The 64-bit register whose low word is at an offset (Table 16-4a). -/
def Chip.readDword (c : Chip) (b : RegBlock) (o : Nat) : Option Dword :=
  match b with
  | .pkg => if o = 0 then some (Config.mac.setWidth 64) else if o = 8 then some Config.serial else if o = 0x50 then some c.pkg.regTime else none
  | .stk s =>
    if inSpan o 0x100 0x2FC && o % 8 == 0 then
      let e := tget (0, 0) (c.stack s).plog ((o - 0x100) / 16)
      some (if o % 16 = 0 then e.1 else e.2.setWidth 64)
    else none
  | .mem => if o = 8 then some c.mem.wBase else none
  | .lnk l =>
    if o = 0x18 then some (c.link l).cntCw
    else if o = 0x20 then some (c.link l).cntCorr
    else if inSpan o 0x100 0x17C && o % 8 == 0 then some (tget 0 (c.link l).laneSe ((o - 0x100) / 8))
    else none
  | .frm => if o = 0x10 then some c.now else none
  | .rte => if inSpan o 0x400 0x47C && o % 8 == 0 then some (tget 0 c.rte.llog ((o - 0x400) / 8)) else none
  | .flt =>
    if o = 0x10 then some c.flt.lastTime else if o = 0x40 then some c.flt.service else if o = 0x48 then some c.flt.unavail
    else none
  | .pwr =>
    if inSpan o 0x400 0x47C && o % 8 == 0 then some (c.ctx (Fin.ofNat 16 ((o - 0x400) / 8))).energy
    else if o = 0x480 then some c.pwr.epkg
    else none
  | .mbx => none
  | .core _ => none
  | .sga _ => none
  | .bru => none

/-- A read of a normal offset: its value, and the package after it. The low word of a 64-bit register latches the
high word, and a read of the high word returns the shadow (R420). -/
def Chip.readReg (c : Chip) (o : Nat) : Word × Chip :=
  match regAt o with
  | none => (0, c)
  | some (b, i) =>
    if c.gone b then (0, c)
    else match c.readDword b i with
      | some v => (v.setWidth 32, c.modPkg (fun p => { p with shadow := tset 0 p.shadow o (v.extractLsb' 32 32) }))
      | none =>
        if 4 ≤ i ∧ (c.readDword b (i - 4)).isSome then (tget 0 c.pkg.shadow (o - 4), c)
        else (c.readWord b i, c)

end Sys2Proof.Machine
end

