-- ==== Sys2Proof/Machine/Regs.lean ====
section
/-! DEFINITION. Writes of registers (R155, R415-R423, R425, R426), the rows that write one register, reads of 64-bit
registers (R420), and the parity sweep of the configuration words (R424, R425). -/
namespace Sys2Proof.Machine

/-! W1C registers. -/

/-- The W1C register at an offset of a block, changed. -/
def Chip.modW1c (c : Chip) (b : RegBlock) (o : Nat) (f : Word → Word) : Chip :=
  match b with
  | .pkg => c.modPkg (fun p => if o = 0x24 then { p with irqStatus := f p.irqStatus } else { p with err := f p.err })
  | .mbx => c.modMbx (fun m => { m with err := f m.err })
  | .core n => c.modCore n (fun k => { k with err := f k.err })
  | .sga e => c.modEngine e (fun k => { k with err := f k.err })
  | .stk s => c.modStack s (fun k => { k with err := f k.err })
  | .mem => { c with mem := { c.mem with wbaseErr := bit (f (flag c.mem.wbaseErr 0)) 0 } }
  | .lnk l => c.modLink l (fun k => { k with err := f k.err })
  | .pwr => if o = 4 then c.modPwr (fun p => { p with err := f p.err }) else c.modThm (fun t => { t with err := f t.err })
  | .frm => c.modFrm (fun k => { k with err := f k.err })
  | .flt => if o = 4 then c.modFlt (fun k => { k with err := f k.err }) else { c with dig := { c.dig with err := f c.dig.err } }
  | .bru => c.modBru (fun k => { k with err := f k.err })
  | .rte => c.modRte (fun r => { r with err := f r.err })

/-- Bits of a W1C register that are RO, so that no value written there counts as RV_WRITE: STK_W_ERR.WOFF (Table
5-7). -/
def RegBlock.roBits : RegBlock → Word
  | .mem => 2
  | .pkg => 0
  | .mbx => 0
  | .core _ => 0
  | .sga _ => 0
  | .stk _ => 0
  | .lnk _ => 0
  | .pwr => 0
  | .frm => 0
  | .flt => 0
  | .bru => 0
  | .rte => 0

/-- A write of a W1C register (Table 16-2). Its RV bits read zero. -/
def Chip.writeW1c (c : Chip) (b : RegBlock) (o : Nat) (m : Word) (a : RegAlias) (d : Word) (off : Nat) : Chip :=
  (c.modW1c b o (fun w => (w1cWord a m w d).1)).refuse off (causeIf (w1cWord a m 0 (d &&& ~~~ b.roBits)).2 cRv)

/-! RW registers. -/

/-- A write of MBX_RING_HEAD (R423): only a value from the head to the tail, counted forward, takes effect. -/
def Chip.writeRingHead (c : Chip) (a : RegAlias) (d : Word) (off : Nat) : Chip :=
  let m := c.mbx
  let r := rwWord a 0x7FF (m.ringHead.setWidth 32) d
  let h : BitVec 11 := r.1.setWidth 11
  let ok := decide ((h - m.ringHead).toNat ≤ (m.ringTail - m.ringHead).toNat)
  (if ok then c.modMbx (fun m => { m with ringHead := h }) else c).refuse off (causeIf r.2 cRv ++ causeIf (!ok) cHead)

/-- RV bits of the high word of STK_W_BASE. -/
def wBaseRvHi : Word := 0xFFFFFC00

/-- RV bits of the low word. -/
def wBaseRvLo : Word := 0x3FFFFFFF

/-- A word of STK_W_BASE as written: a normal write carries all bits, an alias write leaves the RV bits. -/
def wBaseWord (a : RegAlias) (rv old d : Word) : Word := if a = .normal then d else (rwWord a (~~~ rv) old d).1

/-- A write of the high word of STK_W_BASE is staged (R420). -/
def Chip.stageWBase (c : Chip) (a : RegAlias) (d : Word) : Chip :=
  { c with mem := { c.mem with wStage := some (wBaseWord a wBaseRvHi (c.mem.wBase.extractLsb' 32 32) d) } }

/-- A write of the low word commits both and empties the stage: RV bits keep their values, and a base that is no
multiple of the window size is refused whole (R155, R156, R420). -/
def Chip.commitWBase (c : Chip) (a : RegAlias) (d : Word) (off : Nat) : Chip :=
  let hi0 : Word := c.mem.wBase.extractLsb' 32 32
  let lo0 : Word := c.mem.wBase.setWidth 32
  let hi := c.mem.wStage.getD hi0
  let lo := wBaseWord a wBaseRvLo lo0 d
  let rv := (hi &&& wBaseRvHi) != (hi0 &&& wBaseRvHi) || (lo &&& wBaseRvLo) != (lo0 &&& wBaseRvLo)
  let base : Dword := ((hi &&& ~~~ wBaseRvHi) ||| (hi0 &&& wBaseRvHi)) ++ ((lo &&& ~~~ wBaseRvLo) ||| (lo0 &&& wBaseRvLo))
  let ok := base.toNat % c.pkg.bar4Bytes == 0
  let mem : MemSys := { c.mem with wStage := none }
  let c1 := { c with mem := if ok then { mem with wBase := base, woff := false } else { mem with wbaseErr := true } }
  c1.refuse off (causeIf rv cRv ++ causeIf (!ok) cValue)

/-- A write of LNK_CTL: LOOPBACK written 1 outside BRINGUP is refused alone (R210, R422). -/
def Chip.hostLnkCtl (c : Chip) (l : LinkId) (a : RegAlias) (d : Word) (off : Nat) : Chip :=
  let k := (c.link l).ctl
  let r := k.put a 0x7F d
  let loop := bit d 0 && bit r.1 0 && c.mbx.dstate != .bringup && !k.endsHold a d
  (c.writeLnkCtl l r.1).refuse off (causeIf r.2 cRv ++ causeIf loop cState)

/-- A write of FRM_SLIPMAP, refused outside BRINGUP and READY unless it ends a hold (R180, R426). -/
def Chip.hostSlipMap (c : Chip) (i : Nat) (a : RegAlias) (d : Word) (off : Nat) : Chip :=
  let k := tget (CfgWord.of (slipMapReset i)) c.frm.slipMap i
  let r := k.put a 0xFFFFFFFF d
  let ok := c.slipMapOpen || k.endsHold a d
  (c.writeSlipMap i r.1 ok).refuse off (causeIf (!ok) cState)

/-- A write of RTE_ID, refused outside BRINGUP unless it ends a hold (R238, R426). -/
def Chip.hostRteId (c : Chip) (a : RegAlias) (d : Word) (off : Nat) : Chip :=
  let r := c.rte.id.put a 0x00FF0F03 d
  let ok := c.mbx.dstate == .bringup || c.rte.id.endsHold a d
  (if ok then c.writeRteId r.1 else c).refuse off (causeIf r.2 cRv ++ causeIf (!ok) cState)

/-- A write of a route entry (R228): one that does not take effect raises ROUTE_REFUSED and is no refused write. -/
def Chip.hostRoute (c : Chip) (i : Nat) (a : RegAlias) (d : Word) (off : Nat) : Chip :=
  let r := rwWord a 0xFFF80000 (c.rte.entry i) d
  (c.writeRoute i r.1).refuse off (causeIf r.2 cRv)

/-- A write of a word of the MSI-X table, under the PCI Express rules: of a vector control word only the mask bit. -/
def Chip.writeMsix (c : Chip) (i : Nat) (a : RegAlias) (d : Word) : Chip :=
  let w := aliasRw a (tget (msixReset i) c.pkg.msix i) d
  c.modPkg (fun p => { p with msix := tset (msixReset i) p.msix i (if i % 4 = 3 then w &&& 1 else w) })

/-- A write of an RW register. -/
def Chip.writeRw (c : Chip) (b : RegBlock) (o : Nat) (a : RegAlias) (d : Word) (off : Nat) : Chip :=
  match b with
  | .pkg =>
    if o = 0x20 then
      let r := c.pkg.irqEn.put a 7 d
      (c.modPkg (fun p => { p with irqEn := CfgWord.of r.1 })).refuse off (causeIf r.2 cRv)
    else c.writeMsix ((o - 0x8000) / 4) a d
  | .mbx =>
    if o = 8 then
      let r := c.mbx.ctl.put a 0x1F d
      (c.modMbx (fun m => { m with ctl := CfgWord.of r.1 })).refuse off (causeIf r.2 cRv)
    else c.writeRingHead a d off
  | .mem => if o = 0xC then c.stageWBase a d else c.commitWBase a d off
  | .lnk l => c.hostLnkCtl l a d off
  | .pwr =>
    if o = 8 then
      let r := c.pwr.ctl.put a 0x1E d
      (c.writePwrCtl r.1).refuse off (causeIf r.2 cRv)
    else if o = 0x14 then c.writeHardcap a d
    else c.writeTheta0 a d
  | .frm =>
    if o = 8 then
      let r := c.frm.ctl.put a 7 d
      (c.writeFrmCtl r.1).refuse off (causeIf r.2 cRv)
    else c.hostSlipMap ((o - 0x400) / 4) a d off
  | .flt =>
    let r := c.flt.ctl.put a 0x1FFF d
    (c.modFlt (fun f => { f with ctl := CfgWord.of r.1 })).refuse off (causeIf r.2 cRv)
  | .bru => c.writeBruCtl a d
  | .rte =>
    if o = 0 then c.hostRteId a d off
    else if o = 0xC then
      let r := c.rte.ctl.put a 0x3F d
      (c.writeRteCtl r.1).refuse off (causeIf r.2 cRv)
    else c.hostRoute ((o - 0x100) / 4) a d off
  | .core _ => c
  | .sga _ => c
  | .stk _ => c

/-- A write of a WO register through the normal alias. -/
def Chip.writeWo (c : Chip) (b : RegBlock) (d : Word) : Chip :=
  if b = .flt then c.writePkgrst d else c.writeBruRestart .normal d

/-- A host write of an aligned DW of BAR0 (R415, R416, R418, R422). -/
def Chip.regWrite (c : Chip) (off : Nat) (d : Word) : Chip :=
  let a := aliasOf off
  match regAt (off % 0x4000000) with
  | none => c.refuse off [cUnlisted]
  | some (b, o) =>
    if c.gone b then c
    else match b.kind o with
      | .unlisted => c.refuse off [cUnlisted]
      | .ro => c.refuse off [cRo]
      | .wo => if a = .normal then c.writeWo b d else c.refuse off [cWo]
      | .w1c m => c.writeW1c b o m a d off
      | .rw => c.writeRw b o a d off

/-- A write of the register at a normal offset through an alias. -/
def Chip.aliasWrite (c : Chip) (a : RegAlias) (o : Nat) (d : Word) : Chip := c.host (fun c => c.regWrite (aliasOffset a o) d)

/-- An access that keeps BAR0's row of Table 15-1: one DW, aligned, with all byte enables set. -/
def oneDw (a : Bar0Access) : Bool := a.off.toNat % 4 == 0 && a.dws == 1 && a.enables == 0xF

/-- REGISTER_WRITE. -/
def execRegisterWrite (off : Bar0Access) (d : Word) (s : State) : Answer :=
  s.lift (fun c => c.host (fun c => if oneDw off then c.regWrite off.off.toNat d else c.unsupported))

/-! Rows that write one register. -/

/-- STK_W_BASE_HIGH_WRITE. -/
def execStkWBaseHighWrite (a : RegAlias) (d : Word) (s : State) : Answer := s.lift (fun c => c.aliasWrite a 0x29F000C d)

/-- STK_W_BASE_LOW_WRITE. -/
def execStkWBaseLowWrite (a : RegAlias) (d : Word) (s : State) : Answer := s.lift (fun c => c.aliasWrite a 0x29F0008 d)

/-- FRM_CTL_DIS. -/
def execFrmCtlDis (a : RegAlias) (d : Word) (s : State) : Answer := s.lift (fun c => c.aliasWrite a 0x2C00008 d)

/-- FRM_SLIPMAP_WRITE. -/
def execFrmSlipmapWrite (i : Fin 128) (a : RegAlias) (d : Word) (s : State) : Answer :=
  s.lift (fun c => c.aliasWrite a (0x2C00400 + 4 * i.val) d)

/-- The offset of LNK_CTL. -/
def lnkCtlOff (l : LinkId) : Nat := 0x2A00008 + 0x10000 * l.val

/-- LINK_DISABLE: ENABLE written 0. -/
def execLinkDisable (l : LinkId) (s : State) : Answer := s.lift (fun c => c.aliasWrite .clear (lnkCtlOff l) 2)

/-- LINK_ENABLE: ENABLE written 1. -/
def execLinkEnable (l : LinkId) (s : State) : Answer := s.lift (fun c => c.aliasWrite .set (lnkCtlOff l) 2)

/-- REQUAL: written 1. -/
def execRequal (l : LinkId) (s : State) : Answer := s.lift (fun c => c.aliasWrite .set (lnkCtlOff l) 4)

/-- LOOPBACK. -/
def execLoopback (l : LinkId) (on : Bool) (s : State) : Answer :=
  s.lift (fun c => c.aliasWrite (if on then .set else .clear) (lnkCtlOff l) 1)

/-- PLAN_WIDTH: the bits that differ are toggled. -/
def execPlanWidth (l : LinkId) (w : BitVec 2) (s : State) : Answer :=
  s.lift (fun c => c.aliasWrite .toggle (lnkCtlOff l) ((fld w.toNat 5 ^^^ (c.link l).ctl.stored) &&& 0x60))

/-- RTE_ROUTE_WRITE: entries 0 to 47, and RTE_ROUTE_EXT as entry 48. -/
def execRteRouteWrite (p : Fin 49) (a : RegAlias) (d : Word) (s : State) : Answer :=
  s.lift (fun c => c.aliasWrite a (0x2F00100 + 4 * p.val) d)

/-- RTE_ID_WRITE. -/
def execRteIdWrite (a : RegAlias) (d : Word) (s : State) : Answer := s.lift (fun c => c.aliasWrite a 0x2F00000 d)

/-- MBX_RING_HEAD_WRITE. -/
def execMbxRingHeadWrite (a : RegAlias) (d : Word) (s : State) : Answer := s.lift (fun c => c.aliasWrite a 0x10001C d)

/-- FLT_PKGRST_WRITE. -/
def execFltPkgrstWrite (a : RegAlias) (d : Word) (s : State) : Answer := s.lift (fun c => c.aliasWrite a 0x2D0000C d)

/-! Reads. -/

/-- A host read of an aligned DW of BAR0: the same at every alias (R418). -/
def Chip.regRead (c : Chip) (off : Nat) : Chip :=
  let r := c.readReg (off % 0x4000000)
  r.2.emit (.bar0Data r.1)

/-- REG64_LOW_READ: a read of BAR0; the low word of a 64-bit register latches its high word. -/
def execReg64LowRead (off : Bar0Access) (s : State) : Answer :=
  s.lift (fun c => c.host (fun c => if oneDw off then c.regRead off.off.toNat else c.unsupported))

/-! The parity sweep (R424, R425). -/

/-- A configuration word some of whose 32 stored bits, or whose parity bit (bit 32), have flipped. -/
def CfgWord.upset (k : CfgWord) (m : BitVec 33) : CfgWord :=
  { k with stored := k.stored ^^^ m.setWidth 32, parity := k.parity ^^ m.getLsbD 32 }

/-- The check of a word (R424, R425): one whose parity does not match is held; a hold ends only by a write; flips that leave the
parity right are not found, and the block acts on them. -/
def CfgWord.check (k : CfgWord) : CfgWord :=
  if k.bad then { k with held := true } else if k.held then k else CfgWord.of k.stored

/-- Every configuration word of Table 16-5 that has a word in the part (the links fused off have none). -/
def Chip.mapCfg (c : Chip) (f : CfgWord → CfgWord) : Chip :=
  let c1 := (c.modPkg (fun p => { p with irqEn := f p.irqEn })).modMbx (fun m => { m with ctl := f m.ctl })
  let c2 := allLinks.foldl (fun c l => if c.fuse.linkOn l.val then c.modLink l (fun k => { k with ctl := f k.ctl }) else c) c1
  let c3 := (c2.modPwr (fun p => { p with ctl := f p.ctl })).modFrm (fun r =>
    { r with ctl := f r.ctl, slipMap := r.slipMap.foldl (fun t p => tset (CfgWord.of (slipMapReset p.1)) t p.1 (f p.2)) [] })
  (c3.modFlt (fun r => { r with ctl := f r.ctl })).modBru (fun b => { b with ctl := f b.ctl }) |>.modRte (fun r =>
    { r with id := f r.id, ctl := f r.ctl })

/-- The configuration word at a normal offset, with bits flipped; no effect where there is none. -/
def Chip.upsetCfg (c : Chip) (o : Nat) (m : BitVec 33) : Chip :=
  match regAt o with
  | some (.pkg, 0x20) => c.modPkg (fun p => { p with irqEn := p.irqEn.upset m })
  | some (.mbx, 8) => c.modMbx (fun x => { x with ctl := x.ctl.upset m })
  | some (.lnk l, 8) => if c.fuse.linkOn l.val then c.modLink l (fun k => { k with ctl := k.ctl.upset m }) else c
  | some (.pwr, 8) => c.modPwr (fun p => { p with ctl := p.ctl.upset m })
  | some (.flt, 8) => c.modFlt (fun f => { f with ctl := f.ctl.upset m })
  | some (.bru, 8) => c.modBru (fun b => { b with ctl := b.ctl.upset m })
  | some (.rte, 0) => c.modRte (fun r => { r with id := r.id.upset m })
  | some (.rte, 0xC) => c.modRte (fun r => { r with ctl := r.ctl.upset m })
  | some (.frm, 8) => c.modFrm (fun f => { f with ctl := f.ctl.upset m })
  | some (.frm, i) =>
    if inSpan i 0x400 0x5FC && i % 4 == 0 then
      let k := (i - 0x400) / 4
      let d := CfgWord.of (slipMapReset k)
      c.modFrm (fun f => { f with slipMap := tset d f.slipMap k ((tget d f.slipMap k).upset m) })
    else c
  | _ => c

/-- CFG_PARITY of every block with a word whose parity does not match (Table 16-5). -/
def Chip.raiseParity (c : Chip) : Chip :=
  let s := c.cfgBits (·.bad)
  let on := fun (i : Nat) (f : Chip → Chip) (c : Chip) => if bit s i then f c else c
  let lnk := fun (c : Chip) => allLinks.foldl (fun c l => if (c.link l).ctl.bad then c.modLink l (fun k => k.raise 12) else c) c
  let c1 := on 1 (fun c => c.mbxErr 7) (on 0 (fun c => c.modPkg (fun p => { p with err := setBit p.err 0 })) c)
  let c2 := on 4 (fun c => c.modFrm (fun f => f.raise 11)) (on 3 (fun c => c.pwrErr 9) (on 2 lnk c1))
  on 7 (fun c => c.modRte (fun r => r.raise 12)) (on 6 (fun c => c.bruErr 14) (on 5 (fun c => c.fltErr 13) c2))

/-- CFG_PARITY_SWEEP: in every device state from BRINGUP on; the operand names the bits that have flipped since the last sweep, by
the normal offset of their word. A flip comes with the check that finds it, so that no use of the word comes between (log 128). -/
def paritySweepEffect (ups : List (Nat × BitVec 33)) (c : Chip) : Chip :=
  if c.mbx.dstate = .off then c else ((ups.foldl (fun c u => c.upsetCfg u.1 u.2) c).mapCfg CfgWord.check).raiseParity

/-- CFG_PARITY_SWEEP. -/
def execCfgParitySweep (upsets : List (Nat × BitVec 33)) (s : State) : Answer := s.lift (paritySweepEffect upsets)

end Sys2Proof.Machine
end

