-- ==== Sys2Proof/Machine/SaigaAttn.lean ====
section
/-! DEFINITION. The ATTN command (R113-R116). -/
namespace Sys2Proof.Machine

/-- The fields of ATTN (Table 4-4). -/
structure AttnOp where
  kf : OFmt
  vf : OFmt
  nq : Nat
  dk : Nat
  dv : Nat
  gs : BitVec 11
  gv : BitVec 11
  sco : Bool
  kbase : Nat
  vbase : Nat
  qaddr : Nat
  out : Nat
  p0 : Nat
  p1 : Nat
  alpha : Word
  dbo : Byte
  nbo : Byte
  kstr : Nat
  vstr : Nat

/-- The octave format of codes 0-2. -/
def octOf : Nat → OFmt
  | 0 => .o8
  | 1 => .o12
  | _ => .o16

/-- The fields of an ATTN. -/
def attnOp (w : SgaWords) : AttnOp :=
  { kf := octOf (bits w.w0 54 52), vf := octOf (bits w.w0 51 49), nq := bits w.w0 48 47 + 1, dk := 32 * bits w.w0 46 43
    dv := 8 * (bits w.w0 42 38 + 1), gs := BitVec.ofNat 11 (bits w.w0 37 27), gv := BitVec.ofNat 11 (bits w.w0 26 16)
    sco := bit w.w0 15, kbase := bits w.w1 24 0, vbase := bits w.w1 56 32, qaddr := bits w.w2 24 0, out := bits w.w2 56 32
    p0 := bits w.w3 39 0, p1 := bits w.w4 39 0, alpha := BitVec.ofNat 32 (bits w.w5 31 0)
    dbo := BitVec.ofNat 8 (bits w.w5 39 32), nbo := BitVec.ofNat 8 (bits w.w5 47 40), kstr := bits w.w6 24 0
    vstr := bits w.w6 56 32 }

/-- Granules of a K segment (R113). -/
def AttnOp.kSize (o : AttnOp) : Nat := 8 * (o.dk / 32) * (1 + 4 * o.kf.width)

/-- Granules of a V segment (R113). -/
def AttnOp.vSize (o : AttnOp) : Nat := o.dv / 8 * (2 + 8 * o.vf.width)

/-- QG: granules of one query (R113). -/
def AttnOp.qg (o : AttnOp) : Nat := 1 + (o.dk * o.kf.width / 8 + 63) / 64

/-- RG: granules of one record (R114). -/
def AttnOp.rg (o : AttnOp) : Nat := if o.sco then 32 else 1 + (o.dv + 31) / 32

/-- Number of segments covered (R114). -/
def AttnOp.nseg (o : AttnOp) : Nat := if o.p0 < o.p1 then (o.p1 - 1) / 512 - o.p0 / 512 + 1 else 0

/-- The FP32 score scale is positive and finite. -/
def scaleOk (a : Word) : Bool :=
  match ofFp32 a with
  | .num false m _ => decide (0 < m)
  | _ => false

/-- Every field of ATTN has a value given for it (R108, Table 4-4). -/
def AttnOp.legal (o : AttnOp) (w : SgaWords) : Bool :=
  let kc := bits w.w0 54 52
  let vc := bits w.w0 51 49
  decide (kc ≤ 2) && decide (vc ≤ 2) && decide (32 ≤ o.dk) && decide (o.dk ≤ 256) && scaleOk o.alpha
    && o.dbo != 0x80 && o.nbo != 0x80 && decide (o.kSize ≤ o.kstr)
    && (if o.sco then vc == 0 && o.dv == 8 && o.gv == 0 && o.dbo == 0 && o.nbo == 0 && o.vbase == 0 && o.vstr == 0
        else decide (o.vSize ≤ o.vstr))

/-- The bits of the fields of ATTN in words 0 to 6. -/
def attnFields : List Dword :=
  [maskOf 54 15, maskOf 24 0 ||| maskOf 56 32, maskOf 24 0 ||| maskOf 56 32, maskOf 39 0, maskOf 39 0, maskOf 47 0,
   maskOf 24 0 ||| maskOf 56 32]

/-- The column ranges that ATTN names (R109); none with P0 at or beyond P1 (R114). -/
def AttnOp.ranges (o : AttnOp) : List ColRange :=
  let n := o.nseg
  if n = 0 then []
  else [(o.kbase, o.kbase + (n - 1) * o.kstr + o.kSize), (o.qaddr, o.qaddr + o.nq * o.qg), (o.out, o.out + n * o.nq * o.rg)]
    ++ (if o.sco then [] else [(o.vbase, o.vbase + (n - 1) * o.vstr + o.vSize)])

/-- Positions of segment `j` of the command that are valid, relative to the segment (R114). -/
def AttnOp.valid (o : AttnOp) (j : Nat) : List Nat :=
  let g := o.p0 / 512 + j
  (List.range 512).filter (fun i => decide (o.p0 ≤ 512 * g + i) && decide (512 * g + i < o.p1))

/-- First byte of the slab that holds block `b` of position `p` of a K segment (R113, R64). -/
def AttnOp.kSlab (o : AttnOp) (j p b : Nat) : Nat :=
  64 * (o.kbase + j * o.kstr) + (p / 64 * (o.dk / 32) + b) * slabBytes o.kf.width 64

/-- First byte of V panel `u` of segment `j` (R113). -/
def AttnOp.vPanel (o : AttnOp) (j u : Nat) : Nat := 64 * (o.vbase + j * o.vstr + u * (2 + 8 * o.vf.width))

/-- First byte of the query of head `h`. -/
def AttnOp.query (o : AttnOp) (h : Nat) : Nat := 64 * (o.qaddr + h * o.qg)

/-- Bytes read for the scores of segment `j`: exponents and elements of the valid positions, and the queries. -/
def AttnOp.scoreReads (o : AttnOp) (j : Nat) : List (Nat × Nat) :=
  (o.valid j).flatMap (fun p => (List.range (o.dk / 32)).flatMap (fun b =>
    let s := o.kSlab j p b
    [(s + p % 64, 1), (s + 64 + p % 64 * (4 * o.kf.width), 4 * o.kf.width)]))
  ++ (if (o.valid j).isEmpty then [] else
      (List.range o.nq).map (fun h => (o.query h, 64 + o.dk * o.kf.width / 8)))

/-- Bytes of V read for segment `j`: the whole rows of the blocks of 32 positions that hold a valid one. The spec does not
say which lines of a partly valid block are read (log 84). -/
def AttnOp.valueReads (o : AttnOp) (j : Nat) : List (Nat × Nat) :=
  let bs := ((o.valid j).map (· / 32)).eraseDups
  (List.range (o.dv / 8)).flatMap (fun u => bs.flatMap (fun b => (List.range 8).flatMap (fun r =>
    [(o.vPanel j u + 16 * r + b, 1), (o.vPanel j u + 128 + (b * 8 + r) * (4 * o.vf.width), 4 * o.vf.width)])))

/-- The products of a score: q[h][d] x k[p][d] over d (R115). -/
def AttnOp.scoreProds (o : AttnOp) (r : Reader) (j h p : Nat) : List Prod :=
  (List.range (o.dk / 32)).flatMap (fun b =>
    let s := o.kSlab j p b
    let be := r.exp (s + p % 64)
    let q := o.query h
    let qe := r.exp (q + b)
    (List.range 32).map (fun i =>
      elemProd (.oct o.kf) (.oct o.kf) (r.elem o.kf.width (q + 64 + b * (4 * o.kf.width)) i) qe
        (r.elem o.kf.width (s + 64 + p % 64 * (4 * o.kf.width)) i) be))

/-- The block exponent WB of the weights (R115). -/
def weightExp : OFmt → Int
  | .o8 => -7
  | .o12 => -31
  | .o16 => -127

/-- One score: its FP32 value, its ledger and what it raised. -/
structure Score where
  pos : Nat
  sigma : Word
  ledger : Ledger
  raised : Raised
  sat : Bool

/-- The score of position `p`. -/
def AttnOp.score (o : AttnOp) (r : Reader) (lprot : Bool) (j h p : Nat) : Score :=
  let l := sumLedger lprot (Fmt.oct o.kf).mode o.gs (o.scoreProds r j h p)
  let rd := l.1.conv lprot r.disagree
  let v := CFmt.fp32.encode rd.1.value
  { pos := p, sigma := BitVec.ofNat 32 v.1, ledger := rd.1, raised := l.2.or rd.2, sat := v.2 }

/-- The FP32 word is a NaN or an infinity. -/
def notFinite (w : Word) : Bool :=
  match ofFp32 w with
  | .num _ _ _ => false
  | _ => true

/-- The record of Table 4-5. -/
def AttnOp.record (o : AttnOp) (m : Word) (d nv flags : Nat) (ns : List Nat) : List Byte :=
  padTo (leBytes 4 m.toNat ++ leBytes 2 d ++ [o.dbo, o.nbo] ++ leBytes 2 nv ++ [BitVec.ofNat 8 flags]
    ++ List.replicate 53 0 ++ ns.flatMap (leBytes 2)) (64 * o.rg)

/-- The weight of a score (R115). -/
def AttnOp.weight (o : AttnOp) (m : Word) (s : Score) : Nat :=
  (o.vf.round (weightExp o.vf) (ofFp32 (fExp2 (fMul (fSub s.sigma m) o.alpha)))).1

/-- The product wt[p] x v[p][c] of a valid position. -/
def AttnOp.valueProd (o : AttnOp) (r : Reader) (j cdim : Nat) (pw : Nat × Nat) : Prod :=
  let u := o.vPanel j (cdim / 8)
  let row := cdim % 8
  let b := pw.1 / 32
  elemProd (.oct o.vf) (.oct o.vf) (some pw.2) (ofBexp (weightExp o.vf))
    (r.elem o.vf.width (u + 128 + (b * 8 + row) * (4 * o.vf.width)) (pw.1 % 32)) (r.exp (u + 16 * row + b))

/-- The product wt[p] x one of a valid position. -/
def AttnOp.weightProd (o : AttnOp) (pw : Nat × Nat) : Prod :=
  (Fmt.oct o.vf).product (.oct o.vf) pw.2 (ofBexp (weightExp o.vf)) (oneCode (.oct o.vf)) 0

/-- The groups in which products of positions reach a D or N ledger: one group for each V block, positions 32b to 32b + 31
of the segment (R44). -/
def vBlocks (ws : List (Nat × Nat)) (f : Nat × Nat → Prod) : List (List Prod) :=
  (List.range 16).map (fun b => (ws.filter (fun pw => pw.1 / 32 == b)).map f)

/-- A ledger converted to Oct16 with a block exponent. -/
structure Conv16 where
  code : Nat
  sat : Bool
  ledger : Ledger
  raised : Raised

/-- The Oct16 conversion of a sum of groups of products (R49). -/
def conv16 (lprot disagree : Bool) (mode : BitVec 3) (g : BitVec 11) (bo : Byte) (gs : List (List Prod)) : Conv16 :=
  let l := sumGroups lprot mode g gs
  let rd := l.1.conv lprot disagree
  let v := OFmt.o16.round (bexp bo) rd.1.value
  { code := v.1, sat := v.2, ledger := rd.1, raised := l.2.or rd.2 }

/-- The scores of the valid positions of segment `j` for head `h`. -/
def AttnOp.scores (o : AttnOp) (r : Reader) (lprot : Bool) (j h : Nat) : List Score := (o.valid j).map (o.score r lprot j h)

/-- The ledgers of scores and conversions in output order as digest records. Which of the 16 ledgers an output used is not
stated: its number in the record is a free function of segment, head and place in that order (R126, R242, log 34). -/
def attnRecs (j h : Nat) (ls : List Ledger) : List (List Byte) :=
  (ls.zip (List.range ls.length)).map (fun p => p.1.record ((Config.attnLedger j h p.2).toNat % 16))

/-- What one segment gives for one head: the bytes of its record, its trace, and what it leaves in the working store. -/
def AttnOp.head (o : AttnOp) (r : Reader) (lprot : Bool) (j h : Nat) : List Byte × SgaTrace × List Nat :=
  let valid := o.valid j
  if valid.isEmpty && !o.sco then (o.record 0xFF800000 0 0 0 (List.replicate o.dv 0), {}, [])
  else
    let ss := o.scores r lprot j h
    let raised := ss.foldl (fun x s => x.or s.raised) Raised.none
    let sat := ss.countP (·.sat)
    if o.sco then
      ((List.range 512).flatMap (fun i => leBytes 4 (((ss.find? (fun (s : Score) => s.pos == i)).map (fun (s : Score) => s.sigma)).getD 0xFF800000).toNat),
       { raised := raised, sat := sat, recs := attnRecs j h (ss.map (·.ledger)) }, [])
    else
      let low := ss.any (·.ledger.low)
      let nar := o.record 0x7FC00001 0x8000 valid.length (1 + 4 * b2n low) (List.replicate o.dv 0x8000)
      if ss.any (fun s => notFinite s.sigma) then (nar, { raised := raised, sat := sat }, [])
      else
        let m := fMaxAll (ss.map (·.sigma))
        let ws := ss.map (fun s => (s.pos, o.weight m s))
        let mode := (Fmt.oct o.vf).mode
        let d := conv16 lprot r.disagree mode o.gv o.dbo (vBlocks ws o.weightProd)
        let ns := (List.range o.dv).map (fun cdim => conv16 lprot r.disagree mode o.gv o.nbo (vBlocks ws (o.valueProd r j cdim)))
        let all := d :: ns
        let low := low || all.any (·.ledger.low)
        let sat16 := all.countP (·.sat)
        let anyNar := all.any (·.ledger.nar) || decide (0 < sat16)
        let flags := b2n anyNar + 2 * b2n (decide (0 < sat16)) + 4 * b2n low
        let t : SgaTrace :=
          { raised := all.foldl (fun x s => x.or s.raised) raised, sat := sat + sat16, recs := attnRecs j h (all.map (·.ledger)) }
        if anyNar then (o.record 0x7FC00001 0x8000 valid.length flags (List.replicate o.dv 0x8000), t, ws.map (·.2))
        else (o.record m d.code valid.length flags (ns.map (·.code)), t, ws.map (·.2))

/-- Some head of segment `j` reads V: its scores are all finite (R115). -/
def AttnOp.needsV (o : AttnOp) (r : Reader) (lprot : Bool) (j : Nat) : Bool :=
  !o.sco && !(o.valid j).isEmpty
    && (List.range o.nq).any (fun h => (o.scores r lprot j h).all (fun s => !notFinite s.sigma))

/-- What a segment leaves in the working store (Table 4-1): the query copies, the scores and the weights of its heads. -/
def AttnOp.leaves (o : AttnOp) (r : Reader) (lprot : Bool) (j : Nat) : WorkStore :=
  { queries := (List.range o.nq).flatMap (fun h => rdBytes r.chip.mem.dram (r.base + o.query h) (64 * o.qg))
    scores := (List.range o.nq).flatMap (fun h => (o.scores r lprot j h).map (·.sigma))
    weights := (List.range o.nq).flatMap (fun h => (o.head r lprot j h).2.2) }

/-- One segment: reads of K and the queries, reads of V where a head needs it, one record per head, writes. A line that
several of its heads use is decoded and counted once for the segment (log 85). -/
def attnSegment (e : EngineId) (o : AttnOp) (ups : Upsets) (s : Chip × SgaTrace) (j : Nat) : Chip × SgaTrace :=
  let c := s.1
  let lprot := c.lprot (c.engine e).ctx
  let c1 := c.engRead e (o.scoreReads j) ups
  let c2 := if o.needsV (c1.reader e) lprot j then c1.engRead e (o.valueReads j) ups else c1
  let r := c2.reader e
  let c3 := c2.modEngine e (fun k => { k with work := o.leaves r lprot j })
  (List.range o.nq).foldl (fun s h =>
    let out := o.head r lprot j h
    (s.1.engWrite e ups (64 * (o.out + (j * o.nq + h) * o.rg)) out.1, s.2.then out.2.1)) (c3, s.2)

/-- ATTN (R115). -/
def attnOut (e : EngineId) (w : SgaWords) (ups : Upsets) (c : Chip) : SgaOut :=
  let o := attnOp w
  if !o.legal w then .fail c 0
  else if !c.covers e o.ranges then .fail c 2
  else
    let r := (List.range o.nseg).foldl (attnSegment e o ups) (c, {})
    .ok (r.1.engReport e r.2)

/-- ATTN. -/
def execAttn (e : EngineId) (w : SgaWords) (ups : Upsets) (s : State) : Answer :=
  s.lift (fun c => c.sgaStep e 0x11 w attnFields (attnOut e w ups))

end Sys2Proof.Machine
end

