-- ==== Sys2Proof/Machine/Dispatch.lean ====
section
/-! DEFINITION. The one dispatch from commands to meanings: one arm per constructor of Instr. -/
namespace Sys2Proof.Machine

def exec (i : Instr) (s : State) : Host.Outcome State Fault Refusal :=
  match i with
  | .nop n w => Sys2Proof.Machine.execNop n w s
  | .halt n w => Sys2Proof.Machine.execHalt n w s
  | .seta n w => Sys2Proof.Machine.execSeta n w s
  | .adda n w => Sys2Proof.Machine.execAdda n w s
  | .loop n w => Sys2Proof.Machine.execLoop n w s
  | .br n w => Sys2Proof.Machine.execBr n w s
  | .bnz n w => Sys2Proof.Machine.execBnz n w s
  | .ifence n w => Sys2Proof.Machine.execIfence n w s
  | .moveQ n w => Sys2Proof.Machine.execMoveQ n w s
  | .moveF n w => Sys2Proof.Machine.execMoveF n w s
  | .moveFResume n => Sys2Proof.Machine.execMoveFResume n s
  | .mma n w => Sys2Proof.Machine.execMma n w s
  | .vld n w => Sys2Proof.Machine.execVld n w s
  | .vst n w => Sys2Proof.Machine.execVst n w s
  | .vadd n w => Sys2Proof.Machine.execVadd n w s
  | .vsub n w => Sys2Proof.Machine.execVsub n w s
  | .vmul n w => Sys2Proof.Machine.execVmul n w s
  | .vfma n w => Sys2Proof.Machine.execVfma n w s
  | .vmax n w => Sys2Proof.Machine.execVmax n w s
  | .vmin n w => Sys2Proof.Machine.execVmin n w s
  | .vexp2 n w => Sys2Proof.Machine.execVexp2 n w s
  | .vlog2 n w => Sys2Proof.Machine.execVlog2 n w s
  | .vrcp n w => Sys2Proof.Machine.execVrcp n w s
  | .vrsq n w => Sys2Proof.Machine.execVrsq n w s
  | .vcmp n w => Sys2Proof.Machine.execVcmp n w s
  | .vsel n w => Sys2Proof.Machine.execVsel n w s
  | .vsum n w => Sys2Proof.Machine.execVsum n w s
  | .vmaxr n w => Sys2Proof.Machine.execVmaxr n w s
  | .vomul n w => Sys2Proof.Machine.execVomul n w s
  | .vmova n w => Sys2Proof.Machine.execVmova n w s
  | .ledgClr n w => Sys2Proof.Machine.execLedgClr n w s
  | .ledgCvt n w => Sys2Proof.Machine.execLedgCvt n w s
  | .ledgFlg n w => Sys2Proof.Machine.execLedgFlg n w s
  | .ledgSave n w => Sys2Proof.Machine.execLedgSave n w s
  | .ledgLoad n w => Sys2Proof.Machine.execLedgLoad n w s
  | .ledgDig n w => Sys2Proof.Machine.execLedgDig n w s
  | .setc n w => Sys2Proof.Machine.execSetc n w s
  | .addc n w => Sys2Proof.Machine.execAddc n w s
  | .subc n w => Sys2Proof.Machine.execSubc n w s
  | .syncWait n w => Sys2Proof.Machine.execSyncWait n w s
  | .syncWaitResume n => Sys2Proof.Machine.execSyncWaitResume n s
  | .syncTimeout u => Sys2Proof.Machine.execSyncTimeout u s
  | .arrive n w => Sys2Proof.Machine.execArrive n w s
  | .rdc n w => Sys2Proof.Machine.execRdc n w s
  | .tickWait n w => Sys2Proof.Machine.execTickWait n w s
  | .tickNext n w => Sys2Proof.Machine.execTickNext n w s
  | .tickResume u => Sys2Proof.Machine.execTickResume u s
  | .tickRd n w => Sys2Proof.Machine.execTickRd n w s
  | .moveStart n => Sys2Proof.Machine.execMoveStart n s
  | .ldGranuleArrival n mv g ups => Sys2Proof.Machine.execLdGranuleArrival n mv g ups s
  | .stAck n mv g => Sys2Proof.Machine.execStAck n mv g s
  | .cpGranuleArrival n mv g => Sys2Proof.Machine.execCpGranuleArrival n mv g s
  | .arriveDelivery k => Sys2Proof.Machine.execArriveDelivery k s
  | .wakeTokenGrant die => Sys2Proof.Machine.execWakeTokenGrant die s
  | .coreIdle n => Sys2Proof.Machine.execCoreIdle n s
  | .sgaNop e c => Sys2Proof.Machine.execSgaNop e c s
  | .sgaEnd e c => Sys2Proof.Machine.execSgaEnd e c s
  | .sgaWait e c => Sys2Proof.Machine.execSgaWait e c s
  | .sgaWaitResume e => Sys2Proof.Machine.execSgaWaitResume e s
  | .sgaTick e c => Sys2Proof.Machine.execSgaTick e c s
  | .signal e c => Sys2Proof.Machine.execSignal e c s
  | .sgaSetc e c => Sys2Proof.Machine.execSgaSetc e c s
  | .jump e c => Sys2Proof.Machine.execJump e c s
  | .attn e c ups => Sys2Proof.Machine.execAttn e c ups s
  | .reduce e c ups => Sys2Proof.Machine.execReduce e c ups s
  | .scan e c ups => Sys2Proof.Machine.execScan e c ups s
  | .gather e c ups => Sys2Proof.Machine.execGather e c ups s
  | .patrolScrub st symbols => Sys2Proof.Machine.execPatrolScrub st symbols s
  | .bandClearDone b => Sys2Proof.Machine.execBandClearDone b s
  | .bar4Read x n ups => Sys2Proof.Machine.execBar4Read x n ups s
  | .bar4Write x data ups => Sys2Proof.Machine.execBar4Write x data ups s
  | .bar4Resize size => Sys2Proof.Machine.execBar4Resize size s
  | .stkWBaseHighWrite a d => Sys2Proof.Machine.execStkWBaseHighWrite a d s
  | .stkWBaseLowWrite a d => Sys2Proof.Machine.execStkWBaseLowWrite a d s
  | .markReceived k m => Sys2Proof.Machine.execMarkReceived k m s
  | .refEdgeLoss k => Sys2Proof.Machine.execRefEdgeLoss k s
  | .frameLock => Sys2Proof.Machine.execFrameLock s
  | .freerunEntry => Sys2Proof.Machine.execFreerunEntry s
  | .slipApply => Sys2Proof.Machine.execSlipApply s
  | .frameBoundary m => Sys2Proof.Machine.execFrameBoundary m s
  | .verdict => Sys2Proof.Machine.execVerdict s
  | .frmCtlDis a d => Sys2Proof.Machine.execFrmCtlDis a d s
  | .frmSlipmapWrite k a d => Sys2Proof.Machine.execFrmSlipmapWrite k a d s
  | .codewordReceive l group => Sys2Proof.Machine.execCodewordReceive l group s
  | .controlReplay l => Sys2Proof.Machine.execControlReplay l s
  | .linkTraining l cold => Sys2Proof.Machine.execLinkTraining l cold s
  | .linkTrainComplete l r => Sys2Proof.Machine.execLinkTrainComplete l r s
  | .autoRetrain l => Sys2Proof.Machine.execAutoRetrain l s
  | .linkSignalDetect l => Sys2Proof.Machine.execLinkSignalDetect l s
  | .laneCdrLoss l lane => Sys2Proof.Machine.execLaneCdrLoss l lane s
  | .laneBerCheck l errs => Sys2Proof.Machine.execLaneBerCheck l errs s
  | .laneDrop l good lfn => Sys2Proof.Machine.execLaneDrop l good lfn s
  | .laneAdd l good lfn => Sys2Proof.Machine.execLaneAdd l good lfn s
  | .goodbye l => Sys2Proof.Machine.execGoodbye l s
  | .neighbour l rec => Sys2Proof.Machine.execNeighbour l rec s
  | .linkLos l => Sys2Proof.Machine.execLinkLos l s
  | .linkDisable l => Sys2Proof.Machine.execLinkDisable l s
  | .linkEnable l => Sys2Proof.Machine.execLinkEnable l s
  | .requal l => Sys2Proof.Machine.execRequal l s
  | .requalDone l r => Sys2Proof.Machine.execRequalDone l r s
  | .loopback l on => Sys2Proof.Machine.execLoopback l on s
  | .planWidth l w => Sys2Proof.Machine.execPlanWidth l w s
  | .data l p => Sys2Proof.Machine.execData l p s
  | .rdReq l p ups => Sys2Proof.Machine.execRdReq l p ups s
  | .rdResp l p => Sys2Proof.Machine.execRdResp l p s
  | .wr l p => Sys2Proof.Machine.execWr l p s
  | .wrAck l p => Sys2Proof.Machine.execWrAck l p s
  | .arrivePacket l p => Sys2Proof.Machine.execArrivePacket l p s
  | .digest l p => Sys2Proof.Machine.execDigest l p s
  | .loss l p => Sys2Proof.Machine.execLoss l p s
  | .credit l p => Sys2Proof.Machine.execCredit l p s
  | .forwardSend die k => Sys2Proof.Machine.execForwardSend die k s
  | .controlWindowOpen => Sys2Proof.Machine.execControlWindowOpen s
  | .rteDrainSet mask => Sys2Proof.Machine.execRteDrainSet mask s
  | .rteDrainClear mask => Sys2Proof.Machine.execRteDrainClear mask s
  | .linkDrained l => Sys2Proof.Machine.execLinkDrained l s
  | .rteRouteWrite p a d => Sys2Proof.Machine.execRteRouteWrite p a d s
  | .rteIdWrite a d => Sys2Proof.Machine.execRteIdWrite a d s
  | .tombExpire circuit => Sys2Proof.Machine.execTombExpire circuit s
  | .heartbeat => Sys2Proof.Machine.execHeartbeat s
  | .heartbeatMiss by_ => Sys2Proof.Machine.execHeartbeatMiss by_ s
  | .intentAck st => Sys2Proof.Machine.execIntentAck st s
  | .sealRecord verifies => Sys2Proof.Machine.execSealRecord verifies s
  | .copySeal => Sys2Proof.Machine.execCopySeal s
  | .copyDeadline => Sys2Proof.Machine.execCopyDeadline s
  | .ibexTakeover => Sys2Proof.Machine.execIbexTakeover s
  | .ibexUnitReset => Sys2Proof.Machine.execIbexUnitReset s
  | .resyncDone => Sys2Proof.Machine.execResyncDone s
  | .roleSwap => Sys2Proof.Machine.execRoleSwap s
  | .swapHandover => Sys2Proof.Machine.execSwapHandover s
  | .ibexMemUe => Sys2Proof.Machine.execIbexMemUe s
  | .ibexWatchdog u => Sys2Proof.Machine.execIbexWatchdog u s
  | .slotPost off data => Sys2Proof.Machine.execSlotPost off data s
  | .getInfo st => Sys2Proof.Machine.execGetInfo st s
  | .getState st => Sys2Proof.Machine.execGetState st s
  | .readFaultMap st => Sys2Proof.Machine.execReadFaultMap st s
  | .readDossier st => Sys2Proof.Machine.execReadDossier st s
  | .readDefects st => Sys2Proof.Machine.execReadDefects st s
  | .attest st => Sys2Proof.Machine.execAttest st s
  | .setCap st => Sys2Proof.Machine.execSetCap st s
  | .computeReset st => Sys2Proof.Machine.execComputeReset st s
  | .fwStage st => Sys2Proof.Machine.execFwStage st s
  | .fwActivate st => Sys2Proof.Machine.execFwActivate st s
  | .stageWrite st => Sys2Proof.Machine.execStageWrite st s
  | .stageRead st => Sys2Proof.Machine.execStageRead st s
  | .planLoad st => Sys2Proof.Machine.execPlanLoad st s
  | .planCancel st => Sys2Proof.Machine.execPlanCancel st s
  | .planStatus st => Sys2Proof.Machine.execPlanStatus st s
  | .ctxCreate st => Sys2Proof.Machine.execCtxCreate st s
  | .ctxTeardown st => Sys2Proof.Machine.execCtxTeardown st s
  | .ctxReset st => Sys2Proof.Machine.execCtxReset st s
  | .ctxHold st => Sys2Proof.Machine.execCtxHold st s
  | .ctxResume st => Sys2Proof.Machine.execCtxResume st s
  | .checkLoad st => Sys2Proof.Machine.execCheckLoad st s
  | .ctxStatus st => Sys2Proof.Machine.execCtxStatus st s
  | .stepDefine st => Sys2Proof.Machine.execStepDefine st s
  | .stepRun st => Sys2Proof.Machine.execStepRun st s
  | .stepStatus st => Sys2Proof.Machine.execStepStatus st s
  | .progLoad st => Sys2Proof.Machine.execProgLoad st s
  | .uci1Info st => Sys2Proof.Machine.execUci1Info st s
  | .uci1Stage st => Sys2Proof.Machine.execUci1Stage st s
  | .uci1Plan st => Sys2Proof.Machine.execUci1Plan st s
  | .openJob st => Sys2Proof.Machine.execOpenJob st s
  | .closeJob st => Sys2Proof.Machine.execCloseJob st s
  | .resetJob st => Sys2Proof.Machine.execResetJob st s
  | .uci1Run st => Sys2Proof.Machine.execUci1Run st s
  | .stepState st => Sys2Proof.Machine.execStepState st s
  | .uci1Replay st => Sys2Proof.Machine.execUci1Replay st s
  | .faults st => Sys2Proof.Machine.execFaults st s
  | .ringWrite => Sys2Proof.Machine.execRingWrite s
  | .mbxRingHeadWrite a d => Sys2Proof.Machine.execMbxRingHeadWrite a d s
  | .stepWatchdog u => Sys2Proof.Machine.execStepWatchdog u s
  | .moverWatchdog n => Sys2Proof.Machine.execMoverWatchdog n s
  | .contextResetWatchdog c => Sys2Proof.Machine.execContextResetWatchdog c s
  | .engineResetWatchdog => Sys2Proof.Machine.execEngineResetWatchdog s
  | .computeResetWatchdog => Sys2Proof.Machine.execComputeResetWatchdog s
  | .packageResetWatchdog => Sys2Proof.Machine.execPackageResetWatchdog s
  | .engineReset => Sys2Proof.Machine.execEngineReset s
  | .engineResetComplete => Sys2Proof.Machine.execEngineResetComplete s
  | .computeDomainReset failed => Sys2Proof.Machine.execComputeDomainReset failed s
  | .recoveryEnd ms => Sys2Proof.Machine.execRecoveryEnd ms s
  | .packageReset => Sys2Proof.Machine.execPackageReset s
  | .fltPkgrstWrite a d => Sys2Proof.Machine.execFltPkgrstWrite a d s
  | .pkgrstSeqTimeout => Sys2Proof.Machine.execPkgrstSeqTimeout s
  | .trialEnd => Sys2Proof.Machine.execTrialEnd s
  | .unitQuarantine u => Sys2Proof.Machine.execUnitQuarantine u s
  | .beaconRepeat => Sys2Proof.Machine.execBeaconRepeat s
  | .markhorResetRelease => Sys2Proof.Machine.execMarkhorResetRelease s
  | .runTo a d => Sys2Proof.Machine.execRunTo a d s
  | .bruRestart a d => Sys2Proof.Machine.execBruRestart a d s
  | .bruRails ok ms => Sys2Proof.Machine.execBruRails ok ms s
  | .bruClockLock ok ms => Sys2Proof.Machine.execBruClockLock ok ms s
  | .bruFuseNor majority badRecords ms => Sys2Proof.Machine.execBruFuseNor majority badRecords ms s
  | .bruD2dTraining ok ms => Sys2Proof.Machine.execBruD2dTraining ok ms s
  | .bruMemoryTraining failed ms => Sys2Proof.Machine.execBruMemoryTraining failed ms s
  | .bruDefectTest sites fmax rows cols stks ms => Sys2Proof.Machine.execBruDefectTest sites fmax rows cols stks ms s
  | .bruFirmwareLoad activeOk otherOk startA startB bad ms => Sys2Proof.Machine.execBruFirmwareLoad activeOk otherOk startA startB bad ms s
  | .bruLinkTraining ms => Sys2Proof.Machine.execBruLinkTraining ms s
  | .bruFrameLock ms => Sys2Proof.Machine.execBruFrameLock ms s
  | .bruReady ms => Sys2Proof.Machine.execBruReady ms s
  | .bruStepTimeout => Sys2Proof.Machine.execBruStepTimeout s
  | .powerOn activeOk otherOk => Sys2Proof.Machine.execPowerOn activeOk otherOk s
  | .powerLoss => Sys2Proof.Machine.execPowerLoss s
  | .powerSample centivolts centiamps => Sys2Proof.Machine.execPowerSample centivolts centiamps s
  | .powerWindow m => Sys2Proof.Machine.execPowerWindow m s
  | .sensorRead r => Sys2Proof.Machine.execSensorRead r s
  | .throttleStep u => Sys2Proof.Machine.execThrottleStep u s
  | .shutdownRelease seconds => Sys2Proof.Machine.execShutdownRelease seconds s
  | .hsThermistorRead t0 t1 => Sys2Proof.Machine.execHsThermistorRead t0 t1 s
  | .inletStale => Sys2Proof.Machine.execInletStale s
  | .thetaUpdate meanPower => Sys2Proof.Machine.execThetaUpdate meanPower s
  | .airflowFailAssert => Sys2Proof.Machine.execAirflowFailAssert s
  | .airflowFailRelease => Sys2Proof.Machine.execAirflowFailRelease s
  | .pwrStoreLowAssert => Sys2Proof.Machine.execPwrStoreLowAssert s
  | .pwrStoreLowRelease => Sys2Proof.Machine.execPwrStoreLowRelease s
  | .pwrHardcapWrite a d => Sys2Proof.Machine.execPwrHardcapWrite a d s
  | .pwrTheta0Write a d => Sys2Proof.Machine.execPwrTheta0Write a d s
  | .parity v => Sys2Proof.Machine.execParity v s
  | .ballastEn on => Sys2Proof.Machine.execBallastEn on s
  | .derateEn on => Sys2Proof.Machine.execDerateEn on s
  | .regFault r => Sys2Proof.Machine.execRegFault r s
  | .pcieLinkLoss => Sys2Proof.Machine.execPcieLinkLoss s
  | .msixMessage v => Sys2Proof.Machine.execMsixMessage v s
  | .pkgIrqStatusClear a d => Sys2Proof.Machine.execPkgIrqStatusClear a d s
  | .dossierRead src payload => Sys2Proof.Machine.execDossierRead src payload s
  | .stateRead src payload => Sys2Proof.Machine.execStateRead src payload s
  | .mgmtDatagramDrop src payload => Sys2Proof.Machine.execMgmtDatagramDrop src payload s
  | .neighborSolicitation target => Sys2Proof.Machine.execNeighborSolicitation target s
  | .echoRequest dst payload => Sys2Proof.Machine.execEchoRequest dst payload s
  | .entdaa addr => Sys2Proof.Machine.execEntdaa addr s
  | .setEndpointId eid => Sys2Proof.Machine.execSetEndpointId eid s
  | .getEndpointId => Sys2Proof.Machine.execGetEndpointId s
  | .getMctpVersionSupport => Sys2Proof.Machine.execGetMctpVersionSupport s
  | .getMessageTypeSupport => Sys2Proof.Machine.execGetMessageTypeSupport s
  | .telemetry tag => Sys2Proof.Machine.execTelemetry tag s
  | .inlet tag tin airflow => Sys2Proof.Machine.execInlet tag tin airflow s
  | .mctpAttest tag nonce off => Sys2Proof.Machine.execMctpAttest tag nonce off s
  | .mctpFwStage tag off len chunk => Sys2Proof.Machine.execMctpFwStage tag off len chunk s
  | .mctpFwActivate tag => Sys2Proof.Machine.execMctpFwActivate tag s
  | .mctpDossierRead tag index off => Sys2Proof.Machine.execMctpDossierRead tag index off s
  | .beaconCfg tag d1 d2 unicast hop key => Sys2Proof.Machine.execBeaconCfg tag d1 d2 unicast hop key s
  | .reg64LowRead off => Sys2Proof.Machine.execReg64LowRead off s
  | .registerWrite off d => Sys2Proof.Machine.execRegisterWrite off d s
  | .cfgParitySweep upsets => Sys2Proof.Machine.execCfgParitySweep upsets s
  | .missingMark k => Sys2Proof.Machine.execMissingMark k s
  | .portTrainingLost st => Sys2Proof.Machine.execPortTrainingLost st s
  | .mgmtPortLink up => Sys2Proof.Machine.execMgmtPortLink up s

end Sys2Proof.Machine
end

