-- ==== Sys2Proof/Machine/Idle.lean ====
section
/-! DEFINITION. What one tick period does when no command waits. -/
namespace Sys2Proof.Machine

/-- The package is unavailable (R339); a compute-domain reset that the host ordered is not counted. -/
def Chip.unavailable (c : Chip) : Bool := (c.mbx.dstate == .recovering && c.flt.reason != 4) || c.mbx.dstate == .quarantined || c.flt.outage

/-- A powered frame of 4,096 tick periods is counted (R339). -/
def Chip.countFrame (c : Chip) : Chip :=
  if c.pkg.entryIn then c.modFlt (fun f => { f with
    service := satInc64 f.service 1, unavail := if c.unavailable then satInc64 f.unavail 1 else f.unavail }) else c

/-- A second has passed: 64 events can be announced again, and 256 requests served (R338, R400). -/
def Chip.newSecond (c : Chip) : Chip :=
  (c.modFlt (fun f => { f with thisSecond := 0 })).modPkg (fun p => { p with served := 0 })

/-- A tick period passes (R6, R164, R182): the uptime counts it, and the tick number of the frame advances; a held tick
lasts two periods and a skipped tick none. -/
def Chip.passTick (c : Chip) : Chip :=
  let c1 := { c with uptime := c.uptime + 1, frm := c.frm.tickPeriod }
  let c2 := if c1.uptime % 4096 = 0 then c1.countFrame else c1
  if c1.uptime % 40960000 = 0 then c2.newSecond else c2

/-- What an empty queue leaves to time (log 13): a slip that is due at grid tick 128 joins the debt, open data groups are sent, and
a tick period passes, in which circuit packets leave whose windows are open, training goes on, and groups in loopback arrive; at
the end of a frame time waits for FRAME_BOUNDARY, which brings the frame's measurements. -/
def Chip.idle (c : Chip) : Chip :=
  if c.frm.ended then c
  else
    let c1 := allLinks.foldl Chip.flushTx (if c.frm.slipDue then slipApplyEffect c else c)
    allLinks.foldl (fun c l => ((c.sendDue l).trainTick l).loopTick l) c1.passTick

end Sys2Proof.Machine
end

