-- ==== Sys2Proof/Safety.lean ====
section
/-! DEFINITION. What claims about the package are stated in: completion of a command, readiness of a core and an
engine, and the canonical form of the tables. -/
namespace Sys2Proof.Machine

/-- Command `i` completes at `s`: it answers a next state in which the commands that wait are those of `s`, and the
package is as `P` says. -/
def Completes (i : Instr) (s : State) (P : Chip → Prop) : Prop :=
  ∃ c : Chip, exec i s = .next { s with chip := c } ∧ P c

/-- The effect of a command on the package is exactly `c`: a next state, the waiting commands unchanged. -/
def Gives (i : Instr) (s : State) (c : Chip) : Prop := exec i s = .next { s with chip := c }

/-- A host access that reaches the device, the endpoint enabled and its function in D0 (R390, R396), has exactly the effect `c`. -/
def HostGives (i : Instr) (s : State) (c : Chip) : Prop := s.chip.hostUp = true → Gives i s c

/-- A host access that reaches the device completes, and the package is as `P` says. -/
def HostCompletes (i : Instr) (s : State) (P : Chip → Prop) : Prop := s.chip.hostUp = true → Completes i s P

/-- The commands that are accesses of the host to a BAR (R391). -/
def hostAccess : Instr → Bool
  | .registerWrite _ _ => true
  | .reg64LowRead _ => true
  | .slotPost _ _ => true
  | .bar4Read _ _ _ => true
  | .bar4Write _ _ _ => true
  | .stkWBaseHighWrite _ _ => true
  | .stkWBaseLowWrite _ _ => true
  | .frmCtlDis _ _ => true
  | .frmSlipmapWrite _ _ _ => true
  | .linkDisable _ => true
  | .linkEnable _ => true
  | .requal _ => true
  | .loopback _ _ => true
  | .planWidth _ _ => true
  | .rteRouteWrite _ _ _ => true
  | .rteIdWrite _ _ => true
  | .rteDrainSet _ => true
  | .rteDrainClear _ => true
  | .mbxRingHeadWrite _ _ => true
  | .fltPkgrstWrite _ _ => true
  | .runTo _ _ => true
  | .bruRestart _ _ => true
  | .pkgIrqStatusClear _ _ => true
  | .parity _ => true
  | .ballastEn _ => true
  | .derateEn _ => true
  | .pwrHardcapWrite _ _ => true
  | .pwrTheta0Write _ _ => true
  | _ => false

/-- A core can carry out its next instruction: it issues (R66), its program counter lies in the context area (R61), and the
fetch meets no SRAM error and no poison (R62, R63). -/
def CoreReady (c : Chip) (n : CoreId) : Prop :=
  (c.core n).issues = true ∧ (c.core n).sramErr = [] ∧ inCtxArea (c.core n).pc.toNat 8 = true
    ∧ (c.core n).poisoned (c.core n).pc.toNat = false

/-- Instruction `i` is what the word at the program counter of core `n` spells, as its fetch sees it (R66, R83). -/
def Fetches (c : Chip) (n : CoreId) (i : Instr) : Prop := (c.core n).fetched n = some i

/-- The canonical form of the tables of memory (R130, R134): bytes, poison tags, band table. -/
def MemSys.wf (m : MemSys) : Prop := memWf m.dram = true ∧ twf false m.tag = true ∧ twf Band.zero m.bands = true

/-- The canonical form of the tables of the package's units and of its memory: equal contents are equal data. -/
structure Chip.Canonical (c : Chip) : Prop where
  cores : twf Core.zero c.cores = true
  engines : twf Engine.zero c.engines = true
  stks : twf Stack.zero c.stks = true
  links : twf Link.zero c.links = true
  mem : c.mem.wf

/-- What every command leaves of a package: the fuse map is that of manufacture (R346), the anti-rollback counter never
falls (R411), and the tables stay in canonical form. -/
structure Chip.Follows (c0 c : Chip) : Prop where
  fuse : c.fuse = c0.fuse
  rollback : c0.nor.antiRollback.toNat ≤ c.nor.antiRollback.toNat
  canonical : c0.Canonical → c.Canonical

/-- The lattice core that carries out an instruction of Table 3-4, none for another command. -/
def coreInstr : Instr → Option CoreId
  | .nop n _ => some n
  | .halt n _ => some n
  | .seta n _ => some n
  | .adda n _ => some n
  | .loop n _ => some n
  | .br n _ => some n
  | .bnz n _ => some n
  | .ifence n _ => some n
  | .moveQ n _ => some n
  | .moveF n _ => some n
  | .mma n _ => some n
  | .vld n _ => some n
  | .vst n _ => some n
  | .vadd n _ => some n
  | .vsub n _ => some n
  | .vmul n _ => some n
  | .vfma n _ => some n
  | .vmax n _ => some n
  | .vmin n _ => some n
  | .vexp2 n _ => some n
  | .vlog2 n _ => some n
  | .vrcp n _ => some n
  | .vrsq n _ => some n
  | .vcmp n _ => some n
  | .vsel n _ => some n
  | .vsum n _ => some n
  | .vmaxr n _ => some n
  | .vomul n _ => some n
  | .vmova n _ => some n
  | .ledgClr n _ => some n
  | .ledgCvt n _ => some n
  | .ledgFlg n _ => some n
  | .ledgSave n _ => some n
  | .ledgLoad n _ => some n
  | .ledgDig n _ => some n
  | .setc n _ => some n
  | .addc n _ => some n
  | .subc n _ => some n
  | .syncWait n _ => some n
  | .arrive n _ => some n
  | .rdc n _ => some n
  | .tickWait n _ => some n
  | .tickNext n _ => some n
  | .tickRd n _ => some n
  | _ => none

/-- The effect on the package of an instruction that core `n` fetches is exactly `c`. -/
def Runs (i : Instr) (s : State) (n : CoreId) (c : Chip) : Prop := Fetches s.chip n i → Gives i s c

/-- An instruction that core `n` fetches completes: the core is now `k`, its program counter moved past the instruction
(R66, R84), and nothing else of the package changes. -/
def Passes (i : Instr) (s : State) (n : CoreId) (k : Core) : Prop := Runs i s n (s.chip.setCore n k.pass)

/-- The program of core `n` stops with bit `b` of CORE_ERR (R99): the program counter stays, a PROGRAM condition is reported
(R315), and nothing else of the package changes. -/
def Chip.stopping (c : Chip) (n : CoreId) (b : Nat) : Chip := (c.setCore n ((c.core n).stopWith b)).coreStopReport n b

/-- An instruction that core `n` fetches stops the program with bit `b` of CORE_ERR. -/
def StopsWith (i : Instr) (s : State) (n : CoreId) (b : Nat) : Prop := Runs i s n (s.chip.stopping n b)

/-- An instruction that core `n` fetches makes `o` of its core and goes on: ledger conditions and poison consumed are reported
(R63, R73), and nothing else of the package changes. -/
def Settles (i : Instr) (s : State) (n : CoreId) (o : CoreOut) : Prop := Runs i s n ((s.chip.setCore n o.settle).coreReports n o)

/-- A Saiga engine can carry out its next command: it runs, waits for nothing, holds no completed command's signal, is not
gated, and its program counter lies in its window (R109). -/
def EngineReady (c : Chip) (e : EngineId) : Prop :=
  let k := c.engine e
  k.state = .run ∧ k.wait = .none ∧ k.held = none ∧ k.gated = false ∧ c.engineReach e k.pc.toNat (k.pc.toNat + 1) = true

/-- The line that engine `e` fetches its next command from. -/
def Chip.sgaLine (c : Chip) (e : EngineId) : Nat := engLine e (c.engine e).pc.toNat

/-- The package when the line of the next command of engine `e` has passed the decoder, with the symbols in error that the
fetch met (R124). -/
def Chip.fetching (c : Chip) (e : EngineId) (w : SgaWords) : Chip := c.decodeLine (c.sgaLine e) w.symbols true

/-- The package when engine `e` has fetched a command of operation `op`. -/
def Chip.taking (c : Chip) (e : EngineId) (op : Byte) (w : SgaWords) : Chip :=
  (c.fetching e w).modEngine e (fun k => { k with op := op })

/-- Engine `e` fetches the command of operation `op` with the words `w`: the line is not poisoned (R125), its operation is not
reserved, and its eight words are those (R105, R108). -/
def SgaFetches (c : Chip) (e : EngineId) (op : Byte) (w : SgaWords) : Prop :=
  (c.fetching e w).tag (c.sgaLine e) = false ∧ (c.fetching e w).sgaLineReserved e (c.engine e).pc.toNat = false
    ∧ (c.fetching e w).lineBytes (c.sgaLine e) = sgaBytes op w

/-- The command fetched is legal so far as its reserved bits (R108) and the signal it asks for (R111, R112) go. -/
def SgaLegal (c : Chip) (e : EngineId) (op : Byte) (w : SgaWords) (fields : List Dword) : Prop :=
  SgaFetches c e op w ∧ reservedZero w fields = true ∧ (c.taking e op w).signalOk w = true

/-- The signal that a command asks for with SIG. -/
def sgaAsks (w : SgaWords) : Option Signal := if sgaSig w then some (sgaSignal w) else none

/-- The active unit serves slot `s` next, and the slot asks for operation `o`, in UCI-1 where `ver1` holds (R268, R281),
and is not shed (R285). -/
structure Served (c : Chip) (s : SlotId) (ver1 : Bool) (o : Op) : Prop where
  takes : c.takes = true
  next : c.nextSlot = some s
  asks : c.mbx.slotOp s = some o
  speaks : c.mbx.isUci1 s = ver1
  calm : c.mbx.shedFrames (s.val / 8) o.isS = none

/-- The request that slot `s` holds. -/
def Chip.slotRequest (c : Chip) (s : SlotId) : Req := c.mbx.slotReq s c.img.nextCtag

/-- The package when an S command has been taken from slot `s`: the slot is TAKEN and the tag is used (R268, R294). -/
def Chip.takenS (c : Chip) (s : SlotId) (o : Op) : Chip :=
  let t := c.markTaken s o.pages
  { t with img := { t.img with nextCtag := nextTag t.img.nextCtag } }

/-- A finite FP32 lane in units of 2^-149, the least subnormal: an exact integer (IEEE 754 binary32, R74). -/
def laneInt (w : Word) : Int :=
  let m := bits w 22 0
  let e := bits w 30 23
  let mag : Nat := if e = 0 then m else (2 ^ 23 + m) * 2 ^ (e - 1)
  if bit w 31 then -(mag : Int) else mag

end Sys2Proof.Machine
end

