-- ==== Sys2Proof/Certificates/Slice0/Obligations.lean ====
section
/-! DEFINITION. The statements for the provers. -/
open Sys2Proof Sys2Proof.Machine

/-- The model's queue (log 1): a step takes the command at the front and answers what `exec` makes of it with the rest of the
queue. -/
def Obligations.StepRunsFrontCommand : Prop :=
  ∀ (c : Instr) (s : State), step { s with pending := c :: s.pending } = exec c s

/-- The model's idling (log 13): with no command waiting one tick period passes (R6, R164, R182): the uptime counts it and the
frame clock moves on; while no link trains, sends or loops back, nothing but time passes. A frame that has lasted its time
waits for FRAME_BOUNDARY. -/
def Obligations.IdleStepPassesOneTickPeriod : Prop :=
  ∀ s : State, s.pending = [] →
    let c := s.chip
    let t := c.idle
    step s = .next { s with chip := t }
    ∧ (c.frm.ended = true → t = c)
    ∧ (c.frm.ended = false → c.frm.slipDue = false →
        (∀ l : LinkId, let k := c.link l; k.txPart = [] ∧ k.dataQ = [] ∧ k.attempt = none ∧ k.loop = [] ∧ k.loopback = false) →
        t.uptime = c.uptime + 1 ∧ t.frm = c.frm.tickPeriod ∧ t.cores = c.cores ∧ t.engines = c.engines ∧ t.mem = c.mem
        ∧ t.links = c.links ∧ t.mbx = c.mbx ∧ t.plan = c.plan ∧ t.rte = c.rte ∧ t.img = c.img ∧ t.out = c.out)

/-- Every command, with whatever operands, answers a next state in which the commands that wait are those that waited: no
command is refused and none faults. -/
def Obligations.WellFormedCommandsComplete : Prop :=
  ∀ (i : Instr) (s : State), ∃ c : Chip, exec i s = .next { s with chip := c }

/-- The state after manufacture, before the 48 V entry has come into range: nothing waits, the device state is OFF, the tables
are in canonical form, memory lists nothing. -/
def Obligations.ResetIsCanonicalAndOff : Prop :=
  State.reset.pending = [] ∧ State.reset.chip.Canonical ∧ State.reset.chip.mbx.dstate = .off
    ∧ State.reset.chip.mem.dram = [] ∧ State.reset.chip.cores = [] ∧ State.reset.chip.out = []

/-- Every step keeps the canonical form of the tables of cores, engines, stacks and links, and of memory: equal contents are
equal data in every state that a run reaches (R130, R134). -/
def Obligations.StepKeepsCanonicalForm : Prop :=
  ∀ s s' : State, s.chip.Canonical → step s = .next s' → s'.chip.Canonical

/-- The fuse map is set at manufacture, and the device never lowers the anti-rollback counter (R346, R406): no step changes
the one or lowers the other. -/
def Obligations.StepKeepsFusesAndCounter : Prop :=
  ∀ s s' : State, step s = .next s' → s'.chip.fuse = s.chip.fuse
    ∧ s.chip.nor.antiRollback.toNat ≤ s'.chip.nor.antiRollback.toNat

/-- R79, R99: a core whose issue is stalled (it is not running, a wait is pending, it waits for a wake token, or its clock is
gated) carries out no instruction: the package stays as it is. R61, R62, R63, R66: whatever the instruction, fetch from
outside the context area stops the program with SRAM_BOUNDS (bit 2), fetch from a poisoned granule with SRAM_UE (bit 8), the
granule consumed being counted, and fetch of a word with a reserved class or operation with ILLEGAL_OP (bit 0). MOVE.Q with a
full queue and ARRIVE with a full origin queue stall before that. A command whose instruction is not the one that the core
fetches has no effect (log 33). -/
def Obligations.FetchAndStall : Prop :=
  (∀ (i : Instr) (n : CoreId) (s : State), coreInstr i = some n → (s.chip.core n).issues = false → Gives i s s.chip)
  ∧ (∀ (i : Instr) (n : CoreId) (s : State), coreInstr i = some n → s.chip.Canonical → (s.chip.core n).issues = true →
      (∀ w, i = .moveQ n w → (s.chip.core n).mq.length < 64) → (∀ w, i = .arrive n w → s.chip.originFull = false) →
      let k := s.chip.core n
      (inCtxArea k.pc.toNat 8 = false → Gives i s (s.chip.stopping n 2))
      ∧ (inCtxArea k.pc.toNat 8 = true → k.sramErr = [] → k.poisoned k.pc.toNat = true →
        let k1 := (k.raisePoison 1).stopWith 8
        Gives i s ((s.chip.setCore n k1).consume (.core n) 0xFF (64 * (k.pc.toNat / 64)) k1.err))
      ∧ (inCtxArea k.pc.toNat 8 = true → k.sramErr = [] → k.poisoned k.pc.toNat = false → k.fetched n = none →
        Gives i s (s.chip.stopping n 0))
      ∧ (inCtxArea k.pc.toNat 8 = true → k.sramErr = [] → k.poisoned k.pc.toNat = false → (∃ j, k.fetched n = some j ∧ j ≠ i) →
        Gives i s s.chip))

/-- A lattice core's instruction changes no byte of memory, no poison tag, no band row, no engine, no stack, no link, no other
core, no frame plan, no clock, no fuse and no other unit's state: its effect is its own core's, and what it reports. -/
def Obligations.CoreInstructionFrame : Prop :=
  ∀ (i : Instr) (n : CoreId) (s t : State), coreInstr i = some n → exec i s = .next t →
    t.chip.mem = s.chip.mem ∧ t.chip.engines = s.chip.engines ∧ t.chip.stks = s.chip.stks ∧ t.chip.links = s.chip.links
    ∧ t.chip.frm = s.chip.frm ∧ t.chip.plan = s.chip.plan ∧ t.chip.fuse = s.chip.fuse ∧ t.chip.bru = s.chip.bru
    ∧ t.chip.pwr = s.chip.pwr ∧ t.chip.thm = s.chip.thm ∧ t.chip.uptime = s.chip.uptime
    ∧ (s.chip.Canonical → ∀ m : CoreId, m ≠ n → t.chip.core m = s.chip.core m)

/-- R84: past an instruction that ends no loop body the program counter is 8 further; at the last instruction of the innermost
body it goes back to the first while the count lasts, and else the outermost level is left. Table 3-4, CTRL with its reserved
bits zero: NOP, SETA, ADDA modulo 2^32, IFENCE. -/
def Obligations.CounterAndControlRegisters : Prop :=
  (∀ (k : Core) (l : LoopLevel) (rest : List LoopLevel),
      (k.loops = [] → k.pass = { k with pc := k.pc + 8 })
      ∧ (k.loops = l :: rest → l.last ≠ k.pc → k.pass = { k with pc := k.pc + 8 })
      ∧ (k.loops = l :: rest → l.last = k.pc → 1 < l.count.toNat →
          k.pass = { k with pc := l.first, loops := { l with count := l.count - 1 } :: rest })
      ∧ (k.loops = [l] → l.last = k.pc → l.count.toNat ≤ 1 → k.pass = { k with pc := k.pc + 8, loops := [] }))
  ∧ (∀ (n : CoreId) (w : BitVec 54) (s : State), CoreReady s.chip n → bits w 37 32 = 0 →
      let k := s.chip.core n
      let a := bits w 53 50
      let imm : Word := BitVec.ofNat 32 (bits w 31 0)
      Passes (.nop n w) s n k ∧ Passes (.seta n w) s n (k.setA a imm) ∧ Passes (.adda n w) s n (k.setA a (k.areg a + imm))
      ∧ Passes (.ifence n w) s n { k with stale := [] })

/-- R67, R84, R242: HALT closes the lane, the core is HALTED and its completion is reported; LOOP pushes a level, or skips its
body when the count is zero; BR goes to PC + 8 x OFF, BNZ does when a[A] is not zero. -/
def Obligations.ControlFlowInstructions : Prop :=
  ∀ (n : CoreId) (w : BitVec 54) (s : State), s.chip.Canonical → CoreReady s.chip n → bits w 37 32 = 0 →
    let k := s.chip.core n
    let len := bits w 49 38
    let last := k.pc + BitVec.ofNat 20 (8 * len)
    let count := k.areg (bits w 53 50)
    let target := k.pc + BitVec.ofInt 20 (8 * sgn 24 (bits w 23 0))
    let done : Core := { k with state := .halted, lane := k.lane.close, frec := { k.frec with completed := true } }
    Runs (.halt n w) s n ((s.chip.setCore n done).unitCompleted (.core n))
    ∧ (len ≠ 0 → k.loops = [] → count ≠ 0 →
        let level : LoopLevel := { first := k.pc + 8, last := last, count := count }
        Runs (.loop n w) s n (s.chip.setCore n { k with loops := [level], pc := k.pc + 8 }))
    ∧ (len ≠ 0 → k.loops = [] → count = 0 → Runs (.loop n w) s n (s.chip.setCore n { k with pc := last + 8 }))
    ∧ (len = 0 ∨ 4 ≤ k.loops.length → StopsWith (.loop n w) s n 0)
    ∧ (k.loops = [] → Runs (.br n w) s n (s.chip.setCore n { k with pc := target }))
    ∧ (k.loops = [] → count ≠ 0 → Runs (.bnz n w) s n (s.chip.setCore n { k with pc := target }))
    ∧ (k.loops = [] → count = 0 → Passes (.bnz n w) s n k)
    ∧ (∀ l rest, k.loops = l :: rest → target.toNat < l.first.toNat ∨ l.last.toNat < target.toNat →
        StopsWith (.br n w) s n 0 ∧ StopsWith (.bnz n w) s n 0)

/-- R66, Table 3-5: an instruction with a reserved bit set stops the program with ILLEGAL_OP (bit 0 of CORE_ERR), and has no
other effect. -/
def Obligations.ReservedBitsStopWithIllegalOp : Prop :=
  ∀ (n : CoreId) (w : BitVec 54) (s : State), CoreReady s.chip n →
    (bits w 37 32 ≠ 0 → StopsWith (.nop n w) s n 0 ∧ StopsWith (.seta n w) s n 0 ∧ StopsWith (.adda n w) s n 0
      ∧ StopsWith (.loop n w) s n 0 ∧ StopsWith (.br n w) s n 0 ∧ StopsWith (.bnz n w) s n 0 ∧ StopsWith (.ifence n w) s n 0)
    ∧ (bits w 53 0 ≠ 0 → StopsWith (.moveF n w) s n 0)
    ∧ (bit w 32 = true → StopsWith (.setc n w) s n 0 ∧ StopsWith (.addc n w) s n 0 ∧ StopsWith (.subc n w) s n 0
      ∧ StopsWith (.syncWait n w) s n 0 ∧ StopsWith (.rdc n w) s n 0)
    ∧ (bits w 49 12 ≠ 0 → StopsWith (.tickWait n w) s n 0 ∧ StopsWith (.tickNext n w) s n 0 ∧ StopsWith (.tickRd n w) s n 0)
    ∧ (bits w 27 0 ≠ 0 → StopsWith (.ledgClr n w) s n 0) ∧ (bits w 37 0 ≠ 0 → StopsWith (.ledgFlg n w) s n 0)
    ∧ (bits w 41 38 ≠ 0 ∨ bits w 35 0 ≠ 0 → StopsWith (.ledgSave n w) s n 0 ∧ StopsWith (.ledgLoad n w) s n 0)
    ∧ (bits w 41 0 ≠ 0 → StopsWith (.ledgDig n w) s n 0)
    ∧ (3 < bits w 5 0 → StopsWith (.vcmp n w) s n 0) ∧ (1 < bits w 5 0 → StopsWith (.vmova n w) s n 0)
    ∧ (bits w 17 14 < 7 ∨ 9 < bits w 17 14 → StopsWith (.vomul n w) s n 0)
    ∧ (9 < bits w 17 14 → StopsWith (.vld n w) s n 0 ∧ StopsWith (.vst n w) s n 0)

/-- Table 3-4, R74, R75: the lane operations of two and three registers write VD lane by lane, and nothing else. R74: what
lane `l` of a register holds after a vector register is written: the value of that lane, every other register unchanged. -/
def Obligations.VectorLanesAndWriteBack : Prop :=
  (∀ (n : CoreId) (w : BitVec 54) (s : State), CoreReady s.chip n →
      let k := s.chip.core n
      let vd := bits w 53 49
      let x := k.vreg (bits w 48 44)
      let y := k.vreg (bits w 43 39)
      Passes (.vadd n w) s n (k.setV vd (List.zipWith fAdd x y)) ∧ Passes (.vsub n w) s n (k.setV vd (List.zipWith fSub x y))
      ∧ Passes (.vmul n w) s n (k.setV vd (List.zipWith fMul x y)) ∧ Passes (.vmax n w) s n (k.setV vd (List.zipWith fMax x y))
      ∧ Passes (.vmin n w) s n (k.setV vd (List.zipWith fMin x y))
      ∧ Passes (.vfma n w) s n (k.setV vd ((List.range 32).map (fun i =>
          fFma (k.laneOf (bits w 48 44) i) (k.laneOf (bits w 43 39) i) (k.laneOf (bits w 38 34) i)))))
  ∧ (∀ (k : Core) (r q l : Nat) (ls : List Word), twf 0 k.v = true → l < 32 →
      (k.setV r ls).laneOf r l = ls.getD l 0 ∧ (q ≠ r → (k.setV r ls).laneOf q l = k.laneOf q l))

/-- Table 3-4, R74, R75: the lane functions, compare and select; VSEL takes VS1 where the lane of VS3 is not zero and else
VS2, and any NaN among the lanes follows R75. Table 3-4, R76, R78: the reductions write lane 0 and zero the others; VOMUL
multiplies raw lanes and counts SAT; VMOVA moves between a[A] and lanes. -/
def Obligations.VectorFunctionsReductionsAndMoves : Prop :=
  (∀ (n : CoreId) (w : BitVec 54) (s : State), CoreReady s.chip n →
      let k := s.chip.core n
      let vd := bits w 53 49
      let x := k.vreg (bits w 48 44)
      let y := k.vreg (bits w 43 39)
      Passes (.vexp2 n w) s n (k.setV vd (x.map fExp2)) ∧ Passes (.vlog2 n w) s n (k.setV vd (x.map fLog2))
      ∧ Passes (.vrcp n w) s n (k.setV vd (x.map fRcp)) ∧ Passes (.vrsq n w) s n (k.setV vd (x.map fRsq))
      ∧ (bits w 5 0 ≤ 3 → Passes (.vcmp n w) s n (k.setV vd (List.zipWith (fCmp (bits w 5 0)) x y)))
      ∧ Passes (.vsel n w) s n (k.setV vd ((List.range 32).map (fun i =>
          fSel (k.laneOf (bits w 48 44) i) (k.laneOf (bits w 43 39) i) (k.laneOf (bits w 38 34) i)))))
  ∧ (∀ a b m : Word,
      (a = 0x7FC00001 ∨ b = 0x7FC00001 ∨ m = 0x7FC00001 → fSel a b m = 0x7FC00001)
      ∧ (a ≠ 0x7FC00001 → b ≠ 0x7FC00001 → m ≠ 0x7FC00001 →
        let x := if m = 0 then b else a
        (bits x 30 23 = 255 → bits x 22 0 ≠ 0 → fSel a b m = 0x7FC00000)
        ∧ (bits x 30 23 ≠ 255 ∨ bits x 22 0 = 0 → fSel a b m = x)))
  ∧ (∀ (n : CoreId) (w : BitVec 54) (s : State), CoreReady s.chip n →
      let k := s.chip.core n
      let vd := bits w 53 49
      let x := k.vreg (bits w 48 44)
      Passes (.vsum n w) s n (k.setV vd [fSum x]) ∧ Passes (.vmaxr n w) s n (k.setV vd [fMaxAll x])
      ∧ (∀ f, rawOf (bits w 17 14) = some f →
          let ls := List.zipWith (vomulLane f) x (k.vreg (bits w 43 39))
          Passes (.vomul n w) s n ((k.setV vd (ls.map (·.1))).raiseSat (ls.countP (·.2))))
      ∧ (bits w 5 0 = 0 → Passes (.vmova n w) s n (k.setV vd (List.replicate 32 (k.areg (bits w 33 30)))))
      ∧ (bits w 5 0 = 1 → Passes (.vmova n w) s n (k.setA (bits w 33 30) (k.laneOf (bits w 48 44) (bits w 13 6 % 32)))))

/-- R76: VSUM computes the exact sum of the 32 lanes and rounds it once: for finite lanes, counted in units of 2^-149, the sum
of the integers rounded to binary32 (a sum of negative zeros alone is negative zero). Infinities of both signs give 0x7FC00000
where no lane is the poison NaN (R75). The result does not depend on the order of the lanes. -/
def Obligations.VectorSumIsExactAndOrderFree : Prop :=
  ∀ (n : CoreId) (w : BitVec 54) (s : State), CoreReady s.chip n →
    let k := s.chip.core n
    let ls := k.vreg (bits w 48 44)
    ls.length = 32
    ∧ Passes (.vsum n w) s n (k.setV (bits w 53 49) [fSum ls])
    ∧ ((∀ a ∈ ls, bits a 30 23 ≠ 255) →
        fSum ls = toFp32 (ofInt (ls.all (fun a => a == 0x80000000)) (ls.map laneInt).sum (-149)))
    ∧ ((0x7F800000 : Word) ∈ ls → (0xFF800000 : Word) ∈ ls → (0x7FC00001 : Word) ∉ ls → fSum ls = 0x7FC00000)
    ∧ ∀ ls' : List Word, ls'.Perm ls → fSum ls' = fSum ls

/-- R63, R65, R68, R77, R78: VLD reads a block of a block vector, its header byte the block exponent, into the lanes of VD,
and counts SAT and poison; an operand off its 64-byte alignment is OPERAND_RANGE (bit 1), one outside the context area
SRAM_BOUNDS (bit 2). R50, R65, R77, R78: VST writes a block and its header byte: FP32 lanes as they are, raw lanes by their
codes under their one exponent, other lanes converted under BO or the automatic exponent; BO = 0x80 without AUTO is
OPERAND_RANGE and writes nothing. -/
def Obligations.VectorLoadAndStore : Prop :=
  (∀ (n : CoreId) (w : BitVec 54) (s : State) (f : Fmt), CoreReady s.chip n → vecFmt (bits w 17 14) = some f →
      let k := s.chip.core n
      let b := blockRef f (k.opAddr (bits w 33 30) (bits w 29 18)) (bits w 13 6)
      let ex := match b.hd with
        | some h => k.expAt h
        | none => 0
      let ls := (k.blockAt f.width b.el).map (fun e => vldLane (bits w 17 14) f e ex)
      let o : CoreOut := { core := (k.setV (bits w 53 49) (ls.map (·.1))).raiseSat (ls.countP (·.2)), poison := b.poison k }
      (b.base % 64 = 0 → b.inArea = true → Settles (.vld n w) s n o)
      ∧ (b.base % 64 ≠ 0 → StopsWith (.vld n w) s n 1)
      ∧ (b.base % 64 = 0 → b.inArea = false → StopsWith (.vld n w) s n 2))
  ∧ (∀ (n : CoreId) (w : BitVec 54) (s : State) (f : Fmt), CoreReady s.chip n → vecFmt (bits w 17 14) = some f →
      let k := s.chip.core n
      let b := blockRef f (k.opAddr (bits w 33 30) (bits w 29 18)) (bits w 13 6)
      let ls := k.vreg (bits w 48 44)
      let bo : Byte := BitVec.ofNat 8 (bits w 43 36)
      let ex := bits (ls.getD 0 0) 23 16
      let conv := convBlock f (bit w 0) bo (ls.map ofFp32)
      let words : BlockOut := { head := 0, codes := ls.map (·.toNat), sat := 0 }
      let raw : BlockOut := { head := BitVec.ofNat 8 ex, codes := ls.map (fun l => l.toNat % 2 ^ f.width), sat := 0 }
      (b.base % 64 = 0 → b.inArea = true →
        (f = .conv .fp32 → rawOf (bits w 17 14) = none → Passes (.vst n w) s n (b.write k f.width words))
        ∧ (rawOf (bits w 17 14) ≠ none → ls.all (fun l => bits l 23 16 == ex) = true → Passes (.vst n w) s n (b.write k f.width raw))
        ∧ (f ≠ .conv .fp32 → rawOf (bits w 17 14) = none → bit w 0 = true ∨ bo ≠ 0x80 →
            Passes (.vst n w) s n ((b.write k f.width conv).raiseSat conv.sat)))
      ∧ (b.base % 64 ≠ 0 → StopsWith (.vst n w) s n 1)
      ∧ (∀ o, f = .oct o → rawOf (bits w 17 14) = none → bit w 0 = false → bo = 0x80 → StopsWith (.vst n w) s n 1))

/-- R69, R70: MMA multiplies the weight tile with the block vector into ledgers LB to LB + ROWS - 1, block by block, one group
of 32 products for each row; ledgers that are not named, and all else of the core, stay. Formats that do not agree are
ILLEGAL_OP, LB + ROWS above 64 or an operand off its alignment OPERAND_RANGE, an operand outside the context area SRAM_BOUNDS.
R42-R45, R47: a group whose products all lie in the window of the ledger's mode adds their exact truncated sum to L and their
number to the count; a NaR product, another format or a product above the window leaves L and makes the ledger NaR. -/
def Obligations.MatrixMultiply : Prop :=
  (∀ (n : CoreId) (w : BitVec 54) (s : State), CoreReady s.chip n →
    let k := s.chip.core n
    let o := mmaOp w k
    let p := s.chip.lprot k.ctx
    let r := o.run p k
    let out : CoreOut := { core := r.1, raised := r.2, poison := (k.poisonedIn o.w o.wBytes ++ k.poisonedIn o.x o.xBytes).eraseDups }
    let range := 64 < o.lb + o.rows ∨ o.w % 64 ≠ 0 ∨ o.x % 64 ≠ 0
    let inside := inCtxArea o.w o.wBytes = true ∧ inCtxArea o.x o.xBytes = true
    (mmaFormats (bits w 5 3) (bits w 2 0) = true → ¬ range → inside → Settles (.mma n w) s n out)
    ∧ (mmaFormats (bits w 5 3) (bits w 2 0) = true → ¬ range → inside → s.chip.Canonical → twf Ledger.zero k.ledgers = true →
        out.poison = [] → r.2.parity = false → r.2.residue = false → Fetches s.chip n (.mma n w) → Completes (.mma n w) s (fun t =>
          t.core n = (r.1.raiseLedger r.2).pass ∧ t.mem = s.chip.mem ∧ (t.core n).sram = k.sram
          ∧ ∀ j, j < o.rows → (t.core n).ledger (o.lb + j)
              = (List.range o.nblk).foldl (fun l i => (l.group p o.wf.mode (o.group k i j)).1) (k.ledger (o.lb + j))))
    ∧ (mmaFormats (bits w 5 3) (bits w 2 0) = false → StopsWith (.mma n w) s n 0)
    ∧ (mmaFormats (bits w 5 3) (bits w 2 0) = true → range → StopsWith (.mma n w) s n 1)
    ∧ (mmaFormats (bits w 5 3) (bits w 2 0) = true → ¬ range → ¬ inside → StopsWith (.mma n w) s n 2))
  ∧ (∀ (o : MmaOp) (p : Bool) (k : Core), twf Ledger.zero k.ledgers = true →
      let r := (o.run p k).1
      (∀ j, j < o.rows → r.ledger (o.lb + j)
          = (List.range o.nblk).foldl (fun l i => (l.group p o.wf.mode (o.group k i j)).1) (k.ledger (o.lb + j)))
      ∧ (∀ q, q < o.lb ∨ o.lb + o.rows ≤ q → r.ledger q = k.ledger q)
      ∧ { r with ledgers := k.ledgers } = k)
  ∧ (∀ (l : Ledger) (p : Bool) (m : BitVec 3) (ps : List Machine.Prod), l.read p = (l, {}) →
      let r := l.group p m ps
      let term : Machine.Prod → Int := fun q => match q with
        | .val neg sig pe =>
          let sh := pe - l.g.toInt
          let mag : Nat := if 0 ≤ sh then sig * 2 ^ sh.toNat else sig / 2 ^ (-sh).toNat
          if neg then -(mag : Int) else mag
        | _ => 0
      let above := fun (q : Machine.Prod) => ∃ neg sig pe, q = .val neg sig pe ∧ smax m < pe - l.g.toInt
      let sum := l.acc.toInt + (ps.map term).sum
      (l.nar = false → m = l.mode → modeDefined m = true → (∀ q ∈ ps, q ≠ .nar ∧ ¬ above q) → l.count.toNat + ps.length ≤ 2 ^ 48 →
        -(2 ^ 95 : Int) ≤ sum → sum < 2 ^ 95 →
        r.1.acc.toInt = sum ∧ r.1.nar = false ∧ r.1.count.toNat = l.count.toNat + ps.length ∧ r.2 = {})
      ∧ (l.nar = true ∨ .nar ∈ ps ∨ (ps ≠ [] ∧ m ≠ l.mode) ∨ (m = l.mode ∧ modeDefined m = true ∧ ∃ q ∈ ps, above q) →
        r.1.nar = true ∧ r.1.acc = l.acc))

/-- R41, R71, R72, R242: the instructions on ledgers LB to LB + N: CLR clears, FLG reads the flags into a[A], SAVE and LOAD
copy to and from a save image, DIG absorbs records into the lane; ranges beyond 63 are OPERAND_RANGE. R49, R50, R71: LEDG.CVT
converts ledgers LB to LB + N, 32 to a block, into the block vector at DA/DO, and with CLR = 1 clears them after; FMT above 6,
AUTO with a count other than 32 or 64 are ILLEGAL_OP, BO = 0x80 without AUTO is OPERAND_RANGE. -/
def Obligations.LedgerAddReadAndConvert : Prop :=
  (∀ (n : CoreId) (w : BitVec 54) (s : State), CoreReady s.chip n →
      let k := s.chip.core n
      let p := s.chip.lprot k.ctx
      let fresh := Ledger.clear (BitVec.ofNat 3 (bits w 41 39)) (BitVec.ofNat 11 (bits w 38 28))
      let clr := onLedgers w (fun i k => (k.setLedger i fresh.1, fresh.2)) k
      let flg := k.readLedger p (bits w 53 48)
      let reads := onLedgers w (fun i k => k.readLedger p i) k
      let image := (List.range (bits w 47 42 + 1)).flatMap (fun i => (reads.1.ledger (bits w 53 48 + i)).image)
      let at_ := fun (i : Nat) => saveLo + 2048 * bits w 37 36 + 32 * i
      let load := onLedgers w (fun i q =>
        let l := k.savedLedger p (at_ i)
        (q.setLedger i l.1, l.2)) k
      let legal := bits w 41 38 = 0 ∧ bits w 35 0 = 0
      let dig := onLedgers w (fun i k =>
        let r := k.readLedger p i
        ({ r.1 with lane := r.1.lane.absorb ((r.1.ledger i).record i) }, r.2)) k
      (bits w 53 48 + bits w 47 42 ≤ 63 →
        (bits w 27 0 = 0 → Settles (.ledgClr n w) s n { core := clr.1, raised := clr.2 })
        ∧ (legal → Settles (.ledgSave n w) s n { core := reads.1.storeImage (at_ (bits w 53 48)) image, raised := reads.2 })
        ∧ (legal → Settles (.ledgLoad n w) s n { core := load.1, raised := load.2 })
        ∧ (bits w 41 0 = 0 → Settles (.ledgDig n w) s n { core := dig.1, raised := dig.2 }))
      ∧ (bits w 47 42 = 0 → bits w 37 0 = 0 → Settles (.ledgFlg n w) s n
          { core := flg.1.setA (bits w 41 38) (flg.1.ledger (bits w 53 48)).flagWord, raised := flg.2 })
      ∧ (63 < bits w 53 48 + bits w 47 42 →
        (bits w 27 0 = 0 → StopsWith (.ledgClr n w) s n 1) ∧ (legal → StopsWith (.ledgSave n w) s n 1)
        ∧ (legal → StopsWith (.ledgLoad n w) s n 1) ∧ (bits w 41 0 = 0 → StopsWith (.ledgDig n w) s n 1)))
  ∧ (∀ (n : CoreId) (w : BitVec 54) (s : State) (f : Fmt), CoreReady s.chip n → fmtOf (bits w 25 22) = some f →
      let k := s.chip.core n
      let bo : Byte := BitVec.ofNat 8 (bits w 20 13)
      let x := k.opAddr (bits w 41 38) (bits w 37 26)
      let refs := (List.range (bits w 47 42 / 32 + 1)).map (fun i => blockRef f x (bits w 11 4 + i))
      let r := onLedgers w (fun i k => k.convLedger (s.chip.lprot (s.chip.core n).ctx) i) k
      let outs := (valBlocks refs.length ((ledgRange w).map (fun i => (r.1.ledger i).value))).map (fun b =>
        padBlock (convBlock f (bit w 21) bo b))
      let k1 := r.1.storeAll (blockWrites f.width (refs.zip outs))
      let cl := onLedgers w (fun i k => let l := Ledger.clear (k.ledger i).mode (k.ledger i).g; (k.setLedger i l.1, l.2)) k1
      let sat := (outs.map (·.sat)).sum
      let bad := 63 < bits w 53 48 + bits w 47 42 ∨ (bits w 25 22 < 3 ∧ bit w 21 = false ∧ bo = 0x80) ∨ x % 64 ≠ 0
      (cvtLegal w = true → ¬ bad → refs.all (·.inArea) = true →
        (bit w 12 = false → Settles (.ledgCvt n w) s n { core := k1.raiseSat sat, raised := r.2 })
        ∧ (bit w 12 = true → Settles (.ledgCvt n w) s n { core := cl.1.raiseSat sat, raised := r.2.or cl.2 }))
      ∧ (cvtLegal w = false → StopsWith (.ledgCvt n w) s n 0)
      ∧ (cvtLegal w = true → bad → StopsWith (.ledgCvt n w) s n 1)
      ∧ (cvtLegal w = true → ¬ bad → refs.all (·.inArea) = false → StopsWith (.ledgCvt n w) s n 2))

/-- Table 3-4, R90: SETC, ADDC, SUBC and RDC with their reserved bits zero. An addition that would pass 0xFFFF_FFFF leaves the
counter there and stops with SYNC_OVF (bit 6); a subtraction of more than the counter holds leaves it and stops with
SYNC_UNDER (bit 7). -/
def Obligations.ArrivalCounterInstructions : Prop :=
  ∀ (n : CoreId) (w : BitVec 54) (s : State), CoreReady s.chip n → bit w 32 = false → bits w 40 33 = 0 →
    let k := s.chip.core n
    let i := bits w 53 46
    let v : Word := if bit w 41 then k.areg (bits w 45 42) else BitVec.ofNat 32 (bits w 31 0)
    Passes (.setc n w) s n (k.setCounter i v)
    ∧ ((k.counter i).toNat + v.toNat ≤ 0xFFFFFFFF → Passes (.addc n w) s n (k.setCounter i (k.counter i + v)))
    ∧ (0xFFFFFFFF < (k.counter i).toNat + v.toNat → Runs (.addc n w) s n
        ((s.chip.setCore n ((k.setCounter i 0xFFFFFFFF).stopWith 6)).coreStopReport n 6))
    ∧ (v.toNat ≤ (k.counter i).toNat → Passes (.subc n w) s n (k.setCounter i (k.counter i - v)))
    ∧ ((k.counter i).toNat < v.toNat → StopsWith (.subc n w) s n 7)
    ∧ Passes (.rdc n w) s n (k.setA (bits w 45 42) (k.counter i))

/-- R92: SYNC.WAIT continues at once when ctr[C] is the value or more, and else waits, with its timeout in frames when TO is
not zero; the wait resumes when the counter has the value, and a wait whose TO frame boundaries have passed stops the program
with SYNC_TIMEOUT (bit 5). R93: TICK.WAIT continues at once at its tick or past it, with TICK_LATE when past, and else waits;
R183: a skipped tick counts as reached with the tick that follows it; TICK.NEXT waits for the next frame boundary first; a
wait resumes at its tick; TICK.RD reads the frame and tick number. -/
def Obligations.SyncWaitsAndTickInstructions : Prop :=
  (∀ (n : CoreId) (w : BitVec 54) (s : State),
      let k := s.chip.core n
      let i := bits w 53 46
      let v : Word := if bit w 41 then k.areg (bits w 45 42) else BitVec.ofNat 32 (bits w 31 0)
      let upTo := bits w 40 33
      (CoreReady s.chip n → bit w 32 = false →
        (v.toNat ≤ (k.counter i).toNat → Passes (.syncWait n w) s n k)
        ∧ ((k.counter i).toNat < v.toNat → Runs (.syncWait n w) s n (s.chip.setCore n { k.waitFrom s.chip.uptime with
            state := .waitSync, wait := .sync (BitVec.ofNat 8 i) v (if upTo = 0 then none else some upTo) })))
      ∧ (∀ c u o, k.wait = .sync c u o → u.toNat ≤ (k.counter c.toNat).toNat →
          Gives (.syncWaitResume n) s (s.chip.wakeCore n k))
      ∧ (∀ c u o, k.wait = .sync c u o → (k.counter c.toNat).toNat < u.toNat → Gives (.syncWaitResume n) s s.chip)
      ∧ (∀ c u, k.wait = .sync c u (some 0) → (k.counter c.toNat).toNat < u.toNat → Gives (.syncTimeout (.core n)) s (s.chip.stopping n 5)))
  ∧ (∀ (n : CoreId) (w : BitVec 54) (s : State),
      let k := s.chip.core n
      let t : BitVec 12 := BitVec.ofNat 12 (bits w 11 0)
      let f := s.chip.frm
      let now := f.tick
      (CoreReady s.chip n → bits w 49 12 = 0 →
        (f.passed t.toNat = false → t.toNat ≤ now → Passes (.tickWait n w) s n k)
        ∧ (f.passed t.toNat = true → Passes (.tickWait n w) s n (k.raiseTickLate (now - t.toNat)))
        ∧ (now < t.toNat → Runs (.tickWait n w) s n (s.chip.setCore n { k.waitFrom s.chip.uptime with state := .waitTick, wait := .tick t }))
        ∧ Runs (.tickNext n w) s n (s.chip.setCore n { k.waitFrom s.chip.uptime with state := .waitTick, wait := .next t })
        ∧ Passes (.tickRd n w) s n (k.setA (bits w 53 50) (BitVec.ofNat 32 (s.chip.frm.frame % 2 ^ 20 * 4096 + now))))
      ∧ (∀ u, k.wait = .tick u → u.toNat ≤ now → f.passed u.toNat = false → Gives (.tickResume (.core n)) s (s.chip.wakeCore n k))
      ∧ (∀ u, k.wait = .tick u → f.passed u.toNat = true → Gives (.tickResume (.core n)) s (s.chip.wakeCore n (k.raiseTickLate (now - u.toNat))))
      ∧ (∀ u, k.wait = .tick u → now < u.toNat → Gives (.tickResume (.core n)) s s.chip))
  ∧ (∀ (f : Machine.Frm) (t : Nat),
      (f.tick ≤ t → f.passed t = false)
      ∧ (t < f.tick → 0 ≤ f.slipNow → f.passed t = true)
      ∧ (f.passed t = true ↔ t < f.tick ∧ ¬ (f.slipNow < 0 ∧ ∀ i < f.tick - t, f.slipUsed (t + i) = true)))

/-- R95, R380, R381: a core whose wait ends runs on past it, at once if its clocks run, holding for a wake token if they have
stopped; CORE_IDLE stops the clocks of a core that waits without ballast; tokens let up to four cores of the die that hold for
one issue again in a tick period, those first whose waits ended first, and change no other core. A die that has granted its
tokens in this tick period grants none. -/
def Obligations.WakeTokensAndIdleCores : Prop :=
  ∀ (n : CoreId) (s : State), s.chip.Canonical →
    let c := s.chip
    let k := c.core n
    let on : Core := { k.pass with
      state := .run, wait := .none, ballast := false, slack := { k.slack with ticks := k.waitedBy c.uptime } }
    let free : Core → Core := fun k => { k with wakeHold := false, clock := { k.clock with off := false } }
    let tick := (∃ t, k.wait = .tick t) ∨ ∃ t, k.wait = .next t
    (k.clock.off = false → c.wakeCore n k = c.setCore n on)
    ∧ (k.clock.off = true → tick → (c.wakeCore n k).core n = { on with wakeHold := true, wakeNo := 0, wakeAt := c.uptime })
    ∧ (k.clock.off = true → ¬ tick →
        (c.wakeCore n k).core n = { on with wakeHold := true, wakeNo := c.pwr.wakeSeq + 1, wakeAt := c.uptime })
    ∧ (k.state = .waitSync ∨ k.state = .waitTick → k.ballast = false →
        Gives (.coreIdle n) s (c.setCore n { k with clock := { k.clock with off := true } }))
    ∧ (∀ die : Fin 2, c.tokensUsed die < 4 → coreDie n.val = die.val → (∀ m : CoreId, (c.core m).wakeHold = true ↔ m = n) →
        Completes (.wakeTokenGrant die) s (fun t => t.core n = free k ∧ ∀ m : CoreId, m ≠ n → t.core m = c.core m))
    ∧ (∀ die : Fin 2, 4 ≤ c.tokensUsed die → Completes (.wakeTokenGrant die) s (fun t => t.cores = c.cores))
    ∧ (∀ die : Fin 2, Completes (.wakeTokenGrant die) s (fun t =>
        (t.core n = k ∨ (k.wakeHold = true ∧ coreDie n.val = die.val ∧ t.core n = free k))
        ∧ ∀ m : CoreId, k.wakeHold = true → t.core n = k → (c.core m).wakeHold = true → (t.core m).wakeHold = false →
            coreDie n.val = die.val → c.wakesFirst m n = true))

/-- R67, R85, R86: MOVE.Q enqueues the descriptor at a[A] + OFF, a full queue stalls it; an OFF that is not a multiple of 32,
a reserved field or an undefined KIND is ILLEGAL_OP, a local side out of bounds MOVE_ADDR's bit 3, a descriptor outside the
context area SRAM_BOUNDS. MOVE.F waits until every queued move has started, and its wait ends when the queue is empty. -/
def Obligations.MoveQueueAndFence : Prop :=
  ∀ (n : CoreId) (w : BitVec 54) (s : State),
    let k := s.chip.core n
    let a := (k.areg (bits w 53 50)).toNat + bits w 19 0
    let d := k.descAt a
    let fields := bits w 49 20 = 0 ∧ bits w 19 0 % 32 = 0
    (64 ≤ k.mq.length → Gives (.moveQ n w) s s.chip)
    ∧ (CoreReady s.chip n → k.mq.length < 64 →
      (fields → inCtxArea a 32 = true → d.legal = true → d.localOk = true →
        Passes (.moveQ n w) s n { k with mq := k.mq ++ [{ desc := d, frame := s.chip.frm.frame }] })
      ∧ (¬ fields → StopsWith (.moveQ n w) s n 0)
      ∧ (fields → inCtxArea a 32 = false → StopsWith (.moveQ n w) s n 2)
      ∧ (fields → inCtxArea a 32 = true → d.legal = false → StopsWith (.moveQ n w) s n 0)
      ∧ (fields → inCtxArea a 32 = true → d.legal = true → d.localOk = false → StopsWith (.moveQ n w) s n 3))
    ∧ (CoreReady s.chip n → bits w 53 0 = 0 →
      (k.mq = [] → Passes (.moveF n w) s n k) ∧ (k.mq ≠ [] → Runs (.moveF n w) s n (s.chip.setCore n { k with wait := .fence })))
    ∧ (k.wait = .fence → k.mq = [] → Gives (.moveFResume n) s (s.chip.setCore n { k.pass with wait := .none }))
    ∧ (k.wait = .fence → k.mq ≠ [] → Gives (.moveFResume n) s s.chip)

/-- R85, R87, R96: the mover starts the move at the head of its queue when it is due and fewer than four are in flight. A move
of no granules adds 1 to LCTR where LCE asks for it; a move whose remote side is in order is launched; one whose remote side
is not, of no granules or more, stops the program with MOVE_ADDR (bit 4), its final status not done; a timed move that starts
late raises MOVE_LATE. R88, R91, R145: a granule of a load is read from memory and written at the core with its poison, a
granule of a store is written to memory and acknowledged, a granule of a copy is written at the destination core; each adds 1
to the arrival counter, and is done once. -/
def Obligations.MoverStartsAndGranules : Prop :=
  (∀ (n : CoreId) (s : State) (q : QueuedMove) (rest : List QueuedMove), (s.chip.core n).mq = q :: rest →
      let k := s.chip.core n
      let due := s.chip.moveDue q
      let popped : Core := { k with mq := rest }
      let c := s.chip.setCore n (if due.2 then popped.raiseMoveLate else popped)
      (4 ≤ k.flights.length ∨ due.1 = false → Gives (.moveStart n) s s.chip)
      ∧ (k.flights.length < 4 → due.1 = true → c.remoteOk n q.desc = true →
        (q.desc.len = 0 → q.desc.lce = false → Gives (.moveStart n) s c)
        ∧ (q.desc.len = 0 → q.desc.lce = true → Gives (.moveStart n) s (c.coreCount n q.desc.lctr 1))
        ∧ (q.desc.len ≠ 0 → Gives (.moveStart n) s (c.launch n q.desc)))
      ∧ (k.flights.length < 4 → due.1 = true → c.remoteOk n q.desc = false → Gives (.moveStart n) s ((c.modCore n (fun k =>
            { k with frec := { k.frec with discarded := k.frec.discarded ++ [q.desc] } })).coreAsyncStop n 4)))
  ∧ (∀ n s, (s.chip.core n).mq = [] → Gives (.moveStart n) s s.chip)
  ∧ (∀ (n : CoreId) (mv : Nat) (g : BitVec 16) (ups : Upsets) (f : Flight) (s : State),
      let k := s.chip.core n
      let line := s.chip.lineAt (bits f.desc.w2 41 0 + 64 * g.toNat)
      let gr := f.src.getD g.toNat { data := [], poison := false }
      let r := s.chip.readLine line ups false
      let done : Core → Core := fun k => k.flightDone mv g.toNat
      (k.flightAt 0 mv g.toNat = some f → s.chip.isRemote f.ctx f.desc = false → Gives (.ldGranuleArrival n mv g ups) s
        ((r.2.modCore n done).granuleAt n f.ctx f.gen (f.desc.laddr + 64 * g.toNat) f.desc.dctr r.1))
      ∧ (k.flightAt 1 mv g.toNat = some f → s.chip.isRemote f.ctx f.desc = false → Gives (.stAck n mv g) s
        (((s.chip.writeLine f.ctx line gr.data gr.poison).modCore n done).ackAt n f.ctx f.gen f.desc.dctr 1))
      ∧ (k.flightAt 2 mv g.toNat = some f → Gives (.cpGranuleArrival n mv g) s ((s.chip.modCore n done).granuleAt
        (Fin.ofNat 2448 f.desc.dcore) f.ctx f.gen (f.desc.daddr + 64 * g.toNat) f.desc.dctr gr))
      ∧ (k.flights[mv]? = none → Gives (.ldGranuleArrival n mv g ups) s s.chip ∧ Gives (.stAck n mv g) s s.chip
        ∧ Gives (.cpGranuleArrival n mv g) s s.chip))

/-- R88, R91: a granule that arrives for the core's own context and generation is written to SRAM and counted; any other is
dropped, counted in CORE_STALE, and writes no data. R92, R96: an ARRIVE with VAL and its destination legal sends an arrival:
to a unit of the own package, or as a message when the origin queue has room; one that is not legal is ILLEGAL_OP, one to a
spare site of another package MOVE_ADDR; a full origin queue stalls it. R91, R110, R111: an arrival on its way is delivered to
the unit its number names: a core whose context and generation match counts it, another raises STALE_DROP; an engine alike; a
number served by no unit drops it as an orphan. -/
def Obligations.ArrivalsSentAndDelivered : Prop :=
  (∀ (c : Chip) (n : CoreId) (x : Option CtxId) (gen : BitVec 16) (a ctr : Nat) (g : Granule),
      let k := c.core n
      (k.accepts x gen = true → c.granuleAt n x gen a ctr g = (c.setCore n (k.putGranule a g)).coreCount n ctr 1)
      ∧ (k.accepts x gen = false → c.granuleAt n x gen a ctr g = c.setCore n k.raiseStale)
      ∧ (k.accepts x gen = true ↔ k.ctx = x ∧ k.gen = gen ∧ x.isSome = true)
      ∧ k.raiseStale.sram = k.sram ∧ k.raiseStale.ctr = k.ctr ∧ bit k.raiseStale.err 20 = true)
  ∧ (∀ (n : CoreId) (w : BitVec 54) (s : State), s.chip.Canonical → CoreReady s.chip n →
      let k := s.chip.core n
      let o := arriveOp w
      let c := s.chip.setCore n k.pass
      let arrival : Arrival := { dcore := o.dcore, ctr := o.ctr, amount := o.val.setWidth 32, ctx := k.ctx.getD 0, gen := k.gen }
      let spare := isSpareSite o.dcore.toNat = true ∧ o.dcore.toNat < 2448
      (s.chip.arriveOk w = true → s.chip.isOwn o.dpkg = true →
        Runs (.arrive n w) s n { c with rte := { c.rte with arrivals := c.rte.arrivals ++ [arrival] } })
      ∧ (s.chip.arriveOk w = true → s.chip.isOwn o.dpkg = false → ¬ spare → s.chip.rte.origin.length < 32 →
        Runs (.arrive n w) s n (c.sendArrive o.dpkg o.dcore o.ctr o.val k.ctx k.gen (BitVec.ofNat 16 n.val)))
      ∧ (s.chip.arriveOk w = true → s.chip.isOwn o.dpkg = false → ¬ spare → 32 ≤ s.chip.rte.origin.length → Gives (.arrive n w) s s.chip)
      ∧ (s.chip.arriveOk w = true → s.chip.isOwn o.dpkg = false → spare → StopsWith (.arrive n w) s n 4)
      ∧ (s.chip.arriveOk w = false → StopsWith (.arrive n w) s n 0))
  ∧ (∀ (i : Nat) (a : Arrival) (s : State), s.chip.rte.arrivals[i]? = some a →
      let c : Chip := { s.chip with rte := { s.chip.rte with arrivals := dropAt s.chip.rte.arrivals i } }
      (∀ n : CoreId, unitOf a.dcore.toNat = some (.core n) → s.chip.coreServed n.val = true →
        Gives (.arriveDelivery i) s (c.arriveCore n a.ctx a.gen a.ctr.toNat a.amount.toNat))
      ∧ (∀ e : EngineId, unitOf a.dcore.toNat = some (.engine e) → s.chip.engineServed e = true →
        Gives (.arriveDelivery i) s (c.arriveEngine e a.ctx a.gen a.ctr.toNat a.amount.toNat))
      ∧ (s.chip.destServed a.dcore.toNat = false →
        Gives (.arriveDelivery i) s { c with rte := { c.rte with cntOrphan := satInc c.rte.cntOrphan 1, err := setBit c.rte.err 1 } }))

/-- R106, R110, R112, Table 4-2: the control commands of a ready engine. NOP and SIGNAL complete with their signal, END halts,
SETC sets counter C, JUMP continues at another column offset, SIGNAL without SIG is ILLEGAL. R93, R110, Table 4-2: WAIT
completes when counter C is IMM or more and else waits, TICK acts as TICK.WAIT or TICK.NEXT, a skipped tick counting as
reached with the tick that follows it (R183); a wait resumes when its counter has the value or its tick is there, and a
timeout stops the program with bit 5. R106, R112: a command that completes is counted, writes its status and moves the program
counter on; its signal leaves for the own package or enters the origin queue, and a full queue holds it. -/
def Obligations.SaigaControlAndWaits : Prop :=
  (∀ (e : EngineId) (w : SgaWords) (s : State), EngineReady s.chip e →
      let next := (s.chip.engine e).pc + 1
      let setc : Engine → Engine := fun k => { k with ctr := tset 0 k.ctr (bits w.w0 51 48) (BitVec.ofNat 32 (bits w.w1 31 0)) }
      (SgaLegal s.chip e 0x00 w [] → Gives (.sgaNop e w) s ((s.chip.taking e 0x00 w).sgaFinish e (sgaAsks w) next false))
      ∧ (SgaLegal s.chip e 0x01 w [] → Gives (.sgaEnd e w) s ((s.chip.taking e 0x01 w).sgaFinish e (sgaAsks w) next true))
      ∧ (SgaLegal s.chip e 0x04 w [] → sgaSig w = true →
          Gives (.signal e w) s ((s.chip.taking e 0x04 w).sgaFinish e (sgaAsks w) next false))
      ∧ (SgaLegal s.chip e 0x04 w [] → sgaSig w = false → Gives (.signal e w) s ((s.chip.taking e 0x04 w).sgaStop e 0 false))
      ∧ (SgaLegal s.chip e 0x05 w [maskOf 51 48, maskOf 31 0] →
          Gives (.sgaSetc e w) s (((s.chip.taking e 0x05 w).modEngine e setc).sgaFinish e (sgaAsks w) next false))
      ∧ (SgaLegal s.chip e 0x06 w [0, maskOf 24 0] →
          Gives (.jump e w) s ((s.chip.taking e 0x06 w).sgaFinish e (sgaAsks w) (BitVec.ofNat 25 (bits w.w1 24 0)) false)))
  ∧ (∀ (e : EngineId) (w : SgaWords) (s : State), s.chip.Canonical →
      let k := s.chip.engine e
      let f := s.chip.frm
      let next := k.pc + 1
      let c := s.chip.taking e 0x02 w
      let t := s.chip.taking e 0x03 w
      let v : Word := BitVec.ofNat 32 (bits w.w1 31 0)
      let i := bits w.w0 51 48
      let upTo := bits w.w0 47 40
      let at_ : BitVec 12 := BitVec.ofNat 12 (bits w.w0 11 0)
      let late : BitVec 12 → Engine → Engine := fun u k => k.raiseTickLate (f.tick - u.toNat)
      (EngineReady s.chip e → SgaLegal s.chip e 0x02 w [maskOf 51 40, maskOf 31 0] →
        (v.toNat ≤ (k.counter i).toNat → Gives (.sgaWait e w) s (c.sgaFinish e (sgaAsks w) next false))
        ∧ ((k.counter i).toNat < v.toNat → Gives (.sgaWait e w) s (c.modEngine e (fun k => { k with
            state := .waitSync, wait := .sync (BitVec.ofNat 8 i) v (if upTo = 0 then none else some upTo), sig := sgaAsks w }))))
      ∧ (EngineReady s.chip e → SgaLegal s.chip e 0x03 w [maskOf 12 0] →
        (bit w.w0 12 = true → Gives (.sgaTick e w) s (t.modEngine e (fun k => { k with
            state := .waitTick, wait := .next at_, sig := sgaAsks w })))
        ∧ (bit w.w0 12 = false → at_.toNat ≤ f.tick → f.passed at_.toNat = false →
            Gives (.sgaTick e w) s (t.sgaFinish e (sgaAsks w) next false))
        ∧ (bit w.w0 12 = false → f.passed at_.toNat = true →
            Gives (.sgaTick e w) s ((t.modEngine e (late at_)).sgaFinish e (sgaAsks w) next false))
        ∧ (bit w.w0 12 = false → f.tick < at_.toNat → Gives (.sgaTick e w) s (t.modEngine e (fun k => { k with
            state := .waitTick, wait := .tick at_, sig := sgaAsks w }))))
      ∧ (∀ j u o, k.wait = .sync j u o → u.toNat ≤ (k.counter j.toNat).toNat → Gives (.sgaWaitResume e) s (s.chip.sgaResume e))
      ∧ (∀ j u o, k.wait = .sync j u o → (k.counter j.toNat).toNat < u.toNat → Gives (.sgaWaitResume e) s s.chip)
      ∧ (∀ j u, k.wait = .sync j u (some 0) → (k.counter j.toNat).toNat < u.toNat →
          Gives (.syncTimeout (.engine e)) s (s.chip.sgaStop e 5 false))
      ∧ (∀ u, k.wait = .tick u → u.toNat ≤ f.tick → f.passed u.toNat = false → Gives (.tickResume (.engine e)) s (s.chip.sgaResume e))
      ∧ (∀ u, k.wait = .tick u → f.passed u.toNat = true →
          Gives (.tickResume (.engine e)) s ((s.chip.modEngine e (late u)).sgaResume e)))
  ∧ (∀ (c : Chip) (e : EngineId) (g : Signal) (next : BitVec 25), c.Canonical →
      let k := c.engine e
      let on : Engine := { k with
        cntCmds := satInc k.cntCmds 1, pc := next, wait := .none, sig := none, held := none, state := .run
        frec := { k.frec with statuses := k.frec.statuses ++ [0] } }
      let halted : Engine := { on with pc := k.pc, state := .halted, lane := k.lane.close, frec := { on.frec with completed := true } }
      let own := c.isOwn g.dpkg.toNat = true
      let sent := c.sendArrival g.dpkg.toNat g.dcore g.ctr g.val k.ctx k.gen (unitNo (.engine e))
      k.state ≠ .quarantined →
        c.sgaFinish e none next false = c.setEngine e on
        ∧ c.sgaFinish e none next true = (c.setEngine e halted).unitCompleted (.engine e)
        ∧ (own ∨ c.rte.origin.length < 32 → c.sgaFinish e (some g) next false = sent.setEngine e on)
        ∧ (¬ own → 32 ≤ c.rte.origin.length →
            c.sgaFinish e (some g) next false = c.setEngine e { k with held := some (g, next, false) }))

/-- R108, R109, R112-R122: a legal ATTN, REDUCE, SCAN or GATHER whose ranges lie in the window completes with its signal. ATTN
writes segment by segment one record per head, at OUT + (segment x NQ + head) x RG, and nothing where P0 is at or beyond P1
(R114); the record is R115's: the greatest score, D and N of the weights, or NaR. REDUCE writes for each row the sum of its
products in OFMT, or the element MAX or MIN selects, and leaves the row's ledger. SCAN writes every prefix of each row, each
converted from the row's ledger after its element, and the carry-outs. GATHER copies the rows its indices name, and stops with
INDEX (bit 4) at an index of NROWS or more or from a poisoned line. -/
def Obligations.SaigaArithmeticCommands : Prop :=
  (∀ (e : EngineId) (w : SgaWords) (ups : Upsets) (s : State), EngineReady s.chip e →
    let next := (s.chip.engine e).pc + 1
    let attn := attnOp w
    let ca := s.chip.taking e 0x11 w
    let segment : Chip × SgaTrace → Nat → Chip × SgaTrace := fun t j =>
      let p := t.1.lprot (t.1.engine e).ctx
      let c1 := t.1.engRead e (attn.scoreReads j) ups
      let c2 := if attn.needsV (c1.reader e) p j then c1.engRead e (attn.valueReads j) ups else c1
      let c3 := c2.modEngine e (fun k => { k with work := attn.leaves (c2.reader e) p j })
      (List.range attn.nq).foldl (fun u h =>
        let head := attn.head (c2.reader e) p j h
        (u.1.engWrite e ups (64 * (attn.out + (j * attn.nq + h) * attn.rg)) head.1, u.2.then head.2.1)) (c3, t.2)
    let segs := (List.range attn.nseg).foldl segment (ca, {})
    let cr := s.chip.taking e 0x20 w
    let row := rowOp w
    let p := cr.lprot (cr.engine e).ctx
    let read := cr.engRead e (row.tileReads ++ if row.func = 2 then [(64 * row.y, 64 * vecGranules row.yFmt.width row.nblk)] else []) ups
    let sums := (List.range row.rows).map (fun j =>
      let l := sumLedger p row.f.mode row.g (row.prods (read.reader e) j)
      (l, ledgerTo p (read.reader e).disagree row.fo row.bo l.1))
    let cs := s.chip.taking e 0x21 w
    let ps := cs.lprot (cs.engine e).ctx
    let sread := cs.engRead e (row.tileReads ++ if row.b57 then [] else [(64 * row.a2, 1), (64 * row.a2 + 64, row.rows * row.f.width / 8)]) ups
    let scans := (List.range row.rows).map (row.scanRow (sread.reader e) ps)
    let written := ((row.writeScan sread e ups scans).engWrite e ups (64 * row.cout) [row.cbo]).engWrite e ups (64 * row.cout + 64)
      (packBlock row.f.width (scans.map (·.carry) ++ List.replicate (32 - row.rows) 0))
    let gat := gatherOp w
    let cg := s.chip.taking e 0x30 w
    let rows := (List.range gat.n).foldl (gatherStep e gat ups) (cg, false)
    let gatFields := [maskOf 31 0, maskOf 24 0 ||| maskOf 40 32, maskOf 24 0 ||| maskOf 56 32, maskOf 31 0]
    (SgaLegal s.chip e 0x11 w attnFields → attn.legal w = true → ca.covers e attn.ranges = true →
      Gives (.attn e w ups) s ((segs.1.engReport e segs.2).sgaFinish e (sgaAsks w) next false)
      ∧ (attn.p1 ≤ attn.p0 → Gives (.attn e w ups) s ((ca.engReport e {}).sgaFinish e (sgaAsks w) next false)))
    ∧ (SgaLegal s.chip e 0x20 w (rowFields false) → row.reduceLegal w = true → cr.covers e row.reduceRanges = true →
      (3 ≤ row.func → Gives (.reduce e w ups) s
        ((read.engWrite e ups (64 * row.a2) ((List.range row.rows).flatMap (row.select (read.reader e) (row.func == 3)))).sgaFinish
          e (sgaAsks w) next false))
      ∧ (row.func < 3 → Gives (.reduce e w ups) s
        ((((row.writeReduce read e ups (sums.map (·.2.1))).modEngine e (fun k => { k with
            ledgers := (sums.zip (List.range row.rows)).foldl (fun t q => tset Ledger.zero t q.2 q.1.2.2.2.1) k.ledgers })).engReport e
          { raised := sums.foldl (fun x q => x.or (q.1.2.or q.2.2.2.2)) Raised.none, sat := sums.countP (·.2.2.1)
            recs := (sums.zip (List.range row.rows)).map (fun q => q.1.2.2.2.1.record q.2) }).sgaFinish e (sgaAsks w) next false)))
    ∧ (SgaLegal s.chip e 0x21 w (rowFields true) → row.scanLegal w = true → cs.covers e row.scanRanges = true →
      Gives (.scan e w ups) s
        (((written.modEngine e (fun k => { k with
            ledgers := (scans.zip (List.range row.rows)).foldl (fun t q => tset Ledger.zero t q.2 q.1.ledger) k.ledgers })).engReport e
          { raised := scans.foldl (fun x a => x.or a.raised) Raised.none, sat := (scans.map (·.sat)).sum
            recs := row.scanRecs scans }).sgaFinish e (sgaAsks w) next false))
    ∧ (SgaLegal s.chip e 0x30 w gatFields → 1 ≤ gat.rs → gat.rs ≤ 256 → gat.nrows ≠ 0 → cg.covers e gat.ranges = true →
      (rows.2 = false → Gives (.gather e w ups) s (rows.1.sgaFinish e (sgaAsks w) next false))
      ∧ (rows.2 = true → Gives (.gather e w ups) s (rows.1.sgaStop e 4 true))))
  ∧ (∀ (o : AttnOp) (r : Reader) (p : Bool) (j h : Nat), o.sco = false →
      let scores := o.scores r p j h
      let m := fMaxAll (scores.map (·.sigma))
      let ws := scores.map (fun x => (x.pos, o.weight m x))
      let d := conv16 p r.disagree (Fmt.oct o.vf).mode o.gv o.dbo (vBlocks ws o.weightProd)
      let ns := (List.range o.dv).map (fun i => conv16 p r.disagree (Fmt.oct o.vf).mode o.gv o.nbo (vBlocks ws (o.valueProd r j i)))
      let low := scores.any (·.ledger.low) = true ∨ (d :: ns).any (·.ledger.low) = true
      let nar := o.record 0x7FC00001 0x8000 (o.valid j).length
      (o.valid j = [] → (o.head r p j h).1 = o.record 0xFF800000 0 0 0 (List.replicate o.dv 0))
      ∧ (o.valid j ≠ [] → scores.any (fun x => notFinite x.sigma) = true →
          (o.head r p j h).1 = nar (1 + 4 * b2n (scores.any (·.ledger.low))) (List.replicate o.dv 0x8000))
      ∧ (o.valid j ≠ [] → scores.any (fun x => notFinite x.sigma) = false →
          (d :: ns).any (fun x => x.ledger.nar || x.sat) = false →
          (o.head r p j h).1 = o.record m d.code (o.valid j).length (if low then 4 else 0) (ns.map (·.code)))
      ∧ (o.valid j ≠ [] → scores.any (fun x => notFinite x.sigma) = false →
          (d :: ns).any (fun x => x.ledger.nar || x.sat) = true →
          (o.head r p j h).1 = nar (1 + (if (d :: ns).any (·.sat) then 2 else 0) + (if low then 4 else 0)) (List.replicate o.dv 0x8000)))
  ∧ (∀ (o : RowOp) (r : Reader) (p : Bool) (j : Nat),
      let one := some (oneCode o.f)
      let fresh := freshLedger o.f.mode o.g
      let start := if o.b57 then fresh else
        (fresh.group p o.f.mode [elemProd o.f o.f (r.elem o.f.width (64 * o.a2 + 64) j) (r.exp (64 * o.a2)) one 0]).1
      let add := fun (l : Ledger) (q : Nat) => (l.group p o.f.mode [elemProd o.f o.f (o.elem r j q).1 (o.elem r j q).2 one 0]).1
      let after := fun (n : Nat) => (List.range n).foldl (fun l q => ((add l q).conv p r.disagree).1) start
      (o.scanRow r p j).codes
        = (List.range (32 * o.nblk)).map (fun q => (o.fo.encode (bexp o.bo) ((add (after q) q).conv p r.disagree).1.value).1)
      ∧ (o.scanRow r p j).carry = (carryOf o.f o.cbo ((after (32 * o.nblk)).conv p r.disagree).1.value).1)
  ∧ (∀ (e : EngineId) (o : GatherOp) (ups : Upsets) (c : Chip) (i : Nat),
      let line := engLine e (o.iaddr + i / 16)
      let c1 := c.decodeLine line (errsOf ups line) true
      let index := unle (rdBytes c1.mem.dram (engBase e + 64 * o.iaddr + 4 * i) 4)
      (gatherStep e o ups (c, true) i = (c, true))
      ∧ (c1.tag line = false → index < o.nrows → gatherStep e o ups (c, false) i
          = ((List.range o.rs).foldl (fun c k => c.copyLine e ups (o.src + index * o.rs + k) (o.out + i * o.rs + k)) c1, false))
      ∧ (c1.tag line = false → o.nrows ≤ index → gatherStep e o ups (c, false) i = (c1, true))
      ∧ (c1.tag line = true → (gatherStep e o ups (c, false) i).2 = true
          ∧ (gatherStep e o ups (c, false) i).1.mem.dram = c1.mem.dram))

/-- R108, R109, R125: what keeps a Saiga command from its effect. An engine that does not run, waits, holds a signal or is
gated carries out nothing. A fetch outside the window stops the engine with BOUNDS (bit 2), one of a poisoned line with
FETCH_POISON. A reserved operation, a reserved bit set, a field value that is not given, or a signal that cannot be sent stops
it with ILLEGAL (bit 0), a range outside the window with BOUNDS; nothing more is read or written. A command whose words
are not those at the program counter has no effect (log 33). R128: the engine is STOPPED
at that command, its final status not done. -/
def Obligations.SaigaIllegalCommandsStop : Prop :=
  (∀ (e : EngineId) (w : SgaWords) (ups : Upsets) (s : State),
    let k := s.chip.engine e
    let gatFields := [maskOf 31 0, maskOf 24 0 ||| maskOf 40 32, maskOf 24 0 ||| maskOf 56 32, maskOf 31 0]
    let forms : List (Instr × Byte × List Dword) :=
      [(.sgaNop e w, 0x00, []), (.sgaEnd e w, 0x01, []), (.sgaWait e w, 0x02, [maskOf 51 40, maskOf 31 0]),
       (.sgaTick e w, 0x03, [maskOf 12 0]), (.signal e w, 0x04, []), (.sgaSetc e w, 0x05, [maskOf 51 48, maskOf 31 0]),
       (.jump e w, 0x06, [0, maskOf 24 0]), (.attn e w ups, 0x11, attnFields), (.reduce e w ups, 0x20, rowFields false),
       (.scan e w ups, 0x21, rowFields true), (.gather e w ups, 0x30, gatFields)]
    let line := s.chip.sgaLine e
    let op := ((s.chip.fetching e w).lineBytes line).getD 7 0
    let stalled := k.state ≠ .run ∨ k.wait ≠ .none ∨ k.held.isSome = true ∨ k.gated = true
    (∀ f ∈ forms,
      (stalled → Gives f.1 s s.chip)
      ∧ (¬ stalled → s.chip.engineReach e k.pc.toNat (k.pc.toNat + 1) = false → Gives f.1 s (s.chip.sgaStop e 2 false))
      ∧ (EngineReady s.chip e → (s.chip.fetching e w).tag line = true →
          Gives f.1 s ((s.chip.fetching e w).sgaFetchPoison e line))
      ∧ (EngineReady s.chip e → (s.chip.fetching e w).tag line = false →
          (s.chip.fetching e w).sgaLineReserved e k.pc.toNat = true →
          Gives f.1 s (((s.chip.fetching e w).modEngine e (fun k => { k with op := op })).sgaStop e 0 false))
      ∧ (EngineReady s.chip e → (s.chip.fetching e w).tag line = false →
          (s.chip.fetching e w).sgaLineReserved e k.pc.toNat = false → (s.chip.fetching e w).lineBytes line ≠ sgaBytes f.2.1 w →
          Gives f.1 s s.chip)
      ∧ (EngineReady s.chip e → SgaFetches s.chip e f.2.1 w → ¬ SgaLegal s.chip e f.2.1 w f.2.2 →
          Gives f.1 s ((s.chip.taking e f.2.1 w).sgaStop e 0 false)))
    ∧ (EngineReady s.chip e → SgaLegal s.chip e 0x11 w attnFields →
      ((attnOp w).legal w = false → Gives (.attn e w ups) s ((s.chip.taking e 0x11 w).sgaStop e 0 false))
      ∧ ((attnOp w).legal w = true → (s.chip.taking e 0x11 w).covers e (attnOp w).ranges = false →
        Gives (.attn e w ups) s ((s.chip.taking e 0x11 w).sgaStop e 2 false)))
    ∧ (EngineReady s.chip e → SgaLegal s.chip e 0x20 w (rowFields false) →
      ((rowOp w).reduceLegal w = false → Gives (.reduce e w ups) s ((s.chip.taking e 0x20 w).sgaStop e 0 false))
      ∧ ((rowOp w).reduceLegal w = true → (s.chip.taking e 0x20 w).covers e (rowOp w).reduceRanges = false →
        Gives (.reduce e w ups) s ((s.chip.taking e 0x20 w).sgaStop e 2 false)))
    ∧ (EngineReady s.chip e → SgaLegal s.chip e 0x21 w (rowFields true) →
      ((rowOp w).scanLegal w = false → Gives (.scan e w ups) s ((s.chip.taking e 0x21 w).sgaStop e 0 false))
      ∧ ((rowOp w).scanLegal w = true → (s.chip.taking e 0x21 w).covers e (rowOp w).scanRanges = false →
        Gives (.scan e w ups) s ((s.chip.taking e 0x21 w).sgaStop e 2 false)))
    ∧ (EngineReady s.chip e → SgaLegal s.chip e 0x30 w gatFields →
      let o := gatherOp w
      (o.rs = 0 ∨ 256 < o.rs ∨ o.nrows = 0 → Gives (.gather e w ups) s ((s.chip.taking e 0x30 w).sgaStop e 0 false))
      ∧ (1 ≤ o.rs → o.rs ≤ 256 → o.nrows ≠ 0 → (s.chip.taking e 0x30 w).covers e o.ranges = false →
        Gives (.gather e w ups) s ((s.chip.taking e 0x30 w).sgaStop e 2 false))))
  ∧ (∀ (c : Chip) (e : EngineId) (b : Nat) (faulted : Bool), c.Canonical →
      let k := c.engine e
      let t := c.sgaStop e b faulted
      t.engine e = { k.raise b with
        state := .stopped, wait := .none, sig := none, held := none
        frec := { k.frec with stopped := true, statuses := k.frec.statuses ++ [if faulted then 2 else 1], laterNotDone := true } }
      ∧ t.mem = c.mem ∧ t.cores = c.cores)

/-- R130, R145, R149: writing a line puts its 64 bytes at its address and its poison tag at its place; every other byte and
every other tag reads as before. R135: a band row that has been cleared reads zero in every column, and every byte outside it
reads as before. -/
def Obligations.LinesAndClearedRows : Prop :=
  (∀ (c : Chip) (l : Nat) (bs : List Byte) (poison : Bool), c.mem.wf → bs.length = 64 →
      let m := (c.putLine l bs poison).mem
      (∀ i, i < 64 → rdByte m.dram (64 * l + i) = bs.getD i 0)
      ∧ (∀ x, x < 64 * l ∨ 64 * l + 64 ≤ x → rdByte m.dram x = rdByte c.mem.dram x)
      ∧ (c.putLine l bs poison).tag l = (poison || c.retired l)
      ∧ (∀ l', l' ≠ l → (c.putLine l bs poison).tag l' = c.tag l'))
  ∧ (∀ (c : Chip) (b x : Nat), c.mem.wf →
      (inRow b x = true → rdByte (c.clearRow b).mem.dram x = 0)
      ∧ (inRow b x = false → rdByte (c.clearRow b).mem.dram x = rdByte c.mem.dram x))

/-- R142, R143, R144: what the decoder makes of a line with `n` symbols in error: none leaves everything, 1 or 2 are corrected
and counted, 3 to 6 are uncorrectable: the line is written back poisoned, counted and logged, and reported with its stack,
address, die, bank and row; its bytes are free. R135, R146, Table 5-9: the patrol scrub passes the next line of a stack that
is up through the decoder and goes on, counting a full pass; a port that loses training outside a reset sets its bit, and a stack
whose ports do not retrain in phase M has failed and quarantines the package (R337). R135,
R287, R309: the first row that waits for clearing, once no move of its context is in flight, becomes zero and unowned; with
the last row of a context that is being torn down the context no longer exists, its energy counter apart. -/
def Obligations.LineDecoderAndStackWork : Prop :=
  (∀ (c : Chip) (l n : Nat) (consumed : Bool),
      let st := stackId (lineStack l)
      let found := fun (k : Stack) => (({ k with cntUe := satInc k.cntUe 1, err := setBit k.err 2 }).addPending (rowKey l)).logPoison
        c.now (BitVec.ofNat 42 (c.localOf l))
      let t := c.decodeLine l n consumed
      (n = 0 → t = c)
      ∧ (1 ≤ n → n ≤ 2 → t = c.modStack st (fun k =>
          let more := tget 0 k.rowCe (rowKey l) + 1
          let k1 := { k with cntCe := satInc k.cntCe 1, err := setBit k.err 1, rowCe := tset 0 k.rowCe (rowKey l) more }
          if 16 ≤ more then k1.addPending (rowKey l) else k1))
      ∧ (3 ≤ n → n ≤ 6 → t = c.uncorrectable l consumed ∧ t.stks = (c.modStack st found).stks
          ∧ t.mem.report = some { time := c.now, stack := st, addr := BitVec.ofNat 42 (c.localOf l), column := lineCol l
                                  die := lineDie l, bank := lineDieBank l, row := lineRow l }
          ∧ (c.Canonical → t.tag l = true ∧ (∀ l', l' ≠ l → t.tag l' = c.tag l')
            ∧ (∀ i, i < 64 → rdByte t.mem.dram (64 * l + i) = Config.freeByte (c.freeCount + i))
            ∧ (∀ x, x < 64 * l ∨ 64 * l + 64 ≤ x → rdByte t.mem.dram x = rdByte c.mem.dram x)))
      ∧ (7 ≤ n → (Config.freeBit c.freeCount = true → t = ({ c with freeCount := c.freeCount + 1 } : Chip).uncorrectable l consumed)))
  ∧ (∀ (st : StackId) (n : Nat) (s : State),
      let k := s.chip.stack st
      let line := lineOf st.val 0 0 + k.scrubPos
      let on : Stack → Stack := fun q => if k.scrubPos + 1 = 64 * colLines then { q with scrubPos := 0, cntScrub := satInc q.cntScrub 1 }
        else { q with scrubPos := k.scrubPos + 1 }
      let working := k.state = .up ∧ k.scrub = true
      (s.chip.Canonical → working → Gives (.patrolScrub st n) s ((s.chip.decodeLine line n false).modStack st on))
      ∧ (s.chip.Canonical → working → n = 0 → Gives (.patrolScrub st n) s (s.chip.setStack st (on k)))
      ∧ (¬ working → Gives (.patrolScrub st n) s s.chip)
      ∧ (k.state = .up → s.chip.flt.rphase = 0 → Gives (.portTrainingLost st) s (s.chip.setStack st { k with err := setBit k.err 0 }))
      ∧ (k.state = .training → s.chip.flt.rphase = 4 →
          Gives (.portTrainingLost st) s ((s.chip.setStack st { k with state := .failed, scrub := false }).quarantinePackage 1))
      ∧ (¬ (k.state = .up ∧ s.chip.flt.rphase = 0) → ¬ (k.state = .training ∧ s.chip.flt.rphase = 4) →
          Gives (.portTrainingLost st) s s.chip))
  ∧ (∀ (b : Fin 48) (s : State), s.chip.Canonical → twf Ctx.zero s.chip.img.ctxs = true →
      let x := (s.chip.band b.val).owner
      let m := s.chip.mem
      let rest := m.waiting.filter (fun w => w.val ≠ b.val)
      let clear := fun (t : Chip) => (∀ a, rdByte t.mem.dram a = if inRow b.val a then 0 else rdByte m.dram a)
        ∧ t.band b.val = Band.zero ∧ (∀ i, i ≠ b.val → t.band i = s.chip.band i) ∧ t.mem.waiting = rest
      let last := (s.chip.ctx x).state = .tearingDown ∧ ∀ w ∈ rest, (s.chip.band w.val).owner ≠ x
      (m.waiting.head? = some b → s.chip.inFlight x = false →
        (¬ last → Gives (.bandClearDone b) s (s.chip.clearRow b.val))
        ∧ Completes (.bandClearDone b) s (fun t => clear t ∧ t.cores = s.chip.cores ∧ t.engines = s.chip.engines)
        ∧ (last → Completes (.bandClearDone b) s (fun t =>
            t.ctx x = { Ctx.zero with energy := (s.chip.ctx x).energy, tchange := s.chip.now })))
      ∧ (m.waiting.head? ≠ some b ∨ s.chip.inFlight x = true → Gives (.bandClearDone b) s s.chip))

/-- R27, R156, R157: a host read through BAR4 outside the window's size is an unsupported request; during a recovery it
returns 0xFF; one that the window or the band table refuses is counted and returns 0xFF; any other returns the bytes of the
lines, poisoned where a line is. R27, R145, R156, R157: a host write through BAR4 changes the lines it touches, and nothing
when it lies outside the window, during a recovery, or is refused. -/
def Obligations.Bar4WindowAccess : Prop :=
  (∀ (x : BitVec 36) (n : Nat) (ups : Upsets) (s : State),
      let c := s.chip
      let addr := c.mem.wBase.toNat + x.toNat
      let r := (c.linesOf addr n).foldl (fun (a : List Byte × Bool × Chip) p =>
        let g := a.2.2.readLine p.2 ups false
        (a.1 ++ g.1.data, a.2.1 || g.1.poison, g.2)) ([], false, c)
      let ones := Out.bar4Data (List.replicate n 0xFF) false
      (c.pkg.bar4Bytes < x.toNat + n → HostGives (.bar4Read x n ups) s c.unsupported)
      ∧ (x.toNat + n ≤ c.pkg.bar4Bytes →
        (c.flt.rphase ≠ 0 → HostGives (.bar4Read x n ups) s (c.emit ones))
        ∧ (c.flt.rphase = 0 → c.bar4Ok x.toNat n = false → HostGives (.bar4Read x n ups) s (c.bar4Refuse.emit ones))
        ∧ (c.flt.rphase = 0 → c.bar4Ok x.toNat n = true →
          HostGives (.bar4Read x n ups) s (r.2.2.emit (.bar4Data (slice r.1 (addr % 64) n) r.2.1)))))
  ∧ (∀ (x : BitVec 36) (d : List Byte) (ups : Upsets) (s : State),
      let c := s.chip
      let addr := c.mem.wBase.toNat + x.toNat
      (c.pkg.bar4Bytes < x.toNat + d.length → HostGives (.bar4Write x d ups) s c.unsupported)
      ∧ (x.toNat + d.length ≤ c.pkg.bar4Bytes →
        (c.flt.rphase ≠ 0 → HostGives (.bar4Write x d ups) s c)
        ∧ (c.flt.rphase = 0 → c.bar4Ok x.toNat d.length = false → HostGives (.bar4Write x d ups) s c.bar4Refuse)
        ∧ (c.flt.rphase = 0 → c.bar4Ok x.toNat d.length = true → HostGives (.bar4Write x d ups) s
            ((c.linesOf addr d.length).foldl (fun c p => c.bar4Line addr d ups p.1 p.2) c))))

/-- R155, R156, R420: a write of the high word of STK_W_BASE is staged, one of the low word commits both words and empties the
stage: a base that is a multiple of the window size becomes the base and turns the window on, another is refused whole with
WBASE; bits that are RV keep their values. A resize keeps the base, and turns the window off where the base is no multiple of
the new size; an endpoint that is not enabled takes none (R396). -/
def Obligations.WindowBaseStagedAndCommitted : Prop :=
  ∀ (a : RegAlias) (d : Word) (size : Fin 7) (s : State),
    let c := s.chip
    let m := c.mem
    let hi0 : Word := m.wBase.extractLsb' 32 32
    let lo0 : Word := m.wBase.setWidth 32
    let put := fun (rw old : Word) => match a with
      | .normal => d
      | .set => old ||| (d &&& rw)
      | .clear => old &&& ~~~ (d &&& rw)
      | .toggle => old ^^^ (d &&& rw)
    let hi := m.wStage.getD hi0
    let lo := put 0xC0000000 lo0
    let base : Dword := ((hi &&& 0x3FF) ||| (hi0 &&& 0xFFFFFC00)) ++ ((lo &&& 0xC0000000) ||| (lo0 &&& 0x3FFFFFFF))
    HostGives (.stkWBaseHighWrite a d) s { c with mem := { m with wStage := some (put 0x3FF hi0) } }
    ∧ HostGives (.stkWBaseLowWrite a d) s (c.commitWBase a d (aliasOffset a 0x29F0008))
    ∧ (base.toNat % c.pkg.bar4Bytes = 0 → HostCompletes (.stkWBaseLowWrite a d) s (fun t =>
        t.mem = { m with wStage := none, wBase := base, woff := false } ∧ t.cores = c.cores ∧ t.rte = c.rte ∧ t.mbx = c.mbx))
    ∧ (base.toNat % c.pkg.bar4Bytes ≠ 0 → HostCompletes (.stkWBaseLowWrite a d) s (fun t =>
        t.mem = { m with wStage := none, wbaseErr := true } ∧ bit t.pkg.err cValue = true
        ∧ t.pkg.cntRefused = satInc c.pkg.cntRefused 1))
    ∧ (c.pkg.pcieUp = false → Gives (.bar4Resize size) s c)
    ∧ (c.pkg.pcieUp = true → Gives (.bar4Resize size) s { c with
        pkg := { c.pkg with bar4Size := size }
        mem := { m with woff := m.woff || decide (m.wBase.toNat % 2 ^ (30 + size.val) ≠ 0) } })

/-- R415, R416, R422, Tables 16-2 and 16-4b: a host write to BAR0 acts by its register's kind of access. A write that is
discarded is recorded once: the cause's bit, the cause with the offset, the time and the count; one to a block that is fused
off or hidden by a reset (R2, R27) leaves no record. R390, R391, R396: an access that is not of one aligned DW with all byte
enables set is an unsupported request; no access of the host arrives while the endpoint is not enabled, and one in D3hot is an
unsupported request. R415, R421, Table 16-2: the four aliases of an RW word replace, set,
clear or toggle its RW bits; RV bits keep their values, and only a normal write that gives them other values is recorded. A
W1C bit is cleared by a 1 through the normal and clear aliases and by nothing else. -/
def Obligations.RegisterAccessAndAliases : Prop :=
  (∀ (i : Instr) (s : State), hostAccess i = true →
      (s.chip.pkg.pcieUp = false → Gives i s s.chip)
      ∧ (s.chip.pkg.pcieUp = true → s.chip.pkg.pcie.d3hot = true → Gives i s s.chip.unsupported))
  ∧ (∀ (x : Bar0Access) (d : Word) (s : State), s.chip.hostUp = true →
      let c := s.chip
      let o := x.off.toNat
      let one := x.dws = 1 ∧ x.enables = 0xF ∧ o % 4 = 0
      let w := Instr.registerWrite x d
      let refused := fun (k : Nat) => Gives w s { c with pkg := { c.pkg with
        err := setBit c.pkg.err k, regAddr := fld k 28 ||| BitVec.ofNat 32 o, regTime := c.now, cntRefused := satInc c.pkg.cntRefused 1 } }
      (¬ one → Gives w s c.unsupported)
      ∧ (one → regAt (o % 0x4000000) = none → refused cUnlisted)
      ∧ (∀ b r, one → regAt (o % 0x4000000) = some (b, r) →
        (c.gone b = true → Gives w s c)
        ∧ (c.gone b = false → b.kind r = .unlisted → refused cUnlisted)
        ∧ (c.gone b = false → b.kind r = .ro → refused cRo)
        ∧ (c.gone b = false → b.kind r = .wo → aliasOf o ≠ .normal → refused cWo)
        ∧ (c.gone b = false → b.kind r = .rw → Gives w s (c.writeRw b r (aliasOf o) d o))
        ∧ (∀ m, c.gone b = false → b.kind r = .w1c m → d &&& ~~~ m = 0 → Gives w s (c.modW1c b r (fun v => (w1cWord (aliasOf o) m v d).1)))))
  ∧ (∀ (rw old d : Word) (i : Nat), i < 32 →
      let r := fun (a : RegAlias) => bit (rwWord a rw old d).1 i
      let x := fun (a : RegAlias) => bit (w1cWord a rw old d).1 i
      (bit rw i = false → ∀ a, r a = bit old i ∧ x a = bit old i)
      ∧ (bit rw i = true → r .normal = bit d i ∧ r .set = (bit old i || bit d i) ∧ r .clear = (bit old i && !bit d i)
          ∧ r .toggle = (bit old i ^^ bit d i) ∧ x .normal = (bit old i && !bit d i) ∧ x .clear = (bit old i && !bit d i)
          ∧ x .set = bit old i ∧ x .toggle = bit old i)
      ∧ (∀ a, (rwWord a rw old d).2 = true ↔ a = .normal ∧ d &&& ~~~ rw ≠ old &&& ~~~ rw))

/-- R420, R424, R425: a read of BAR0 answers the register's word at every alias; that of the low word of a 64-bit register
latches the high word, which a read of the high word then returns. The parity sweep, with no bit flipped and every word as a
write leaves it, changes nothing; of a word with an odd number of flipped bits, its parity bit counted, the last good value
stays in force, it is held, and its block's bit is set; an even number of them is not found. -/
def Obligations.RegisterReadsAndParity : Prop :=
  ∀ (x : Bar0Access) (s : State),
    let c := s.chip
    let o := x.off.toNat
    let p := o % 0x4000000
    let one := x.dws = 1 ∧ x.enables = 0xF ∧ o % 4 = 0
    (¬ one → HostGives (.reg64LowRead x) s c.unsupported)
    ∧ (one → HostGives (.reg64LowRead x) s ((c.readReg p).2.emit (.bar0Data (c.readReg p).1)))
    ∧ (∀ b r v, one → regAt p = some (b, r) → c.gone b = false → c.readDword b r = some v →
      let t := { c with pkg := { c.pkg with shadow := tset 0 c.pkg.shadow p (v.extractLsb' 32 32) } }
      HostGives (.reg64LowRead x) s (t.emit (.bar0Data (v.setWidth 32))))
    ∧ (∀ b r v y, one → regAt p = some (b, r) → c.gone b = false → c.readDword b r = none → 4 ≤ r → c.readDword b (r - 4) = some v →
      tget 0 c.pkg.shadow (p - 4) = y → HostGives (.reg64LowRead x) s (c.emit (.bar0Data y)))
    ∧ (∀ ups, c.mbx.dstate = .off → Gives (.cfgParitySweep ups) s c)
    ∧ (c.Canonical → (c.frm.slipMap.map (·.1)).Pairwise (· < ·) → c.cfgBits (fun w => w != CfgWord.of w.stored) = 0 →
      Completes (.cfgParitySweep []) s (fun t => t.pkg = c.pkg ∧ t.mbx = c.mbx ∧ t.links = c.links ∧ t.pwr = c.pwr ∧ t.flt = c.flt
        ∧ t.bru = c.bru ∧ t.rte = c.rte ∧ t.cores = c.cores ∧ t.engines = c.engines ∧ t.mem = c.mem
        ∧ { t.frm with slipMap := c.frm.slipMap } = c.frm ∧ ∀ i, t.frm.mapWord i = c.frm.mapWord i))
    ∧ (∀ m : BitVec 33, c.mbx.dstate ≠ .off → c.rte.id = CfgWord.of c.rte.id.stored →
      (popCount 33 m.toNat % 2 = 1 → Completes (.cfgParitySweep [(0x2F00000, m)]) s (fun t =>
        t.rte.id = { c.rte.id with stored := c.rte.id.stored ^^^ m.setWidth 32, parity := c.rte.id.parity ^^ m.getLsbD 32, held := true }
        ∧ t.rte.id.val = c.rte.id.val ∧ bit t.rte.err 12 = true))
      ∧ (popCount 33 m.toNat % 2 = 0 → Completes (.cfgParitySweep [(0x2F00000, m)]) s (fun t =>
        t.rte.id = CfgWord.of (c.rte.id.stored ^^^ m.setWidth 32))))

/-- R423, Tables 16-2 and 16-4b: a write of MBX_RING_HEAD, through any alias, moves the head to its value when the value lies
from the head to the tail, counted forward modulo 2,048; any other value leaves the head and is refused with HEAD_RANGE. The
tail value is always taken. Wrong RV bits are recorded beside. -/
def Obligations.RingHeadMovesUpToTheTail : Prop :=
  ∀ (a : RegAlias) (d : Word) (s : State),
    let c := s.chip
    let m := c.mbx
    let r := rwWord a 0x7FF (m.ringHead.setWidth 32) d
    let h : BitVec 11 := r.1.setWidth 11
    let off := aliasOffset a 0x10001C
    let rv := causeIf r.2 cRv
    ((h - m.ringHead).toNat ≤ (m.ringTail - m.ringHead).toNat →
      HostGives (.mbxRingHeadWrite a d) s ({ c with mbx := { m with ringHead := h } }.refuse off rv))
    ∧ ((m.ringTail - m.ringHead).toNat < (h - m.ringHead).toNat →
      HostGives (.mbxRingHeadWrite a d) s (c.refuse off (rv ++ [cHead])))
    ∧ HostGives (.mbxRingHeadWrite .normal (m.ringTail.setWidth 32)) s { c with mbx := { m with ringHead := m.ringTail } }

/-- R426, Table 16-4b: a normal write of a held word's last good value ends the hold in every device state and is recorded
nowhere; one of another value stays under the state rules. The words with a state rule are RTE_ID, FRM_SLIPMAP, BRU_CTL and
the LOOPBACK bit of LNK_CTL, which keeps its last good value where it is refused; the others have none. -/
def Obligations.HeldWordsEndByTheirGoodValue : Prop :=
  ∀ (i : Fin 128) (l : LinkId) (d : Word) (s : State), s.chip.Canonical →
    let c := s.chip
    let id := c.rte.id
    let map := tget (CfgWord.of (slipMapReset i.val)) c.frm.slipMap i.val
    let run := c.bru.ctl
    let k := (c.link l).ctl
    let lnk := fun (v : Word) => Instr.registerWrite { off := BitVec.ofNat 28 (lnkCtlOff l) } v
    let ends := fun (off : BitVec 28) (w : Chip → CfgWord) => (w c).held = true →
      HostCompletes (.registerWrite { off := off } (w c).good) s (fun t => w t = CfgWord.of (w c).good ∧ t.pkg.err = c.pkg.err
        ∧ t.pkg.cntRefused = c.pkg.cntRefused)
    (id.held = true → HostGives (.rteIdWrite .normal id.good) s { c with rte := { c.rte with id := CfgWord.of id.good, idWritten := true } })
    ∧ (id.held = true → d ≠ id.good → c.mbx.dstate ≠ .bringup → HostGives (.rteIdWrite .normal d) s (c.refuse 0x2F00000 [cState]))
    ∧ (map.held = true → HostCompletes (.frmSlipmapWrite i .normal map.good) s (fun t =>
        t.frm = { c.frm with slipMap := tset (CfgWord.of (slipMapReset i.val)) c.frm.slipMap i.val (CfgWord.of map.good) } ∧ t.pkg = c.pkg))
    ∧ (map.held = true → d ≠ map.good → c.mbx.dstate ≠ .bringup → c.mbx.dstate ≠ .ready →
        HostGives (.frmSlipmapWrite i .normal d) s
          ({ c with frm := { c.frm with err := setBit c.frm.err 12 } }.refuse (0x2C00400 + 4 * i.val) [cState]))
    ∧ (run.held = true → HostGives (.runTo .normal run.good) s ({ c with bru := { c.bru with ctl := CfgWord.of run.good } }.bruNext))
    ∧ (run.held = true → d ≠ run.good → c.mbx.dstate ≠ .bringup → HostGives (.runTo .normal d) s ((c.bruErr 0).refuse 0x2E00008 [cState]))
    ∧ (k.held = true → c.fuse.linkOn l.val = true → HostCompletes (lnk k.good) s (fun t => (t.link l).ctl.held = false
        ∧ bit (t.link l).ctl.val 0 = bit k.good 0 ∧ t.pkg = c.pkg))
    ∧ (k.held = true → c.fuse.linkOn l.val = true → d ≠ k.good → bit d 0 = true → c.mbx.dstate ≠ .bringup →
        HostCompletes (lnk d) s (fun t => (t.link l).ctl.held = false ∧ bit (t.link l).ctl.val 0 = bit k.good 0
          ∧ bit t.pkg.err cState = true))
    ∧ ends 0x20 (fun t => t.pkg.irqEn) ∧ ends 0x100008 (fun t => t.mbx.ctl) ∧ ends 0x2B00008 (fun t => t.pwr.ctl)
    ∧ ends 0x2C00008 (fun t => t.frm.ctl) ∧ ends 0x2D00008 (fun t => t.flt.ctl) ∧ ends 0x2F0000C (fun t => t.rte.ctl)

/-- R228, R235, R238: RTE_ID takes a value only in BRINGUP; a route entry takes one in BRINGUP, or when the links that it
names, before and after, are drained and the entry is well formed, and else raises ROUTE_REFUSED; the drain rows set and clear
bits of RTE_CTL, and a link whose bit is clear is neither draining nor drained. -/
def Obligations.RoutingRegisterWrites : Prop :=
  ∀ (a : RegAlias) (d : Word) (p : Fin 49) (m : BitVec 6) (s : State), s.chip.Canonical →
    let c := s.chip
    let id := c.rte.id.put a 0x00FF0F03 d
    let old := c.rte.entry p.val
    let w := rwWord a 0xFFF80000 old d
    let ok := (routeLinks old ++ routeLinks w.1).all (fun l => (c.link l).isDrained) && c.fuse.routeOk (p.val == 48) w.1
    let drains := fun (t : Chip) (v : Word) => t.rte = { c.rte with ctl := CfgWord.of v }
      ∧ ∀ l : LinkId, t.link l = if bit v l.val then c.link l else { c.link l with draining := false, drained := false }
    (c.mbx.dstate = .bringup → id.2 = false →
      HostGives (.rteIdWrite a d) s { c with rte := { c.rte with id := CfgWord.of id.1, idWritten := true } })
    ∧ (c.mbx.dstate ≠ .bringup → c.rte.id.held = false → id.2 = false →
      HostGives (.rteIdWrite a d) s (c.refuse (aliasOffset a 0x2F00000) [cState]))
    ∧ (w.2 = false → c.mbx.dstate = .bringup ∨ ok = true →
      HostGives (.rteRouteWrite p a d) s { c with rte := { c.rte with route := tset routeReset c.rte.route p.val (w.1 &&& 0xFFF80000) } })
    ∧ (w.2 = false → c.mbx.dstate ≠ .bringup → ok = false →
      HostGives (.rteRouteWrite p a d) s { c with rte := { c.rte with err := setBit c.rte.err 10 } })
    ∧ HostCompletes (.rteDrainSet m) s (fun t => drains t (c.rte.ctl.stored ||| m.setWidth 32))
    ∧ HostCompletes (.rteDrainClear m) s (fun t => drains t (c.rte.ctl.stored &&& ~~~ m.setWidth 32))

/-- R168, R180, R327, R342, R377, R379, R386, R394, Tables 12-9, 14-11 and 15-2: the other registers that have a row of their
own. FRM_CTL makes a disabled input bad; the slip map takes words in BRINGUP and READY; PWR_CTL, PWR_HARDCAP and PWR_THETA0
take their values; RUN_TO and BRU_RESTART act in BRINGUP and else raise SEQ; a bit of PKG_IRQ_STATUS written 1 is cleared; the
two keys of FLT_PKGRST in sequence order a package reset. -/
def Obligations.ControlRegisterWrites : Prop :=
  ∀ (i : Fin 128) (a : RegAlias) (d : Word) (v : BitVec 2) (on : Bool) (s : State),
    let c := s.chip
    let fc := c.frm.ctl.put a 7 d
    let map := tget (CfgWord.of (slipMapReset i.val)) c.frm.slipMap i.val
    let k := bits d 3 0
    (HostCompletes (.frmCtlDis a d) s (fun t => t.frm.ctl = CfgWord.of fc.1 ∧ (bit fc.1 1 = true → (t.frm.input .a).good = false)
        ∧ (bit fc.1 2 = true → (t.frm.input .b).good = false)))
    ∧ (c.mbx.dstate = .bringup ∨ c.mbx.dstate = .ready → HostGives (.frmSlipmapWrite i a d) s
        (c.writeSlipMap i.val (map.put a 0xFFFFFFFF d).1 true))
    ∧ (map.held = false → c.mbx.dstate ≠ .bringup → c.mbx.dstate ≠ .ready → HostGives (.frmSlipmapWrite i a d) s
        ({ c with frm := { c.frm with err := setBit c.frm.err 12 } }.refuse (aliasOffset a (0x2C00400 + 4 * i.val)) [cState]))
    ∧ HostCompletes (.parity v) s (fun t => bits t.pwr.ctl.val 2 1 = v.toNat ∧ bit t.pwr.ctl.val 3 = bit c.pwr.ctl.stored 3
        ∧ bit t.pwr.ctl.val 4 = bit c.pwr.ctl.stored 4)
    ∧ HostCompletes (.ballastEn on) s (fun t => bit t.pwr.ctl.val 4 = on ∧ (on = false → t.pwr.ballastOn = false))
    ∧ HostCompletes (.derateEn on) s (fun t => bit t.pwr.ctl.val 3 = on ∧ (on = false → t.pwr.derate = none))
    ∧ HostCompletes (.pwrHardcapWrite a d) s (fun t =>
        t.pwr.hardcap = (rwWord a 0xFFFF (c.pwr.hardcap.setWidth 32) d).1.setWidth 16)
    ∧ (c.mbx.dstate = .bringup ∨ c.mbx.dstate = .ready → HostCompletes (.pwrTheta0Write a d) s (fun t =>
        t.pwr = { c.pwr with theta0 := (rwWord a 0xFFFF (c.pwr.theta0.setWidth 32) d).1.setWidth 16 }))
    ∧ (c.mbx.dstate ≠ .bringup → c.mbx.dstate ≠ .ready → HostCompletes (.pwrTheta0Write a d) s (fun t =>
        t.pwr = c.pwr ∧ bit t.pkg.err cState = true))
    ∧ (c.mbx.dstate = .bringup → (c.bru.ctl.put a 0xCF d).2 = false → HostGives (.runTo a d) s
        ({ c with bru := { c.bru with ctl := CfgWord.of (c.bru.ctl.put a 0xCF d).1 } }.bruNext))
    ∧ (c.mbx.dstate = .bringup → c.bru.running = false → 1 ≤ k → k ≤ c.bru.passed.toNat + 1 →
        HostGives (.bruRestart .normal d) s (c.restartAt k) ∧ (c.restartAt k).bru.passed = BitVec.ofNat 4 (k - 1))
    ∧ (c.mbx.dstate ≠ .bringup → HostGives (.bruRestart .normal d) s ((c.bruErr 0).refuse 0x2E0000C [cState]))
    ∧ (d &&& ~~~ 7 = 0 → HostGives (.pkgIrqStatusClear .normal d) s { c with pkg := { c.pkg with irqStatus := c.pkg.irqStatus &&& ~~~ d } })
    ∧ HostGives (.fltPkgrstWrite .normal 0x5A5A) s { c with flt := { c.flt with pkgrst := true } }
    ∧ (c.flt.pkgrst = true → HostGives (.fltPkgrstWrite .normal 0xA5A5) s ({ c with flt := { c.flt with pkgrst := false } }.orderPackage 2))
    ∧ (d ≠ 0x5A5A → d ≠ 0xA5A5 ∨ c.flt.pkgrst = false → HostGives (.fltPkgrstWrite .normal d) s { c with flt := { c.flt with pkgrst := false } })
    ∧ Gives .pkgrstSeqTimeout s { c with flt := { c.flt with pkgrst := false } }

/-- R162, R163, R165, R167-R171, R184: what a mark, a missing mark and lost edges do to an input. A mark that is not valid, or
is missing, is counted and makes its input bad; the input in use that becomes bad gives way to the other, or HOLDOVER begins;
a valid mark acquires, keeps the lock, realigns where it disagrees with the model, and ends HOLDOVER, re-phasing the grid
where its edge is off by more than a tick period. A valid mark of the other input is judged by its edge at once, and by its
contents against the locked input's mark of the same interval. -/
def Obligations.FrameClockInputs : Prop :=
  ∀ (i : RefInput) (w : MarkWord) (s : State), s.chip.mbx.dstate ≠ .off →
    let c := s.chip
    let f := c.frm
    let r := f.input i
    let m := w.mark
    let o := f.input i.other
    let valid := w.valid r.edges = true
    let agrees := (f.expected w.intervals).any (fun t => t.agrees m)
    let near := -244 ≤ w.gridError ∧ w.gridError ≤ 244
    let close := -200 ≤ w.skewError ∧ w.skewError ≤ 200
    let lock := fun (g : Machine.Frm) => g.state = .locked ∧ g.src = i ∧ g.model = some m ∧ (g.input i).good = true
      ∧ (g.input i).mark = some m ∧ (g.input i).extra = g.extra
    let bad := fun (g : Machine.Frm) => ({ c with frm := (g.markError i).markDue i } : Chip).inputBad i
    let seen := f.setInput i { r with carrier := true }
    (w.valid r.edges = false → w.symbolsOk = false ∨ w.binary = false ∨ w.slipOk = true → Gives (.markReceived i w) s (bad seen))
    ∧ (w.symbolsOk = true → w.binary = true → w.slipOk = false → Gives (.markReceived i w) s (bad (seen.raise 5)))
    ∧ (valid → f.state = .unlocked ∨ f.state = .acquiring → Completes (.markReceived i w) s (fun t =>
        t.frm.state = .acquiring ∧ (t.frm.input i).good = !f.disabled i ∧ (t.frm.input i).mark = some m
        ∧ (f.disabled i = false → r.mark = none → (t.frm.input i).agree = 1)))
    ∧ (valid → f.state = .locked → f.src = i → agrees = true → o.await = none → m.hold = false ∨ o.good = false ∨ o.hold = true →
      Completes (.markReceived i w) s (fun t => lock t.frm ∧ t.frm.broken = f.broken ∧ t.frm.err = f.err
        ∧ (m.slip ≠ 0 → t.frm.planSlip = some { slip := m.slip, lfn := m.lfn })))
    ∧ (valid → f.state = .locked → f.src = i → agrees = true → o.await = none → m.hold = true → o.good = true → o.hold = false →
      Completes (.markReceived i w) s (fun t => t.frm.state = .locked ∧ t.frm.src = i.other ∧ t.frm.model = some m
        ∧ t.frm.cntFailover = satInc f.cntFailover 1 ∧ bit t.frm.err 3 = true))
    ∧ (valid → f.state = .locked → f.src = i → agrees = false → o.await = none → m.hold = false →
      Completes (.markReceived i w) s (fun t => lock t.frm ∧ t.frm.broken = true ∧ t.frm.debt = 0 ∧ bit t.frm.err 7 = true
        ∧ bit t.frm.err 8 = true ∧ t.frm.cntRealign = satInc f.cntRealign 1
        ∧ t.frm.next = some ((m.nextBoundary 0 f.gridPeriod).1, (m.nextBoundary 0 f.gridPeriod).2 % 4096)))
    ∧ (valid → f.state = .locked → f.src ≠ i → f.disabled i = false →
      (¬ close → Completes (.markReceived i w) s (fun t => (t.frm.input i).good = false ∧ bit t.frm.err 4 = true))
      ∧ (close → w.intervals ≠ 0 → Completes (.markReceived i w) s (fun t => (t.frm.input i).await = some w.intervals
          ∧ (t.frm.input i).mark = some m ∧ (t.frm.input i).good = r.good))
      ∧ (close → w.intervals = 0 → f.model.any (fun p => p.same m) = true → o.hold = false →
          Completes (.markReceived i w) s (fun t => (t.frm.input i).good = true ∧ t.frm.src = f.src ∧ t.frm.err = f.err))
      ∧ (close → w.intervals = 0 → f.model.any (fun p => p.same m) = false →
          Completes (.markReceived i w) s (fun t => (t.frm.input i).good = false ∧ bit t.frm.err 4 = true)))
    ∧ (valid → f.state = .holdover → f.disabled i = false → agrees = true → near →
      Completes (.markReceived i w) s (fun t => lock t.frm ∧ t.frm.broken = f.broken ∧ t.frm.holdFrames = 0
        ∧ t.frm.gridPeriod = f.gridPeriod))
    ∧ (valid → f.state = .holdover → f.disabled i = false → ¬ (agrees = true ∧ near) →
      Completes (.markReceived i w) s (fun t => lock t.frm ∧ t.frm.broken = true ∧ t.frm.holdFrames = 0 ∧ bit t.frm.err 8 = true
        ∧ (near → t.frm.gridPeriod = f.gridPeriod) ∧ (¬ near → t.frm.gridPeriod = 91)))
    ∧ (r.edges = true → Gives (.missingMark i) s (bad f))
    ∧ (r.edges = false → Gives (.missingMark i) s c)
    ∧ Completes (.refEdgeLoss i) s (fun t => (t.frm.input i).good = false ∧ (t.frm.input i).edges = false ∧ (t.frm.input i).mark = none
        ∧ (t.frm.input i).carrier = false)
    ∧ (∀ d : Chip,
      let g := d.frm
      let t := (d.inputBad i).frm
      (t.input i).good = false
      ∧ (g.state = .locked → g.src = i → (g.input i.other).good = true →
          t.state = .locked ∧ t.src = i.other ∧ bit t.err 3 = true ∧ t.cntFailover = satInc g.cntFailover 1)
      ∧ (g.state = .locked → g.src = i → (g.input i.other).good = false →
          t.state = .holdover ∧ t.holdFrames = 0 ∧ bit t.err 9 = true))

/-- R6, R167, R170, R171, R182, R184: lock begins frame 0 at the boundary of the third agreeing mark in bring-up, its SLIP
counted in the first frame where the boundary lies after grid tick 128, with what earlier SLIPs add to it, and breaks the frame in progress after FREERUN; the
50th frame of HOLDOVER ends in FREERUN with the plan stopped, and contexts with peers stop at that boundary; a slip joins the
debt at grid tick 128, and a debt above 1,024 realigns. -/
def Obligations.FrameClockLockAndSlip : Prop :=
  ∀ (i : RefInput) (m : Mark) (p : PendingSlip) (s : State),
    let c := s.chip
    let f := c.frm
    let first := f.state = .unlocked ∨ f.state = .acquiring
    let chosen := f.lockChoice = some i ∧ (f.input i).mark = some m
    (chosen → first → c.bru.running = true → c.bru.step = 9 → Completes .frameLock s (fun t =>
        t.frm.state = .locked ∧ t.frm.src = i ∧ t.frm.valid = true ∧ t.frm.frame = 0 ∧ t.frm.tick = 0 ∧ t.frm.lfn = m.lfn
        ∧ t.frm.lfn0 = m.lfn ∧ t.frm.aoff = m.aoff.toNat % 4096 ∧ t.frm.broken = false ∧ t.frm.gridPeriod = m.aoff.toNat % 4096
        ∧ t.frm.debt = (if 128 < m.aoff.toNat then m.slip else 0) + (f.input i).extra))
    ∧ (chosen → f.state = .freerun → Completes .frameLock s (fun t =>
        t.frm.state = .locked ∧ t.frm.src = i ∧ t.frm.broken = true ∧ t.frm.next = some (m.lfn, m.aoff.toNat % 4096)
        ∧ t.frm.frame = f.frame ∧ t.frm.tick = f.tick ∧ t.frm.endIn = 0 ∧ t.frm.cntRealign = satInc f.cntRealign 1))
    ∧ (f.lockChoice = none ∨ f.state = .locked ∨ f.state = .holdover ∨ (first ∧ ¬ (c.bru.running = true ∧ c.bru.step = 9)) →
        Gives .frameLock s c)
    ∧ (f.state = .holdover → 49 ≤ f.holdFrames → f.ended = true → Completes .freerunEntry s (fun t =>
        t.frm.state = .freerun ∧ bit t.frm.err 10 = true ∧ t.plan.stopped = true ∧ t.frm.frame = f.frame
        ∧ (twf Ctx.zero c.img.ctxs = true → ∀ x : CtxId, (c.ctx x).judged = true → c.hasPeers x = true →
            (t.ctx x).holdNext = (c.ctx x).holdNext ||| holdBit 1)))
    ∧ (f.state ≠ .holdover ∨ f.holdFrames < 49 ∨ f.ended = false → Gives .freerunEntry s c)
    ∧ (f.planSlip = some p → f.slipDue = true → (f.debt + p.slip).natAbs ≤ 1024 →
      Gives .slipApply s { c with frm := { f with planSlip := none, debt := f.debt + p.slip } })
    ∧ (f.planSlip = some p → f.slipDue = true → 1024 < (f.debt + p.slip).natAbs → Completes .slipApply s (fun t =>
        t.frm.broken = true ∧ t.frm.debt = 0 ∧ t.frm.planSlip = none ∧ bit t.frm.err 6 = true ∧ bit t.frm.err 8 = true
        ∧ t.frm.cntRealign = satInc f.cntRealign 1))
    ∧ (f.slipDue = false → Gives .slipApply s c)
    ∧ (f.slipDue = true ↔ f.valid = true ∧ f.planSlip.isSome = true ∧ f.gridPeriod = 128 ∧ f.ended = false)

/-- R164, R182, R184, R186, R251: a frame that has lasted its time ends, and every block does what its boundary asks of it,
with the next frame; its count and LFN go up by one, its ticks begin at 0, it absorbs at most K ticks of the debt, and the
frame after a broken one is that of the target schedule. From tick 4,080 on every context is decided: it rolls back on the
lowest case that holds, or on a notice; a replay frame is decided by notices alone (R260). R251 cases 1 and 3: a REPLICA check
of one step passes when the device's own digest and those of every other member of the group are there and equal; it fails,
counted, when one is missing, and when two differ. -/
def Obligations.FrameBoundaryVerdictAndReplicas : Prop :=
  ((∀ (m : FrameMeasure) (s : State),
      let c := s.chip
      let d := allLinks.foldl Chip.flushTx c
      let e := d.endFrame m c.frm.nextFrame.lfn
      (c.frm.ended = true → c.frm.freerunDue = false →
        Gives (.frameBoundary m) s ({ e with frm := e.frm.nextFrame }.beginFrame m c.frm.frame c.frm.lfn)
        ∧ Completes (.frameBoundary m) s (fun t => t.frm = c.frm.nextFrame))
      ∧ (c.frm.ended = false → Gives (.frameBoundary m) s c))
    ∧ (∀ f : Machine.Frm, f.ended = true ↔
        f.valid = true ∧ (f.broken = true → f.endIn = 0) ∧ (f.broken = false → (4096 : Int) + f.slipNow ≤ f.elapsed))
    ∧ (∀ f : Machine.Frm,
      let g := f.nextFrame
      g.frame = f.frame + 1 ∧ g.tick = 0 ∧ g.elapsed = 0 ∧ g.second = false ∧ g.slipNow.natAbs ≤ f.slipK
      ∧ (f.broken = false → g.lfn = f.lfn + 1 ∧ g.debt = f.debt - f.slipNow ∧ g.debt.natAbs = (g.debt - g.slipNow).natAbs + g.slipNow.natAbs)
      ∧ (∀ n, f.broken = true → f.next = some n → g.lfn = n.1 ∧ g.aoff = n.2 ∧ g.broken = false ∧ g.debt = f.debt + f.carry))
    ∧ (∀ s : State,
      (s.chip.frm.valid = true → 4080 ≤ s.chip.frm.tick →
        Gives .verdict s (allCtxs.foldl (fun c x => if (c.ctx x).judged then c.verdictCtx x else c) s.chip.chargeShort))
      ∧ (s.chip.frm.valid = false ∨ s.chip.frm.tick < 4080 → Gives .verdict s s.chip))
    ∧ (∀ (c : Chip) (x : CtxId),
      let d := c.digCtx x
      let lfn := c.frm.lfn
      let cause := if lfn ∈ d.losses then some 4 else if lfn ∈ d.stops ∨ c.frm.broken = true then some 5 else none
      let decide' := fun (c : Chip) (forced : Bool) (k : Option Nat) =>
        c.modDig x (fun d => { d with decided := true, forced := forced, cause := k })
      (d.decided = true → c.verdictCtx x = c)
      ∧ (d.decided = false → d.state ≠ .replay → c.checkOn x = false → d.named lfn = false → c.verdictCtx x = decide' c false cause)
      ∧ (d.decided = false → d.state ≠ .replay → c.checkOn x = false → d.named lfn = true →
          c.verdictCtx x = decide' c true (if lfn ∈ d.losses then some 4 else some 5))
      ∧ (d.decided = false → d.state = .replay → d.named lfn = false → c.verdictCtx x = decide' c false none)
      ∧ (d.decided = false → d.state ≠ .replay → c.checkOn x = true → d.named lfn = false →
          let r := c.runChecks x lfn
          c.verdictCtx x = decide' r.1 false (match r.2 with
            | some k => some k
            | none => cause))))
  ∧ (∀ (c : Chip) (x : CtxId) (lfn group : BitVec 16) (step : Word) (g : CheckGroup), c.groupOf x group = some g →
      let d := c.digCtx x
      let own := (d.own.find? (fun o => o.lfn == lfn && o.group == group && o.step == step)).map (·.digest)
      let others := (c.others g.mask).map (fun m => d.valueOf lfn group 0 m step)
      let r := c.checkReplica x lfn (group, step)
      (r = (c, false) ↔ own.isSome = true ∧ ∀ v ∈ others, v = own)
      ∧ (own = none ∨ none ∈ others → r.2 = true ∧ r.1.dig.cntMissing = satInc c.dig.cntMissing 1 ∧ bit r.1.dig.err 1 = true)
      ∧ (own.isSome = true → none ∉ others → (∃ v ∈ others, v ≠ own) →
        r.2 = true ∧ r.1.dig.cntMismatch = satInc c.dig.cntMismatch 1 ∧ bit r.1.dig.err 0 = true))

/-- R200-R210: training starts on a link that is enabled, at bring-up with up to three cold attempts or one warm one; its end
brings the link UP at the agreed width, at the next boundary once there are frames, or takes it DOWN with the cause; the GOOD
masks, the histogram and the estimate are taken. Signal loss, the peer's goodbye and a wrong neighbour take it DOWN, which is
counted. -/
def Obligations.LinkTrainingAndLoss : Prop :=
  ∀ (l : LinkId) (cold : Bool) (a : Attempt) (r : TrainResult) (rec : BitVec 16) (s : State), s.chip.Canonical →
    let c := s.chip
    let k := c.link l
    let idle := c.fuse.linkOn l.val = true ∧ bit k.ctl.val 1 = true ∧ k.attempt = none ∧ k.state ≠ .up ∧ k.upNext = false
    let trains := fun (i : Instr) (cold : Bool) (more : Nat) (retry : Bool) => Completes i s (fun t => (t.link l).state = .training
      ∧ (t.link l).attempt = some { cold := cold, more := more, retry := retry, phase := 1, since := c.uptime })
    let down := fun (i : Instr) (cause : BitVec 4) => Completes i s (fun t => (t.link l).state = .down ∧ (t.link l).cause = cause
      ∧ (t.link l).width = 0 ∧ (t.link l).attempt = none ∧ (t.link l).cntDown = satInc k.cntDown 1 ∧ bit (t.link l).err 7 = true)
    let lanes := min (popCount 16 r.good.toNat) (popCount 16 r.peerGood.toNat)
    let ended := Instr.linkTrainComplete l r
    (idle → trains (.linkTraining l cold) cold (if cold = true ∧ c.mbx.dstate = .bringup then 2 else 0) (c.mbx.dstate != .bringup))
    ∧ (idle → k.retrains = true → trains (.linkSignalDetect l) true 0 true)
    ∧ (idle → k.retrains = true → c.frm.valid = true → c.frm.frame % 4096 = 0 → trains (.autoRetrain l) true 0 true)
    ∧ (¬ idle → Gives (.linkTraining l cold) s c ∧ Gives (.linkSignalDetect l) s c ∧ Gives (.autoRetrain l) s c)
    ∧ (k.attempt = none → Gives ended s c)
    ∧ (k.attempt = some a → r.signal = false ∨ r.aligned = false →
      (0 < a.more → Gives ended s (c.modLink l (fun k => { k with
          state := .training, attempt := some { a with more := a.more - 1, phase := 1, since := c.uptime } })))
      ∧ (a.more = 0 → k.state ≠ .down → down ended (if a.retry = true ∧ r.signal = false then 1 else 2)))
    ∧ (k.attempt = some a → r.signal = true → r.aligned = true → k.state ≠ .down →
      (c.miswired l r.neighbour = true → down ended 4)
      ∧ (c.miswired l r.neighbour = false → widthFor lanes = 0 → down ended 3)
      ∧ (c.miswired l r.neighbour = false → widthFor lanes ≠ 0 → Completes ended s (fun t =>
          let q := t.link l
          q.attempt = none ∧ q.goodRx = r.good ∧ q.goodTx = r.peerGood ∧ q.goodSent = r.good ∧ q.peer = r.neighbour
          ∧ q.est = r.estimate ∧ q.hist = r.hist
          ∧ (c.frm.valid = true → q.upNext = true ∧ (a.phase < 4 → q.state = .qualifying))
          ∧ (c.frm.valid = false → q.state = .up ∧ q.width = widthFor lanes ∧ q.usedRx = lowestLanes r.good (widthFor lanes)
            ∧ q.txSeq = 0 ∧ q.credits = 8 ∧ bit q.err 8 = true))))
    ∧ (k.trained = true → k.state ≠ .down → down (.linkLos l) 1 ∧ down (.goodbye l) 6)
    ∧ (k.trained = false → Gives (.linkLos l) s c ∧ Gives (.goodbye l) s c)
    ∧ (k.state = .up ∨ k.state = .training ∨ k.state = .qualifying →
      (c.miswired l rec = true → down (.neighbour l rec) 4)
      ∧ (c.miswired l rec = false → Gives (.neighbour l rec) s (c.modLink l (fun k => { k with peer := rec }))))
    ∧ (k.state ≠ .up → k.state ≠ .training → k.state ≠ .qualifying → Gives (.neighbour l rec) s c)

/-- R205-R207: a lane that loses its clock, or whose error rate exceeds 10^-4 at a 1,024th frame, is dropped: the peer is
told, and both ends apply the new mask at the frame named; messages that name their boundary are all
repeated; the peer's messages are taken in the same way; a requalification
that finds the same lanes changes nothing else. A change applied at its boundary sets the mask, the width that the masks of
both directions agree on, and the lanes in use. -/
def Obligations.LaneChanges : Prop :=
  (∀ (l : LinkId) (lane : Fin 16) (errs : List (Fin 16 × Nat × Nat)) (good : BitVec 16) (lfn : BitVec 12) (r : TrainResult) (s : State),
    s.chip.Canonical →
    let c := s.chip
    let k := c.link l
    let up := k.state = .up
    let bad := ((errs.filter (fun e => decide (e.2.2 < e.2.1 * 10000))).map (·.1.val)).filter (fun i => bit k.goodSent i)
    let ch : LaneChange := { rx := false, good := good, lfn := lfn }
    let less := fun (m : BitVec 16) (i : Nat) => m &&& ~~~ (BitVec.ofNat 16 (2 ^ i))
    let drops := fun (i : Instr) (mask : BitVec 16) => Completes i s (fun t => (t.link l).goodSent = mask ∧ (t.link l).goodRx = k.goodRx
      ∧ (t.link l).width = k.width ∧ (t.link l).changes = k.changes ++ [{ rx := true, good := mask, lfn := c.changeFrame }]
      ∧ bit (t.link l).err 4 = true ∧ t.out = c.out ++ [.management l (mgmtMessage 1 mask c.changeFrame 0)]
      ∧ ({ word := mgmtMessage 1 mask c.changeFrame 0, til := some c.changeFrame, since := c.uptime } : MgmtOut) ∈ (t.link l).mgmt
      ∧ ∀ q ∈ k.mgmt, q.til.isSome = true → q.word ≠ mgmtMessage 1 mask c.changeFrame 0 → q ∈ (t.link l).mgmt)
    let told := fun (i : Instr) => Gives i s (c.modLink l (fun k =>
      { k with changes := if k.changes.contains ch then k.changes else k.changes ++ [ch] }))
    let every := c.frm.valid = true ∧ c.frm.frame % 1024 = 0
    (up → bit k.goodSent lane.val = true → drops (.laneCdrLoss l lane) (less k.goodSent lane.val))
    ∧ (¬ up ∨ bit k.goodSent lane.val = false → Gives (.laneCdrLoss l lane) s c)
    ∧ (up → every → bad ≠ [] → drops (.laneBerCheck l errs) (bad.foldl less k.goodSent))
    ∧ (¬ up ∨ ¬ every ∨ bad = [] → Gives (.laneBerCheck l errs) s c)
    ∧ (up → told (.laneDrop l good lfn) ∧ told (.laneAdd l good lfn))
    ∧ (¬ up → Gives (.laneDrop l good lfn) s c ∧ Gives (.laneAdd l good lfn) s c)
    ∧ (up → k.requal = true → k.ctl.good = k.ctl.stored → Completes (.requalDone l r) s (fun t =>
        (t.link l).requal = false ∧ bit (t.link l).ctl.val 2 = false ∧ (t.link l).width = k.width ∧ (t.link l).est = r.estimate
        ∧ (r.good = k.goodSent → (t.link l).changes = k.changes ∧ t.out = c.out)
        ∧ (r.good ≠ k.goodSent → (t.link l).goodSent = r.good
            ∧ (t.link l).changes = k.changes ++ [{ rx := true, good := r.good, lfn := c.changeFrame }]
            ∧ t.out = c.out ++ [.management l (mgmtMessage (if k.goodSent &&& ~~~ r.good = 0 then 2 else 1) r.good c.changeFrame 0)])))
    ∧ (¬ up ∨ k.requal = false → Gives (.requalDone l r) s c))
  ∧ (∀ (k : Link) (ch : LaneChange) (lfn : BitVec 16), k.changes = [ch] →
    let t := k.applyChanges lfn
    let width := widthFor (min (popCount 16 (if ch.rx then ch.good else k.goodRx).toNat) (popCount 16 (if ch.rx then k.goodTx else ch.good).toNat))
    (ch.lfn ≠ lfn.setWidth 12 → t = k)
    ∧ (ch.lfn = lfn.setWidth 12 → t.goodRx = (if ch.rx then ch.good else k.goodRx) ∧ t.goodTx = (if ch.rx then k.goodTx else ch.good)
        ∧ t.width = width ∧ t.usedRx = lowestLanes t.goodRx width ∧ t.changes = []
        ∧ (width ≠ k.width → bit t.err 6 = true ∧ t.cntWidth = satInc k.cntWidth 1)))

/-- R206, R207, R210: what the fields of LNK_CTL do when their rows write them: disabling a link tells the peer of a link that
is UP and takes it DOWN with cause HOST; enabling one starts training; a requalification begins on a link that is UP; loopback
is set only in BRINGUP; a planned width waits for its boundary once there are frames. -/
def Obligations.LinkControlCommands : Prop :=
  ∀ (l : LinkId) (w : BitVec 2) (s : State), s.chip.Canonical → s.chip.fuse.linkOn l.val = true → (s.chip.link l).ctl.held = false →
    (s.chip.link l).ctl.good = (s.chip.link l).ctl.stored →
    let c := s.chip
    let k := c.link l
    let v := k.ctl.val
    let width := 16 - 4 * w.toNat
    (bit v 1 = true → HostCompletes (.linkDisable l) s (fun t => (t.link l).state = .down ∧ (t.link l).cause = 5
        ∧ bit (t.link l).ctl.val 1 = false ∧ (t.link l).width = 0 ∧ (t.link l).upNext = false
        ∧ (k.state = .up → .management l (mgmtMessage 3 k.goodSent 0 0) ∈ t.out)
        ∧ (k.state = .down → (t.link l).cntDown = k.cntDown)))
    ∧ (bit v 1 = false → k.attempt = none → k.state ≠ .up → k.upNext = false → HostCompletes (.linkEnable l) s (fun t =>
        (t.link l).state = .training ∧ bit (t.link l).ctl.val 1 = true
        ∧ (t.link l).attempt = some { cold := true, more := 0, retry := true, phase := 1, since := c.uptime }))
    ∧ (k.state = .up → HostCompletes (.requal l) s (fun t => (t.link l).requal = true ∧ bit (t.link l).ctl.val 2 = true
        ∧ (t.link l).state = .up ∧ (t.link l).width = k.width))
    ∧ (k.state ≠ .up → HostCompletes (.requal l) s (fun t => (t.link l).requal = k.requal ∧ bit (t.link l).ctl.val 2 = k.requal))
    ∧ (c.mbx.dstate = .bringup → HostCompletes (.loopback l true) s (fun t => (t.link l).loopback = true ∧ bit (t.link l).ctl.val 0 = true))
    ∧ HostCompletes (.loopback l false) s (fun t => (t.link l).loopback = false ∧ bit (t.link l).ctl.val 0 = false)
    ∧ (c.mbx.dstate ≠ .bringup → bit v 0 = false → HostCompletes (.loopback l true) s (fun t =>
        (t.link l).loopback = false ∧ bit (t.link l).ctl.val 0 = false ∧ bit t.pkg.err cState = true))
    ∧ (bits v 6 5 ≠ w.toNat → HostCompletes (.planWidth l w) s (fun t => bits (t.link l).ctl.val 6 5 = w.toNat
        ∧ (c.frm.valid = true → (t.link l).planNext = k.planNext ++ [(width, if c.frm.tick ≤ 4080 then 1 else 2)]
            ∧ (t.link l).planWidth = k.planWidth)
        ∧ (c.frm.valid = false → (t.link l).planWidth = width)))
    ∧ (bits v 6 5 = w.toNat → HostCompletes (.planWidth l w) s (fun t => (t.link l).planNext = k.planNext ∧ (t.link l).planWidth = k.planWidth))
    ∧ (let p := k.planStep
      p.planWidth = ((k.planNext.filter (fun q => decide (q.2 ≤ 1))).map (·.1)).getLastD k.planWidth
      ∧ ∀ q, q ∈ p.planNext ↔ 1 ≤ q.2 ∧ (q.1, q.2 + 1) ∈ k.planNext)

/-- R193-R199: codewords that a link receives while it is UP are counted, the ACK of the header releases what was held, and
the MBITs join the messages of their lanes. A group is sorted by its kind: an idle one carries nothing, a data one goes to the
packets of its circuit, a control one near its window is accepted in the order of CSEQ; any other is misplaced, counted, and
dropped with its header. In loopback (R210) nothing comes from outside. With a
codeword lost, what a data window may have lost is charged, and near a control window a NAK is due, which leaves with the next
group. A NAK asks for the codewords held; they are sent again in the next window, ahead of new ones; a third request, or one
for a codeword no longer held, takes the link DOWN with cause REPLAY. -/
def Obligations.CodewordsAndReplay : Prop :=
  (∀ (l : LinkId) (g0 : List Codeword) (s : State),
    let c := s.chip
    let k := c.link l
    let g := g0.map wholeCodeword
    let near := nearControl c.frm.tick = true
    let used := k.usedGroup g
    let good := used.filterMap id
    let absent := (onesOf 16 k.usedRx.toNat).filter (fun i => g.all (fun w => w.lane.val != i))
    let heard := g.filter (fun w => (Codeword.fixed w).isSome && (tget LaneStat.zero k.lanes w.lane.val).cdr)
    let wrong := fun (w : Codeword) => w.kind = 3 ∨ (w.kind = 2 ∧ ¬ near)
    let off := heard.countP (fun w => decide (wrong w))
    let taken := heard.filter (fun w => !decide (wrong w))
    let all := absent.foldl (fun c i => c.countLost l i) (g.foldl (fun c w => c.countCodeword l w) c)
    let base := all.modLink l (fun k => if off = 0 then k else { k with cntMisplaced := satInc k.cntMisplaced off })
    let counted := taken.foldl (fun c w => c.mgmtBit l w) (match taken.head? with
      | none => base
      | some w => base.takeHeader l w)
    let settle := fun (t : Chip) => if (t.link l).state = .up ∧ (t.link l).nakDue = true then t.sendGroup l 0 0 [] else t
    let lossy := if near then counted.modLink l (fun k => { k with nakDue := true }) else counted
    let i := Instr.codewordReceive l g0
    (k.state ≠ .up ∨ c.looped l = true → Gives i s c)
    ∧ (k.state = .up → c.looped l = false → (∀ w ∈ used, w.isSome = true) → ∀ v rest, good = v :: rest →
      (v.kind = 0 ∨ wrong v → Gives i s (settle counted))
      ∧ (v.kind = 1 → Gives i s (settle (counted.takeData l used)))
      ∧ (v.kind = 2 → near → Gives i s (settle (counted.modLink l (fun k => k.takeControls good)))))
    ∧ (k.state = .up → c.looped l = false → none ∈ used →
      (∀ v rest, good = v :: rest → v.kind = 1 → Gives i s (settle ((lossy.loseData l).takeData l used)))
      ∧ (∀ v rest, good = v :: rest → v.kind = 2 → near → Gives i s (settle (lossy.modLink l (fun k => k.takeControls good))))
      ∧ (∀ v rest, good = v :: rest → v.kind = 0 ∨ wrong v → Gives i s (settle lossy))
      ∧ (good = [] → c.rxWindows l c.frm.tick = [] → Gives i s (settle (lossy.loseData l)))
      ∧ (good = [] → c.rxWindows l c.frm.tick ≠ [] → Gives i s (settle ((lossy.loseData l).takeData l used)))))
  ∧ (∀ (k : Link) (g : List Codeword), k.width = g.length → 0 < g.length → g.length ≤ 16 → k.rxSeen = [] → k.rxSeq + 1 = k.rxBase →
      k.nakDue = false → (∀ j w, g[j]? = some w → w.cseq = k.rxBase + BitVec.ofNat 8 j) →
      let t := k.takeControls g
      t.rxBase = k.rxBase + BitVec.ofNat 8 g.length ∧ t.rxSeq + 1 = t.rxBase ∧ t.rxSeen = [] ∧ t.nakDue = false
      ∧ t.rxReady = k.rxReady ++ (sortFlits k.ctlPart (groupFlits (g.map (·.flits))) []).2)
  ∧ (∀ (c : Chip) (l : LinkId) (a : Byte), c.Canonical →
      let k := c.link l
      let owed := (k.txSeq - 1 - a).toNat
      let t := (c.takeNak l a).link l
      (k.acked a).held = k.held.filter (fun h => 128 ≤ (a - h.cseq).toNat)
      ∧ (owed ≤ k.held.length → (∀ h ∈ k.held, h.asked < 1) → 0 < owed →
          t.resend = true ∧ t.resent = 0 ∧ t.held = k.held.map (fun h => { h with asked := h.asked + 1 }) ∧ t.state = k.state)
      ∧ (k.held.length < owed ∨ (∃ h ∈ k.held, 2 ≤ h.asked) → t.state = .down ∧ t.cause = 7 ∧ bit t.err 3 = true))
  ∧ (∀ (l : LinkId) (s : State), s.chip.Canonical →
      let c := s.chip
      let k := c.link l
      let gs := k.replayGroups c.uptime (c.ctlGroups l)
      let n := min k.held.length (k.resent + gs.length * k.width)
      let due := k.state = .up ∧ k.resend = true ∧ c.frm.inWindow = true ∧ ∀ w, k.nakWin = some w → w < c.frm.window
      (due → Completes (.controlReplay l) s (fun t => t.out = c.out ++ gs.map (Out.group l) ∧ (t.link l).held = k.held
          ∧ (t.link l).resend = decide (n < k.held.length) ∧ (t.link l).resent = (if n < k.held.length then n else 0)
          ∧ (t.link l).cntReplay = satInc k.cntReplay (n - k.resent) ∧ (k.resent < n → bit (t.link l).err 2 = true)))
      ∧ (¬ due → Gives (.controlReplay l) s c))

/-- R154, R217, R219, R221, R222, R230, R237: a circuit packet that a link receives while it is UP leaves the queue of packets
received and passes the checks in order: no entry, or the wrong link or direction, an orphan; a tombstoned entry, late;
outside the windows of its circuit, WINDOW; the circuits that pass through are forwarded; what ends here is dropped on a wrong
PCRC, which is charged, or a wrong context, and is else delivered, served, or given to the request it answers. A DATA packet's
granules arrive at its core; a request that R154 allows reads or writes its lines and is answered, another is counted and
answered poisoned; a response's granules arrive at the core that asked, and complete its move. -/
def Obligations.CircuitPackets : Prop :=
  (∀ (l : LinkId) (p0 : Packet) (ups : Upsets) (s : State),
    let p := wholePacket p0
    let c := s.chip.modLink l (fun k => { k with rxReady := k.rxReady.erase { p with refused := false } })
    let e := c.circ p.circuit
    let x : CtxId := Fin.ofNat 16 (circCtx e)
    let fate := c.circuitFate l p
    let all := fun (t : Chip) => (p.ptype = 1 → Gives (.data l p0) s t) ∧ (p.ptype = 2 → Gives (.rdReq l p0 ups) s t)
      ∧ (p.ptype = 3 → Gives (.rdResp l p0) s t) ∧ (p.ptype = 4 → Gives (.wr l p0) s t) ∧ (p.ptype = 5 → Gives (.wrAck l p0) s t)
    let up := (s.chip.link l).state = .up
    let here := up ∧ fate = .arrived ∧ p.pcrcOk = true ∧ p.cx = x
    let lines := (List.range (min 16 p.val)).map (fun i => p.maddr / 64 * 64 + 64 * i)
    let read := lines.foldl (fun (r : List Granule × Chip) a =>
      (r.1 ++ [(r.2.readLine (c.lineAt a) ups false).1], (r.2.readLine (c.lineAt a) ups false).2)) ([], c)
    let n := p.flits.length
    let core : CoreId := Fin.ofNat 2448 p.dcore
    (¬ up → all s.chip)
    ∧ (p.circuit = 0 ∨ circValid e = false → fate = .orphan)
    ∧ (up → fate = .orphan → all (c.modRte (fun r => r.orphan p)))
    ∧ (up → fate ≠ .orphan → circTomb e = true → fate = .late ∧ all (c.modRte (fun r => r.late 0 p)))
    ∧ (up → fate = .outside → all (c.modRte (fun r => r.outside p)))
    ∧ (∀ o, up → fate = .forward o → circRole e = 1 ∧ all (c.forward p o))
    ∧ (up → fate = .arrived → p.pcrcOk = false → all (((c.modRte Rte.pcrcDrop).modLink l (fun k => k.raise 1)).charge x c.resultFrame 4))
    ∧ (up → fate = .arrived → p.pcrcOk = true → p.cx ≠ x → all (c.modRte (fun r => r.orphan p)))
    ∧ (here → p.ptype = 1 → (c.dataOk p = true → c.flt.rphase = 0 → Gives (.data l p0) s
          ((p.granules.zip (List.range n)).foldl (fun c g => c.granuleAt core (some x) p.gen (p.daddr + 64 * g.2) p.dctr g.1)
            ((c.readsCircuit core x).sumInbound x p)))
        ∧ (c.dataOk p = true → c.flt.rphase ≠ 0 → Gives (.data l p0) s (c.modRte Rte.resetDrop))
        ∧ (c.dataOk p = false → Gives (.data l p0) s (c.modRte (fun r => r.orphan p))))
    ∧ (here → p.ptype = 2 → (c.remoteAllowed p lines.length = true → Gives (.rdReq l p0 ups) s
          (read.2.respond p 3 0 (pmaskOf read.1) (read.1.map (·.data))))
        ∧ (c.remoteAllowed p lines.length = false → ∃ free : List (List Byte), free.length = lines.length ∧ Gives (.rdReq l p0 ups) s
            ({ c.countRefused p with freeCount := c.freeCount + 64 * lines.length }.respond p 3 0 (2 ^ lines.length - 1) free true)))
    ∧ (here → p.ptype = 4 → (c.remoteAllowed p n = true → Gives (.wr l p0) s
          (((((List.range n).map (fun i => p.maddr / 64 * 64 + 64 * i)).zip p.granules).foldl (fun t q =>
            t.writeLine (some p.cx) (c.lineAt q.1) q.2.data q.2.poison) c).respond p 5 n 0 []))
        ∧ (c.remoteAllowed p n = false → Gives (.wr l p0) s ((c.countRefused p).respond p 5 n (2 ^ n - 1) [])))
    ∧ (here → p.ptype = 3 → (c.flt.rphase = 0 → p.refused = false → Gives (.rdResp l p0) s
          ((p.granules.zip (List.range n)).foldl (fun c g =>
            (c.modCore core (fun k => k.remoteDone 0 p.dctr (p.daddr + 64 * g.2))).granuleAt core (some p.cx) p.gen (p.daddr + 64 * g.2)
              p.dctr g.1) (c.readsCircuit core p.cx)))
        ∧ (c.flt.rphase ≠ 0 → Gives (.rdResp l p0) s (c.modRte Rte.resetDrop)))
    ∧ (here → p.ptype = 5 → (c.flt.rphase = 0 → p.pmask = 0 → Gives (.wrAck l p0) s
          (((List.range p.val).foldl (fun c i => c.modCore core (fun k => k.remoteDone 1 p.dctr (p.daddr + 64 * i))) c).ackAt core
            (some p.cx) p.gen p.dctr p.val))
        ∧ (c.flt.rphase ≠ 0 → Gives (.wrAck l p0) s (c.modRte Rte.resetDrop))))
  ∧ (∀ (c : Chip) (p : Packet) (ptype val pmask : Nat) (flits : List (List Byte)) (refused : Bool),
      let seq := tget 0 c.rte.respSeq p.circuit
      let t := c.respond p ptype val pmask flits refused
      t.rte.respSeq = tset 0 c.rte.respSeq p.circuit (seq + 1) ∧ t.mem = c.mem ∧ t.cores = c.cores)
  ∧ (∀ (k : Core) (kind ctr addr i : Nat) (f : Flight), k.flights = [f] → f.desc.kind = kind → f.desc.dctr = ctr →
      f.desc.laddr ≤ addr → addr < f.desc.laddr + 64 * f.desc.len → i = (addr - f.desc.laddr) / 64 → i ∉ f.done →
      k.remoteDone kind ctr addr = k.flightDone 0 i)

/-- R198, R217, R225, R226, R231, R237, R249: a message for this package passes the window of its origin once: what has been
seen is counted and dropped; an arrival reaches its unit, or is an orphan where no unit serves the number; digest records and
loss notices reach the active Ibex. One for another package waits in its input's buffers, but on links 4 and 5 breaks the turn
rule. A CREDIT packet returns credits, at most 8. A wrong PCRC drops any of them that ends here. -/
def Obligations.MessagesOnceAndCredits : Prop :=
  (∀ (l : LinkId) (p0 : Packet) (d : Dedup) (s : State),
    let p := wholePacket p0
    let c := s.chip.modLink l (fun k => { k with rxReady := k.rxReady.erase { p with refused := false } })
    let up := (s.chip.link l).state = .up
    let mine := p.dst = c.pkgNo ∧ p.drack = c.rack
    let judged := (tget Dedup.zero c.rte.dedup p.src).judge p.epoch p.seq.toNat
    let t := c.modRte (fun r => { r with dedup := tset Dedup.zero r.dedup p.src d })
    let word : Dword := BitVec.ofNat 64 (leAt (p.flits.headD []) 0 8)
    let all := fun (u : Chip) => (p.ptype = 6 → Gives (.arrivePacket l p0) s u)
      ∧ (p.ptype = 7 → p.val = 1 → Gives (.digest l p0) s u) ∧ (p.ptype = 7 → p.val = 2 → Gives (.loss l p0) s u)
    let ends := fun (u : Chip) => all (u.modLink l (fun k => { k with freed := k.freed + 1 }))
    let taken := fun (u : Chip) =>
      (p.ptype = 6 → c.flt.rphase = 0 → c.destServed p.dcore = true →
        Gives (.arrivePacket l p0) s ((u.arriveAt p.dcore p.cx p.gen p.dctr p.val).freeBuffer l))
      ∧ (p.ptype = 6 → c.flt.rphase = 0 → c.destServed p.dcore = false →
          Gives (.arrivePacket l p0) s ((u.modRte (fun r => r.orphan p)).freeBuffer l))
      ∧ (p.ptype = 6 → c.flt.rphase ≠ 0 → Gives (.arrivePacket l p0) s ((u.modRte Rte.resetDrop).freeBuffer l))
      ∧ (p.ptype = 7 → p.val = 1 → c.mbx.fwRun = true →
          Gives (.digest l p0) s ((u.recordsIn p.cx p.job p.lfn (digestRecords p)).freeBuffer l))
      ∧ (p.ptype = 7 → p.val = 2 → c.mbx.fwRun = true → Gives (.loss l p0) s ((u.chargeLoss word).freeBuffer l))
    (¬ up → all s.chip ∧ (p.ptype = 15 → Gives (.credit l p0) s s.chip))
    ∧ (up → mine → p.pcrcOk = false → ends (c.modRte Rte.pcrcDrop))
    ∧ (up → mine → p.pcrcOk = true → p.srack = c.rack →
      (judged = .duplicate → ends (c.modRte (fun r => { r with cntDup := satInc r.cntDup 1 }.raise 3)))
      ∧ (judged = .stale → ends (c.modRte (fun r => r.late 3 p)))
      ∧ (judged = .fresh d → taken t))
    ∧ (up → mine → p.pcrcOk = true → p.srack ≠ c.rack → taken c)
    ∧ (up → ¬ mine → l.val < 4 → all (c.modLink l (fun k => { k with transit := k.transit ++ [{ pkt := p, inLink := some l }] })))
    ∧ (up → ¬ mine → 4 ≤ l.val → ends (c.modRte Rte.turnDrop))
    ∧ (up → p.ptype = 15 → p.pcrcOk = true →
        Gives (.credit l p0) s (c.modLink l (fun k => { k with credits := min 8 (k.credits + p.val) })))
    ∧ (up → p.ptype = 15 → p.pcrcOk = false → Gives (.credit l p0) s (c.modRte Rte.pcrcDrop)))
  ∧ (∀ (c : Chip) (w : Dword),
      let e := c.circ (bits w 15 0)
      let bound := circValid e = true ∧ circTomb e = false ∧ circRole e ≠ 1
      (bound → c.chargeLoss w = c.charge (Fin.ofNat 16 (circCtx e)) (BitVec.ofNat 16 (bits w 31 16)) 4)
      ∧ (¬ bound → c.chargeLoss w = c))
  ∧ (∀ (d0 d : Dedup) (epoch : Byte) (seq : Nat), d0.judge epoch seq = .fresh d → d.judge epoch seq = .duplicate)

/-- R179, R222, R224-R227, R230, R232, R233, R235: a forwarded packet leaves in its window with one hop less, where it still
fits, or is dropped with a loss notice; in a control-class window the draining bits take effect and messages go out, each on
the link its route entry names that is UP and not draining, for the credits it needs; a draining link with nothing outstanding
is drained; a tombstone that is four boundaries old gives way to what the active plan binds, whose flows start at SEQ 0. -/
def Obligations.RoutingSends : Prop :=
  (∀ (die : Fin 2) (i : Nat) (s : State), (s.chip.rte.fwd die.val)[i]? = none → Gives (.forwardSend die i) s s.chip)
  ∧ (∀ (die : Fin 2) (i : Nat) (f : Forwarded) (s : State), (s.chip.rte.fwd die.val)[i]? = some f →
    let c := s.chip
    let c1 := c.modRte (fun r => r.setFwd die.val (dropAt (r.fwd die.val) i))
    let now := c.frm.absTick
    let carries := (c.link f.out).state = .up ∧ (c.link f.out).short = false
    let dropped := Gives (.forwardSend die i) s (c1.forwardDrop f)
    let fs := (c.link f.out).txPart ++ (decHops f.pkt).line
    (c.nextTx f.out f.pkt.circuit f.since = none → dropped)
    ∧ (∀ w : Nat × Nat, c.nextTx f.out f.pkt.circuit f.since = some w →
      (now < w.1 → Gives (.forwardSend die i) s c)
      ∧ (w.1 ≤ now → w.2 < now ∨ ¬ carries ∨ c.txWindow f.out c.frm.tick = none → dropped)
      ∧ (∀ e : PlanEntry, c.txWindow f.out c.frm.tick = some e → w.1 ≤ now → now ≤ w.2 → carries →
        (c.txRoom f.out e < f.pkt.line.length → dropped)
        ∧ (f.pkt.line.length ≤ c.txRoom f.out e → packetHops f.pkt = 0 →
            Gives (.forwardSend die i) s (c1.modRte (fun r => { r with cntTtl := satInc r.cntTtl 1 }.raise 4)))
        ∧ (f.pkt.line.length ≤ c.txRoom f.out e → packetHops f.pkt ≠ 0 →
            Gives (.forwardSend die i) s (c1.sendPackets f.out e [decHops f.pkt]))
        ∧ (f.pkt.line.length ≤ c.txRoom f.out e → packetHops f.pkt ≠ 0 → fs.length < 10 * (c.link f.out).width →
            Gives (.forwardSend die i) s ((c1.emit (.packet f.out false (decHops f.pkt))).modLink f.out (fun k => { k with
              txWin := some (c.frm.frame * 4096 + e.start), txUsed := c.txNext f.out e, txPart := fs }))))))
  ∧ (∀ s : State,
    let c := s.chip
    let c1 := allLinks.foldl (fun c l => (c.modLink l (fun k => { k with draining := bit c.rte.ctl.val l.val })).replay l) c
    let c2 := (allLinks.foldl Chip.sendTransit c1).openWindow
    let quiet := ∀ l, (c.link l).transit = [] ∧ (c.link l).freed = 0 ∧ (c.link l).ctlOut = [] ∧ (c.link l).resend = false
    (c.frm.inWindow = true → Gives .controlWindowOpen s (allLinks.foldl (fun c l => (c.sendCredit l).sendControl l) c2))
    ∧ (s.chip.Canonical → c.frm.inWindow = true → c.rte.opened = some c.frm.window → quiet → Completes .controlWindowOpen s (fun t =>
        t.rte = c.rte ∧ t.out = c.out ∧ ∀ l, (t.link l).draining = bit c.rte.ctl.val l.val ∧ (t.link l).held = (c.link l).held))
    ∧ (c.frm.inWindow = false → Gives .controlWindowOpen s c))
  ∧ (∀ (c : Chip) (q : QPacket) (o : LinkId),
    (c.way q.pkt.dst q.pkt.drack = .link o → (c.link o).state = .up ∧ (c.link o).draining = false)
    ∧ (q.pkt.drack = c.rack → q.pkt.dst = c.pkgNo → c.way q.pkt.dst q.pkt.drack = .unreach)
    ∧ (c.way q.pkt.dst q.pkt.drack = .link o → q.inLink = none → packetHops q.pkt ≠ 0 → creditsFor none o ≤ (c.link o).credits →
      q.pkt.line.length ≤ c.ctlRoom o →
      let p := decHops (restamp q.pkt 12 (leBytes 3 c.rte.msgSeq.toNat ++ [c.rte.epoch]))
      c.trySend q = (((c.modRte (fun r => { r with msgSeq := r.msgSeq + 1 })).modLink o (fun k =>
        { k with credits := k.credits - 1, ctlOut := k.ctlOut ++ p.line })).emit (.packet o true p), false))
    ∧ (c.way q.pkt.dst q.pkt.drack = .hold → c.trySend q = (c, true))
    ∧ (c.way q.pkt.dst q.pkt.drack = .unreach →
        c.trySend q = (c.modRte (fun r => { r with cntUnreach := satInc r.cntUnreach 1 }.raise 6), false)))
  ∧ (∀ (c : Chip) (l : LinkId),
    let k := c.link l
    let p := decHops (c.packet { ptype := 15, dst := 0, srack := c.rack, drack := c.rack, val := k.freed } [])
    let t := c.sendCredit l
    (k.state ≠ .up ∨ k.freed = 0 ∨ c.ctlRoom l = 0 → t = c)
    ∧ (c.Canonical → k.state = .up → k.freed ≠ 0 → c.ctlRoom l ≠ 0 →
        t.link l = { k with freed := 0, ctlOut := k.ctlOut ++ p.line } ∧ t.out = c.out ++ [.packet l true p]))
  ∧ (∀ (l : LinkId) (circuit : BitVec 16) (s : State), s.chip.Canonical →
    let c := s.chip
    let i := circuit.toNat
    let bound := (c.plan.active.map (fun a => tget 0 a.circs i)).getD 0
    ((c.link l).isDrained = true → Gives (.linkDrained l) s (c.setLink l { c.link l with drained := true }))
    ∧ ((c.link l).isDrained = false → Gives (.linkDrained l) s c)
    ∧ ((c.link l).isDrained = true ↔ (c.link l).state = .down ∨ ((c.link l).draining = true ∧ (c.link l).held = []
        ∧ (c.link l).resend = false ∧ (c.link l).ctlOut = []))
    ∧ (circTomb (c.circ i) = true → 4 ≤ tget 0 c.plan.tombAge i → Completes (.tombExpire circuit) s (fun t =>
        t.plan = { c.plan with circ := tset 0 c.plan.circ i bound, tombAge := tset 0 c.plan.tombAge i 0 }
        ∧ t.links = c.links ∧ t.img = c.img
        ∧ (twf 0 c.plan.circ = true → circBound bound = true →
            (∀ q ∈ t.rte.respSeq, q.1 ≠ i) ∧ ∀ q ∈ t.rte.flowSeq, q.1 % 65536 ≠ i)
        ∧ (twf 0 c.rte.rmem = true →
            ∀ (x : CtxId) (p : Fin 4), tget 0 t.rte.rmem (4 * x.val + p.val) = BitVec.ofNat 16 (t.rmemOf x p.val))))
    ∧ (circTomb (c.circ i) = false ∨ tget 0 c.plan.tombAge i < 4 → Completes (.tombExpire circuit) s (fun t =>
        t.plan = c.plan ∧ t.rte.respSeq = c.rte.respSeq ∧ t.rte.flowSeq = c.rte.flowSeq)))

/-- R270, R282, R291, Table 10-5: a query that is served is taken and answered at once, in the slot, with its refusal or its
response; the slot is DONE with the status, the length and the bytes of the response. -/
def Obligations.QueriesAnswerAtOnce : Prop :=
  (∀ (n : SlotId) (s : State),
    let c := s.chip
    let r := c.slotRequest n
    let answers := fun (i : Instr) (v : Bool) (o : Op) =>
      let t := c.markTaken n o.pages
      let a := t.query o r
      let u := { t with pkg := { t.pkg with reportBox := a.report } }
      Served c n v o →
        (∀ q, t.checkHeader o r = some q → Gives i s (t.slotDone r.cmd q.1 (BitVec.ofNat 32 q.2) 0 0 []))
        ∧ (∀ q, t.checkHeader o r = none → a.refusal = some q → Gives i s (u.slotDone r.cmd q.1 (BitVec.ofNat 32 q.2) 0 0 []))
        ∧ (t.checkHeader o r = none → a.refusal = none → Gives i s (u.slotDone r.cmd stOk 0 0 0 a.resp))
    answers (.getInfo n) false .getInfo ∧ answers (.getState n) false .getState ∧ answers (.readFaultMap n) false .readFaultMap
    ∧ answers (.readDossier n) false .readDossier ∧ answers (.readDefects n) false .readDefects ∧ answers (.attest n) false .attest
    ∧ answers (.stageRead n) false .stageRead ∧ answers (.planStatus n) false .planStatus ∧ answers (.ctxStatus n) false .ctxStatus
    ∧ answers (.stepStatus n) false .stepStatus ∧ answers (.uci1Info n) true .getInfo ∧ answers (.stepState n) true .stepStatus
    ∧ answers (.faults n) true .readFaultMap)
  ∧ (∀ (c : Chip) (cmd : Cmd) (status : BitVec 16) (detail arg ctag : Word) (resp : List Byte), memWf c.mbx.store = true →
    let t := c.slotDone cmd status detail arg ctag resp
    let at_ := fun (o n : Nat) => rdBytes t.mbx.store (slotBase cmd.slot + o) n
    at_ 0 1 = [3]
    ∧ (cmd.ver1 = false → resp.length ≤ 4064 → at_ 12 2 = leBytes 2 status.toNat ∧ at_ 14 2 = leBytes 2 resp.length
        ∧ at_ 16 4 = leBytes 4 detail.toNat ∧ at_ 20 4 = leBytes 4 ctag.toNat ∧ at_ 32 resp.length = resp)
    ∧ (∀ x, x < slotBase cmd.slot ∨ slotBase cmd.slot + 4096 ≤ x → rdByte t.mbx.store x = rdByte c.mbx.store x))

/-- R269, R270, R294: an S command that is served is taken with a completion tag; it is checked at once, and waits for the
standby to acknowledge its intent; with no standby in step, or when the intent is acknowledged, it is carried out: ACCEPTED
where the table says so, then its effect, or the refusal in its slot. -/
def Obligations.StateCommandsWaitForTheirIntent : Prop :=
  (∀ (n : SlotId) (s : State),
    let c := s.chip
    let r := c.slotRequest n
    let submits := fun (i : Instr) (v : Bool) (o : Op) =>
      let refusal : Refused := (c.markTaken n o.pages).checkS o r
      let intent : Intent := { cmd := r.cmd, payload := r.payload, digest := shake24 r.payload
                               writes := if refusal.isSome then [] else o.writes, refusal := refusal, frame := c.frm.frame }
      let t := { c.takenS n o with freeCount := c.freeCount + b2n (o == Op.ctxCreate && refusal.any (fun (q : BitVec 16 × Nat) => q.1 == stRetry)) }
      Served c n v o →
        (c.mbx.synced = true → Gives i s { t with mbx := { t.mbx with waitAck := some intent } })
        ∧ (refusal = none → c.mbx.synced = false →
            Gives i s ((if o.accepts && !t.heldAlready o r then t.accept r.cmd else t).doOp o r))
        ∧ (∀ q, refusal = some q → c.mbx.synced = false → Gives i s (t.slotDone r.cmd q.1 (BitVec.ofNat 32 q.2) 0 0 []))
    submits (.setCap n) false .setCap ∧ submits (.computeReset n) false .computeReset ∧ submits (.fwStage n) false .fwStage
    ∧ submits (.fwActivate n) false .fwActivate ∧ submits (.stageWrite n) false .stageWrite ∧ submits (.planLoad n) false .planLoad
    ∧ submits (.planCancel n) false .planCancel ∧ submits (.ctxCreate n) false .ctxCreate ∧ submits (.ctxTeardown n) false .ctxTeardown
    ∧ submits (.ctxReset n) false .ctxReset ∧ submits (.ctxHold n) false .ctxHold ∧ submits (.ctxResume n) false .ctxResume
    ∧ submits (.checkLoad n) false .checkLoad ∧ submits (.stepDefine n) false .stepDefine ∧ submits (.stepRun n) false .stepRun
    ∧ submits (.progLoad n) false .progLoad ∧ submits (.uci1Stage n) true .stageWrite ∧ submits (.uci1Plan n) true .planLoad
    ∧ submits (.openJob n) true .ctxCreate ∧ submits (.closeJob n) true .ctxTeardown ∧ submits (.resetJob n) true .ctxReset
    ∧ submits (.uci1Run n) true .stepRun ∧ submits (.uci1Replay n) true .replay)
  ∧ (∀ (n : SlotId) (s : State), (∀ i, s.chip.mbx.waitAck = some i → i.cmd.slot ≠ n) → Gives (.intentAck n) s s.chip)
  ∧ (∀ (i : Intent) (s : State), s.chip.mbx.waitAck = some i →
    let c := s.chip
    let j : Intent := { i with frame := c.frm.frame }
    Gives (.intentAck i.cmd.slot) s ({ c with mbx := { c.mbx with waitAck := none, intents := c.mbx.intents ++ [j] } }.carryOut j))

/-- R176, R247, R290, R299-R309, R324, R363, R408: what the S commands change once they have passed their checks: the cap, a
compute-domain reset, the staging buffer, the plan, and of the context its state, its commands waiting for a boundary, its
runs, templates, program loads, check table and replay; the firmware slots and the session of FW_STAGE; the reset of
FW_ACTIVATE. A HOLD of a context that is held completes once no move of it is in flight (R287). -/
def Obligations.StateCommandsTakeEffect : Prop :=
  ∀ (c : Chip) (r : Req),
    let x := r.x
    let k := c.ctx x
    let has := fun (t : Chip) (k : Ctx) => t.ctx x = k
    (c.doSetCap r).pwr.setCap = r.u 0 4
    ∧ (c.mbx.dstate.inService = true → c.flt.resetDue = false → c.flt.rphase = 0 → c.flt.resetPending = false → c.flt.rdomain ≠ 5 →
        c.flt.rdomain ≠ 4 →
        (c.doComputeReset r).flt.resetDue = true ∧ (c.doComputeReset r).flt.reason = 4)
    ∧ (c.doStageWrite r).img.staging = wrBytes c.img.staging (r.u 0 4) (slice r.payload 8 (r.len - 8))
    ∧ (∃ p, (c.doPlanLoad r).plan = { c.plan with pending := some p } ∧ p.actLfn = BitVec.ofNat 16 (leAt (c.stagedBytes (r.range 0)) 0 2)
        ∧ p.entries = (planEntries (c.stagedBytes (r.range 0))).map (·.2))
    ∧ (c.doPlanCancel r).plan = { c.plan with pending := none }
    ∧ has (c.doCreate r) (r.context c.now)
    ∧ (k.state = .held → c.inFlight x = false →
        ∃ t : Chip, c.doHold r = t.finish r.cmd false stOk 0 0 [] ∧ t.ctx x = { k with held := k.held ||| holdBit 0 })
    ∧ (k.state = .held → c.inFlight x = true → has (c.doHold r) { k with
        held := k.held ||| holdBit 0
        unpaid := k.unpaid ++ [{ cmd := r.cmd, ring := false, boundary := false, frame := c.frm.frame, status := stOk
                                 detail := 0, arg := 0, resp := [] }] })
    ∧ (k.state = .loaded ∨ k.state = .running → has (c.doHold r) { k with holdNext := k.holdNext ||| holdBit 0, holdCmds := k.holdCmds ++ [r.cmd] })
    ∧ has (c.doCtxReset r) { k with resetCmds := k.resetCmds ++ [r.cmd] }
    ∧ (k.state ≠ .resetting → (c.doTeardown r).ctx x = { k with
        teardownCmds := k.teardownCmds ++ [r.cmd], state := .tearingDown, tchange := if k.state = .tearingDown then k.tchange else c.now })
    ∧ (k.state = .resetting → (c.doTeardown r).ctx x = { k with teardownCmds := k.teardownCmds ++ [r.cmd] })
    ∧ (k.state = .held → ∃ t : Chip, c.doResume r = t.finish r.cmd false stOk 0 0 [] ∧ (t.ctx x).held = 0 ∧ (t.ctx x).loads = (if k.resetSince then k.loadList else k.loads)
        ∧ (t.ctx x).state = (if k.runs.isEmpty then .loaded else .running)
        ∧ (t.ctx x).runs = k.runs.map (fun q => { q.remember with at_ := BitVec.ofNat 16 (r.u 0 4) }))
    ∧ (k.state = .loaded ∨ k.state = .running → ∃ q : Run, (c.doRun r).ctx x = { k with
        state := .running, tchange := if k.state = .running then k.tchange else c.now, runs := k.runs ++ [q]
        statuses := k.statuses.filter (fun e => !inSteps e.step q.base 0 q.count) } ∧ q.template.toNat = r.u 0 1 % 256 ∧ q.base.toNat = r.u 4 4 % 2 ^ 32 ∧ q.count = r.u 8 4 ∧ q.interval = r.u 12 2
        ∧ q.at_ = BitVec.ofNat 16 (r.u 14 2) ∧ q.cmd = r.cmd)
    ∧ (k.state ≠ .none → has (c.doDefine r)
        { k with templates := tset [] k.templates (r.u 0 1) (templateUnits (c.stagedBytes (r.range 4))) })
    ∧ (k.loadCmd = none → has (c.doProgLoad r) { k with
        loadList := loadEntries (c.stagedBytes (r.range 0)), loads := loadEntries (c.stagedBytes (r.range 0)), loadCmd := some r.cmd
        needReload := false, resetSince := false })
    ∧ (∀ first : Cmd, k.loadCmd = some first → ((c.doProgLoad r).ctx x).loadsFirst = k.loadsFirst ++ [(first, k.loads)])
    ∧ (r.u 4 4 ≠ 0 → ∃ t : CheckTable, has (c.doCheckLoad r) { k with check := some t }
        ∧ (t.check = true ↔ leAt (c.stagedBytes (r.range 0)) 0 1 = 1) ∧ t.groups = tableGroups (c.stagedBytes (r.range 0))
        ∧ t.replay = tableReplay (c.stagedBytes (r.range 0)))
    ∧ (∀ o, (c.digCtx x).keptOf (BitVec.ofNat 32 (r.u 0 4)) = some o → ∃ q : Run, has (c.doReplay r) { k with replay := some q }
        ∧ q.template = o.template ∧ q.base.toNat = r.u 0 4 % 2 ^ 32 ∧ q.count = 1 ∧ q.at_ = c.frm.lfn + 1 ∧ q.cmd = r.cmd)
    ∧ (r.u 0 4 ≠ 0 → r.u 0 4 + (r.len - 16) < r.u 4 4 → ∃ t : Chip, c.doStageFw r = t.finish r.cmd false stOk 0 0 []
        ∧ t.nor.inactive = { bytes := wrBytes c.nor.inactive.bytes (r.u 0 4) (slice r.payload 16 (r.len - 16)), size := r.u 4 4
                             staged := false, factory := false }
        ∧ t.pkg.session.isSome = true)
    ∧ (c.pkg.fwResult ≠ 1 → c.flt.resetPending = false → c.flt.rdomain ≠ 5 → c.canActivate = true →
        (c.doActivate r).flt.resetPending = true ∧ (c.doActivate r).pkg.fwResult = 1 ∧ (c.doActivate r).nor.active1 = !c.nor.active1)

/-- R268, R279-R281, R286, R390, R391: a host write of a slot that the host owns puts its bytes there, and posts it with STATE
1 or takes it back with STATE 0, bytes without their byte enable staying; one of a POSTED or TAKEN slot is discarded, counted and recorded; the ring and the reserved
space discard writes; a write longer than a TLP's payload or past the end of BAR2 is an Unsupported Request. The first held
completion is written to the ring as soon as there is room, at the tail, which moves by one entry. -/
def Obligations.SlotPostsAndTheRing : Prop :=
  (∀ (n : SlotId) (w : Nat) (data : List (Option Byte)) (s : State), 1 ≤ data.length → data.length ≤ s.chip.pkg.maxPayload →
    w + data.length ≤ 4096 →
    let c := s.chip
    let st := (c.mbx.slotState n).toNat
    let off : BitVec 20 := BitVec.ofNat 20 (slotBase n + w)
    let v : Option Nat := if w = 0 then (data.headD none).map (fun b => b.toNat) else none
    let m := c.mbx
    let stored := { m with store := wrEnabled m.store (slotBase n + w) data }
    let post := Instr.slotPost off data
    (st = 1 ∨ st = 2 → HostGives post s ({ c with mbx := { m with cntOwned := satInc m.cntOwned 1 } }.mbxErr 0))
    ∧ (st ≠ 1 → st ≠ 2 → v = some 1 → HostGives post s { c with mbx := { stored with posted := m.posted ++ [(n, c.frm.frame)] } })
    ∧ (st ≠ 1 → st ≠ 2 → v = none ∨ v = some 0 ∨ (v = some 3 ∧ st = 3) → HostGives post s { c with mbx := stored })
    ∧ (∀ b, st ≠ 1 → st ≠ 2 → v = some b → b ≠ 0 → b ≠ 1 → ¬ (b = 3 ∧ st = 3) → HostGives post s c))
  ∧ (∀ (m : Mem) (a x : Nat) (data : List (Option Byte)), memWf m = true → rdByte (wrEnabled m a data) x
      = if a ≤ x ∧ x < a + data.length then (data.getD (x - a) none).getD (rdByte m x) else rdByte m x)
  ∧ (∀ (off : BitVec 20) (data : List (Option Byte)) (s : State),
    let room := data.length ≤ s.chip.pkg.maxPayload ∧ off.toNat + data.length ≤ 1048576
    (¬ room → HostGives (.slotPost off data) s s.chip.unsupported)
    ∧ (0x20000 ≤ off.toNat → room → HostGives (.slotPost off data) s s.chip))
  ∧ (∀ (f : Final) (fs : List Final) (s : State),
    let c := s.chip
    let m := c.mbx
    (c.img.held = f :: fs → m.ringFull = false → m.fwRun = true → m.failFrame = none →
      Gives .ringWrite s ({ c with img := { c.img with held := fs } }.ringPut f)
      ∧ (c.ringPut f).mbx.ringTail = m.ringTail + 1
      ∧ (c.ringPut f).mbx.store = wrBytes m.store (0x20000 + 32 * m.ringTail.toNat) (f.entry m.phase c.now)
      ∧ (c.ringPut f).mbx.phase = if m.ringTail = 2047 then !m.phase else m.phase)
    ∧ (c.img.held = [] ∨ m.ringFull = true ∨ m.fwRun = false ∨ m.failFrame ≠ none → Gives .ringWrite s c)
    ∧ (m.ringFull = true ↔ m.ringTail + 1 = m.ringHead))

/-- R264-R267, R269-R271, R274-R278: heartbeats, the frame-end copy, and the role swap. A heartbeat is kept with the window in
which it came, and takes its share of the private link. A seal record that verifies acknowledges the copy; the seal of an
acknowledged copy makes its image the standby's, drops the intents it covers and writes the statuses it covers; after the last
page and the seal of the last frame's copy a resynchronised standby is in step, and in a swap frame write-through begins; from
tick 32 of the next frame on the grant moves, and what a seal of the swap frame's copy would do is done. -/
def Obligations.IbexCopyAndSwap : Prop :=
  ∀ (k : Copy) (r : SealRecord) (s : State),
    let c := s.chip
    let m := c.mbx
    let sealed_ := fun (f : Final) => !f.boundary && decide (f.frame ≤ k.frame)
    let seals := fun (n : Mbx) => { c with mbx := { n with
        copy := none, standby := k.image, sealedFrame := some k.frame, copyLfn := k.lfn
        intents := n.intents.filter (fun i => decide (k.frame < i.frame) || !k.covers c.flt.computeCmds i.cmd) } }.release_ sealed_
    let beats := c.frm.inWindow = true ∧ m.unitA.ok = true ∧ m.unitB.ok = true
    let verifies := (∀ p ∈ r.pages, p.lfn = k.lfn ∧ p.digest = (shake24 p.data).take 16) ∧ r.lfn = k.lfn
        ∧ r.count = r.pages.length ∧ r.digest = shake24 (r.pages.flatMap copyHeader)
    let resynced := m.resyncing = true ∧ m.resync = 0 ∧ m.copy = none ∧ m.sealedFrame = some (c.frm.frame - 1) ∧ m.failFrame = none
    let swaps := m.swapDue = true ∧ c.frm.frame % 1024 = 0 ∧ m.synced = true ∧ m.resyncing = false ∧ m.failFrame = none ∧ m.copy = none
        ∧ m.sealedFrame = some (c.frm.frame - 1)
    let hands := m.swapping = true ∧ 32 ≤ c.frm.tick ∧ m.failFrame = none ∧ k.frame < c.frm.frame
    (beats → Gives .heartbeat s { c with mbx := { m with lastBeat := some c.frm.window, linkBytes := m.linkBytes + 16 } })
    ∧ (¬ beats → Gives .heartbeat s c)
    ∧ (m.copy = none → Gives (.sealRecord r) s c ∧ Gives .copySeal s c)
    ∧ (m.copy = some k → verifies → Gives (.sealRecord r) s { c with mbx := { m with copy := some { k with acked := true } } })
    ∧ (m.copy = some k → ¬ verifies → Gives (.sealRecord r) s c)
    ∧ (m.copy = some k → k.acked = false → Gives .copySeal s c)
    ∧ (m.copy = some k → k.acked = true → Gives .copySeal s (seals m))
    ∧ (∀ (d : Chip) (p : Final → Bool), (d.release_ p).img.finals = d.img.finals.filter (fun f => !p f)
        ∧ (∀ f, d.img.finals = [f] → p f = true → d.release_ p = { d with img := { d.img with finals := [] } }.putFinal f))
    ∧ (resynced → Completes .resyncDone s (fun t =>
        t.mbx.synced = true ∧ t.mbx.resyncing = false ∧ bit t.mbx.err 5 = true ∧ t.mbx.standby = m.standby))
    ∧ (¬ resynced → Gives .resyncDone s c)
    ∧ (swaps → Gives .roleSwap s { c with mbx := { m with swapping := true, swapDue := false } })
    ∧ (¬ swaps → Gives .roleSwap s c)
    ∧ (m.swapCopy = some k → hands →
        Gives .swapHandover s (seals { m with activeB := !m.activeB, swapping := false, swapCopy := none }))
    ∧ (m.swapCopy = some k → ¬ hands → Gives .swapHandover s c)
    ∧ (m.swapCopy = none → Gives .swapHandover s c)

/-- R24, R271-R274, R278, R322, R326: a unit reports the other failed when no heartbeat came in this window and the one
before. A failed active unit is followed by the standby where that is in step, and else a package reset is ordered; a standby
that fails leaves the active unit alone, without write-through; after a takeover with no command left open the units have
changed places and no intent is kept; a failed unit is reset, outside a larger reset, and 8,192 pages are then to be sent to it; a reset ordered while
both run is a failure of the active one. -/
def Obligations.IbexFailureAndTakeover : Prop :=
  ∀ (u by_ : IbexUnit) (f : Nat) (s : State),
    let c := s.chip
    let m := c.mbx
    let both := (m.unit m.active).ok = true ∧ (m.unit m.other).ok = true
    let missed := c.frm.valid = true ∧ ∃ w, m.lastBeat = some w ∧ w + 2 ≤ c.frm.window
    let closed := m.failFrame ≠ none ∨ c.flt.resetPending = true ∨ c.flt.rdomain = 5
    let busy := c.flt.resetDue = true ∨ c.flt.rphase ≠ 0
    let fails := fun (i : Instr) => m.synced = true → both → Completes i s (fun t =>
      (t.mbx.unit m.active).failed = true ∧ t.mbx.failFrame = some c.frm.frame ∧ t.mbx.activeB = m.activeB ∧ t.flt.resetPending = c.flt.resetPending)
    let alone := fun (i : Instr) => m.synced = false → both → c.flt.rdomain ≠ 5 → Completes i s (fun t =>
      (t.mbx.unit m.active).failed = true ∧ t.flt.resetPending = true)
    let down := fun (c : Chip) =>
      let t := { c with mbx := m.setUnit m.other { running := (m.unit m.other).running, failed := true } }
      (if m.swapping then t.mbxErr 4 else t).dropSync.refresh
    (missed → by_ = m.other → fails (.heartbeatMiss by_) ∧ alone (.heartbeatMiss by_))
    ∧ (missed → by_ = m.active → both → Gives (.heartbeatMiss by_) s (down c))
    ∧ (¬ missed ∨ (m.unit by_).ok = false → Gives (.heartbeatMiss by_) s c)
    ∧ (u = m.active → fails (.ibexWatchdog u) ∧ alone (.ibexWatchdog u))
    ∧ (u = m.other → both → Gives (.ibexWatchdog u) s (down (c.countHang 7)))
    ∧ ((m.unit u).ok = false → Gives (.ibexWatchdog u) s c)
    ∧ (∀ d : Chip, d.mbx.waitAck = none → d.dropSync.mbx.synced = false ∧ d.dropSync.mbx.copy = none
        ∧ d.dropSync.mbx.activeB = d.mbx.activeB)
    ∧ (fails .ibexMemUe ∧ alone .ibexMemUe)
    ∧ ((m.unit m.active).ok = false → Gives .ibexMemUe s c)
    ∧ (m.copy.isSome = true → 2816 ≤ c.frm.tick → m.failFrame = none → fails .copyDeadline)
    ∧ (m.copy = none ∨ c.frm.tick < 2816 ∨ m.synced = false ∨ m.failFrame ≠ none → Gives .copyDeadline s c)
    ∧ (m.failFrame = none ∨ (m.unit m.other).ok = false → Gives .ibexTakeover s c)
    ∧ (m.failFrame = some f → (m.unit m.other).ok = true → m.swapping = true ∨ m.openIntents = [] → Completes .ibexTakeover s (fun t =>
        t.mbx.activeB = !m.activeB ∧ t.mbx.failFrame = none ∧ t.mbx.synced = false ∧ t.mbx.intents = []
        ∧ t.mbx.cntTakeover = satInc m.cntTakeover 1))
    ∧ (m.failedUnit = some u → ¬ closed → ¬ busy → Completes .ibexUnitReset s (fun t =>
        (t.mbx.unit u).ok = true ∧ t.mbx.resyncing = true ∧ t.mbx.resync = 8192 ∧ t.flt.dossierSeq = c.flt.dossierSeq + 1
        ∧ t.flt.rdomain = 4 ∧ t.flt.waiting = [] ∧ t.flt.running = none))
    ∧ (m.failedUnit = some u → busy → Gives .ibexUnitReset s c)
    ∧ (¬ closed → fails .ibexUnitReset ∧ alone .ibexUnitReset)
    ∧ (closed → Gives .ibexUnitReset s c)

/-- R24, R26, R322, R323, R325, R332, R335: the watchdogs. A unit whose step passes HANG_F boundaries, or a move two, is
counted, announced and queued for an engine reset; its context becomes a suspect; the next waiting reset is carried out with a
dossier, completes and is counted; a reset that hangs goes up to the next larger one. -/
def Obligations.WatchdogsAndEngineResets : Prop :=
  ∀ (u : UnitId) (n : CoreId) (x : CtxId) (w : UnitId × Bool) (rest : List (UnitId × Bool)) (s : State),
    let c := s.chip
    let f := c.flt
    let calm := f.largerReset = false ∧ f.rdomain ≠ 5
    let hangs := fun (i : Instr) (u : UnitId) (mover : Bool) => Gives i s (c.hang u mover)
    (c.stepHung u = true → hangs (.stepWatchdog u) u false) ∧ (c.stepHung u = false → Gives (.stepWatchdog u) s c)
    ∧ (c.moverHung n = true → hangs (.moverWatchdog n) (.core n) true) ∧ (c.moverHung n = false → Gives (.moverWatchdog n) s c)
    ∧ (∀ mover, calm → f.waiting.length < 8 → c.unitCtx u = none → (c.hang u mover).flt.waiting = f.waiting ++ [(u, mover)]
        ∧ (c.hang u mover).flt.cntHang = satInc f.cntHang 1)
    ∧ (∀ mover, calm → f.waiting.length = 8 → c.unitCtx u = none → (c.hang u mover).flt.waiting = [] ∧ (c.hang u mover).flt.resetDue = true)
    ∧ (∀ mover, calm → f.waiting.length < 8 → c.unitCtx u = some x → (c.ctx x).state = .running → bit f.guilty x.val = false → f.trial ≠ some x →
        (c.hang u mover).flt.suspect = f.suspect ||| ctxBit x ∧ (c.hang u mover).flt.waiting = f.waiting ++ [(u, mover)])
    ∧ (∀ mover, calm → f.waiting.length < 8 → c.unitCtx u = some x → (c.ctx x).state = .running → bit f.guilty x.val = false → f.trial = some x →
        (c.hang u mover).flt.suspect = 0 ∧ (c.hang u mover).flt.trial = none ∧ bit (c.hang u mover).flt.err 9 = true)
    ∧ (f.waiting = w :: rest → f.running = none → calm → Completes .engineReset s (fun t =>
        t.flt.waiting = rest ∧ t.flt.running = some w ∧ t.flt.rdomain = 2 ∧ t.flt.dossierSeq = f.dossierSeq + 1))
    ∧ (f.waiting = [] ∨ f.running.isSome = true ∨ f.largerReset = true → Gives .engineReset s c)
    ∧ (f.running = none → Gives .engineResetComplete s c ∧ Gives .engineResetWatchdog s c)
    ∧ (f.running = some w → Completes .engineResetComplete s (fun t =>
        t.flt.running = none ∧ t.flt.rdomain = (if f.rdomain = 2 then 0 else f.rdomain) ∧ t.flt.cntEngine = satInc f.cntEngine 1 ∧ bit t.flt.err 2 = true))
    ∧ (f.running = some w → Gives .engineResetWatchdog s
        (((c.resetHung 4 2).modFlt (fun f => { f with running := none, rdomain := 0 })).quarantine w.1))
    ∧ ((c.ctx x).inReset = true → calm → Completes (.contextResetWatchdog x) s (fun t =>
        t.flt.resetDue = true ∧ t.flt.suspect = f.suspect ||| c.runningMask ∧ t.flt.cntHang = satInc f.cntHang 1))
    ∧ ((c.ctx x).inReset = false ∨ f.largerReset = true → Gives (.contextResetWatchdog x) s c)
    ∧ ((c.ctx x).inReset = true ↔ (c.ctx x).state = .resetting ∨ (c.ctx x).justReset = true)
    ∧ (f.rphase = 0 ∨ f.resetPending = true ∨ f.rdomain = 5 → Gives .computeResetWatchdog s c)
    ∧ (f.rphase ≠ 0 → f.resetPending = false → f.rdomain ≠ 5 → Completes .computeResetWatchdog s (fun t =>
        t.flt.resetPending = true ∧ t.flt.pkgReason = 1 ∧ t.flt.cntHang = satInc f.cntHang 1))
    ∧ (c.inPackageReset = true → Completes .packageResetWatchdog s (fun t => t.flt.keptOff = true ∧ t.flt.cntHang = satInc f.cntHang 1))
    ∧ (c.inPackageReset = false → Gives .packageResetWatchdog s c)
    ∧ ((c.unitState u).usable = false → Gives (.unitQuarantine u) s c)
    ∧ ((c.unitState u).usable = true → Gives (.unitQuarantine u) s (c.quarantine u))
    ∧ (f.resetDue = false → f.rphase = 0 → f.resetPending = false → f.rdomain ≠ 5 → f.rdomain ≠ 4 → (c.quarantine u).flt.resetDue = true ∧ (c.quarantine u).flt.cntQuar = satInc f.cntQuar 1)

/-- R24, R25, R151, R288, R321, R324, R327, R330, R333, R334, R337, R338, Table 12-6: the compute-domain reset runs its phases
in order, and at its end the package leaves RECOVERING; the trial that has lasted passes and the next suspect is tried; a
package reset keeps the fuses, the defect list as last confirmed, the anti-rollback counter and the cap, and its release
enters BRINGUP, or QUARANTINED for a cause kept; a beacon with copies left is sent again while BEACON_EN is set. The domain is
reset only once the frame that the reset found in progress has ended with its decision, and phase B follows when no link requalifies
(log 28). -/
def Obligations.RecoveryAndPackageReset : Prop :=
  ∀ (failed : List UnitId) (ms : Nat) (x : CtxId) (b : Beacon) (bs : List Beacon) (s : State),
    let c := s.chip
    let f := c.flt
    let sends := bit f.ctl.val 12 = true
    let phase := fun (k : Nat) (t : Chip) => f.rphase.toNat = k → Gives (.computeDomainReset failed) s t
    (f.rphase = 0 → f.resetDue = true → c.mbx.dstate.inService = true → f.resetPending = false →
      Gives (.computeDomainReset failed) s c.phaseD)
    ∧ (f.rphase = 0 → f.resetDue = false ∨ c.mbx.dstate.inService = false ∨ f.resetPending = true →
      Gives (.computeDomainReset failed) s c)
    ∧ (c.phaseD.mbx.dstate = .recovering ∧ c.phaseD.flt.rphase = 1 ∧ c.phaseD.flt.rdomain = 3 ∧ c.phaseD.flt.resetDue = false
        ∧ c.phaseD.flt.waiting = [] ∧ c.phaseD.flt.running = none ∧ c.phaseD.flt.cntCompute = satInc f.cntCompute 1)
    ∧ phase 1 c.phaseQ ∧ (c.undone = true → phase 2 c.phaseR) ∧ (c.undone = false → phase 2 c)
    ∧ (c.undone = true ↔ (c.frm.valid = true → f.since < c.frm.frame)) ∧ phase 3 c.phaseM ∧ phase 4 (c.phaseC failed) ∧ phase 5 c.phaseF
    ∧ ((∀ l, (c.link l).requal = false) → phase 6 { c with flt := { f with rphase := 7 } })
    ∧ (∀ l, (c.link l).requal = true → phase 6 c)
    ∧ (c.phaseQ.flt.rphase = 2 ∧ c.phaseR.flt.rphase = 3 ∧ c.phaseM.flt.rphase = 4 ∧ (c.phaseC failed).flt.rphase = 5
        ∧ c.phaseF.flt.rphase = 6)
    ∧ (c.Canonical → ∀ n, (c.phaseR.core n).flights = [])
    ∧ (c.Canonical → ∀ st, ((c.stack st).state = .up → (c.phaseR.stack st).state = .selfRefresh ∧ (c.phaseR.stack st).scrub = false)
        ∧ ((c.stack st).state = .selfRefresh → (c.phaseM.stack st).state = .training)
        ∧ ((c.stack st).state = .training → ((c.phaseC failed).stack st).state = .up ∧ ((c.phaseC failed).stack st).scrub = true))
    ∧ (f.rphase = 7 → f.computeCmds = [] → Completes (.recoveryEnd ms) s (fun t =>
        t.flt.rphase = 0 ∧ t.flt.rdomain = 0 ∧ t.flt.regFault = false ∧ t.mbx.dstate ≠ .recovering))
    ∧ (f.rphase ≠ 7 → Gives (.recoveryEnd ms) s c)
    ∧ (f.trial = some x → f.trialLeft = 0 ∨ (c.ctx x).runs = [] → Gives .trialEnd s
        ({ c with flt := { f with trial := none, trialLeft := 0, suspect := f.suspect &&& ~~~ ctxBit x } }.tryNext))
    ∧ (f.trial = some x → f.trialLeft ≠ 0 → (c.ctx x).runs ≠ [] → Gives .trialEnd s c)
    ∧ (f.trial = none → Gives .trialEnd s c)
    ∧ (f.beacons = b :: bs → b.left = 1 → sends → Gives .beaconRepeat s ({ c with flt := { f with beacons := bs } }.sendBeacon b 2))
    ∧ (f.beacons = b :: bs → b.left = 2 → sends → Gives .beaconRepeat s
        ({ c with flt := { f with beacons := bs ++ [{ b with left := 1 }] } }.sendBeacon b 1))
    ∧ (f.beacons = b :: bs → 1 ≤ b.left → ¬ sends → Gives .beaconRepeat s { c with flt := { f with
        beacons := if b.left = 1 then bs else bs ++ [{ b with left := b.left - 1 }] } })
    ∧ (f.beacons = [] → Gives .beaconRepeat s c)
    ∧ (f.resetPending = true → c.pkg.entryIn = true → Completes .packageReset s (fun t =>
        t.mbx.dstate = .off ∧ t.fuse = c.fuse ∧ t.nor.defects = c.revertNor.nor.defects ∧ t.nor.antiRollback = c.nor.antiRollback
        ∧ t.flt.resetPending = false ∧ t.flt.cntPackage = satInc f.cntPackage 1 ∧ t.rte.epoch = c.rte.epoch + 1 ∧ t.cores = []
        ∧ t.engines = [] ∧ t.links = [] ∧ t.mem = MemSys.zero ∧ t.img = Image.zero ∧ t.pwr.setCap = c.pwr.setCap))
    ∧ (f.resetPending = false → Gives .packageReset s c)
    ∧ (c.canRelease = true → c.thm.shutdown = false → f.quarCause = 0 → Completes .markhorResetRelease s (fun t =>
        t.mbx.dstate = .bringup ∧ t.flt.rdomain = 0 ∧ t.pkg.pcieUp = true))
    ∧ (c.canRelease = true → c.thm.shutdown = false → f.quarCause ≠ 0 → Completes .markhorResetRelease s (fun t =>
        t.mbx.dstate = .quarantined ∧ t.nor.warm = none))
    ∧ (c.canRelease = false ∨ c.thm.shutdown = true → Gives .markhorResetRelease s c)

/-- R341-R345, R348, R349, R354, R357: a step of the bring-up sequence that is in progress ends with its result, and with any
but FAIL counts as passed; one that takes longer than its maximum, or is timed out, has failed; a failed step leaves the
sequence where it is. Step 3 passes when the fuses read well and no NOR record is lost, or REBUILD is set; step 2 takes the input with a carrier; step 4 takes the parameters stored in a warm start
and new ones in a cold one, whose values are free (R359); step 5 brings every
enabled stack up, and one that fails ends it with QUARANTINE; step 8 ends once no enabled link is in an attempt, and is DEGRADED by a link that is not UP at 16 lanes. -/
def Obligations.BringUpSequence : Prop :=
  ∀ (ok : Bool) (ms : BitVec 16) (failed : BitVec 24) (bad : List (Fin 8)) (s : State),
    let c := s.chip
    let b := c.bru
    let intime := fun (k : Nat) => c.inStep k = true ∧ ms.toNat ≤ bruMax b.warm k
    let waits := fun (i : Instr) (k : Nat) => (c.inStep k = false → Gives i s c)
      ∧ (c.inStep k = true → bruMax b.warm k < ms.toNat → Gives i s ((c.bruErr 13).endStep bruFail (bruMax b.warm k)))
    let simple := fun (i : Instr) (k e : Nat) => waits i k ∧ (intime k → ok = true → Gives i s (c.endStep bruPass ms.toNat))
      ∧ (intime k → ok = false → Gives i s ((c.bruErr e).endStep bruFail ms.toNat))
    let does := fun (i : Instr) (k : Nat) (g : Chip → Chip × Nat) =>
      waits i k ∧ (intime k → Gives i s ((g c).1.endStep (g c).2 ms.toNat))
    let trained := fun (c : Chip) (v : Option Word) => c.modBru (fun b => { b with d2d := v })
    simple (.bruRails ok ms) 1 1
    ∧ does (.bruClockLock ok ms) 2 (fun c => if ok then ({ c with frm := { c.frm with srcB := c.frm.carrierInput == .b } }, bruPass)
        else (c.bruErr 2, bruFail))
    ∧ does (.bruD2dTraining ok ms) 4 (fun c => if ok = false then (c.bruErr 5, bruFail)
        else if c.bru.warm then (trained c c.nor.d2d, bruPass)
        else (trained { c with freeCount := c.freeCount + 1 } (some (Config.freeWord c.freeCount)), bruPass))
    ∧ does (.bruFuseNor ok bad ms) 3 (fuseNorStep ok bad) ∧ does (.bruMemoryTraining failed ms) 5 (memoryStep failed)
    ∧ (ok = true → c.fuse.consistent = true → lostRecords bad = [] ∨ b.rebuild = true →
        (fuseNorStep ok bad c).2 = bruPass ∧ (fuseNorStep ok bad c).1.bru.fuseRead = true)
    ∧ (ok = false ∨ c.fuse.consistent = false ∨ (lostRecords bad ≠ [] ∧ b.rebuild = false) → (fuseNorStep ok bad c).2 = bruFail
        ∧ (fuseNorStep ok bad c).1.nor = { c.nor with warmBad := c.nor.warmBad || (lostRecords bad).contains 5 })
    ∧ (c.Canonical → (∀ i : StackId, c.fuse.stackOn i.val = true → bit failed i.val = false ∧ (tget [] c.nor.retired i.val).length ≤ 256) →
        (memoryStep failed c).2 = bruPass
        ∧ ∀ i : StackId, c.fuse.stackOn i.val = true → ((memoryStep failed c).1.stack i).state = .up ∧ ((memoryStep failed c).1.stack i).scrub = true)
    ∧ (∀ i : StackId, c.Canonical → c.fuse.stackOn i.val = true → bit failed i.val = true →
        (memoryStep failed c).2 = bruQuarantine ∧ ((memoryStep failed c).1.stack i).state = .failed)
    ∧ ((∀ l : LinkId, c.fuse.linkOn l.val = true → (c.link l).state = .up ∧ 16 ≤ (c.link l).width) → linkStep c = (c, bruPass))
    ∧ (∀ l : LinkId, c.fuse.linkOn l.val = true → (c.link l).state ≠ .up ∨ (c.link l).width < 16 →
        linkStep c = (c.bruErr 11, bruDegraded))
    ∧ (c.linksTried = true → does (.bruLinkTraining ms) 8 linkStep) ∧ (c.linksTried = false → Gives (.bruLinkTraining ms) s c)
    ∧ (c.linksTried = true ↔ ∀ l : LinkId, c.fuse.linkOn l.val = true → (c.link l).attempt = none)
    ∧ does (.bruFrameLock ms) 9 (fun c => if c.frm.state = .locked then (c, bruPass) else (c.bruErr 12, bruFail))
    ∧ (c.frm.state = .locked → does (.bruReady ms) 10 readyStep) ∧ (c.frm.state ≠ .locked → Gives (.bruReady ms) s c)
    ∧ (c.mbx.dstate = .bringup → b.running = true → b.waitAir = false → Gives .bruStepTimeout s
        ((c.bruErr 13).endStep bruFail (bruMax b.warm b.step.toNat)))
    ∧ (c.mbx.dstate ≠ .bringup ∨ b.running = false ∨ b.waitAir = true → Gives .bruStepTimeout s c)
    ∧ (∀ result, result ≠ bruFail → b.step ≠ 6 → (c.mbx.dstate = .bringup → bits b.ctl.val 3 0 = b.step.toNat) →
        (c.endStep result ms.toNat).bru.passed = b.step ∧ (c.endStep result ms.toNat).bru.running = false)
    ∧ (b.step ≠ 2 → b.step ≠ 8 → b.step ≠ 9 → tget 0 b.fails b.step.toNat < 2 →
        (c.endStep bruFail ms.toNat).bru.passed = b.passed ∧ (c.endStep bruFail ms.toNat).bru.running = false
        ∧ (c.endStep bruFail ms.toNat).mbx.dstate = c.mbx.dstate)
    ∧ (b.step ≠ 2 → b.step ≠ 8 → b.step ≠ 9 → 2 ≤ tget 0 b.fails b.step.toNat →
        (c.endStep bruFail ms.toNat).mbx.dstate = .quarantined ∧ (c.endStep bruFail ms.toNat).nor.warm = none)

/-- R137, R348-R358, R404, R411: what the steps of bring-up with results of their own do: the start-up test ends with its
result; the firmware comes from the active slot, or else from the other, and both Ibex units run it; with the last step the
device is READY, DEGRADED or QUARANTINED, and the counter is raised where the image asks for it. Power on starts Markhor, or
its recovery mode when no image verifies; power loss leaves the fuses, the NOR and the pins. -/
def Obligations.BringUpResults : Prop :=
  ∀ (sites : List SiteTest) (fmax : List (CoreId × BitVec 5)) (rows : List RowTest) (cols : List (StackId × Fin 2048)) (stks : BitVec 24)
    (a o sa sb : Bool) (bad : List UnitId) (ms : BitVec 16) (s : State),
    let c := s.chip
    let b := c.bru
    let intime := fun (k : Nat) => c.inStep k = true ∧ ms.toNat ≤ bruMax b.warm k
    let test := defectStep sites fmax rows cols stks c
    let load := firmwareStep a o sa sb bad c
    let useA := c.slotOk c.nor.active a
    let image := if useA then c.nor.active else c.nor.inactive
    let boots := c.bootOk c.nor.active a || c.bootOk c.nor.inactive o
    let waits := fun (i : Instr) (k : Nat) => (c.inStep k = false → Gives i s c)
      ∧ (c.inStep k = true → bruMax b.warm k < ms.toNat → Gives i s ((c.bruErr 13).endStep bruFail (bruMax b.warm k)))
    (intime 6 → Gives (.bruDefectTest sites fmax rows cols stks ms) s (test.1.endStep test.2 ms.toNat))
    ∧ waits (.bruDefectTest sites fmax rows cols stks ms) 6
    ∧ (intime 7 → Gives (.bruFirmwareLoad a o sa sb bad ms) s (load.1.endStep load.2 ms.toNat))
    ∧ waits (.bruFirmwareLoad a o sa sb bad ms) 7
    ∧ test.1.bru.before.isSome = true
    ∧ (useA = false → c.slotOk c.nor.inactive o = false → load.2 = bruFail ∧ load.1.cores = c.cores ∧ load.1.bru = (c.bruErr 9).bru)
    ∧ (useA = true ∨ c.slotOk c.nor.inactive o = true → sa = false → sb = false → load = (c.bruErr 10, bruFail))
    ∧ (useA = true ∨ c.slotOk c.nor.inactive o = true → sa = true → sb = true → bad = [] →
        load.1.mbx.fwRun = true ∧ load.1.mbx.unitA.ok = true ∧ load.1.mbx.unitB.ok = true ∧ load.1.mbx.activeB = false
        ∧ load.1.pkg.fwVersion = BitVec.ofNat 32 (image.num 12 4) ∧ load.1.pkg.fwSvn = BitVec.ofNat 8 image.svn
        ∧ load.1.pkg.fwRaise = (image.num 17 1).testBit 0 ∧ load.1.mem.ilvMap = true
        ∧ load.2 = if load.1.short then bruDegraded else bruPass)
    ∧ (∀ (i : FwSlot) (delivered : Bool), c.slotOk i delivered = true → i.allowed c.fuse.variant c.nor.antiRollback.toNat = true)
    ∧ (b.ended bruQuarantine = false → (readyStep c).2 = bruPass
        ∧ (b.ended bruDegraded = true → (readyStep c).1.mbx.dstate = .degraded) ∧ (readyStep c).1.nor.antiRollback = c.raisedSvn
        ∧ (b.warm = false → (readyStep c).1.nor.warm = some (shake24 c.fuse.mapBytes, c.nor.boots) ∧ (readyStep c).1.nor.warmBad = false)
        ∧ (if b.second then (readyStep c).1.nor.copy0 else (readyStep c).1.nor.copy1) = { entries := c.nor.defects, boots := c.nor.boots })
    ∧ (b.ended bruQuarantine = true → (readyStep c).1.mbx.dstate = .quarantined)
    ∧ (c.pkg.entryIn = false → c.pwr.airPin = false → c.pwr.storeLow = false → Completes (.powerOn a o) s (fun t =>
        t.pkg.entryIn = true ∧ t.pkg.markhor = boots ∧ t.pkg.recovery = !boots ∧ t.pkg.pcieUp = boots ∧ t.mbx = c.mbx
        ∧ t.nor = c.nor))
    ∧ (c.pkg.entryIn = true → Gives (.powerOn a o) s c)
    ∧ Completes .powerLoss s (fun t => t.fuse = c.fuse ∧ t.nor = c.revertNor.nor ∧ t.pwr.airPin = c.pwr.airPin
        ∧ t.pwr.storeLow = c.pwr.storeLow ∧ t.freeCount = c.freeCount ∧ t.out = c.out ∧ t.pkg.entryIn = false ∧ t.mbx.dstate = .off ∧ t.cores = [] ∧ t.mem = MemSys.zero ∧ t.img = Image.zero)

/-- R361, R363-R366, R370, R376-R379, R382, R387, R438: what power samples, windows, the pins and the heat sink do while the
entry is in range. A sample above E is an excursion, and one above 1,900 W, or the 2,001st in any 10 ms, or one with which the mean power of
10 ms passes the mean E, or any from 1 ms after an alarm that lowered E, is cut once; the ceilings follow the window, held between
350 and 820 MHz, and issue is gated only at 350; the pins set their terms
and rise by the ramp; a regulator that fails orders the smallest reset that helps. -/
def Obligations.PowerAndAirflow : Prop :=
  (∀ (v a p : BitVec 16) (m : WindowMeasure) (r : Regulator) (s : State), s.chip.pkg.entryIn = false →
    let c := s.chip
    let w := c.pwr
    (∀ i ∈ ([.powerSample v a, .powerWindow m, .thetaUpdate p, .inletStale, .regFault r] : List Instr), Gives i s c)
    ∧ (w.airPin = false → Completes .airflowFailAssert s (fun t => t.pwr = { w with airPin := true } ∧ t.thm = c.thm))
    ∧ (w.airPin = true → Gives .airflowFailRelease s { c with pwr := { w with airPin := false } })
    ∧ (w.storeLow = false → Gives .pwrStoreLowAssert s { c with pwr := { w with storeLow := true } })
    ∧ (w.storeLow = true → Gives .pwrStoreLowRelease s { c with pwr := { w with storeLow := false } }))
  ∧ ∀ (v a p : BitVec 16) (m : WindowMeasure) (r : Regulator) (s : State), s.chip.pkg.entryIn = true →
    let c := s.chip
    let w := c.pwr
    let beyond := 10000 * w.force < v.toNat * a.toNat
    let kept := ((v.toNat * a.toNat, w.force) :: w.samples).take 10000
    let excess := kept.countP (fun q => decide (10000 * q.2 < q.1))
    let meanOver := kept.length = 10000 ∧ 10000 * (kept.map (fun q => q.2)).sum < (kept.map (fun q => q.1)).sum
    let cuts := beyond ∧ w.cut = false ∧ (19000000 < v.toNat * a.toNat ∨ 2000 < excess ∨ meanOver ∨ ∃ h, w.hardAt = some h ∧ h + 40960 ≤ c.uptime)
    Completes (.powerSample v a) s (fun t => t.pwr.voltage = v ∧ t.pwr.current = a ∧ (t.pwr.excursion = true ↔ beyond)
        ∧ t.pwr.samples = kept
        ∧ (cuts → t.pwr.cut = true ∧ t.pwr.cntExcursion = satInc w.cntExcursion 1 ∧ bit t.pwr.err 7 = true
            ∧ 70 ≤ t.pwr.ceil0.toNat ∧ t.pwr.ceil0.toNat ≤ max 70 w.ceil0.toNat)
        ∧ (¬ cuts → t.pwr.ceil0 = w.ceil0 ∧ t.pwr.ceil1 = w.ceil1 ∧ t.pwr.cntExcursion = w.cntExcursion))
    ∧ (Completes (.powerWindow m) s (fun t =>
        t.pwr.ceil0 = clampCeiling m.ceiling0 ∧ t.pwr.ceil1 = clampCeiling m.ceiling1 ∧ 70 ≤ t.pwr.ceil0.toNat ∧ t.pwr.ceil0.toNat ≤ 164
        ∧ (70 < t.pwr.ceil0.toNat → t.pwr.duty0 = 15) ∧ (70 < t.pwr.ceil1.toNat → t.pwr.duty1 = 15) ∧ t.pwr.pace = m.pace ∧ (t.pwr.pacing = true ↔ 1 < m.pace.toNat) ∧ t.pwr.floor = w.floorNow
        ∧ (t.pwr.ballastOn = true ↔ c.ballastAllowed = true ∧ m.ownCurrent < w.floorNow)))
    ∧ (w.airPin = false → Completes .airflowFailAssert s (fun t => t.pwr.airPin = true ∧ t.pwr.ckptReq = true ∧ t.pwr.force ≤ 400
        ∧ t.pwr.cntAirflow = satInc w.cntAirflow 1 ∧ bit t.pwr.err 3 = true ∧ t.pwr.ballastOn = false ∧ t.thm.alert = true))
    ∧ (w.airPin = true → Gives .airflowFailAssert s c)
    ∧ (w.airPin = true → c.mbx.dstate ≠ .bringup → Completes .airflowFailRelease s (fun t =>
        t.pwr.airPin = false ∧ t.pwr.ckptReq = w.airDeclared
        ∧ t.pwr.ramp = if w.airDeclared then w.ramp else min w.ramp w.force))
    ∧ (w.airPin = false → Gives .airflowFailRelease s c)
    ∧ (w.storeLow = false → Completes .pwrStoreLowAssert s (fun t => t.pwr.storeLow = true ∧ t.pwr.force ≤ c.hardCap
        ∧ t.pwr.cntStoreLow = satInc w.cntStoreLow 1 ∧ bit t.pwr.err 2 = true ∧ t.pwr.ballastOn = false))
    ∧ (w.storeLow = true → Gives .pwrStoreLowAssert s c)
    ∧ (w.storeLow = true → Completes .pwrStoreLowRelease s (fun t => t.pwr.storeLow = false ∧ t.pwr.ramp = min w.ramp w.force))
    ∧ (w.storeLow = false → Gives .pwrStoreLowRelease s c)
    ∧ Completes (.thetaUpdate p) s (fun t => t.pwr.theta = BitVec.ofNat 16 (c.thetaAt p.toNat))
    ∧ (p.toNat < 300 → c.thetaAt p.toNat = w.theta.toNat)
    ∧ Completes .inletStale s (fun t => t.thm.inletValid = false ∧ t.thm.inlet = 560 ∧ bit t.thm.err 7 = true)
    ∧ (coreRegulator r = true → c.flt.regFault = false → c.flt.resetDue = false → c.flt.rphase = 0 → c.flt.resetPending = false →
      c.flt.rdomain ≠ 5 → c.flt.rdomain ≠ 4 → Completes (.regFault r) s (fun t =>
        t.flt.regFault = true ∧ t.flt.resetDue = true ∧ t.flt.reason = 5 ∧ bit t.pwr.err 8 = true))
    ∧ (coreRegulator r = false ∨ c.flt.regFault = true → c.flt.resetPending = false → c.flt.rdomain ≠ 5 → Completes (.regFault r) s (fun t =>
        t.flt.resetPending = true ∧ t.flt.pkgReason = 1 ∧ bit t.pwr.err 8 = true))

/-- R371-R376, Table 14-5: the temperatures that are read and what they do: a core at 105 degrees C is throttled, at 115
gated; the package shuts down for a die or a stack base at 125, DRAM at 105 and the heat sink at 100; between its two limits a
reading changes nothing else but the alert, which follows R375; what a shutdown gated stays gated; a shutdown orders a package reset, and its release enters BRINGUP. -/
def Obligations.ThermalActions : Prop :=
  ∀ (n : CoreId) (e : EngineId) (st : StackId) (t0 t1 : BitVec 16) (sec : Nat) (s : State), s.chip.Canonical →
    (s.chip.pkg.entryIn = false → ∀ (r : SensorReading) (u : ThermalUnit) (a b : Option (BitVec 16)),
      ∀ i ∈ ([.sensorRead r, .throttleStep u, .hsThermistorRead a b] : List Instr), Gives i s s.chip)
    ∧ (s.chip.pkg.entryIn = true →
    let c := s.chip
    let k := c.core n
    let c1 := c.modCore n (fun k => { k with therm := { k.therm with t0 := t0, t1 := t1 } })
    let on := k.state.usable = true
    let shuts := fun (i : Instr) => c.thm.shutdown = false → c.flt.resetPending = false → c.flt.rdomain ≠ 5 → Completes i s (fun t =>
      t.thm.shutdown = true ∧ t.thm.cntShutdown = satInc c.thm.cntShutdown 1 ∧ t.thm.alert = true ∧ t.flt.resetPending = true
      ∧ t.flt.pkgReason = 1)
    (¬ on → Gives (.sensorRead (.core n t0 t1)) s c)
    ∧ (on → k.therm.bad = true → Gives (.sensorRead (.core n t0 t1)) s c1.resubstitute)
    ∧ (on → k.therm.bad = false → ∀ x, pairTemp t0.toInt t1.toInt = some x →
      Gives (.sensorRead (.core n t0 t1)) s ((c1.coreTemp n x).resubstitute))
    ∧ (on → k.therm.bad = false → pairTemp t0.toInt t1.toInt = none →
      Gives (.sensorRead (.core n t0 t1)) s ((c1.sensorFault n).resubstitute))
    ∧ (∀ x : Int, -32768 ≤ x → x < 1600 → k.clock.gated = false → ((c.coreTemp n x).core n).therm.eff.toInt = x
        ∧ ((c.coreTemp n x).core n).clock = k.clock)
    ∧ (∀ x : Int, 1680 ≤ x → x < 1840 → k.therm.eff.toInt < 1680 →
        ((c.coreTemp n x).core n).clock.limit = throttledTo (min (c.coreFree n) k.clock.limit.toNat)
        ∧ (c.coreTemp n x).thm.cntThrot = satInc c.thm.cntThrot 1)
    ∧ (∀ x : Int, 1840 ≤ x → x < 2000 → k.clock.gated = false → ((c.coreTemp n x).core n).clock.gated = true
        ∧ (c.coreTemp n x).thm.cntGate = satInc c.thm.cntGate 1 ∧ (c.coreTemp n x).thm.alert = true)
    ∧ (2000 ≤ t0.toInt → shuts (.sensorRead (.other t0))) ∧ (t0.toInt < 2000 → Gives (.sensorRead (.other t0)) s c)
    ∧ ((c.engine e).state.usable = true → 2000 ≤ t0.toInt → shuts (.sensorRead (.engine e t0)))
    ∧ ((c.engine e).state.usable = true → t0.toInt < 2000 → Gives (.sensorRead (.engine e t0)) s (c.setEngine e { c.engine e with temp := t0 }))
    ∧ ((c.engine e).state.usable = false → Gives (.sensorRead (.engine e t0)) s c)
    ∧ ((c.stack st).state = .none → Gives (.sensorRead (.stack st t0 t1)) s c)
    ∧ ((c.stack st).state ≠ .none → t0.toInt < 2000 → 1520 ≤ t1.toInt → t1.toInt < 1680 → (c.stack st).dramHot = false →
        Completes (.sensorRead (.stack st t0 t1)) s (fun t =>
          t.stack st = { c.stack st with base := t0, dram := t1, dramHot := true } ∧ bit t.thm.err 4 = true ∧ t.thm.alert = true))
    ∧ ((c.stack st).state ≠ .none → t0.toInt < 2000 → t1.toInt ≤ 1440 → Completes (.sensorRead (.stack st t0 t1)) s (fun t =>
        t.stack st = { c.stack st with base := t0, dram := t1, dramHot := false }))
    ∧ ((c.stack st).state ≠ .none → 2000 ≤ t0.toInt ∨ 1680 ≤ t1.toInt → shuts (.sensorRead (.stack st t0 t1)))
    ∧ ((c.stack st).state ≠ .none → t0.toInt < 2000 → 1440 < t1.toInt → t1.toInt < 1520 →
        Gives (.sensorRead (.stack st t0 t1)) s (c.setStack st { c.stack st with base := t0, dram := t1 }).realert)
    ∧ ((c.stack st).state ≠ .none → t0.toInt < 2000 → 1520 ≤ t1.toInt → t1.toInt < 1680 → (c.stack st).dramHot = true →
        Gives (.sensorRead (.stack st t0 t1)) s (c.setStack st { c.stack st with base := t0, dram := t1 }).realert)
    ∧ (∀ d : Chip, d.realert.thm.alert = d.alertNow ∧ (d.alertNow = true ↔ (∃ q ∈ d.cores, q.2.clock.gated = true)
        ∨ (∃ q ∈ d.stks, 1520 ≤ q.2.dram.toInt) ∨ d.thm.hsHigh = true ∨ d.pwr.airPin = true ∨ d.thm.shutdown = true))
    ∧ (∀ x : Int, k.clock.gated = true → c.thm.shutdown = true → ((c.coreTemp n x).core n).clock.gated = true)
    ∧ (∀ x : Int, x ≤ 1728 → c.thm.shutdown = false → ((c.coreTemp n x).core n).clock.gated = false)
    ∧ (on → 1680 ≤ k.therm.eff.toInt → 70 < k.clock.limit.toNat → Completes (.throttleStep (.core n)) s (fun t =>
        (t.core n).clock.limit = throttledTo k.clock.limit.toNat ∧ t.thm.cntThrot = satInc c.thm.cntThrot 1))
    ∧ (on → 1600 < k.therm.eff.toInt → k.therm.eff.toInt < 1680 → Gives (.throttleStep (.core n)) s c)
    ∧ (on → k.therm.eff.toInt ≤ 1600 → Completes (.throttleStep (.core n)) s (fun t =>
        (t.core n).clock.limit = if c.coreFree n ≤ k.clock.limit.toNat + 5 then 164 else k.clock.limit + 5))
    ∧ (¬ on → Gives (.throttleStep (.core n)) s c)
    ∧ ((c.engine e).state.usable = true → 1600 < (c.engine e).temp.toInt → (c.engine e).temp.toInt < 1680 →
        Gives (.throttleStep (.engine e)) s c)
    ∧ (1440 < (c.stack st).dram.toInt → (c.stack st).dram.toInt < 1520 → Gives (.throttleStep (.stack st)) s c)
    ∧ ((c.engine e).state.usable = true → 1680 ≤ (c.engine e).temp.toInt →
        (c.engine e).down < (tget 16 c.pwr.sgaDuty (engStack e.val)).toNat - 1 →
        Completes (.throttleStep (.engine e)) s (fun t => (t.engine e).down = (c.engine e).down + 1))
    ∧ (1600 ≤ t0.toInt ∨ 1600 ≤ t1.toInt → shuts (.hsThermistorRead (some t0) (some t1)))
    ∧ (t0.toInt < 1600 → t1.toInt < 1600 → 1440 ≤ max t0.toInt t1.toInt → c.thm.hsHigh = false →
        Completes (.hsThermistorRead (some t0) (some t1)) s (fun t =>
          t.thm.hsHigh = true ∧ bit t.thm.err 5 = true ∧ t.thm.alert = true))
    ∧ (t0.toInt ≤ 1360 → t1.toInt ≤ 1360 → Completes (.hsThermistorRead (some t0) (some t1)) s (fun t =>
        t.thm.hs0 = some t0 ∧ t.thm.hs1 = some t1 ∧ t.thm.hsHigh = false ∧ t.thm.hs = some (max t0.toInt t1.toInt)))
    ∧ (c.thm.hs0.isSome = true → Completes (.hsThermistorRead none none) s (fun t =>
        t.thm.hsFault = true ∧ bit t.thm.err 6 = true ∧ t.pwr.force ≤ 1100))
    ∧ (c.canRelease = true → c.thm.shutdown = true → c.cooled sec = true → c.flt.quarCause = 0 → Completes (.shutdownRelease sec) s (fun t =>
        t.thm.shutdown = false ∧ t.mbx.dstate = .bringup ∧ t.flt.rdomain = 0))
    ∧ (c.cooled sec = false → Gives (.shutdownRelease sec) s c))

/-- R393-R401, Tables 15-1 to 15-3: the host side and the management port. A link loss returns the endpoint's configuration
space to its reset values and changes nothing else; a vector with its pending bit set, or with events merged, sends its message when it may; a keyed datagram with a valid
tag is answered with a page of a dossier or of the telemetry record, at most 256 in a second, and any other is dropped and
counted; solicitations and echo requests for an own address are answered. When the port's
link comes up, duplicate address detection asks for the package's addresses, and one that another node has is not used; what follows
a duplicate is the model's reading of RFC 4862 (log 130). -/
def Obligations.HostAndManagementPort : Prop :=
  ∀ (v : Fin 8) (src : Peer) (a : BitVec 128) (q : List Byte) (seq : Word) (op index off : Nat) (up : PortLink) (s : State),
    let c := s.chip
    let p := c.pkg
    let heard := c.portUp = true ∧ c.ownAddress src.sentTo = true
    let asks := fun (i : Instr) => heard →
      (c.request q = none ∨ 256 ≤ p.served → Gives i s { c with pkg := { p with mgmtDrop := satInc p.mgmtDrop 1 } })
      ∧ (c.request q = some (seq, op, index, off) → p.served < 256 →
        (op = 1 → Gives i s (c.respondPage src seq ((c.flt.dossierAt index).map (·.bytes)) off))
        ∧ (op = 2 → Gives i s (c.respondPage src seq (some c.telemetryBytes) off))
        ∧ (op ≠ 1 → op ≠ 2 → Gives i s { c with pkg := { p with mgmtDrop := satInc p.mgmtDrop 1 } }))
    let vec := 4 * v.val
    Completes .pcieLinkLoss s (fun t => t.pkg.pcie = PcieCfg.zero ∧ t.pkg.pcieUp = p.pcieUp ∧ t.pkg.msixEn = false ∧ t.pkg.bar4Size = 6
        ∧ t.pkg.aer = false ∧ t.mem.wBase = c.mem.wBase ∧ t.mem.dram = c.mem.dram ∧ t.cores = c.cores ∧ t.mbx = c.mbx)
    ∧ (bit p.pba v.val = true ∨ bit p.merge v.val = true → p.canSend v.val = true → c.vectorBusy v.val = false →
      Completes (.msixMessage v) s (fun t => t.out = c.out ++ [.msix (tget 0 p.msix (vec + 1) ++ tget 0 p.msix vec) (tget 0 p.msix (vec + 2))]
        ∧ bit t.pkg.pba v.val = false ∧ bit t.pkg.merge v.val = false))
    ∧ ((bit p.pba v.val = false ∧ bit p.merge v.val = false) ∨ p.canSend v.val = false ∨ c.vectorBusy v.val = true → Gives (.msixMessage v) s c)
    ∧ asks (.dossierRead src q) ∧ asks (.stateRead src q) ∧ asks (.mgmtDatagramDrop src q)
    ∧ (∀ (st : BitVec 16) (data : List Byte),
        let t := c.mgmtRespond src seq st data
        let head := c.mgmtHeader 2 0 seq ++ leBytes 2 st.toNat ++ leBytes 2 data.length ++ data
        t.out = c.out ++ [.datagram { src := src.sentTo, dst := src.addr, sport := 47460, dport := src.port, hop := c.nor.beacon.hop
                                      payload := head ++ c.mgmtTag head }] ∧ t.pkg = { p with served := p.served + 1 })
    ∧ (∀ obj : List Byte, (off ≤ obj.length →
          c.respondPage src seq (some obj) off = c.mgmtRespond src seq stOk ((obj.drop off).take 1024))
        ∧ (obj.length < off → c.respondPage src seq (some obj) off = c.mgmtRespond src seq stRange []))
    ∧ c.respondPage src seq none off = c.mgmtRespond src seq stRange []
    ∧ (¬ heard → Gives (.dossierRead src q) s c ∧ Gives (.stateRead src q) s c ∧ Gives (.mgmtDatagramDrop src q) s c)
    ∧ (c.portUp = true → c.ownAddress a = true → Gives (.neighborSolicitation a) s (c.emit (.advertisement a))
        ∧ Gives (.echoRequest a q) s (c.emit (.echoReply a q)))
    ∧ (c.portUp = false ∨ c.ownAddress a = false → Gives (.neighborSolicitation a) s c ∧ Gives (.echoRequest a q) s c)
    ∧ (c.portUp = true ↔ p.entryIn = true ∧ p.mgmtUp = true ∧ p.dupLocal = false)
    ∧ (c.ownAddress a = true ↔ a = linkLocal ∨ (a = c.nor.beacon.unicast ∧ a ≠ 0 ∧ p.dupUnicast = false))
    ∧ (p.entryIn = false ∨ up.up = false → Gives (.mgmtPortLink up) s
        { c with pkg := { p with mgmtUp := false, mgmtAuto := false, dupLocal := false, dupUnicast := false } })
    ∧ (p.entryIn = true → up.up = true → c.nor.beacon.unicast = 0 → Gives (.mgmtPortLink up) s
        ({ c with pkg := { p with mgmtUp := true, mgmtAuto := true, dupLocal := up.dupLocal, dupUnicast := false } }.emit (.probe linkLocal)))
    ∧ (p.entryIn = true → up.up = true → c.nor.beacon.unicast ≠ 0 → Gives (.mgmtPortLink up) s
        (({ c with pkg := { p with mgmtUp := true, mgmtAuto := true, dupLocal := up.dupLocal, dupUnicast := up.dupUnicast } }.emit
          (.probe linkLocal)).emit (.probe c.nor.beacon.unicast)))

/-- R401-R403, R408-R413, Table 15-4: the package as an I3C target: it takes an address and an endpoint identifier, and
answers the control and the vendor-defined messages. The null and the broadcast identifiers, the control responses and their
layout come from the MCTP base specification (log 127), and the version number is free. -/
def Obligations.MctpMessages : Prop :=
  ∀ (addr : BitVec 7) (eid : SetEid) (hop : Byte) (tag x y index : BitVec 16) (off len : Word) (chunk nonce : List Byte) (d1 d2 : BitVec 128) (u : Unicast)
    (key : BitVec 256) (s : State),
    (s.chip.pkg.entryIn = false → ∀ i ∈ ([.entdaa addr, .setEndpointId eid, .getEndpointId, .getMctpVersionSupport
        , .getMessageTypeSupport, .telemetry tag, .inlet tag x y, .mctpAttest tag nonce off, .mctpFwStage tag off len chunk
        , .mctpFwActivate tag, .mctpDossierRead tag index off, .beaconCfg tag d1 d2 u hop key] : List Instr), Gives i s s.chip)
    ∧ (s.chip.pkg.entryIn = true →
    let c := s.chip
    let p := c.pkg
    let tells := fun (t : Chip) (b : List Byte) => t.emit (.mctp b)
    let sets := eid.eid ≠ 0 ∧ eid.eid ≠ 0xFF ∧ eid.op.toNat < 2
    let asked := c.portUp = true ∧ u.addr ≠ 0
    let vid := Config.vendorId
    let cfg : BeaconCfg := { dest1 := d1, dest2 := d2, unicast := u.addr, hop := hop, key := key }
    let page := (c.flt.dossierAt index.toNat).bind (fun d => paged d.bytes off.toNat 1024)
    let chunks := c.stageChunk true off.toNat len.toNat chunk
    Gives (.entdaa addr) s { c with pkg := { p with i3cAddr := some addr } }
    ∧ (sets → Gives (.setEndpointId eid) s (tells { c with pkg := { p with eid := some eid.eid } } [0, 1, 0, 0, eid.eid, 0]))
    ∧ (¬ sets → Gives (.setEndpointId eid) s (tells c [0, 1, 2]))
    ∧ Gives .getEndpointId s (tells c [0, 2, 0, p.eid.getD 0, 0, 0])
    ∧ Gives .getMessageTypeSupport s (tells c [0, 5, 0, 1, 0x7E])
    ∧ Completes .getMctpVersionSupport s (fun t => ∃ b : List Byte, b.length = 4 ∧ t.out = c.out ++ [.mctp ([0, 4, 0, 1] ++ b)] ∧ t.pkg = p)
    ∧ (∀ (d : Chip) (cmd : Byte) (st : BitVec 16) (data : List Byte), d.vendor cmd tag st data
        = tells d ([0x7E, vid.extractLsb' 8 8, vid.setWidth 8, cmd, 0] ++ leBytes 2 tag.toNat ++ leBytes 2 st.toNat ++ data))
    ∧ Gives (.telemetry tag) s (c.vendor 1 tag stOk c.telemetryBytes)
    ∧ c.telemetryBytes.length = 128
    ∧ Gives (.inlet tag x y) s
        ({ c with thm := { c.thm with inletValid := true, inlet := x, airflow := y } }.vendor 2 tag stOk [])
    ∧ (let rep := c.report (padTo nonce 32)
       Completes (.mctpAttest tag nonce 0) s (fun t => t.pkg = { p with reportMctp := some rep }
        ∧ t.out = (c.vendor 3 tag stOk (rep.take 1024)).out))
    ∧ (off ≠ 0 → p.reportMctp = none → Gives (.mctpAttest tag nonce off) s (c.vendor 3 tag stRange []))
    ∧ (∀ b, off ≠ 0 → p.reportMctp = some b →
        (slice b 16 32 ≠ padTo nonce 32 → Gives (.mctpAttest tag nonce off) s (c.vendor 3 tag stRange []))
        ∧ (slice b 16 32 = padTo nonce 32 → off.toNat ≤ b.length →
            Gives (.mctpAttest tag nonce off) s (c.vendor 3 tag stOk ((b.drop off.toNat).take 1024)))
        ∧ (slice b 16 32 = padTo nonce 32 → b.length < off.toNat → Gives (.mctpAttest tag nonce off) s (c.vendor 3 tag stRange [])))
    ∧ (1024 < chunk.length → Gives (.mctpFwStage tag off len chunk) s (c.vendor 4 tag stRange []))
    ∧ (chunk.length ≤ 1024 → c.stageRefusal true off.toNat len.toNat chunk.length = none →
        Gives (.mctpFwStage tag off len chunk) s (chunks.1.vendor 4 tag chunks.2 []))
    ∧ (chunk.length ≤ 1024 → c.stageRefusal true off.toNat len.toNat chunk.length ≠ none →
        Gives (.mctpFwStage tag off len chunk) s (c.vendor 4 tag stRange []))
    ∧ (c.fwLegal = true → c.canActivate = true → Gives (.mctpFwActivate tag) s ((c.activate true (tag.setWidth 32) none).vendor 5 tag stOk []))
    ∧ (c.fwLegal = true → c.canActivate = false → Gives (.mctpFwActivate tag) s (c.vendor 5 tag stAuth []))
    ∧ (c.fwLegal = false → Gives (.mctpFwActivate tag) s (c.vendor 5 tag stConflict []))
    ∧ (∀ b, page = some b → Gives (.mctpDossierRead tag index off) s (c.vendor 6 tag stOk b))
    ∧ (page = none → Gives (.mctpDossierRead tag index off) s (c.vendor 6 tag stRange []))
    ∧ (hop ≠ 0 → ¬ asked → Gives (.beaconCfg tag d1 d2 u hop key) s
        ({ c with nor := { c.nor with beacon := cfg }, pkg := { p with dupUnicast := false } }.vendor 7 tag stOk []))
    ∧ (hop ≠ 0 → asked → Gives (.beaconCfg tag d1 d2 u hop key) s
        (({ c with nor := { c.nor with beacon := cfg }, pkg := { p with dupUnicast := u.dup } }.emit (.probe u.addr)).vendor 7 tag stOk []))
    ∧ (hop = 0 → Gives (.beaconCfg tag d1 d2 u hop key) s (c.vendor 7 tag stRange [])))
end

