-- ==== Sys2Proof/Laws/Tab.lean ====
section
/-! SUPPORT. Laws of sparse tables and memories: read after write, and the canonical form under every operation. -/
namespace Sys2Proof.Machine

variable {α : Type} [DecidableEq α] {d v : α}

theorem twfAbove_mono {b b' : Nat} {t : Tab α} (h : twfAbove d b t = true) (hb : b' ≤ b) : twfAbove d b' t = true := by
  cases t with
  | nil => rfl
  | cons p t =>
    simp only [twfAbove, Bool.and_eq_true, decide_eq_true_eq] at h ⊢
    exact ⟨by omega, h.2⟩

theorem twfAbove_tset {b i : Nat} {t : Tab α} (h : twfAbove d b t = true) (hi : b ≤ i) : twfAbove d b (tset d t i v) = true := by
  induction t generalizing b with
  | nil =>
    unfold tset
    split <;> simp_all [twfAbove]
  | cons p t ih =>
    obtain ⟨k, x⟩ := p
    simp only [twfAbove, Bool.and_eq_true, decide_eq_true_eq] at h
    unfold tset
    split
    · simp only [twfAbove, Bool.and_eq_true, decide_eq_true_eq]
      exact ⟨h.1, h.2.1, ih h.2.2 (by omega)⟩
    · split
      · split
        · exact twfAbove_mono h.2.2 (by omega)
        · simp only [twfAbove, Bool.and_eq_true, decide_eq_true_eq]
          exact ⟨by omega, by assumption, twfAbove_mono h.2.2 (by omega)⟩
      · split
        · simp only [twfAbove, Bool.and_eq_true, decide_eq_true_eq]
          exact h
        · simp only [twfAbove, Bool.and_eq_true, decide_eq_true_eq]
          exact ⟨hi, by assumption, by omega, h.2⟩

/-- A write keeps the canonical form. -/
theorem twf_tset {t : Tab α} (h : twf d t = true) (i : Nat) (v : α) : twf d (tset d t i v) = true :=
  twfAbove_tset h (Nat.zero_le i)

theorem twfAbove_filter {b : Nat} {t : Tab α} (h : twfAbove d b t = true) (p : Nat × α → Bool) : twfAbove d b (t.filter p) = true := by
  induction t generalizing b with
  | nil => rfl
  | cons q t ih =>
    obtain ⟨k, x⟩ := q
    simp only [twfAbove, Bool.and_eq_true, decide_eq_true_eq] at h
    rw [List.filter_cons]
    split
    · simp only [twfAbove, Bool.and_eq_true, decide_eq_true_eq]
      exact ⟨h.1, h.2.1, ih h.2.2⟩
    · exact ih (twfAbove_mono h.2.2 (by omega))

/-- Removing entries keeps the canonical form. -/
theorem twf_filter {t : Tab α} (h : twf d t = true) (p : Nat × α → Bool) : twf d (t.filter p) = true := twfAbove_filter h p

theorem twf_tclear {t : Tab α} (h : twf d t = true) (lo hi : Nat) : twf d (tclear t lo hi) = true := twf_filter h _

theorem twf_tmod {t : Tab α} (h : twf d t = true) (i : Nat) (f : α → α) : twf d (tmod d t i f) = true := twf_tset h i _

theorem tget_below {b i : Nat} {t : Tab α} (h : twfAbove d b t = true) (hi : i < b) : tget d t i = d := by
  cases t with
  | nil => rfl
  | cons p t =>
    simp only [twfAbove, Bool.and_eq_true, decide_eq_true_eq] at h
    simp only [tget]
    rw [if_neg (by omega), if_pos (by omega)]

theorem tget_tset_sameAbove {b i : Nat} {t : Tab α} (h : twfAbove d b t = true) : tget d (tset d t i v) i = v := by
  induction t generalizing b with
  | nil =>
    unfold tset
    split
    · rename_i e; simp [tget, e]
    · simp [tget]
  | cons p t ih =>
    obtain ⟨k, x⟩ := p
    simp only [twfAbove, Bool.and_eq_true, decide_eq_true_eq] at h
    unfold tset
    split
    · simp only [tget]
      rw [if_neg (by omega), if_neg (by omega)]
      exact ih h.2.2
    · split
      · split
        · rename_i e; rw [tget_below h.2.2 (by omega), e]
        · simp [tget]
      · split
        · rename_i e; simp only [tget]; rw [if_neg (by omega), if_pos (by omega), e]
        · simp [tget]

/-- A read after a write to the same key gives the value written. -/
theorem tget_tset_same {t : Tab α} (h : twf d t = true) (i : Nat) (v : α) : tget d (tset d t i v) i = v := tget_tset_sameAbove h

theorem tget_tset_otherAbove {b i j : Nat} {t : Tab α} (h : twfAbove d b t = true) (hj : j ≠ i) : tget d (tset d t i v) j = tget d t j := by
  induction t generalizing b with
  | nil =>
    unfold tset
    split
    · rfl
    · simp only [tget]
      split
      · omega
      · split <;> rfl
  | cons p t ih =>
    obtain ⟨k, x⟩ := p
    simp only [twfAbove, Bool.and_eq_true, decide_eq_true_eq] at h
    unfold tset
    split
    · simp only [tget]
      rw [ih h.2.2]
    · split
      · split
        · simp only [tget]
          rw [if_neg (by omega)]
          split
          · exact tget_below h.2.2 (by omega)
          · rfl
        · rename_i hk _
          subst hk
          simp only [tget]
          rw [if_neg (by omega), if_neg (by omega : ¬k = j)]
      · split
        · rfl
        · rename_i h1 h2 _
          simp only [tget]
          rw [if_neg (by omega)]
          split
          · rw [if_neg (by omega), if_pos (by omega)]
          · rfl

/-- A write leaves every other key alone. -/
theorem tget_tset_other {t : Tab α} (h : twf d t = true) {i j : Nat} (hj : j ≠ i) : tget d (tset d t i v) j = tget d t j :=
  tget_tset_otherAbove h hj

theorem memWf_wrBytes {m : Mem} (h : memWf m = true) (a : Nat) (bs : List Byte) : memWf (wrBytes m a bs) = true := by
  induction bs generalizing m a with
  | nil => exact h
  | cons b bs ih => exact ih (twf_tset h a b) (a + 1)

/-- A write of bytes leaves every byte outside them alone. -/
theorem rdByte_wrBytes_out {m : Mem} (h : memWf m = true) {a x : Nat} (bs : List Byte) (hx : x < a ∨ a + bs.length ≤ x) :
    rdByte (wrBytes m a bs) x = rdByte m x := by
  induction bs generalizing m a with
  | nil => rfl
  | cons b bs ih =>
    simp only [List.length_cons] at hx
    have := ih (m := wrByte m a b) (twf_tset h a b) (a := a + 1) (by omega)
    rw [wrBytes, this]
    exact tget_tset_other h (by omega)

/-- A read after a write of bytes gives what was written. -/
theorem rdByte_wrBytes_in {m : Mem} (h : memWf m = true) {a i : Nat} (bs : List Byte) (hi : i < bs.length) :
    rdByte (wrBytes m a bs) (a + i) = bs.getD i 0 := by
  induction bs generalizing m a i with
  | nil => simp at hi
  | cons b bs ih =>
    cases i with
    | zero =>
      rw [wrBytes, Nat.add_zero, rdByte_wrBytes_out (m := wrByte m a b) (twf_tset h a b) bs (by omega)]
      exact tget_tset_same h a b
    | succ i =>
      have := ih (m := wrByte m a b) (twf_tset h a b) (a := a + 1) (i := i) (by simpa using hi)
      rw [wrBytes, show a + (i + 1) = a + 1 + i by omega, this]
      rfl


theorem twf_foldl_tset {β : Type} (l : List β) (i : β → Nat) (f : Tab α → β → α) {t : Tab α} (h : twf d t = true) :
    twf d (l.foldl (fun t b => tset d t (i b) (f t b)) t) = true := by
  induction l generalizing t with
  | nil => exact h
  | cons x l ih => exact ih (twf_tset h (i x) (f t x))

end Sys2Proof.Machine
end

