-- ==== Sys2Proof/Laws/Core.lean ====
section
/-! SUPPORT. Laws of the units: reading back a unit that was written, and what a ready core makes of its instruction. -/
namespace Sys2Proof.Machine

variable {c : Chip}

@[simp] theorem Chip.core_setCore_other {n m : CoreId} (h : c.Canonical) (k : Core) (hm : m ≠ n) : (c.setCore n k).core m = c.core m :=
  tget_tset_other h.cores (fun e => hm (Fin.ext e))

@[simp] theorem Chip.core_setCore (h : c.Canonical) (n : CoreId) (k : Core) : (c.setCore n k).core n = k := tget_tset_same h.cores n.val k

@[simp] theorem Chip.engine_setEngine_other {n m : EngineId} (h : c.Canonical) (k : Engine) (hm : m ≠ n) :
    (c.setEngine n k).engine m = c.engine m :=
  tget_tset_other h.engines (fun e => hm (Fin.ext e))

@[simp] theorem Chip.engine_setEngine (h : c.Canonical) (n : EngineId) (k : Engine) : (c.setEngine n k).engine n = k :=
  tget_tset_same h.engines n.val k

@[simp] theorem Chip.stack_setStack (h : c.Canonical) (n : StackId) (k : Stack) : (c.setStack n k).stack n = k :=
  tget_tset_same h.stks n.val k

@[simp] theorem Chip.link_setLink (h : c.Canonical) (n : LinkId) (k : Link) : (c.setLink n k).link n = k := tget_tset_same h.links n.val k

/-- A setting of one core replaces an earlier one. -/
theorem Chip.engine_setCore (n : CoreId) (k : Core) (e : EngineId) : (c.setCore n k).engine e = c.engine e := rfl

theorem Core.touch_clean {k : Core} (h : k.sramErr = []) (a len : Nat) : k.touch a len = k := by
  unfold Core.touch; rw [h]; rfl

@[simp] theorem Core.raiseLedger_none (k : Core) : k.raiseLedger {} = k := rfl

@[simp] theorem Core.raisePoison_none (k : Core) : k.raisePoison 0 = k := rfl

/-- An instruction that raises nothing reports nothing. -/
theorem Chip.coreReports_quiet (n : CoreId) (o : CoreOut) (hr : o.raised = {}) (hp : o.poison = []) : c.coreReports n o = c := by
  unfold Chip.coreReports
  rw [hr, hp]
  rfl

/-- What a ready core makes of the instruction that it fetches (R66). -/
theorem Chip.coreStep_ready {n : CoreId} {i : Instr} (h : CoreReady c n) (hi : Fetches c n i) (f : Core → CoreOut) :
    c.coreStep n i f =
      match (f (c.core n)).stop with
      | some b => ((c.setCore n (f (c.core n)).settle).coreReports n (f (c.core n))).coreStopReport n b
      | none => (c.setCore n (f (c.core n)).settle).coreReports n (f (c.core n)) := by
  obtain ⟨h1, h2, h3, h4⟩ := h
  unfold Fetches at hi
  unfold Chip.coreStep
  simp only [h1, Core.touch_clean h2, h3, h4, hi, ne_eq, not_true_eq_false, reduceCtorEq, if_false, Bool.not_true, Bool.false_eq_true] <;> rfl

/-- A ready core carries out an instruction that raises and stops nothing. -/
theorem Chip.coreStep_ok {n : CoreId} {i : Instr} (h : CoreReady c n) (hi : Fetches c n i) {f : Core → CoreOut} {k : Core}
    (hf : f (c.core n) = .ok k) : c.coreStep n i f = c.setCore n k.pass := by
  rw [Chip.coreStep_ready h hi, hf]
  exact Chip.coreReports_quiet _ _ rfl rfl

/-- A ready core stops at an instruction that fails. -/
theorem Chip.coreStep_fail {n : CoreId} {i : Instr} (h : CoreReady c n) (hi : Fetches c n i) {f : Core → CoreOut} {b : Nat} {k : Core}
    (hf : f (c.core n) = .fail k b) : c.coreStep n i f = (c.setCore n (k.stopWith b)).coreStopReport n b := by
  rw [Chip.coreStep_ready h hi, hf]
  show ((c.setCore n _).coreReports n _).coreStopReport n b = _
  rw [Chip.coreReports_quiet _ _ rfl rfl]
  rfl

/-- A ready core carries out an instruction that raises nothing and says where its program counter goes. -/
theorem Chip.coreStep_settle {n : CoreId} {i : Instr} (h : CoreReady c n) (hi : Fetches c n i) {f : Core → CoreOut} {o : CoreOut}
    (hf : f (c.core n) = o) (hs : o.stop = none) (hr : o.raised = {}) (hp : o.poison = []) :
    c.coreStep n i f = c.setCore n o.settle := by
  rw [Chip.coreStep_ready h hi, hf, hs]
  exact Chip.coreReports_quiet _ _ hr hp

end Sys2Proof.Machine
end

