-- ==== Sys2Proof/Laws/CoreFrame.lean ====
section
/-! SUPPORT. What an instruction of a lattice core leaves of the rest of the package, operation by operation. -/
namespace Sys2Proof.Machine
structure CFr (n : CoreId) (c0 c : Chip) : Prop where
  mem : c.mem = c0.mem
  engines : c.engines = c0.engines
  stks : c.stks = c0.stks
  links : c.links = c0.links
  frm : c.frm = c0.frm
  plan : c.plan = c0.plan
  fuse : c.fuse = c0.fuse
  bru : c.bru = c0.bru
  pwr : c.pwr = c0.pwr
  thm : c.thm = c0.thm
  uptime : c.uptime = c0.uptime
  cores : c0.Canonical → twf Core.zero c.cores = true ∧ ∀ m : CoreId, m ≠ n → c.core m = c0.core m
variable {c0 c : Chip} {n : CoreId}
theorem CFr.refl (n : CoreId) (c : Chip) : CFr n c c := ⟨rfl,rfl,rfl,rfl,rfl,rfl,rfl,rfl,rfl,rfl,rfl,fun h => ⟨h.cores, fun _ _ => rfl⟩⟩
theorem CFr.upd_iff {rte dig img mbx flt nor pkg out k} :
    CFr n c0 ⟨c.cores, c.engines, c.stks, c.mem, c.links, c.frm, c.plan, rte, dig, img, mbx, flt, nor, c.fuse, c.bru, c.pwr, c.thm, pkg, c.uptime, out, k⟩ ↔ CFr n c0 c :=
  ⟨fun h => ⟨h.1,h.2,h.3,h.4,h.5,h.6,h.7,h.8,h.9,h.10,h.11,h.12⟩, fun h => ⟨h.1,h.2,h.3,h.4,h.5,h.6,h.7,h.8,h.9,h.10,h.11,h.12⟩⟩
theorem Chip.setCore_cf (k : Core) (h : CFr n c0 c) : CFr n c0 (c.setCore n k) :=
  ⟨h.1,h.2,h.3,h.4,h.5,h.6,h.7,h.8,h.9,h.10,h.11, fun q => ⟨twf_tset (h.12 q).1 _ _, fun m hm => (tget_tset_other (h.12 q).1 (fun e => hm (Fin.ext e))).trans ((h.12 q).2 m hm)⟩⟩
theorem CFr.foldl {α : Type} (g : Chip → α → Chip) (l : List α) (hg : ∀ d x, CFr n c0 d → CFr n c0 (g d x)) (h : CFr n c0 c) : CFr n c0 (l.foldl g c) := by
  induction l generalizing c with
  | nil => exact h
  | cons x l ih => exact ih (hg c x h)
theorem Chip.modDig_cf {c0 c : Chip} {n : CoreId} (x1 : CtxId) (x2 : DigCtx → DigCtx) (h : CFr n c0 c) : CFr n c0 (Chip.modDig c x1 x2) := by
  unfold Chip.modDig
  try dsimp only
  repeat' first | with_reducible assumption | simp only [CFr.upd_iff] | split | intro _ | with_reducible apply CFr.foldl | dsimp only

theorem Chip.chargeStop_cf {c0 c : Chip} {n : CoreId} (x1 : CtxId) (h : CFr n c0 c) : CFr n c0 (Chip.chargeStop c x1) := by
  unfold Chip.chargeStop
  try dsimp only
  repeat' first | with_reducible assumption | with_reducible apply Chip.modDig_cf | simp only [CFr.upd_iff] | split | intro _ | with_reducible apply CFr.foldl | dsimp only

theorem Chip.faultHold_cf {c0 c : Chip} {n : CoreId} (x1 : CtxId) (h : CFr n c0 c) : CFr n c0 (Chip.faultHold c x1) := by
  unfold Chip.faultHold
  try dsimp only
  repeat' first | with_reducible assumption | with_reducible apply Chip.modDig_cf | with_reducible apply Chip.chargeStop_cf | simp only [CFr.upd_iff] | split | intro _ | with_reducible apply CFr.foldl | dsimp only

theorem Chip.modCtx_cf {c0 c : Chip} {n : CoreId} (x1 : CtxId) (x2 : Ctx → Ctx) (h : CFr n c0 c) : CFr n c0 (Chip.modCtx c x1 x2) := by
  unfold Chip.modCtx
  try dsimp only
  repeat' first | with_reducible assumption | simp only [CFr.upd_iff] | split | intro _ | with_reducible apply CFr.foldl | dsimp only

theorem Chip.stepStopped_cf {c0 c : Chip} {n : CoreId} (x2 : Word) (h : CFr n c0 c) : CFr n c0 (Chip.stepStopped c (.core n) x2) := by
  unfold Chip.stepStopped
  try dsimp only
  repeat' first | with_reducible assumption | with_reducible apply Chip.modCtx_cf | simp only [CFr.upd_iff] | split | intro _ | with_reducible apply CFr.foldl | dsimp only

theorem Chip.programStop_cf {c0 c : Chip} {n : CoreId} (x2 : Word) (h : CFr n c0 c) : CFr n c0 (Chip.programStop c (.core n) x2) := by
  unfold Chip.programStop
  try dsimp only
  repeat' first | with_reducible assumption | with_reducible apply Chip.faultHold_cf | with_reducible apply Chip.stepStopped_cf | simp only [CFr.upd_iff] | split | intro _ | with_reducible apply CFr.foldl | dsimp only

theorem Chip.coreStopReport_cf {c0 c : Chip} {n : CoreId} (x2 : Nat) (h : CFr n c0 c) : CFr n c0 (Chip.coreStopReport c n x2) := by
  unfold Chip.coreStopReport
  try dsimp only
  repeat' first | with_reducible assumption | with_reducible apply Chip.programStop_cf | simp only [CFr.upd_iff] | split | intro _ | with_reducible apply CFr.foldl | dsimp only

theorem Chip.sendVector_cf {c0 c : Chip} {n : CoreId} (x1 : Nat) (h : CFr n c0 c) : CFr n c0 (Chip.sendVector c x1) := by
  unfold Chip.sendVector
  try dsimp only
  repeat' first | with_reducible assumption | simp only [CFr.upd_iff] | split | intro _ | with_reducible apply CFr.foldl | dsimp only

theorem Chip.vectorEvent_cf {c0 c : Chip} {n : CoreId} (x1 : Nat) (h : CFr n c0 c) : CFr n c0 (Chip.vectorEvent c x1) := by
  unfold Chip.vectorEvent
  try dsimp only
  repeat' first | with_reducible assumption | with_reducible apply Chip.sendVector_cf | simp only [CFr.upd_iff] | split | intro _ | with_reducible apply CFr.foldl | dsimp only

theorem Chip.irqCause_cf {c0 c : Chip} {n : CoreId} (x1 : Nat) (h : CFr n c0 c) : CFr n c0 (Chip.irqCause c x1) := by
  unfold Chip.irqCause
  try dsimp only
  repeat' first | with_reducible assumption | with_reducible apply Chip.vectorEvent_cf | simp only [CFr.upd_iff] | split | intro _ | with_reducible apply CFr.foldl | dsimp only

theorem Chip.fltErr_cf {c0 c : Chip} {n : CoreId} (x1 : Nat) (h : CFr n c0 c) : CFr n c0 (Chip.fltErr c x1) := by
  unfold Chip.fltErr
  try dsimp only
  repeat' first | with_reducible assumption | with_reducible apply Chip.irqCause_cf | simp only [CFr.upd_iff] | split | intro _ | with_reducible apply CFr.foldl | dsimp only

theorem Chip.emit_cf {c0 c : Chip} {n : CoreId} (x1 : Out) (h : CFr n c0 c) : CFr n c0 (Chip.emit c x1) := by
  unfold Chip.emit
  try dsimp only
  repeat' first | with_reducible assumption | simp only [CFr.upd_iff] | split | intro _ | with_reducible apply CFr.foldl | dsimp only

theorem Chip.sendBeacon_cf {c0 c : Chip} {n : CoreId} (x1 : Beacon) (x2 : Nat) (h : CFr n c0 c) : CFr n c0 (Chip.sendBeacon c x1 x2) := by
  unfold Chip.sendBeacon
  try dsimp only
  repeat' first | with_reducible assumption | simp only [CFr.upd_iff] | split | intro _ | with_reducible apply CFr.foldl | dsimp only

theorem Chip.event_cf {c0 c : Chip} {n : CoreId} (x1 : Event) (h : CFr n c0 c) : CFr n c0 (Chip.event c x1) := by
  unfold Chip.event
  try dsimp only
  repeat' first | with_reducible assumption | with_reducible apply Chip.emit_cf | with_reducible apply Chip.fltErr_cf | with_reducible apply Chip.sendBeacon_cf | simp only [CFr.upd_iff] | split | intro _ | with_reducible apply CFr.foldl | dsimp only

theorem Chip.orderCompute_cf {c0 c : Chip} {n : CoreId} (x1 : Nat) (h : CFr n c0 c) : CFr n c0 (Chip.orderCompute c x1) := by
  unfold Chip.orderCompute
  try dsimp only
  repeat' first | with_reducible assumption | simp only [CFr.upd_iff] | split | intro _ | with_reducible apply CFr.foldl | dsimp only

theorem Chip.consume_cf {c0 c : Chip} {n : CoreId} (x2 : Nat) (x3 : Nat) (x4 : Word) (h : CFr n c0 c) : CFr n c0 (Chip.consume c (.core n) x2 x3 x4) := by
  unfold Chip.consume
  try dsimp only
  repeat' first | with_reducible assumption | with_reducible apply Chip.fltErr_cf | with_reducible apply Chip.event_cf | with_reducible apply Chip.modDig_cf | with_reducible apply Chip.modCtx_cf | with_reducible apply Chip.orderCompute_cf | with_reducible apply Chip.faultHold_cf | with_reducible apply Chip.stepStopped_cf | simp only [CFr.upd_iff] | split | intro _ | with_reducible apply CFr.foldl | dsimp only

theorem Chip.ledgerCondition_cf {c0 c : Chip} {n : CoreId}  (h : CFr n c0 c) : CFr n c0 (Chip.ledgerCondition c (.core n)) := by
  unfold Chip.ledgerCondition
  try dsimp only
  repeat' first | with_reducible assumption | with_reducible apply Chip.faultHold_cf | simp only [CFr.upd_iff] | split | intro _ | with_reducible apply CFr.foldl | dsimp only

theorem Chip.digErr_cf {c0 c : Chip} {n : CoreId} (x1 : Nat) (h : CFr n c0 c) : CFr n c0 (Chip.digErr c x1) := by
  unfold Chip.digErr
  try dsimp only
  repeat' first | with_reducible assumption | with_reducible apply Chip.irqCause_cf | simp only [CFr.upd_iff] | split | intro _ | with_reducible apply CFr.foldl | dsimp only

theorem Chip.residueFault_cf {c0 c : Chip} {n : CoreId}  (h : CFr n c0 c) : CFr n c0 (Chip.residueFault c) := by
  unfold Chip.residueFault
  try dsimp only
  repeat' first | with_reducible assumption | with_reducible apply Chip.digErr_cf | simp only [CFr.upd_iff] | split | intro _ | with_reducible apply CFr.foldl | dsimp only

theorem Chip.modCore_cf {c0 c : Chip} {n : CoreId} (x2 : Core → Core) (h : CFr n c0 c) : CFr n c0 (Chip.modCore c n x2) := by
  unfold Chip.modCore
  try dsimp only
  repeat' first | with_reducible assumption | with_reducible apply Chip.setCore_cf | simp only [CFr.upd_iff] | split | intro _ | with_reducible apply CFr.foldl | dsimp only

theorem Chip.addNotDone_cf {c0 c : Chip} {n : CoreId} (x1 : Option CtxId) (x2 : Option Word) (x3 : Nat) (h : CFr n c0 c) : CFr n c0 (Chip.addNotDone c x1 x2 x3) := by
  unfold Chip.addNotDone
  try dsimp only
  repeat' first | with_reducible assumption | with_reducible apply Chip.modCtx_cf | simp only [CFr.upd_iff] | split | intro _ | with_reducible apply CFr.foldl | dsimp only

theorem Chip.setDState_cf {c0 c : Chip} {n : CoreId} (x1 : DState) (h : CFr n c0 c) : CFr n c0 (Chip.setDState c x1) := by
  unfold Chip.setDState
  try dsimp only
  repeat' first | with_reducible assumption | with_reducible apply Chip.irqCause_cf | with_reducible apply Chip.event_cf | simp only [CFr.upd_iff] | split | intro _ | with_reducible apply CFr.foldl | dsimp only

theorem Chip.refresh_cf {c0 c : Chip} {n : CoreId}  (h : CFr n c0 c) : CFr n c0 (Chip.refresh c) := by
  unfold Chip.refresh
  try dsimp only
  repeat' first | with_reducible assumption | with_reducible apply Chip.setDState_cf | simp only [CFr.upd_iff] | split | intro _ | with_reducible apply CFr.foldl | dsimp only

theorem Chip.quarantine_cf {c0 c : Chip} {n : CoreId}  (h : CFr n c0 c) : CFr n c0 (Chip.quarantine c (.core n)) := by
  unfold Chip.quarantine
  try dsimp only
  repeat' first | with_reducible assumption | with_reducible apply Chip.modCore_cf | with_reducible apply Chip.addNotDone_cf | with_reducible apply Chip.fltErr_cf | with_reducible apply Chip.orderCompute_cf | with_reducible apply Chip.refresh_cf | with_reducible apply Chip.event_cf | simp only [CFr.upd_iff] | split | intro _ | with_reducible apply CFr.foldl | dsimp only

theorem Chip.coreReports_cf {c0 c : Chip} {n : CoreId} (x2 : CoreOut) (h : CFr n c0 c) : CFr n c0 (Chip.coreReports c n x2) := by
  unfold Chip.coreReports
  try dsimp only
  repeat' first | with_reducible assumption | with_reducible apply Chip.consume_cf | with_reducible apply Chip.ledgerCondition_cf | with_reducible apply Chip.residueFault_cf | with_reducible apply Chip.quarantine_cf | simp only [CFr.upd_iff] | split | intro _ | with_reducible apply CFr.foldl | dsimp only

theorem Chip.coreStep_cf {c0 c : Chip} {n : CoreId} (x2 : Instr) (x3 : Core → CoreOut) (h : CFr n c0 c) : CFr n c0 (Chip.coreStep c n x2 x3) := by
  unfold Chip.coreStep
  try dsimp only
  repeat' first | with_reducible assumption | with_reducible apply Chip.coreStopReport_cf | with_reducible apply Chip.setCore_cf | with_reducible apply Chip.consume_cf | with_reducible apply Chip.coreReports_cf | simp only [CFr.upd_iff] | split | intro _ | with_reducible apply CFr.foldl | dsimp only

theorem Chip.enqueueMessage_cf {c0 c : Chip} {n : CoreId} (x1 : Hdr) (x2 : List (List Byte)) (h : CFr n c0 c) : CFr n c0 (Chip.enqueueMessage c x1 x2) := by
  unfold Chip.enqueueMessage
  try dsimp only
  repeat' first | with_reducible assumption | simp only [CFr.upd_iff] | split | intro _ | with_reducible apply CFr.foldl | dsimp only

theorem Chip.sendArrive_cf {c0 c : Chip} {n : CoreId} (x1 : Nat) (x2 : BitVec 12) (x3 : Byte) (x4 : Byte) (x5 : Option CtxId) (x6 : BitVec 16) (x7 : BitVec 16) (h : CFr n c0 c) : CFr n c0 (Chip.sendArrive c x1 x2 x3 x4 x5 x6 x7) := by
  unfold Chip.sendArrive
  try dsimp only
  repeat' first | with_reducible assumption | with_reducible apply Chip.enqueueMessage_cf | simp only [CFr.upd_iff] | split | intro _ | with_reducible apply CFr.foldl | dsimp only

theorem Chip.sendArrival_cf {c0 c : Chip} {n : CoreId} (x1 : Nat) (x2 : BitVec 12) (x3 : Byte) (x4 : Byte) (x5 : Option CtxId) (x6 : BitVec 16) (x7 : BitVec 16) (h : CFr n c0 c) : CFr n c0 (Chip.sendArrival c x1 x2 x3 x4 x5 x6 x7) := by
  unfold Chip.sendArrival
  try dsimp only
  repeat' first | with_reducible assumption | with_reducible apply Chip.sendArrive_cf | simp only [CFr.upd_iff] | split | intro _ | with_reducible apply CFr.foldl | dsimp only

theorem arriveEffect_cf {c0 c : Chip} {n : CoreId} (x1 : BitVec 54) (h : CFr n c0 c) : CFr n c0 (arriveEffect n x1 c) := by
  unfold arriveEffect
  try dsimp only
  repeat' first | with_reducible assumption | with_reducible apply Chip.coreStep_cf | with_reducible apply Chip.sendArrival_cf | simp only [CFr.upd_iff] | split | intro _ | with_reducible apply CFr.foldl | dsimp only

theorem Chip.mbxErr_cf {c0 c : Chip} {n : CoreId} (x1 : Nat) (h : CFr n c0 c) : CFr n c0 (Chip.mbxErr c x1) := by
  unfold Chip.mbxErr
  try dsimp only
  repeat' first | with_reducible assumption | with_reducible apply Chip.irqCause_cf | simp only [CFr.upd_iff] | split | intro _ | with_reducible apply CFr.foldl | dsimp only

theorem Chip.ringPut_cf {c0 c : Chip} {n : CoreId} (x1 : Final) (h : CFr n c0 c) : CFr n c0 (Chip.ringPut c x1) := by
  unfold Chip.ringPut
  try dsimp only
  repeat' first | with_reducible assumption | with_reducible apply Chip.vectorEvent_cf | simp only [CFr.upd_iff] | split | intro _ | with_reducible apply CFr.foldl | dsimp only

theorem Chip.ringPush_cf {c0 c : Chip} {n : CoreId} (x1 : Final) (h : CFr n c0 c) : CFr n c0 (Chip.ringPush c x1) := by
  unfold Chip.ringPush
  try dsimp only
  repeat' first | with_reducible assumption | with_reducible apply Chip.mbxErr_cf | with_reducible apply Chip.ringPut_cf | simp only [CFr.upd_iff] | split | intro _ | with_reducible apply CFr.foldl | dsimp only

theorem Chip.slotDone_cf {c0 c : Chip} {n : CoreId} (x1 : Cmd) (x2 : BitVec 16) (x3 : Word) (x4 : Word) (x5 : Word) (x6 : List Byte) (h : CFr n c0 c) : CFr n c0 (Chip.slotDone c x1 x2 x3 x4 x5 x6) := by
  unfold Chip.slotDone
  try dsimp only
  repeat' first | with_reducible assumption | with_reducible apply Chip.vectorEvent_cf | simp only [CFr.upd_iff] | split | intro _ | with_reducible apply CFr.foldl | dsimp only

theorem Chip.putFinal_cf {c0 c : Chip} {n : CoreId} (x1 : Final) (h : CFr n c0 c) : CFr n c0 (Chip.putFinal c x1) := by
  unfold Chip.putFinal
  try dsimp only
  repeat' first | with_reducible assumption | with_reducible apply Chip.ringPush_cf | with_reducible apply Chip.slotDone_cf | simp only [CFr.upd_iff] | split | intro _ | with_reducible apply CFr.foldl | dsimp only

theorem Chip.finish_cf {c0 c : Chip} {n : CoreId} (x1 : Cmd) (x2 : Bool) (x3 : BitVec 16) (x4 : Word) (x5 : Word) (x6 : List Byte) (x7 : optParam Bool false) (h : CFr n c0 c) : CFr n c0 (Chip.finish c x1 x2 x3 x4 x5 x6 x7) := by
  unfold Chip.finish
  try dsimp only
  repeat' first | with_reducible assumption | with_reducible apply Chip.putFinal_cf | simp only [CFr.upd_iff] | split | intro _ | with_reducible apply CFr.foldl | dsimp only

theorem Chip.replayCompleted_cf {c0 c : Chip} {n : CoreId} (x1 : CtxId) (x2 : Run) (x3 : List UnitId) (h : CFr n c0 c) : CFr n c0 (Chip.replayCompleted c x1 x2 x3) := by
  unfold Chip.replayCompleted
  try dsimp only
  repeat' first | with_reducible assumption | with_reducible apply Chip.digErr_cf | with_reducible apply Chip.modCtx_cf | with_reducible apply Chip.finish_cf | simp only [CFr.upd_iff] | split | intro _ | with_reducible apply CFr.foldl | dsimp only

theorem Chip.queueRecord_cf {c0 c : Chip} {n : CoreId} (x1 : CtxId) (x2 : Nat) (x3 : BitVec 16) (x4 : Bool) (x5 : List Byte) (h : CFr n c0 c) : CFr n c0 (Chip.queueRecord c x1 x2 x3 x4 x5) := by
  unfold Chip.queueRecord
  try dsimp only
  repeat' first | with_reducible assumption | simp only [CFr.upd_iff] | split | intro _ | with_reducible apply CFr.foldl | dsimp only

theorem Chip.sendStep_cf {c0 c : Chip} {n : CoreId} (x1 : CtxId) (x2 : OwnDigest) (h : CFr n c0 c) : CFr n c0 (Chip.sendStep c x1 x2) := by
  unfold Chip.sendStep
  try dsimp only
  repeat' first | with_reducible assumption | with_reducible apply Chip.queueRecord_cf | simp only [CFr.upd_iff] | split | intro _ | with_reducible apply CFr.foldl | dsimp only

theorem Chip.stepCompleted_cf {c0 c : Chip} {n : CoreId} (x1 : CtxId) (x2 : Run) (x3 : List UnitId) (h : CFr n c0 c) : CFr n c0 (Chip.stepCompleted c x1 x2 x3) := by
  unfold Chip.stepCompleted
  try dsimp only
  repeat' first | with_reducible assumption | with_reducible apply Chip.sendStep_cf | with_reducible apply Chip.modCtx_cf | with_reducible apply Chip.modDig_cf | simp only [CFr.upd_iff] | split | intro _ | with_reducible apply CFr.foldl | dsimp only

theorem Chip.unitCompleted_cf {c0 c : Chip} {n : CoreId}  (h : CFr n c0 c) : CFr n c0 (Chip.unitCompleted c (.core n)) := by
  unfold Chip.unitCompleted
  try dsimp only
  repeat' first | with_reducible assumption | with_reducible apply Chip.replayCompleted_cf | with_reducible apply Chip.stepCompleted_cf | simp only [CFr.upd_iff] | split | intro _ | with_reducible apply CFr.foldl | dsimp only

theorem moveQEffect_cf {c0 c : Chip} {n : CoreId} (x1 : BitVec 54) (h : CFr n c0 c) : CFr n c0 (moveQEffect n x1 c) := by
  unfold moveQEffect
  try dsimp only
  repeat' first | with_reducible assumption | with_reducible apply Chip.coreStep_cf | simp only [CFr.upd_iff] | split | intro _ | with_reducible apply CFr.foldl | dsimp only

theorem execMma_cf {n : CoreId} {w : BitVec 54} {s s' : State} (h : execMma n w s = .next s') : CFr n s.chip s'.chip := by
  unfold execMma State.lift at h
  cases h
  dsimp only
  have h := CFr.refl n s.chip
  repeat' first | with_reducible assumption | with_reducible apply Chip.coreStep_cf | split

theorem execLedgClr_cf {n : CoreId} {w : BitVec 54} {s s' : State} (h : execLedgClr n w s = .next s') : CFr n s.chip s'.chip := by
  unfold execLedgClr State.lift at h
  cases h
  dsimp only
  have h := CFr.refl n s.chip
  repeat' first | with_reducible assumption | with_reducible apply Chip.coreStep_cf | split

theorem execVsub_cf {n : CoreId} {w : BitVec 54} {s s' : State} (h : execVsub n w s = .next s') : CFr n s.chip s'.chip := by
  unfold execVsub State.lift at h
  cases h
  dsimp only
  have h := CFr.refl n s.chip
  repeat' first | with_reducible assumption | with_reducible apply Chip.coreStep_cf | split

theorem execVlog2_cf {n : CoreId} {w : BitVec 54} {s s' : State} (h : execVlog2 n w s = .next s') : CFr n s.chip s'.chip := by
  unfold execVlog2 State.lift at h
  cases h
  dsimp only
  have h := CFr.refl n s.chip
  repeat' first | with_reducible assumption | with_reducible apply Chip.coreStep_cf | split

theorem execVexp2_cf {n : CoreId} {w : BitVec 54} {s s' : State} (h : execVexp2 n w s = .next s') : CFr n s.chip s'.chip := by
  unfold execVexp2 State.lift at h
  cases h
  dsimp only
  have h := CFr.refl n s.chip
  repeat' first | with_reducible assumption | with_reducible apply Chip.coreStep_cf | split

theorem execVrcp_cf {n : CoreId} {w : BitVec 54} {s s' : State} (h : execVrcp n w s = .next s') : CFr n s.chip s'.chip := by
  unfold execVrcp State.lift at h
  cases h
  dsimp only
  have h := CFr.refl n s.chip
  repeat' first | with_reducible assumption | with_reducible apply Chip.coreStep_cf | split

theorem execAddc_cf {n : CoreId} {w : BitVec 54} {s s' : State} (h : execAddc n w s = .next s') : CFr n s.chip s'.chip := by
  unfold execAddc State.lift at h
  cases h
  dsimp only
  have h := CFr.refl n s.chip
  repeat' first | with_reducible assumption | with_reducible apply Chip.coreStep_cf | split

theorem execSetc_cf {n : CoreId} {w : BitVec 54} {s s' : State} (h : execSetc n w s = .next s') : CFr n s.chip s'.chip := by
  unfold execSetc State.lift at h
  cases h
  dsimp only
  have h := CFr.refl n s.chip
  repeat' first | with_reducible assumption | with_reducible apply Chip.coreStep_cf | split

theorem execVcmp_cf {n : CoreId} {w : BitVec 54} {s s' : State} (h : execVcmp n w s = .next s') : CFr n s.chip s'.chip := by
  unfold execVcmp State.lift at h
  cases h
  dsimp only
  have h := CFr.refl n s.chip
  repeat' first | with_reducible assumption | with_reducible apply Chip.coreStep_cf | split

theorem execVfma_cf {n : CoreId} {w : BitVec 54} {s s' : State} (h : execVfma n w s = .next s') : CFr n s.chip s'.chip := by
  unfold execVfma State.lift at h
  cases h
  dsimp only
  have h := CFr.refl n s.chip
  repeat' first | with_reducible assumption | with_reducible apply Chip.coreStep_cf | split

theorem execTickNext_cf {n : CoreId} {w : BitVec 54} {s s' : State} (h : execTickNext n w s = .next s') : CFr n s.chip s'.chip := by
  unfold execTickNext State.lift at h
  cases h
  dsimp only
  have h := CFr.refl n s.chip
  repeat' first | with_reducible assumption | with_reducible apply Chip.coreStep_cf | split

theorem execIfence_cf {n : CoreId} {w : BitVec 54} {s s' : State} (h : execIfence n w s = .next s') : CFr n s.chip s'.chip := by
  unfold execIfence State.lift at h
  cases h
  dsimp only
  have h := CFr.refl n s.chip
  repeat' first | with_reducible assumption | with_reducible apply Chip.coreStep_cf | split

theorem execArrive_cf {n : CoreId} {w : BitVec 54} {s s' : State} (h : execArrive n w s = .next s') : CFr n s.chip s'.chip := by
  unfold execArrive State.lift at h
  cases h
  dsimp only
  have h := CFr.refl n s.chip
  repeat' first | with_reducible assumption | with_reducible apply arriveEffect_cf | split

theorem execSubc_cf {n : CoreId} {w : BitVec 54} {s s' : State} (h : execSubc n w s = .next s') : CFr n s.chip s'.chip := by
  unfold execSubc State.lift at h
  cases h
  dsimp only
  have h := CFr.refl n s.chip
  repeat' first | with_reducible assumption | with_reducible apply Chip.coreStep_cf | split

theorem execLedgLoad_cf {n : CoreId} {w : BitVec 54} {s s' : State} (h : execLedgLoad n w s = .next s') : CFr n s.chip s'.chip := by
  unfold execLedgLoad State.lift at h
  cases h
  dsimp only
  have h := CFr.refl n s.chip
  repeat' first | with_reducible assumption | with_reducible apply Chip.coreStep_cf | split

theorem execVsel_cf {n : CoreId} {w : BitVec 54} {s s' : State} (h : execVsel n w s = .next s') : CFr n s.chip s'.chip := by
  unfold execVsel State.lift at h
  cases h
  dsimp only
  have h := CFr.refl n s.chip
  repeat' first | with_reducible assumption | with_reducible apply Chip.coreStep_cf | split

theorem execVld_cf {n : CoreId} {w : BitVec 54} {s s' : State} (h : execVld n w s = .next s') : CFr n s.chip s'.chip := by
  unfold execVld State.lift at h
  cases h
  dsimp only
  have h := CFr.refl n s.chip
  repeat' first | with_reducible assumption | with_reducible apply Chip.coreStep_cf | split

theorem execMoveQ_cf {n : CoreId} {w : BitVec 54} {s s' : State} (h : execMoveQ n w s = .next s') : CFr n s.chip s'.chip := by
  unfold execMoveQ State.lift at h
  cases h
  dsimp only
  have h := CFr.refl n s.chip
  repeat' first | with_reducible assumption | with_reducible apply moveQEffect_cf | split

theorem execSyncWait_cf {n : CoreId} {w : BitVec 54} {s s' : State} (h : execSyncWait n w s = .next s') : CFr n s.chip s'.chip := by
  unfold execSyncWait State.lift at h
  cases h
  dsimp only
  have h := CFr.refl n s.chip
  repeat' first | with_reducible assumption | with_reducible apply Chip.coreStep_cf | split

theorem execVadd_cf {n : CoreId} {w : BitVec 54} {s s' : State} (h : execVadd n w s = .next s') : CFr n s.chip s'.chip := by
  unfold execVadd State.lift at h
  cases h
  dsimp only
  have h := CFr.refl n s.chip
  repeat' first | with_reducible assumption | with_reducible apply Chip.coreStep_cf | split

theorem execNop_cf {n : CoreId} {w : BitVec 54} {s s' : State} (h : execNop n w s = .next s') : CFr n s.chip s'.chip := by
  unfold execNop State.lift at h
  cases h
  dsimp only
  have h := CFr.refl n s.chip
  repeat' first | with_reducible assumption | with_reducible apply Chip.coreStep_cf | split

theorem execVsum_cf {n : CoreId} {w : BitVec 54} {s s' : State} (h : execVsum n w s = .next s') : CFr n s.chip s'.chip := by
  unfold execVsum State.lift at h
  cases h
  dsimp only
  have h := CFr.refl n s.chip
  repeat' first | with_reducible assumption | with_reducible apply Chip.coreStep_cf | split

theorem execVmin_cf {n : CoreId} {w : BitVec 54} {s s' : State} (h : execVmin n w s = .next s') : CFr n s.chip s'.chip := by
  unfold execVmin State.lift at h
  cases h
  dsimp only
  have h := CFr.refl n s.chip
  repeat' first | with_reducible assumption | with_reducible apply Chip.coreStep_cf | split

theorem execMoveF_cf {n : CoreId} {w : BitVec 54} {s s' : State} (h : execMoveF n w s = .next s') : CFr n s.chip s'.chip := by
  unfold execMoveF State.lift at h
  cases h
  dsimp only
  have h := CFr.refl n s.chip
  repeat' first | with_reducible assumption | with_reducible apply Chip.coreStep_cf | split

theorem execVmova_cf {n : CoreId} {w : BitVec 54} {s s' : State} (h : execVmova n w s = .next s') : CFr n s.chip s'.chip := by
  unfold execVmova State.lift at h
  cases h
  dsimp only
  have h := CFr.refl n s.chip
  repeat' first | with_reducible assumption | with_reducible apply Chip.coreStep_cf | split

theorem execLedgDig_cf {n : CoreId} {w : BitVec 54} {s s' : State} (h : execLedgDig n w s = .next s') : CFr n s.chip s'.chip := by
  unfold execLedgDig State.lift at h
  cases h
  dsimp only
  have h := CFr.refl n s.chip
  repeat' first | with_reducible assumption | with_reducible apply Chip.coreStep_cf | split

theorem execSeta_cf {n : CoreId} {w : BitVec 54} {s s' : State} (h : execSeta n w s = .next s') : CFr n s.chip s'.chip := by
  unfold execSeta State.lift at h
  cases h
  dsimp only
  have h := CFr.refl n s.chip
  repeat' first | with_reducible assumption | with_reducible apply Chip.coreStep_cf | split

theorem execTickRd_cf {n : CoreId} {w : BitVec 54} {s s' : State} (h : execTickRd n w s = .next s') : CFr n s.chip s'.chip := by
  unfold execTickRd State.lift at h
  cases h
  dsimp only
  have h := CFr.refl n s.chip
  repeat' first | with_reducible assumption | with_reducible apply Chip.coreStep_cf | split

theorem execVmul_cf {n : CoreId} {w : BitVec 54} {s s' : State} (h : execVmul n w s = .next s') : CFr n s.chip s'.chip := by
  unfold execVmul State.lift at h
  cases h
  dsimp only
  have h := CFr.refl n s.chip
  repeat' first | with_reducible assumption | with_reducible apply Chip.coreStep_cf | split

theorem execVrsq_cf {n : CoreId} {w : BitVec 54} {s s' : State} (h : execVrsq n w s = .next s') : CFr n s.chip s'.chip := by
  unfold execVrsq State.lift at h
  cases h
  dsimp only
  have h := CFr.refl n s.chip
  repeat' first | with_reducible assumption | with_reducible apply Chip.coreStep_cf | split

theorem execAdda_cf {n : CoreId} {w : BitVec 54} {s s' : State} (h : execAdda n w s = .next s') : CFr n s.chip s'.chip := by
  unfold execAdda State.lift at h
  cases h
  dsimp only
  have h := CFr.refl n s.chip
  repeat' first | with_reducible assumption | with_reducible apply Chip.coreStep_cf | split

theorem execBr_cf {n : CoreId} {w : BitVec 54} {s s' : State} (h : execBr n w s = .next s') : CFr n s.chip s'.chip := by
  unfold execBr State.lift at h
  cases h
  dsimp only
  have h := CFr.refl n s.chip
  repeat' first | with_reducible assumption | with_reducible apply Chip.coreStep_cf | split

theorem execVmaxr_cf {n : CoreId} {w : BitVec 54} {s s' : State} (h : execVmaxr n w s = .next s') : CFr n s.chip s'.chip := by
  unfold execVmaxr State.lift at h
  cases h
  dsimp only
  have h := CFr.refl n s.chip
  repeat' first | with_reducible assumption | with_reducible apply Chip.coreStep_cf | split

theorem execTickWait_cf {n : CoreId} {w : BitVec 54} {s s' : State} (h : execTickWait n w s = .next s') : CFr n s.chip s'.chip := by
  unfold execTickWait State.lift at h
  cases h
  dsimp only
  have h := CFr.refl n s.chip
  repeat' first | with_reducible assumption | with_reducible apply Chip.coreStep_cf | split

theorem execLoop_cf {n : CoreId} {w : BitVec 54} {s s' : State} (h : execLoop n w s = .next s') : CFr n s.chip s'.chip := by
  unfold execLoop State.lift at h
  cases h
  dsimp only
  have h := CFr.refl n s.chip
  repeat' first | with_reducible assumption | with_reducible apply Chip.coreStep_cf | split

theorem execRdc_cf {n : CoreId} {w : BitVec 54} {s s' : State} (h : execRdc n w s = .next s') : CFr n s.chip s'.chip := by
  unfold execRdc State.lift at h
  cases h
  dsimp only
  have h := CFr.refl n s.chip
  repeat' first | with_reducible assumption | with_reducible apply Chip.coreStep_cf | split

theorem execVmax_cf {n : CoreId} {w : BitVec 54} {s s' : State} (h : execVmax n w s = .next s') : CFr n s.chip s'.chip := by
  unfold execVmax State.lift at h
  cases h
  dsimp only
  have h := CFr.refl n s.chip
  repeat' first | with_reducible assumption | with_reducible apply Chip.coreStep_cf | split

theorem execLedgCvt_cf {n : CoreId} {w : BitVec 54} {s s' : State} (h : execLedgCvt n w s = .next s') : CFr n s.chip s'.chip := by
  unfold execLedgCvt State.lift at h
  cases h
  dsimp only
  have h := CFr.refl n s.chip
  repeat' first | with_reducible assumption | with_reducible apply Chip.coreStep_cf | split

theorem execVomul_cf {n : CoreId} {w : BitVec 54} {s s' : State} (h : execVomul n w s = .next s') : CFr n s.chip s'.chip := by
  unfold execVomul State.lift at h
  cases h
  dsimp only
  have h := CFr.refl n s.chip
  repeat' first | with_reducible assumption | with_reducible apply Chip.coreStep_cf | split

theorem execBnz_cf {n : CoreId} {w : BitVec 54} {s s' : State} (h : execBnz n w s = .next s') : CFr n s.chip s'.chip := by
  unfold execBnz State.lift at h
  cases h
  dsimp only
  have h := CFr.refl n s.chip
  repeat' first | with_reducible assumption | with_reducible apply Chip.coreStep_cf | split

theorem execLedgFlg_cf {n : CoreId} {w : BitVec 54} {s s' : State} (h : execLedgFlg n w s = .next s') : CFr n s.chip s'.chip := by
  unfold execLedgFlg State.lift at h
  cases h
  dsimp only
  have h := CFr.refl n s.chip
  repeat' first | with_reducible assumption | with_reducible apply Chip.coreStep_cf | split

theorem execVst_cf {n : CoreId} {w : BitVec 54} {s s' : State} (h : execVst n w s = .next s') : CFr n s.chip s'.chip := by
  unfold execVst State.lift at h
  cases h
  dsimp only
  have h := CFr.refl n s.chip
  repeat' first | with_reducible assumption | with_reducible apply Chip.coreStep_cf | split

theorem execHalt_cf {n : CoreId} {w : BitVec 54} {s s' : State} (h : execHalt n w s = .next s') : CFr n s.chip s'.chip := by
  unfold execHalt State.lift at h
  cases h
  dsimp only
  have h := CFr.refl n s.chip
  repeat' first | with_reducible assumption | with_reducible apply Chip.coreStep_cf | with_reducible apply Chip.unitCompleted_cf | split

theorem execLedgSave_cf {n : CoreId} {w : BitVec 54} {s s' : State} (h : execLedgSave n w s = .next s') : CFr n s.chip s'.chip := by
  unfold execLedgSave State.lift at h
  cases h
  dsimp only
  have h := CFr.refl n s.chip
  repeat' first | with_reducible assumption | with_reducible apply Chip.coreStep_cf | split

end Sys2Proof.Machine
end

