-- ==== Sys2Proof/Laws/Follows.lean ====
section
/-! SUPPORT. The relation Chip.Follows: how it passes through record updates, unit updates and folds. -/
namespace Sys2Proof.Machine

variable {c0 c : Chip}

theorem Chip.Follows.refl (c : Chip) : c.Follows c := ⟨rfl, Nat.le_refl _, id⟩

/-- An update of anything but units, memory, the NOR and the fuses. -/
theorem Chip.Follows.upd {frm plan rte dig img mbx flt bru pwr thm pkg uptime out n} (h : c0.Follows c) :
    c0.Follows ⟨c.cores, c.engines, c.stks, c.mem, c.links, frm, plan, rte, dig, img, mbx, flt, c.nor, c.fuse, bru, pwr, thm, pkg,
      uptime, out, n⟩ :=
  ⟨h.fuse, h.rollback, fun k => ⟨(h.canonical k).cores, (h.canonical k).engines, (h.canonical k).stks, (h.canonical k).links, (h.canonical k).mem⟩⟩

theorem Chip.Follows.upd_iff {frm plan rte dig img mbx flt bru pwr thm pkg uptime out n} :
    c0.Follows ⟨c.cores, c.engines, c.stks, c.mem, c.links, frm, plan, rte, dig, img, mbx, flt, c.nor, c.fuse, bru, pwr, thm, pkg,
      uptime, out, n⟩ ↔ c0.Follows c :=
  ⟨fun h => ⟨h.fuse, h.rollback, fun k => ⟨(h.canonical k).cores, (h.canonical k).engines, (h.canonical k).stks, (h.canonical k).links, (h.canonical k).mem⟩⟩,
    Chip.Follows.upd⟩

theorem Chip.Follows.fst_of {β : Type} {p : Chip × β} {d : Chip} {y : β} (e : p = (d, y)) (h : c0.Follows p.1) : c0.Follows d := by
  subst e; exact h

theorem Chip.Follows.snd_of {β : Type} {p : β × Chip} {d : Chip} {y : β} (e : p = (y, d)) (h : c0.Follows p.2) : c0.Follows d := by
  subst e; exact h

/-- An update of the NOR that does not lower the counter. -/
theorem Chip.Follows.updNor {frm plan rte dig img mbx flt nor bru pwr thm pkg uptime out n} (h : c0.Follows c)
    (hn : nor.antiRollback = c.nor.antiRollback) :
    c0.Follows ⟨c.cores, c.engines, c.stks, c.mem, c.links, frm, plan, rte, dig, img, mbx, flt, nor, c.fuse, bru, pwr, thm, pkg,
      uptime, out, n⟩ :=
  ⟨h.fuse, by rw [hn]; exact h.rollback,
    fun k => ⟨(h.canonical k).cores, (h.canonical k).engines, (h.canonical k).stks, (h.canonical k).links, (h.canonical k).mem⟩⟩

/-- An update of memory that keeps its canonical form. -/
theorem Chip.Follows.updMem {mem frm plan rte dig img mbx flt bru pwr thm pkg uptime out n} (h : c0.Follows c) (hm : c.mem.wf → mem.wf) :
    c0.Follows ⟨c.cores, c.engines, c.stks, mem, c.links, frm, plan, rte, dig, img, mbx, flt, c.nor, c.fuse, bru, pwr, thm, pkg,
      uptime, out, n⟩ :=
  ⟨h.fuse, h.rollback,
    fun k => ⟨(h.canonical k).cores, (h.canonical k).engines, (h.canonical k).stks, (h.canonical k).links, hm (h.canonical k).mem⟩⟩

theorem Chip.setCore_follows (n : CoreId) (k : Core) (h : c0.Follows c) : c0.Follows (c.setCore n k) :=
  ⟨h.fuse, h.rollback, fun q => ⟨twf_tset (h.canonical q).cores _ _, (h.canonical q).engines, (h.canonical q).stks, (h.canonical q).links, (h.canonical q).mem⟩⟩

theorem Chip.setEngine_follows (e : EngineId) (k : Engine) (h : c0.Follows c) : c0.Follows (c.setEngine e k) :=
  ⟨h.fuse, h.rollback, fun q => ⟨(h.canonical q).cores, twf_tset (h.canonical q).engines _ _, (h.canonical q).stks, (h.canonical q).links, (h.canonical q).mem⟩⟩

theorem Chip.setStack_follows (s : StackId) (k : Stack) (h : c0.Follows c) : c0.Follows (c.setStack s k) :=
  ⟨h.fuse, h.rollback, fun q => ⟨(h.canonical q).cores, (h.canonical q).engines, twf_tset (h.canonical q).stks _ _, (h.canonical q).links, (h.canonical q).mem⟩⟩

theorem Chip.setLink_follows (l : LinkId) (k : Link) (h : c0.Follows c) : c0.Follows (c.setLink l k) :=
  ⟨h.fuse, h.rollback, fun q => ⟨(h.canonical q).cores, (h.canonical q).engines, (h.canonical q).stks, twf_tset (h.canonical q).links _ _, (h.canonical q).mem⟩⟩

/-- A fold of steps that follow. -/
theorem Chip.foldl_follows {α : Type} (g : Chip → α → Chip) (l : List α) (hg : ∀ d x, c0.Follows d → c0.Follows (g d x)) (h : c0.Follows c) :
    c0.Follows (l.foldl g c) := by
  induction l generalizing c with
  | nil => exact h
  | cons x l ih => exact ih (hg c x h)


/-- An update of the NOR among others, which leaves the counter alone. -/
theorem Chip.Follows.updNor_iff {frm plan rte dig img mbx flt nor bru pwr thm pkg uptime out n} (hn : nor.antiRollback = c.nor.antiRollback) :
    c0.Follows ⟨c.cores, c.engines, c.stks, c.mem, c.links, frm, plan, rte, dig, img, mbx, flt, nor, c.fuse, bru, pwr, thm, pkg,
      uptime, out, n⟩ ↔ c0.Follows c :=
  ⟨fun h => ⟨h.fuse, by rw [← hn]; exact h.rollback, fun k => ⟨(h.canonical k).cores, (h.canonical k).engines, (h.canonical k).stks, (h.canonical k).links, (h.canonical k).mem⟩⟩,
    fun h => h.updNor hn⟩

/-- An update of memory among others, which leaves bytes, tags and band table alone. -/
theorem Chip.Follows.updMem_iff {mem frm plan rte dig img mbx flt bru pwr thm pkg uptime out n}
    (hd : mem.dram = c.mem.dram) (ht : mem.tag = c.mem.tag) (hb : mem.bands = c.mem.bands) :
    c0.Follows ⟨c.cores, c.engines, c.stks, mem, c.links, frm, plan, rte, dig, img, mbx, flt, c.nor, c.fuse, bru, pwr, thm, pkg,
      uptime, out, n⟩ ↔ c0.Follows c := by
  have e : mem.wf = c.mem.wf := by unfold MemSys.wf; rw [hd, ht, hb]
  constructor
  · intro h
    exact ⟨h.fuse, h.rollback, fun k => ⟨(h.canonical k).cores, (h.canonical k).engines, (h.canonical k).stks, (h.canonical k).links, e ▸ (h.canonical k).mem⟩⟩
  · intro h
    exact h.updMem (fun w => e ▸ w)

/-- A package made anew that keeps the fuses and the counter. -/
theorem Chip.Follows.fresh {d : Chip} (h : c0.Follows c) (hf : d.fuse = c.fuse) (hn : d.nor.antiRollback = c.nor.antiRollback)
    (hc : d.Canonical) : c0.Follows d :=
  ⟨hf.trans h.fuse, by rw [hn]; exact h.rollback, fun _ => hc⟩

theorem Chip.foldl_fst_follows {α β : Type} (g : Chip × β → α → Chip × β) (l : List α)
    (hg : ∀ s x, c0.Follows s.1 → c0.Follows (g s x).1) (s : Chip × β) (h : c0.Follows s.1) : c0.Follows (l.foldl g s).1 := by
  induction l generalizing s with
  | nil => exact h
  | cons x l ih => exact ih _ (hg s x h)

theorem Chip.foldl_snd_follows {α β : Type} (g : β × Chip → α → β × Chip) (l : List α)
    (hg : ∀ s x, c0.Follows s.2 → c0.Follows (g s x).2) (s : β × Chip) (h : c0.Follows s.2) : c0.Follows (l.foldl g s).2 := by
  induction l generalizing s with
  | nil => exact h
  | cons x l ih => exact ih _ (hg s x h)

theorem Chip.foldl_third_follows {α β γ : Type} (g : β × γ × Chip → α → β × γ × Chip) (l : List α)
    (hg : ∀ s x, c0.Follows s.2.2 → c0.Follows (g s x).2.2) (s : β × γ × Chip) (h : c0.Follows s.2.2) :
    c0.Follows (l.foldl g s).2.2 := by
  induction l generalizing s with
  | nil => exact h
  | cons x l ih => exact ih _ (hg s x h)

/-! The anti-rollback counter under the operations of the NOR. -/

theorem Nor.setInactive_rollback (n : Nor) (i : FwSlot) : (n.setInactive i).antiRollback = n.antiRollback := by
  unfold Nor.setInactive; split <;> rfl

theorem Nor.addPending_rollback (n : Nor) (b : Bool) (i : Nat) : (n.addPending b i).antiRollback = n.antiRollback := by
  unfold Nor.addPending; split <;> rfl

theorem Nor.failRow_rollback (n : Nor) (i : StackId) (r : Nat) : (n.failRow i r).antiRollback = n.antiRollback := by
  unfold Nor.failRow; dsimp only; split
  · rfl
  · split <;> rfl

theorem Nor.failColumn_rollback (n : Nor) (i : StackId) (b : Nat) : (n.failColumn i b).antiRollback = n.antiRollback := by
  unfold Nor.failColumn; dsimp only; split <;> rfl

theorem Nor.rebuild_rollback (n : Nor) (k : Fin 8) : (n.rebuild k).antiRollback = n.antiRollback := by
  unfold Nor.rebuild; split <;> rfl

theorem Nor.takeDefects_rollback (n : Nor) (b : Bool) : (n.takeDefects b).antiRollback = n.antiRollback := by
  unfold Nor.takeDefects; rfl

/-- A fold of operations on the NOR that leave the counter alone. -/
theorem Nor.foldl_rollback {α : Type} (g : Nor → α → Nor) (hg : ∀ n x, (g n x).antiRollback = n.antiRollback) (l : List α) (n : Nor) :
    (l.foldl g n).antiRollback = n.antiRollback := by
  induction l generalizing n with
  | nil => rfl
  | cons x l ih => exact (ih _).trans (hg n x)

theorem Recon.list_rollback (r : Recon) (b : Bool) (s f : Nat) (t : BitVec 8) (u : BitVec 16) :
    (r.list b s f t u).nor.antiRollback = r.nor.antiRollback := by
  unfold Recon.list; dsimp only; split
  · rfl
  · rfl

theorem Recon.site_rollback (r : Recon) (cold b : Bool) (s f : Nat) (t : Option SiteTest) :
    (r.site cold b s f t).nor.antiRollback = r.nor.antiRollback := by
  unfold Recon.site; dsimp only
  repeat' first | split | exact Recon.list_rollback _ _ _ _ _ _ | rfl

theorem Recon.foldl_rollback {α : Type} (g : Recon → α → Recon) (hg : ∀ n x, (g n x).nor.antiRollback = n.nor.antiRollback) (l : List α)
    (n : Recon) : (l.foldl g n).nor.antiRollback = n.nor.antiRollback := by
  induction l generalizing n with
  | nil => rfl
  | cons x l ih => exact (ih _).trans (hg n x)

theorem Chip.reconcile_rollback (c : Chip) (tests : List SiteTest) : (c.reconcile tests).nor.antiRollback = c.nor.antiRollback := by
  unfold Chip.reconcile; dsimp only
  rw [Recon.foldl_rollback _ (fun _ _ => Recon.site_rollback _ _ _ _ _ _), Recon.foldl_rollback _ (fun _ _ => Recon.site_rollback _ _ _ _ _ _)]

/-- The table of the first `n` keys is canonical. -/
theorem twf_tabOf {α : Type} [DecidableEq α] (d : α) (n : Nat) (f : Nat → α) : twf d (tabOf d n f) = true := by
  unfold tabOf twf
  suffices h : ∀ b, twfAbove d b ((List.range' b n).filterMap (fun i => if f i = d then none else some (i, f i))) = true by
    rw [List.range_eq_range']; exact h 0
  induction n with
  | zero => intro b; rfl
  | succ n ih =>
    intro b
    rw [List.range'_succ, List.filterMap_cons]
    split
    · exact twfAbove_mono (ih (b + 1)) (by omega)
    · rename_i x hx
      split at hx
      · cases hx
      · rename_i hne
        cases hx
        simp only [twfAbove, Bool.and_eq_true, decide_eq_true_eq]
        exact ⟨Nat.le_refl _, hne, ih (b + 1)⟩

end Sys2Proof.Machine
end

