-- ==== Sys2Proof/Laws/FollowsOps1.lean ====
section
/-! SUPPORT. The operations of the package keep Chip.Follows, part 1 of 5: every operation after those it calls. -/
namespace Sys2Proof.Machine

theorem Chip.modLink_follows {c0 c : Chip} (i : LinkId) (f : Link → Link) (h : c0.Follows c) : c0.Follows (Chip.modLink c i f) := by
  unfold Chip.modLink
  try dsimp only
  repeat' first | with_reducible assumption | with_reducible apply Chip.setLink_follows | simp only [Chip.Follows.upd_iff] | split
                | intro _ | with_reducible apply Chip.foldl_follows

theorem Chip.modDig_follows {c0 c : Chip} (i : CtxId) (f : DigCtx → DigCtx) (h : c0.Follows c) : c0.Follows (Chip.modDig c i f) := by
  unfold Chip.modDig
  try dsimp only
  repeat' first | with_reducible assumption | simp only [Chip.Follows.upd_iff] | split | intro _ | with_reducible apply Chip.foldl_follows

theorem Chip.sendVector_follows {c0 c : Chip} (v : Nat) (h : c0.Follows c) : c0.Follows (Chip.sendVector c v) := by
  unfold Chip.sendVector
  try dsimp only
  repeat' first | with_reducible assumption | simp only [Chip.Follows.upd_iff] | split | intro _ | with_reducible apply Chip.foldl_follows

theorem Chip.vectorEvent_follows {c0 c : Chip} (v : Nat) (h : c0.Follows c) : c0.Follows (Chip.vectorEvent c v) := by
  unfold Chip.vectorEvent
  try dsimp only
  repeat' first | with_reducible assumption | with_reducible apply Chip.sendVector_follows | simp only [Chip.Follows.upd_iff] | split
                | intro _ | with_reducible apply Chip.foldl_follows

theorem Chip.irqCause_follows {c0 c : Chip} (b : Nat) (h : c0.Follows c) : c0.Follows (Chip.irqCause c b) := by
  unfold Chip.irqCause
  try dsimp only
  repeat' first | with_reducible assumption | with_reducible apply Chip.vectorEvent_follows | simp only [Chip.Follows.upd_iff] | split
                | intro _ | with_reducible apply Chip.foldl_follows

theorem Chip.digErr_follows {c0 c : Chip} (b : Nat) (h : c0.Follows c) : c0.Follows (Chip.digErr c b) := by
  unfold Chip.digErr
  try dsimp only
  repeat' first | with_reducible assumption | with_reducible apply Chip.irqCause_follows | simp only [Chip.Follows.upd_iff] | split
                | intro _ | with_reducible apply Chip.foldl_follows

theorem Chip.checkMissing_follows {c0 c : Chip} (h : c0.Follows c) : c0.Follows (Chip.checkMissing c) := by
  unfold Chip.checkMissing
  try dsimp only
  repeat' first | with_reducible assumption | with_reducible apply Chip.digErr_follows | simp only [Chip.Follows.upd_iff] | split
                | intro _ | with_reducible apply Chip.foldl_follows

theorem Chip.checkUnequal_follows {c0 c : Chip} (h : c0.Follows c) : c0.Follows (Chip.checkUnequal c) := by
  unfold Chip.checkUnequal
  try dsimp only
  repeat' first | with_reducible assumption | with_reducible apply Chip.digErr_follows | simp only [Chip.Follows.upd_iff] | split
                | intro _ | with_reducible apply Chip.foldl_follows

theorem Chip.checkReplica_follows {c0 c : Chip} (x : CtxId) (lfn : BitVec 16) (p : BitVec 16 × Word) (h : c0.Follows c) : c0.Follows
    (Chip.checkReplica c x lfn p).1 := by
  unfold Chip.checkReplica
  try dsimp only
  repeat' first | with_reducible assumption | with_reducible apply Chip.modDig_follows | with_reducible apply Chip.checkMissing_follows
                | with_reducible apply Chip.checkUnequal_follows | simp only [Chip.Follows.upd_iff] | split | intro _
                | with_reducible apply Chip.foldl_follows

theorem Chip.checkTransfer_follows {c0 c : Chip} (x : CtxId) (lfn : BitVec 16) (g : CheckGroup) (h : c0.Follows c) : c0.Follows
    (Chip.checkTransfer c x lfn g).1 := by
  unfold Chip.checkTransfer
  try dsimp only
  repeat' first | with_reducible assumption | with_reducible apply Chip.checkMissing_follows
                | with_reducible apply Chip.checkUnequal_follows | simp only [Chip.Follows.upd_iff] | split | intro _
                | with_reducible apply Chip.foldl_follows

theorem Chip.runChecks_follows {c0 c : Chip} (x : CtxId) (lfn : BitVec 16) (h : c0.Follows c) : c0.Follows (Chip.runChecks c x lfn).1 :=
    by
  unfold Chip.runChecks
  try dsimp only
  repeat' first | with_reducible assumption | with_reducible apply Chip.checkReplica_follows | with_reducible apply Chip.modDig_follows
                | with_reducible apply Chip.checkTransfer_follows | with_reducible apply Chip.checkUnequal_follows
                | simp only [Chip.Follows.upd_iff] | with_reducible apply Chip.foldl_follows | with_reducible apply Chip.foldl_fst_follows
                | with_reducible apply Chip.foldl_snd_follows | with_reducible apply Chip.foldl_third_follows | split | intro _
                | with_reducible refine Chip.Follows.fst_of (by assumption) ?_
                | with_reducible refine Chip.Follows.snd_of (by assumption) ?_
                | simp (disch := first | rfl | exact Nor.setInactive_rollback _ _ | exact Nor.addPending_rollback _ _ _) only [Chip.Follows.updNor_iff]
                | simp (disch := rfl) only [Chip.Follows.updMem_iff] | with_reducible rfl | dsimp only

theorem Chip.verdictCtx_follows {c0 c : Chip} (x : CtxId) (h : c0.Follows c) : c0.Follows (Chip.verdictCtx c x) := by
  unfold Chip.verdictCtx
  try dsimp only
  repeat' first | with_reducible assumption | with_reducible apply Chip.runChecks_follows | with_reducible apply Chip.modDig_follows
                | simp only [Chip.Follows.upd_iff] | split | intro _ | with_reducible apply Chip.foldl_follows

theorem Chip.decideLate_follows {c0 c : Chip} (x : CtxId) (h : c0.Follows c) : c0.Follows (Chip.decideLate c x) := by
  unfold Chip.decideLate
  try dsimp only
  repeat' first | with_reducible assumption | with_reducible apply Chip.verdictCtx_follows | simp only [Chip.Follows.upd_iff] | split
                | intro _ | with_reducible apply Chip.foldl_follows

theorem Chip.lowerNotices_follows {c0 c : Chip} (x : CtxId) (lfn : BitVec 16) (cause : Nat) (h : c0.Follows c) : c0.Follows
    (Chip.lowerNotices c x lfn cause) := by
  unfold Chip.lowerNotices
  try dsimp only
  repeat' first | with_reducible assumption | simp only [Chip.Follows.upd_iff] | split | intro _ | with_reducible apply Chip.foldl_follows

theorem Chip.queueRecord_follows {c0 c : Chip} (x : CtxId) (dst : Nat) (lfn : BitVec 16) (rollback : Bool) (bytes : List Byte) (h :
    c0.Follows c) : c0.Follows (Chip.queueRecord c x dst lfn rollback bytes) := by
  unfold Chip.queueRecord
  try dsimp only
  repeat' first | with_reducible assumption | simp only [Chip.Follows.upd_iff] | split | intro _ | with_reducible apply Chip.foldl_follows

theorem Chip.sendNotices_follows {c0 c : Chip} (x : CtxId) (lfn : BitVec 16) (restart : BitVec 16) (at_ : BitVec 16) (cause : Nat) (hold :
    Bool) (h : c0.Follows c) : c0.Follows (Chip.sendNotices c x lfn restart at_ cause hold) := by
  unfold Chip.sendNotices
  try dsimp only
  repeat' first | with_reducible assumption | with_reducible apply Chip.queueRecord_follows | simp only [Chip.Follows.upd_iff] | split
                | intro _ | with_reducible apply Chip.foldl_follows

theorem Chip.chargePrev_follows {c0 c : Chip} (x : CtxId) (lfn : BitVec 16) (kind : Nat) (h : c0.Follows c) : c0.Follows (Chip.chargePrev
    c x lfn kind) := by
  unfold Chip.chargePrev
  try dsimp only
  repeat' first | with_reducible assumption | with_reducible apply Chip.lowerNotices_follows | with_reducible apply Chip.modDig_follows
                | with_reducible apply Chip.sendNotices_follows | simp only [Chip.Follows.upd_iff] | split | intro _
                | with_reducible apply Chip.foldl_follows

theorem Chip.emit_follows {c0 c : Chip} (o : Out) (h : c0.Follows c) : c0.Follows (Chip.emit c o) := by
  unfold Chip.emit
  try dsimp only
  repeat' first | with_reducible assumption | simp only [Chip.Follows.upd_iff] | split | intro _ | with_reducible apply Chip.foldl_follows

theorem Chip.fltErr_follows {c0 c : Chip} (b : Nat) (h : c0.Follows c) : c0.Follows (Chip.fltErr c b) := by
  unfold Chip.fltErr
  try dsimp only
  repeat' first | with_reducible assumption | with_reducible apply Chip.irqCause_follows | simp only [Chip.Follows.upd_iff] | split
                | intro _ | with_reducible apply Chip.foldl_follows

theorem Chip.sendBeacon_follows {c0 c : Chip} (b : Beacon) (copy : Nat) (h : c0.Follows c) : c0.Follows (Chip.sendBeacon c b copy) := by
  unfold Chip.sendBeacon
  try dsimp only
  repeat' first | with_reducible assumption | simp only [Chip.Follows.upd_iff] | split | intro _ | with_reducible apply Chip.foldl_follows

theorem Chip.event_follows {c0 c : Chip} (e : Event) (h : c0.Follows c) : c0.Follows (Chip.event c e) := by
  unfold Chip.event
  try dsimp only
  repeat' first | with_reducible assumption | with_reducible apply Chip.emit_follows | with_reducible apply Chip.fltErr_follows
                | with_reducible apply Chip.sendBeacon_follows | simp only [Chip.Follows.upd_iff] | split | intro _
                | with_reducible apply Chip.foldl_follows

theorem Chip.modCtx_follows {c0 c : Chip} (i : CtxId) (f : Ctx → Ctx) (h : c0.Follows c) : c0.Follows (Chip.modCtx c i f) := by
  unfold Chip.modCtx
  try dsimp only
  repeat' first | with_reducible assumption | simp only [Chip.Follows.upd_iff] | split | intro _ | with_reducible apply Chip.foldl_follows

theorem Chip.noticeLate_follows {c0 c : Chip} (x : CtxId) (h : c0.Follows c) : c0.Follows (Chip.noticeLate c x) := by
  unfold Chip.noticeLate
  try dsimp only
  repeat' first | with_reducible assumption | with_reducible apply Chip.event_follows | with_reducible apply Chip.modCtx_follows
                | with_reducible apply Chip.digErr_follows | simp only [Chip.Follows.upd_iff] | split | intro _
                | with_reducible apply Chip.foldl_follows

theorem Chip.charge_follows {c0 c : Chip} (x : CtxId) (lfn : BitVec 16) (kind : Nat) (h : c0.Follows c) : c0.Follows (Chip.charge c x lfn
    kind) := by
  unfold Chip.charge
  try dsimp only
  repeat' first | with_reducible assumption | with_reducible apply Chip.decideLate_follows | with_reducible apply Chip.modDig_follows
                | with_reducible apply Chip.chargePrev_follows | with_reducible apply Chip.noticeLate_follows
                | simp only [Chip.Follows.upd_iff] | split | intro _ | with_reducible apply Chip.foldl_follows

theorem Chip.chargeLoss_follows {c0 c : Chip} (w : Dword) (h : c0.Follows c) : c0.Follows (Chip.chargeLoss c w) := by
  unfold Chip.chargeLoss
  try dsimp only
  repeat' first | with_reducible assumption | with_reducible apply Chip.charge_follows | simp only [Chip.Follows.upd_iff] | split
                | intro _ | with_reducible apply Chip.foldl_follows

theorem Chip.enqueueMessage_follows {c0 c : Chip} (qh : Hdr) (flits : List (List Byte)) (h : c0.Follows c) : c0.Follows
    (Chip.enqueueMessage c qh flits) := by
  unfold Chip.enqueueMessage
  try dsimp only
  repeat' first | with_reducible assumption | simp only [Chip.Follows.upd_iff] | split | intro _ | with_reducible apply Chip.foldl_follows

theorem Chip.putNotice_follows {c0 c : Chip} (dst : Nat) (w : Dword) (h : c0.Follows c) : c0.Follows (Chip.putNotice c dst w) := by
  unfold Chip.putNotice
  try dsimp only
  repeat' first | with_reducible assumption | with_reducible apply Chip.chargeLoss_follows
                | with_reducible apply Chip.enqueueMessage_follows | simp only [Chip.Follows.upd_iff] | split | intro _
                | with_reducible apply Chip.foldl_follows

theorem Chip.notifyOnce_follows {c0 c : Chip} (l : LinkId) (key : LossKey) (lfn : BitVec 16) (h : c0.Follows c) : c0.Follows
    (Chip.notifyOnce c l key lfn) := by
  unfold Chip.notifyOnce
  try dsimp only
  repeat' first | with_reducible assumption | with_reducible apply Chip.putNotice_follows | with_reducible apply Chip.modLink_follows
                | simp only [Chip.Follows.upd_iff] | split | intro _ | with_reducible apply Chip.foldl_follows

theorem Chip.notifyLoss_follows {c0 c : Chip} (l : LinkId) (reason : Nat) (circuit : Nat) (dst : Nat) (lfn : BitVec 16) (h : c0.Follows c)
    : c0.Follows (Chip.notifyLoss c l reason circuit dst lfn) := by
  unfold Chip.notifyLoss
  try dsimp only
  repeat' first | with_reducible assumption | with_reducible apply Chip.notifyOnce_follows | simp only [Chip.Follows.upd_iff] | split
                | intro _ | with_reducible apply Chip.foldl_follows

theorem Chip.loseEntry_follows {c0 c : Chip} (l : LinkId) (e : PlanEntry) (h : c0.Follows c) : c0.Follows (Chip.loseEntry c l e) := by
  unfold Chip.loseEntry
  try dsimp only
  repeat' first | with_reducible assumption | with_reducible apply Chip.notifyLoss_follows | with_reducible apply Chip.charge_follows
                | with_reducible apply Chip.modLink_follows | simp only [Chip.Follows.upd_iff] | split | intro _
                | with_reducible apply Chip.foldl_follows

theorem Chip.loseData_follows {c0 c : Chip} (l : LinkId) (h : c0.Follows c) : c0.Follows (Chip.loseData c l) := by
  unfold Chip.loseData
  try dsimp only
  repeat' first | with_reducible assumption | with_reducible apply Chip.loseEntry_follows | simp only [Chip.Follows.upd_iff] | split
                | intro _ | with_reducible apply Chip.foldl_follows

theorem Chip.setDState_follows {c0 c : Chip} (d : DState) (h : c0.Follows c) : c0.Follows (Chip.setDState c d) := by
  unfold Chip.setDState
  try dsimp only
  repeat' first | with_reducible assumption | with_reducible apply Chip.irqCause_follows | with_reducible apply Chip.event_follows
                | simp only [Chip.Follows.upd_iff] | split | intro _ | with_reducible apply Chip.foldl_follows

theorem Chip.refresh_follows {c0 c : Chip} (h : c0.Follows c) : c0.Follows (Chip.refresh c) := by
  unfold Chip.refresh
  try dsimp only
  repeat' first | with_reducible assumption | with_reducible apply Chip.setDState_follows | simp only [Chip.Follows.upd_iff] | split
                | intro _ | with_reducible apply Chip.foldl_follows

theorem Chip.linkDown_follows {c0 c : Chip} (l : LinkId) (cause : Nat) (h : c0.Follows c) : c0.Follows (Chip.linkDown c l cause) := by
  unfold Chip.linkDown
  try dsimp only
  repeat' first | with_reducible assumption | with_reducible apply Chip.modLink_follows | with_reducible apply Chip.loseData_follows
                | with_reducible apply Chip.event_follows | with_reducible apply Chip.refresh_follows | simp only [Chip.Follows.upd_iff]
                | split | intro _ | with_reducible apply Chip.foldl_follows

theorem Chip.replayFail_follows {c0 c : Chip} (l : LinkId) (h : c0.Follows c) : c0.Follows (Chip.replayFail c l) := by
  unfold Chip.replayFail
  try dsimp only
  repeat' first | with_reducible assumption | with_reducible apply Chip.linkDown_follows | with_reducible apply Chip.modLink_follows
                | simp only [Chip.Follows.upd_iff] | split | intro _ | with_reducible apply Chip.foldl_follows

theorem Chip.takeNak_follows {c0 c : Chip} (l : LinkId) (a : Byte) (h : c0.Follows c) : c0.Follows (Chip.takeNak c l a) := by
  unfold Chip.takeNak
  try dsimp only
  repeat' first | with_reducible assumption | with_reducible apply Chip.modLink_follows | with_reducible apply Chip.replayFail_follows
                | simp only [Chip.Follows.upd_iff] | split | intro _ | with_reducible apply Chip.foldl_follows

theorem Chip.takeHeader_follows {c0 c : Chip} (l : LinkId) (w : Codeword) (h : c0.Follows c) : c0.Follows (Chip.takeHeader c l w) := by
  unfold Chip.takeHeader
  try dsimp only
  repeat' first | with_reducible assumption | with_reducible apply Chip.modLink_follows | with_reducible apply Chip.takeNak_follows
                | simp only [Chip.Follows.upd_iff] | split | intro _ | with_reducible apply Chip.foldl_follows

theorem Chip.modCore_follows {c0 c : Chip} (n : CoreId) (f : Core → Core) (h : c0.Follows c) : c0.Follows (Chip.modCore c n f) := by
  unfold Chip.modCore
  try dsimp only
  repeat' first | with_reducible assumption | with_reducible apply Chip.setCore_follows | simp only [Chip.Follows.upd_iff] | split
                | intro _ | with_reducible apply Chip.foldl_follows

theorem Chip.modEngine_follows {c0 c : Chip} (e : EngineId) (f : Engine → Engine) (h : c0.Follows c) : c0.Follows (Chip.modEngine c e f)
    := by
  unfold Chip.modEngine
  try dsimp only
  repeat' first | with_reducible assumption | with_reducible apply Chip.setEngine_follows | simp only [Chip.Follows.upd_iff] | split
                | intro _ | with_reducible apply Chip.foldl_follows

theorem Chip.mapUnits_follows {c0 c : Chip} (f : Core → Core) (g : Engine → Engine) (h : c0.Follows c) : c0.Follows (Chip.mapUnits c f g)
    := by
  unfold Chip.mapUnits
  try dsimp only
  repeat' first | with_reducible assumption | with_reducible apply Chip.modCore_follows | with_reducible apply Chip.modEngine_follows
                | simp only [Chip.Follows.upd_iff] | split | intro _ | with_reducible apply Chip.foldl_follows

theorem Chip.noBallast_follows {c0 c : Chip} (h : c0.Follows c) : c0.Follows (Chip.noBallast c) := by
  unfold Chip.noBallast
  try dsimp only
  repeat' first | with_reducible assumption | with_reducible apply Chip.mapUnits_follows | simp only [Chip.Follows.upd_iff] | split
                | intro _ | with_reducible apply Chip.foldl_follows

theorem Chip.modFlt_follows {c0 c : Chip} (f : Flt → Flt) (h : c0.Follows c) : c0.Follows (Chip.modFlt c f) := by
  unfold Chip.modFlt
  try dsimp only
  repeat' first | with_reducible assumption | simp only [Chip.Follows.upd_iff] | split | intro _ | with_reducible apply Chip.foldl_follows

theorem Chip.orderPackage_follows {c0 c : Chip} (reason : Nat) (h : c0.Follows c) : c0.Follows (Chip.orderPackage c reason) := by
  unfold Chip.orderPackage
  try dsimp only
  repeat' first | with_reducible assumption | with_reducible apply Chip.modFlt_follows | simp only [Chip.Follows.upd_iff] | split
                | intro _ | with_reducible apply Chip.foldl_follows

theorem Chip.activate_follows {c0 c : Chip} (mctp : Bool) (tag : Word) (ctag : Option Word) (h : c0.Follows c) : c0.Follows (Chip.activate
    c mctp tag ctag) := by
  unfold Chip.activate
  try dsimp only
  repeat' first | with_reducible assumption | with_reducible apply Chip.orderPackage_follows | simp only [Chip.Follows.upd_iff]
                | with_reducible apply Chip.foldl_follows | with_reducible apply Chip.foldl_fst_follows
                | with_reducible apply Chip.foldl_snd_follows | with_reducible apply Chip.foldl_third_follows | split | intro _
                | with_reducible refine Chip.Follows.fst_of (by assumption) ?_
                | with_reducible refine Chip.Follows.snd_of (by assumption) ?_
                | simp (disch := first | rfl | exact Nor.setInactive_rollback _ _ | exact Nor.addPending_rollback _ _ _) only [Chip.Follows.updNor_iff]
                | simp (disch := rfl) only [Chip.Follows.updMem_iff] | with_reducible rfl | dsimp only

theorem Chip.mbxErr_follows {c0 c : Chip} (b : Nat) (h : c0.Follows c) : c0.Follows (Chip.mbxErr c b) := by
  unfold Chip.mbxErr
  try dsimp only
  repeat' first | with_reducible assumption | with_reducible apply Chip.irqCause_follows | simp only [Chip.Follows.upd_iff] | split
                | intro _ | with_reducible apply Chip.foldl_follows

theorem Chip.ringPut_follows {c0 c : Chip} (f : Final) (h : c0.Follows c) : c0.Follows (Chip.ringPut c f) := by
  unfold Chip.ringPut
  try dsimp only
  repeat' first | with_reducible assumption | with_reducible apply Chip.vectorEvent_follows | simp only [Chip.Follows.upd_iff] | split
                | intro _ | with_reducible apply Chip.foldl_follows

theorem Chip.ringPush_follows {c0 c : Chip} (f : Final) (h : c0.Follows c) : c0.Follows (Chip.ringPush c f) := by
  unfold Chip.ringPush
  try dsimp only
  repeat' first | with_reducible assumption | with_reducible apply Chip.mbxErr_follows | with_reducible apply Chip.ringPut_follows
                | simp only [Chip.Follows.upd_iff] | split | intro _ | with_reducible apply Chip.foldl_follows

theorem Chip.slotDone_follows {c0 c : Chip} (cmd : Cmd) (status : BitVec 16) (detail : Word) (arg : Word) (ctag : Word) (resp : List Byte)
    (h : c0.Follows c) : c0.Follows (Chip.slotDone c cmd status detail arg ctag resp) := by
  unfold Chip.slotDone
  try dsimp only
  repeat' first | with_reducible assumption | with_reducible apply Chip.vectorEvent_follows | simp only [Chip.Follows.upd_iff] | split
                | intro _ | with_reducible apply Chip.foldl_follows

theorem Chip.putFinal_follows {c0 c : Chip} (f : Final) (h : c0.Follows c) : c0.Follows (Chip.putFinal c f) := by
  unfold Chip.putFinal
  try dsimp only
  repeat' first | with_reducible assumption | with_reducible apply Chip.ringPush_follows | with_reducible apply Chip.slotDone_follows
                | simp only [Chip.Follows.upd_iff] | split | intro _ | with_reducible apply Chip.foldl_follows

theorem Chip.finish_follows {c0 c : Chip} (cmd : Cmd) (ring : Bool) (status : BitVec 16) (detail : Word) (arg : Word) (resp : List Byte)
    (boundary : optParam Bool false) (h : c0.Follows c) : c0.Follows (Chip.finish c cmd ring status detail arg resp boundary) := by
  unfold Chip.finish
  try dsimp only
  repeat' first | with_reducible assumption | with_reducible apply Chip.putFinal_follows | simp only [Chip.Follows.upd_iff] | split
                | intro _ | with_reducible apply Chip.foldl_follows

theorem Chip.doActivate_follows {c0 c : Chip} (r : Req) (h : c0.Follows c) : c0.Follows (Chip.doActivate c r) := by
  unfold Chip.doActivate
  try dsimp only
  repeat' first | with_reducible assumption | with_reducible apply Chip.activate_follows | with_reducible apply Chip.finish_follows
                | simp only [Chip.Follows.upd_iff] | split | intro _ | with_reducible apply Chip.foldl_follows

theorem Chip.modUnits_follows {c0 c : Chip} (x : CtxId) (f : Core → Core) (g : Engine → Engine) (h : c0.Follows c) : c0.Follows
    (Chip.modUnits c x f g) := by
  unfold Chip.modUnits
  try dsimp only
  repeat' first | with_reducible assumption | with_reducible apply Chip.modCore_follows | with_reducible apply Chip.modEngine_follows
                | simp only [Chip.Follows.upd_iff] | split | intro _ | with_reducible apply Chip.foldl_follows

theorem Chip.endReplay_follows {c0 c : Chip} (x : CtxId) (lfn : BitVec 16) (h : c0.Follows c) : c0.Follows (Chip.endReplay c x lfn) := by
  unfold Chip.endReplay
  try dsimp only
  repeat' first | with_reducible assumption | with_reducible apply Chip.modCtx_follows | with_reducible apply Chip.modDig_follows
                | with_reducible apply Chip.modUnits_follows | simp only [Chip.Follows.upd_iff] | split | intro _
                | with_reducible apply Chip.foldl_follows

theorem Chip.addNotDone_follows {c0 c : Chip} (x : Option CtxId) (step : Option Word) (n : Nat) (h : c0.Follows c) : c0.Follows
    (Chip.addNotDone c x step n) := by
  unfold Chip.addNotDone
  try dsimp only
  repeat' first | with_reducible assumption | with_reducible apply Chip.modCtx_follows | simp only [Chip.Follows.upd_iff] | split
                | intro _ | with_reducible apply Chip.foldl_follows

theorem Chip.leaveQueue_follows {c0 c : Chip} (x1 : UnitId) (h : c0.Follows c) : c0.Follows (Chip.leaveQueue c x1) := by
  unfold Chip.leaveQueue
  try dsimp only
  repeat' first | with_reducible assumption | with_reducible apply Chip.addNotDone_follows | simp only [Chip.Follows.upd_iff] | split
                | intro _ | with_reducible apply Chip.foldl_follows

theorem Chip.startUnit_follows {c0 c : Chip} (u : UnitId) (start : Word) (step : Word) (job : Word) (h : c0.Follows c) : c0.Follows
    (Chip.startUnit c u start step job) := by
  unfold Chip.startUnit
  try dsimp only
  repeat' first | with_reducible assumption | with_reducible apply Chip.leaveQueue_follows | with_reducible apply Chip.modCore_follows
                | with_reducible apply Chip.modEngine_follows | simp only [Chip.Follows.upd_iff] | split | intro _
                | with_reducible apply Chip.foldl_follows

theorem Chip.startStep_follows {c0 c : Chip} (x : CtxId) (r : Run) (h : c0.Follows c) : c0.Follows (Chip.startStep c x r) := by
  unfold Chip.startStep
  try dsimp only
  repeat' first | with_reducible assumption | with_reducible apply Chip.modCtx_follows | with_reducible apply Chip.startUnit_follows
                | simp only [Chip.Follows.upd_iff] | split | intro _ | with_reducible apply Chip.foldl_follows

theorem Chip.startReplay_follows {c0 c : Chip} (x : CtxId) (h : c0.Follows c) : c0.Follows (Chip.startReplay c x) := by
  unfold Chip.startReplay
  try dsimp only
  repeat' first | with_reducible assumption | with_reducible apply Chip.modDig_follows | with_reducible apply Chip.startStep_follows
                | with_reducible apply Chip.modCtx_follows | simp only [Chip.Follows.upd_iff] | split | intro _
                | with_reducible apply Chip.foldl_follows

theorem Chip.finishAfter_follows {c0 c : Chip} (x : CtxId) (cmd : Cmd) (ring : Bool) (status : BitVec 16) (detail : Word) (arg : Word) (h
    : c0.Follows c) : c0.Follows (Chip.finishAfter c x cmd ring status detail arg) := by
  unfold Chip.finishAfter
  try dsimp only
  repeat' first | with_reducible assumption | with_reducible apply Chip.modCtx_follows | with_reducible apply Chip.finish_follows
                | simp only [Chip.Follows.upd_iff] | split | intro _ | with_reducible apply Chip.foldl_follows

theorem Chip.endRun_follows {c0 c : Chip} (x : CtxId) (r : Run) (h : c0.Follows c) : c0.Follows (Chip.endRun c x r) := by
  unfold Chip.endRun
  try dsimp only
  repeat' first | with_reducible assumption | with_reducible apply Chip.finishAfter_follows | with_reducible apply Chip.modCtx_follows
                | simp only [Chip.Follows.upd_iff] | split | intro _ | with_reducible apply Chip.foldl_follows

theorem Chip.endRuns_follows {c0 c : Chip} (x : CtxId) (h : c0.Follows c) : c0.Follows (Chip.endRuns c x) := by
  unfold Chip.endRuns
  try dsimp only
  repeat' first | with_reducible assumption | with_reducible apply Chip.modCtx_follows | with_reducible apply Chip.endRun_follows
                | simp only [Chip.Follows.upd_iff] | split | intro _ | with_reducible apply Chip.foldl_follows

theorem Chip.contextFault_follows {c0 c : Chip} (x : CtxId) (h : c0.Follows c) : c0.Follows (Chip.contextFault c x) := by
  unfold Chip.contextFault
  try dsimp only
  repeat' first | with_reducible assumption | with_reducible apply Chip.endRuns_follows | with_reducible apply Chip.event_follows
                | simp only [Chip.Follows.upd_iff] | split | intro _ | with_reducible apply Chip.foldl_follows

theorem Chip.setCtxState_follows {c0 c : Chip} (x : CtxId) (s : CtxState) (h : c0.Follows c) : c0.Follows (Chip.setCtxState c x s) := by
  unfold Chip.setCtxState
  try dsimp only
  repeat' first | with_reducible assumption | with_reducible apply Chip.modCtx_follows | simp only [Chip.Follows.upd_iff] | split
                | intro _ | with_reducible apply Chip.foldl_follows

theorem Chip.countNotDone_follows {c0 c : Chip} (x : CtxId) (h : c0.Follows c) : c0.Follows (Chip.countNotDone c x) := by
  unfold Chip.countNotDone
  try dsimp only
  repeat' first | with_reducible assumption | with_reducible apply Chip.addNotDone_follows | simp only [Chip.Follows.upd_iff] | split
                | intro _ | with_reducible apply Chip.foldl_follows

theorem Chip.modRte_follows {c0 c : Chip} (f : Rte → Rte) (h : c0.Follows c) : c0.Follows (Chip.modRte c f) := by
  unfold Chip.modRte
  try dsimp only
  repeat' first | with_reducible assumption | simp only [Chip.Follows.upd_iff] | split | intro _ | with_reducible apply Chip.foldl_follows

theorem Chip.recordRmem_follows {c0 c : Chip} (x : CtxId) (h : c0.Follows c) : c0.Follows (Chip.recordRmem c x) := by
  unfold Chip.recordRmem
  try dsimp only
  repeat' first | with_reducible assumption | with_reducible apply Chip.modRte_follows | simp only [Chip.Follows.upd_iff] | split
                | intro _ | with_reducible apply Chip.foldl_follows

theorem Chip.dropReplay_follows {c0 c : Chip} (x : CtxId) (h : c0.Follows c) : c0.Follows (Chip.dropReplay c x) := by
  unfold Chip.dropReplay
  try dsimp only
  repeat' first | with_reducible assumption | with_reducible apply Chip.finish_follows | with_reducible apply Chip.modCtx_follows
                | simp only [Chip.Follows.upd_iff] | split | intro _ | with_reducible apply Chip.foldl_follows

theorem Chip.collectShort_follows {c0 c : Chip} (d : DossierCause) (h : c0.Follows c) : c0.Follows (Chip.collectShort c d) := by
  unfold Chip.collectShort
  try dsimp only
  repeat' first | with_reducible assumption | simp only [Chip.Follows.upd_iff] | split | intro _ | with_reducible apply Chip.foldl_follows

theorem Chip.resetContext_follows {c0 c : Chip} (x : CtxId) (h : c0.Follows c) : c0.Follows (Chip.resetContext c x) := by
  unfold Chip.resetContext
  try dsimp only
  repeat' first | with_reducible assumption | with_reducible apply Chip.modUnits_follows | with_reducible apply Chip.countNotDone_follows
                | with_reducible apply Chip.recordRmem_follows | with_reducible apply Chip.modDig_follows
                | with_reducible apply Chip.modCtx_follows | with_reducible apply Chip.dropReplay_follows
                | with_reducible apply Chip.collectShort_follows | simp only [Chip.Follows.upd_iff] | split | intro _
                | with_reducible apply Chip.foldl_follows

theorem Chip.enterHold_follows {c0 c : Chip} (x : CtxId) (why : BitVec 16) (h : c0.Follows c) : c0.Follows (Chip.enterHold c x why) := by
  unfold Chip.enterHold
  try dsimp only
  repeat' first | with_reducible assumption | with_reducible apply Chip.modCtx_follows | with_reducible apply Chip.contextFault_follows
                | with_reducible apply Chip.setCtxState_follows | with_reducible apply Chip.resetContext_follows
                | simp only [Chip.Follows.upd_iff] | split | intro _ | with_reducible apply Chip.foldl_follows

theorem Chip.advanceRun_follows {c0 c : Chip} (x : CtxId) (lfn : BitVec 16) (i : Nat) (h : c0.Follows c) : c0.Follows (Chip.advanceRun c x
    lfn i) := by
  unfold Chip.advanceRun
  try dsimp only
  repeat' first | with_reducible assumption | with_reducible apply Chip.modCtx_follows | with_reducible apply Chip.startStep_follows
                | simp only [Chip.Follows.upd_iff] | split | intro _ | with_reducible apply Chip.foldl_follows

theorem Chip.stepStarts_follows {c0 c : Chip} (x : CtxId) (lfn : BitVec 16) (h : c0.Follows c) : c0.Follows (Chip.stepStarts c x lfn) :=
    by
  unfold Chip.stepStarts
  try dsimp only
  repeat' first | with_reducible assumption | with_reducible apply Chip.enterHold_follows | with_reducible apply Chip.advanceRun_follows
                | simp only [Chip.Follows.upd_iff] | split | intro _ | with_reducible apply Chip.foldl_follows

theorem Chip.ctxStarts_follows {c0 c : Chip} (x : CtxId) (lfn : BitVec 16) (h : c0.Follows c) : c0.Follows (Chip.ctxStarts c x lfn) := by
  unfold Chip.ctxStarts
  try dsimp only
  repeat' first | with_reducible assumption | with_reducible apply Chip.endReplay_follows | with_reducible apply Chip.modDig_follows
                | with_reducible apply Chip.startReplay_follows | with_reducible apply Chip.stepStarts_follows
                | simp only [Chip.Follows.upd_iff] | split | intro _ | with_reducible apply Chip.foldl_follows

theorem Chip.modPkg_follows {c0 c : Chip} (f : Pkg → Pkg) (h : c0.Follows c) : c0.Follows (Chip.modPkg c f) := by
  unfold Chip.modPkg
  try dsimp only
  repeat' first | with_reducible assumption | simp only [Chip.Follows.upd_iff] | split | intro _ | with_reducible apply Chip.foldl_follows

theorem Chip.modFrm_follows {c0 c : Chip} (g : Frm → Frm) (h : c0.Follows c) : c0.Follows (Chip.modFrm c g) := by
  unfold Chip.modFrm
  try dsimp only
  repeat' first | with_reducible assumption | simp only [Chip.Follows.upd_iff] | split | intro _ | with_reducible apply Chip.foldl_follows

theorem Chip.pwrErr_follows {c0 c : Chip} (b : Nat) (h : c0.Follows c) : c0.Follows (Chip.pwrErr c b) := by
  unfold Chip.pwrErr
  try dsimp only
  repeat' first | with_reducible assumption | with_reducible apply Chip.irqCause_follows | simp only [Chip.Follows.upd_iff] | split
                | intro _ | with_reducible apply Chip.foldl_follows

theorem Chip.modBru_follows {c0 c : Chip} (f : Bru → Bru) (h : c0.Follows c) : c0.Follows (Chip.modBru c f) := by
  unfold Chip.modBru
  try dsimp only
  repeat' first | with_reducible assumption | simp only [Chip.Follows.upd_iff] | split | intro _ | with_reducible apply Chip.foldl_follows

theorem Chip.bruErr_follows {c0 c : Chip} (b : Nat) (h : c0.Follows c) : c0.Follows (Chip.bruErr c b) := by
  unfold Chip.bruErr
  try dsimp only
  repeat' first | with_reducible assumption | with_reducible apply Chip.modBru_follows | simp only [Chip.Follows.upd_iff] | split
                | intro _ | with_reducible apply Chip.foldl_follows

theorem Chip.raiseParity_follows {c0 c : Chip} (h : c0.Follows c) : c0.Follows (Chip.raiseParity c) := by
  unfold Chip.raiseParity
  dsimp only
  have on : ∀ (i : Nat) (f : Chip → Chip), (∀ d, c0.Follows d → c0.Follows (f d)) → ∀ d, c0.Follows d →
      c0.Follows (if bit (c.cfgBits (·.bad)) i then f d else d) := by
    intro i f hf d hd
    split
    · exact hf d hd
    · exact hd
  apply on 7 (fun d => d.modRte (fun r => r.raise 12)) (fun d hd => Chip.modRte_follows _ hd)
  apply on 6 (fun d => d.bruErr 14) (fun d hd => Chip.bruErr_follows _ hd)
  apply on 5 (fun d => d.fltErr 13) (fun d hd => Chip.fltErr_follows _ hd)
  apply on 4 (fun d => d.modFrm (fun f => f.raise 11)) (fun d hd => Chip.modFrm_follows _ hd)
  apply on 3 (fun d => d.pwrErr 9) (fun d hd => Chip.pwrErr_follows _ hd)
  apply on 2 (fun d => allLinks.foldl (fun c l => if (c.link l).ctl.bad then c.modLink l (fun k => k.raise 12) else c) d)
  · intro d hd
    refine Chip.foldl_follows _ _ (fun d l hd => ?_) hd
    split
    · exact Chip.modLink_follows _ _ hd
    · exact hd
  apply on 1 (fun d => d.mbxErr 7) (fun d hd => Chip.mbxErr_follows _ hd)
  exact on 0 (fun d => d.modPkg (fun p => { p with err := setBit p.err 0 })) (fun d hd => Chip.modPkg_follows _ hd) _ h

theorem Chip.modMbx_follows {c0 c : Chip} (f : Mbx → Mbx) (h : c0.Follows c) : c0.Follows (Chip.modMbx c f) := by
  unfold Chip.modMbx
  try dsimp only
  repeat' first | with_reducible assumption | simp only [Chip.Follows.upd_iff] | split | intro _ | with_reducible apply Chip.foldl_follows

theorem Chip.modPwr_follows {c0 c : Chip} (f : Pwr → Pwr) (h : c0.Follows c) : c0.Follows (Chip.modPwr c f) := by
  unfold Chip.modPwr
  try dsimp only
  repeat' first | with_reducible assumption | simp only [Chip.Follows.upd_iff] | split | intro _ | with_reducible apply Chip.foldl_follows

theorem Chip.mapCfg_follows {c0 c : Chip} (f : CfgWord → CfgWord) (h : c0.Follows c) : c0.Follows (Chip.mapCfg c f) := by
  unfold Chip.mapCfg
  try dsimp only
  repeat' first | with_reducible assumption | with_reducible apply Chip.modMbx_follows | with_reducible apply Chip.modPkg_follows
                | with_reducible apply Chip.modLink_follows | with_reducible apply Chip.modFrm_follows
                | with_reducible apply Chip.modPwr_follows | with_reducible apply Chip.modRte_follows
                | with_reducible apply Chip.modBru_follows | with_reducible apply Chip.modFlt_follows | simp only [Chip.Follows.upd_iff]
                | split | intro _ | with_reducible apply Chip.foldl_follows

theorem Chip.upsetCfg_follows {c0 c : Chip} (o : Nat) (m : BitVec 33) (h : c0.Follows c) : c0.Follows (Chip.upsetCfg c o m) := by
  unfold Chip.upsetCfg
  try dsimp only
  repeat' first | with_reducible assumption | with_reducible apply Chip.modPkg_follows | with_reducible apply Chip.modMbx_follows
                | with_reducible apply Chip.modLink_follows | with_reducible apply Chip.modPwr_follows
                | with_reducible apply Chip.modFlt_follows | with_reducible apply Chip.modBru_follows
                | with_reducible apply Chip.modRte_follows | with_reducible apply Chip.modFrm_follows | simp only [Chip.Follows.upd_iff]
                | split | intro _ | with_reducible apply Chip.foldl_follows

theorem paritySweepEffect_follows {c0 c : Chip} (ups : List (Nat × BitVec 33)) (h : c0.Follows c) : c0.Follows (paritySweepEffect ups c)
    := by
  unfold paritySweepEffect
  try dsimp only
  repeat' first | with_reducible assumption | with_reducible apply Chip.raiseParity_follows | with_reducible apply Chip.mapCfg_follows
                | with_reducible apply Chip.upsetCfg_follows | simp only [Chip.Follows.upd_iff] | split | intro _
                | with_reducible apply Chip.foldl_follows

theorem Chip.recap_follows {c0 c : Chip} (h : c0.Follows c) : c0.Follows (Chip.recap c) := by
  unfold Chip.recap
  try dsimp only
  repeat' first | with_reducible assumption | with_reducible apply Chip.modPwr_follows | simp only [Chip.Follows.upd_iff] | split
                | intro _ | with_reducible apply Chip.foldl_follows

theorem Chip.liftTerm_follows {c0 c : Chip} (f : Chip → Chip) (hf : ∀ d, c0.Follows d → c0.Follows (f d)) (h : c0.Follows c) : c0.Follows
    (Chip.liftTerm c f) := by
  unfold Chip.liftTerm
  try dsimp only
  repeat' first | with_reducible assumption | with_reducible apply Chip.recap_follows | with_reducible apply Chip.modPwr_follows
                | with_reducible apply hf | simp only [Chip.Follows.upd_iff] | split | intro _ | with_reducible apply Chip.foldl_follows

theorem Chip.quarantinePackage_follows {c0 c : Chip} (cause : Nat) (h : c0.Follows c) : c0.Follows (Chip.quarantinePackage c cause) := by
  unfold Chip.quarantinePackage
  try dsimp only
  repeat' first | with_reducible assumption | with_reducible apply Chip.liftTerm_follows | with_reducible apply Chip.setDState_follows
                | with_reducible apply Chip.event_follows | simp only [Chip.Follows.upd_iff] | with_reducible apply Chip.foldl_follows
                | with_reducible apply Chip.foldl_fst_follows | with_reducible apply Chip.foldl_snd_follows
                | with_reducible apply Chip.foldl_third_follows | split | intro _
                | with_reducible refine Chip.Follows.fst_of (by assumption) ?_
                | with_reducible refine Chip.Follows.snd_of (by assumption) ?_
                | simp (disch := first | rfl | exact Nor.setInactive_rollback _ _ | exact Nor.addPending_rollback _ _ _) only [Chip.Follows.updNor_iff]
                | simp (disch := rfl) only [Chip.Follows.updMem_iff] | with_reducible rfl | dsimp only

theorem Chip.failStep_follows {c0 c : Chip} (k : Nat) (h : c0.Follows c) : c0.Follows (Chip.failStep c k) := by
  unfold Chip.failStep
  try dsimp only
  repeat' first | with_reducible assumption | with_reducible apply Chip.modBru_follows
                | with_reducible apply Chip.quarantinePackage_follows | simp only [Chip.Follows.upd_iff] | split | intro _
                | with_reducible apply Chip.foldl_follows

theorem Chip.endFlights_follows {c0 c : Chip} (n : CoreId) (h : c0.Follows c) : c0.Follows (Chip.endFlights c n) := by
  unfold Chip.endFlights
  try dsimp only
  repeat' first | with_reducible assumption | with_reducible apply Chip.modCore_follows | with_reducible apply Chip.addNotDone_follows
                | simp only [Chip.Follows.upd_iff] | split | intro _ | with_reducible apply Chip.foldl_follows

theorem Chip.probe_follows {c0 c : Chip} (a : BitVec 128) (h : c0.Follows c) : c0.Follows (Chip.probe c a) := by
  unfold Chip.probe
  try dsimp only
  repeat' first | with_reducible assumption | with_reducible apply Chip.emit_follows | simp only [Chip.Follows.upd_iff] | split | intro _
                | with_reducible apply Chip.foldl_follows

theorem portLinkEffect_follows {c0 c : Chip} (l : PortLink) (h : c0.Follows c) : c0.Follows (portLinkEffect l c) := by
  unfold portLinkEffect
  try dsimp only
  repeat' first | with_reducible assumption | with_reducible apply Chip.modPkg_follows | with_reducible apply Chip.probe_follows
                | simp only [Chip.Follows.upd_iff] | split | intro _ | with_reducible apply Chip.foldl_follows

theorem Chip.modStack_follows {c0 c : Chip} (i : StackId) (f : Stack → Stack) (h : c0.Follows c) : c0.Follows (Chip.modStack c i f) := by
  unfold Chip.modStack
  try dsimp only
  repeat' first | with_reducible assumption | with_reducible apply Chip.setStack_follows | simp only [Chip.Follows.upd_iff] | split
                | intro _ | with_reducible apply Chip.foldl_follows

theorem Chip.untrainStacks_follows {c0 c : Chip} (h : c0.Follows c) : c0.Follows (Chip.untrainStacks c) := by
  unfold Chip.untrainStacks
  try dsimp only
  repeat' first | with_reducible assumption | with_reducible apply Chip.modBru_follows | with_reducible apply Chip.modStack_follows
                | simp only [Chip.Follows.upd_iff] | split | intro _ | with_reducible apply Chip.foldl_follows

theorem Chip.chargeStop_follows {c0 c : Chip} (x : CtxId) (h : c0.Follows c) : c0.Follows (Chip.chargeStop c x) := by
  unfold Chip.chargeStop
  try dsimp only
  repeat' first | with_reducible assumption | with_reducible apply Chip.modDig_follows | simp only [Chip.Follows.upd_iff] | split
                | intro _ | with_reducible apply Chip.foldl_follows

theorem Chip.faultHold_follows {c0 c : Chip} (x : CtxId) (h : c0.Follows c) : c0.Follows (Chip.faultHold c x) := by
  unfold Chip.faultHold
  try dsimp only
  repeat' first | with_reducible assumption | with_reducible apply Chip.modDig_follows | with_reducible apply Chip.chargeStop_follows
                | simp only [Chip.Follows.upd_iff] | split | intro _ | with_reducible apply Chip.foldl_follows

theorem Chip.stepStopped_follows {c0 c : Chip} (u : UnitId) (err : Word) (h : c0.Follows c) : c0.Follows (Chip.stepStopped c u err) := by
  unfold Chip.stepStopped
  try dsimp only
  repeat' first | with_reducible assumption | with_reducible apply Chip.modCtx_follows | simp only [Chip.Follows.upd_iff] | split
                | intro _ | with_reducible apply Chip.foldl_follows

theorem Chip.programStop_follows {c0 c : Chip} (u : UnitId) (err : Word) (h : c0.Follows c) : c0.Follows (Chip.programStop c u err) := by
  unfold Chip.programStop
  try dsimp only
  repeat' first | with_reducible assumption | with_reducible apply Chip.faultHold_follows | with_reducible apply Chip.stepStopped_follows
                | simp only [Chip.Follows.upd_iff] | split | intro _ | with_reducible apply Chip.foldl_follows

theorem Chip.coreStopReport_follows {c0 c : Chip} (n : CoreId) (b : Nat) (h : c0.Follows c) : c0.Follows (Chip.coreStopReport c n b) := by
  unfold Chip.coreStopReport
  try dsimp only
  repeat' first | with_reducible assumption | with_reducible apply Chip.programStop_follows | simp only [Chip.Follows.upd_iff] | split
                | intro _ | with_reducible apply Chip.foldl_follows

theorem Chip.coreAsyncStop_follows {c0 c : Chip} (n : CoreId) (b : Nat) (h : c0.Follows c) : c0.Follows (Chip.coreAsyncStop c n b) := by
  unfold Chip.coreAsyncStop
  try dsimp only
  repeat' first | with_reducible assumption | with_reducible apply Chip.coreStopReport_follows | with_reducible apply Chip.setCore_follows
                | simp only [Chip.Follows.upd_iff] | split | intro _ | with_reducible apply Chip.foldl_follows

theorem Chip.coreCount_follows {c0 c : Chip} (n : CoreId) (i : Nat) (v : Nat) (h : c0.Follows c) : c0.Follows (Chip.coreCount c n i v) :=
    by
  unfold Chip.coreCount
  try dsimp only
  repeat' first | with_reducible assumption | with_reducible apply Chip.setCore_follows | with_reducible apply Chip.coreAsyncStop_follows
                | simp only [Chip.Follows.upd_iff] | split | intro _ | with_reducible apply Chip.foldl_follows

theorem Chip.ackAt_follows {c0 c : Chip} (n : CoreId) (ctx : Option CtxId) (gen : BitVec 16) (ctr : Nat) (amount : Nat) (h : c0.Follows c)
    : c0.Follows (Chip.ackAt c n ctx gen ctr amount) := by
  unfold Chip.ackAt
  try dsimp only
  repeat' first | with_reducible assumption | with_reducible apply Chip.coreCount_follows | with_reducible apply Chip.setCore_follows
                | simp only [Chip.Follows.upd_iff] | split | intro _ | with_reducible apply Chip.foldl_follows

theorem Chip.logUndo_follows {c0 c : Chip} (x : CtxId) (l : Nat) (h : c0.Follows c) : c0.Follows (Chip.logUndo c x l) := by
  unfold Chip.logUndo
  dsimp only
  split
  · exact h
  · split
    · exact h
    · split
      · exact Chip.faultHold_follows _ h
      · have h1 := h.updMem (mem := { c.mem with undo := { ctx := x, lfn := c.frm.lfn, line := l, old := { data := c.lineBytes l, poison := c.tag l } } :: c.mem.undo }) (frm := c.frm) (plan := c.plan) (rte := c.rte) (dig := c.dig) (img := c.img) (mbx := c.mbx) (flt := c.flt) (bru := c.bru) (pwr := c.pwr) (thm := c.thm) (pkg := c.pkg) (uptime := c.uptime) (out := c.out) (n := c.freeCount) id
        split
        · exact Chip.digErr_follows _ h1
        · exact h1

theorem Chip.putLine_follows {c0 c : Chip} (l : Nat) (bs : List Byte) (poison : Bool) (h : c0.Follows c) : c0.Follows (Chip.putLine c l bs
    poison) := by
  unfold Chip.putLine
  refine Chip.Follows.updMem h ?_
  intro w
  dsimp only [MemSys.wf]
  exact ⟨memWf_wrBytes w.1 _ _, twf_tset w.2.1 _ _, w.2.2⟩

theorem Chip.writeLine_follows {c0 c : Chip} (x : Option CtxId) (l : Nat) (bs : List Byte) (poison : Bool) (h : c0.Follows c) : c0.Follows
    (Chip.writeLine c x l bs poison) := by
  unfold Chip.writeLine
  try dsimp only
  repeat' first | with_reducible assumption | with_reducible apply Chip.logUndo_follows | with_reducible apply Chip.putLine_follows
                | simp only [Chip.Follows.upd_iff] | split | intro _ | with_reducible apply Chip.foldl_follows

theorem stAckEffect_follows {c0 c : Chip} (n : CoreId) (mv : Nat) (g : BitVec 16) (h : c0.Follows c) : c0.Follows (stAckEffect n mv g c)
    := by
  unfold stAckEffect
  try dsimp only
  repeat' first | with_reducible assumption | with_reducible apply Chip.ackAt_follows | with_reducible apply Chip.modCore_follows
                | with_reducible apply Chip.writeLine_follows | simp only [Chip.Follows.upd_iff] | split | intro _
                | with_reducible apply Chip.foldl_follows

end Sys2Proof.Machine
end

