-- ==== Sys2Proof/Laws/FollowsOps2.lean ====
section
/-! SUPPORT. The operations of the package keep Chip.Follows, part 2 of 5: every operation after those it calls. -/
namespace Sys2Proof.Machine

theorem Chip.setBar4Size_follows {c0 c : Chip} (size : Fin 7) (h : c0.Follows c) : c0.Follows (Chip.setBar4Size c size) := by
  unfold Chip.setBar4Size
  try dsimp only
  repeat' first | with_reducible assumption | simp only [Chip.Follows.upd_iff] | with_reducible apply Chip.foldl_follows
                | with_reducible apply Chip.foldl_fst_follows | with_reducible apply Chip.foldl_snd_follows
                | with_reducible apply Chip.foldl_third_follows | split | intro _
                | with_reducible refine Chip.Follows.fst_of (by assumption) ?_
                | with_reducible refine Chip.Follows.snd_of (by assumption) ?_
                | simp (disch := first | rfl | exact Nor.setInactive_rollback _ _ | exact Nor.addPending_rollback _ _ _) only [Chip.Follows.updNor_iff]
                | simp (disch := rfl) only [Chip.Follows.updMem_iff] | with_reducible rfl | dsimp only

theorem pcieLossEffect_follows {c0 c : Chip} (h : c0.Follows c) : c0.Follows (pcieLossEffect c) := by
  unfold pcieLossEffect
  try dsimp only
  repeat' first | with_reducible assumption | with_reducible apply Chip.modPkg_follows | with_reducible apply Chip.setBar4Size_follows
                | simp only [Chip.Follows.upd_iff] | split | intro _ | with_reducible apply Chip.foldl_follows

theorem Chip.takeMode_follows {c0 c : Chip} (h : c0.Follows c) : c0.Follows (Chip.takeMode c) := by
  unfold Chip.takeMode
  try dsimp only
  repeat' first | with_reducible assumption | with_reducible apply Chip.modBru_follows | simp only [Chip.Follows.upd_iff] | split
                | intro _ | with_reducible apply Chip.foldl_follows

theorem Chip.startTraining_follows {c0 c : Chip} (l : LinkId) (cold : Bool) (more : Nat) (retry : Bool) (h : c0.Follows c) : c0.Follows
    (Chip.startTraining c l cold more retry) := by
  unfold Chip.startTraining
  try dsimp only
  repeat' first | with_reducible assumption | with_reducible apply Chip.modLink_follows | simp only [Chip.Follows.upd_iff] | split
                | intro _ | with_reducible apply Chip.foldl_follows

theorem Chip.startStepK_follows {c0 c : Chip} (k : Nat) (h : c0.Follows c) : c0.Follows (Chip.startStepK c k) := by
  unfold Chip.startStepK
  try dsimp only
  repeat' first | with_reducible assumption | with_reducible apply Chip.takeMode_follows | with_reducible apply Chip.modBru_follows
                | with_reducible apply Chip.startTraining_follows | simp only [Chip.Follows.upd_iff] | split | intro _
                | with_reducible apply Chip.foldl_follows

theorem Chip.bruNext_follows {c0 c : Chip} (h : c0.Follows c) : c0.Follows (Chip.bruNext c) := by
  unfold Chip.bruNext
  try dsimp only
  repeat' first | with_reducible assumption | with_reducible apply Chip.modBru_follows | with_reducible apply Chip.startStepK_follows
                | simp only [Chip.Follows.upd_iff] | split | intro _ | with_reducible apply Chip.foldl_follows

theorem Chip.endAirWait_follows {c0 c : Chip} (h : c0.Follows c) : c0.Follows (Chip.endAirWait c) := by
  unfold Chip.endAirWait
  try dsimp only
  repeat' first | with_reducible assumption | with_reducible apply Chip.bruNext_follows | with_reducible apply Chip.modBru_follows
                | simp only [Chip.Follows.upd_iff] | split | intro _ | with_reducible apply Chip.foldl_follows

theorem Chip.control_follows {c0 c : Chip} (code : Byte) (body : List Byte) (h : c0.Follows c) : c0.Follows (Chip.control c code body) :=
    by
  unfold Chip.control
  try dsimp only
  repeat' first | with_reducible assumption | with_reducible apply Chip.emit_follows | simp only [Chip.Follows.upd_iff] | split | intro _
                | with_reducible apply Chip.foldl_follows

theorem Chip.freeWord_follows {c0 c : Chip} (h : c0.Follows c) : c0.Follows (Chip.freeWord c).2 := by
  unfold Chip.freeWord
  try dsimp only
  repeat' first | with_reducible assumption | simp only [Chip.Follows.upd_iff] | split | intro _ | with_reducible apply Chip.foldl_follows

theorem versionEffect_follows {c0 c : Chip} (h : c0.Follows c) : c0.Follows (versionEffect c) := by
  unfold versionEffect
  try dsimp only
  repeat' first | with_reducible assumption | with_reducible apply Chip.control_follows | with_reducible apply Chip.freeWord_follows
                | simp only [Chip.Follows.upd_iff] | split | intro _ | with_reducible apply Chip.foldl_follows

theorem Chip.realign_follows {c0 c : Chip} (next : BitVec 16 × Nat) (h : c0.Follows c) : c0.Follows (Chip.realign c next) := by
  unfold Chip.realign
  try dsimp only
  repeat' first | with_reducible assumption | with_reducible apply Chip.event_follows | with_reducible apply Chip.modDig_follows
                | simp only [Chip.Follows.upd_iff] | split | intro _ | with_reducible apply Chip.foldl_follows

theorem Chip.takeMark_follows {c0 c : Chip} (i : RefInput) (m : Mark) (n : Nat) (h : c0.Follows c) : c0.Follows (Chip.takeMark c i m n) :=
    by
  unfold Chip.takeMark
  try dsimp only
  repeat' first | with_reducible assumption | with_reducible apply Chip.realign_follows | simp only [Chip.Follows.upd_iff] | split
                | intro _ | with_reducible apply Chip.foldl_follows

theorem Chip.failover_follows {c0 c : Chip} (h : c0.Follows c) : c0.Follows (Chip.failover c) := by
  unfold Chip.failover
  try dsimp only
  repeat' first | with_reducible assumption | with_reducible apply Chip.takeMark_follows | simp only [Chip.Follows.upd_iff] | split
                | intro _ | with_reducible apply Chip.foldl_follows

theorem Chip.inputBad_follows {c0 c : Chip} (i : RefInput) (h : c0.Follows c) : c0.Follows (Chip.inputBad c i) := by
  unfold Chip.inputBad
  try dsimp only
  repeat' first | with_reducible assumption | with_reducible apply Chip.failover_follows | simp only [Chip.Follows.upd_iff] | split
                | intro _ | with_reducible apply Chip.foldl_follows

theorem Chip.mismatch_follows {c0 c : Chip} (i : RefInput) (h : c0.Follows c) : c0.Follows (Chip.mismatch c i) := by
  unfold Chip.mismatch
  try dsimp only
  repeat' first | with_reducible assumption | with_reducible apply Chip.inputBad_follows | simp only [Chip.Follows.upd_iff] | split
                | intro _ | with_reducible apply Chip.foldl_follows

theorem Chip.compareInputs_follows {c0 c : Chip} (o : RefInput) (m : Mark) (n : Nat) (h : c0.Follows c) : c0.Follows (Chip.compareInputs c
    o m n) := by
  unfold Chip.compareInputs
  try dsimp only
  repeat' first | with_reducible assumption | with_reducible apply Chip.mismatch_follows | simp only [Chip.Follows.upd_iff] | split
                | intro _ | with_reducible apply Chip.foldl_follows

theorem Chip.whenOn_follows {c0 c : Chip} (f : Chip → Chip) (hf : ∀ d, c0.Follows d → c0.Follows (f d)) (h : c0.Follows c) : c0.Follows
    (Chip.whenOn c f) := by
  unfold Chip.whenOn
  try dsimp only
  repeat' first | with_reducible assumption | with_reducible apply hf | simp only [Chip.Follows.upd_iff] | split | intro _
                | with_reducible apply Chip.foldl_follows

theorem Chip.stopBallast_follows {c0 c : Chip} (h : c0.Follows c) : c0.Follows (Chip.stopBallast c) := by
  unfold Chip.stopBallast
  try dsimp only
  repeat' first | with_reducible assumption | with_reducible apply Chip.modPwr_follows | with_reducible apply Chip.noBallast_follows
                | simp only [Chip.Follows.upd_iff] | split | intro _ | with_reducible apply Chip.foldl_follows

theorem Chip.powerBeacon_follows {c0 c : Chip} (cause : Nat) (severity : Nat) (arg : Nat) (unit : optParam (BitVec 16) 65535) (h :
    c0.Follows c) : c0.Follows (Chip.powerBeacon c cause severity arg unit) := by
  unfold Chip.powerBeacon
  try dsimp only
  repeat' first | with_reducible assumption | with_reducible apply Chip.event_follows | simp only [Chip.Follows.upd_iff] | split | intro _
                | with_reducible apply Chip.foldl_follows

theorem Chip.storeLowOn_follows {c0 c : Chip} (h : c0.Follows c) : c0.Follows (Chip.storeLowOn c) := by
  unfold Chip.storeLowOn
  try dsimp only
  repeat' first | with_reducible assumption | with_reducible apply Chip.pwrErr_follows | with_reducible apply Chip.modPwr_follows
                | with_reducible apply Chip.recap_follows | with_reducible apply Chip.stopBallast_follows
                | with_reducible apply Chip.powerBeacon_follows | simp only [Chip.Follows.upd_iff] | split | intro _
                | with_reducible apply Chip.foldl_follows

theorem storeAssertEffect_follows {c0 c : Chip} (h : c0.Follows c) : c0.Follows (storeAssertEffect c) := by
  unfold storeAssertEffect
  try dsimp only
  repeat' first | with_reducible assumption | with_reducible apply Chip.whenOn_follows | with_reducible apply Chip.modPwr_follows
                | with_reducible apply Chip.storeLowOn_follows | simp only [Chip.Follows.upd_iff] | split | intro _
                | with_reducible apply Chip.foldl_follows

theorem Chip.release__follows {c0 c : Chip} (p : Final → Bool) (h : c0.Follows c) : c0.Follows (Chip.release_ c p) := by
  unfold Chip.release_
  try dsimp only
  repeat' first | with_reducible assumption | with_reducible apply Chip.putFinal_follows | simp only [Chip.Follows.upd_iff] | split
                | intro _ | with_reducible apply Chip.foldl_follows

theorem Chip.putCap_follows {c0 c : Chip} (w : Nat) (h : c0.Follows c) : c0.Follows (Chip.putCap c w) := by
  unfold Chip.putCap
  try dsimp only
  repeat' first | with_reducible assumption | with_reducible apply Chip.recap_follows | with_reducible apply Chip.modPwr_follows
                | simp only [Chip.Follows.upd_iff] | split | intro _ | with_reducible apply Chip.foldl_follows

theorem Chip.doSetCap_follows {c0 c : Chip} (r : Req) (h : c0.Follows c) : c0.Follows (Chip.doSetCap c r) := by
  unfold Chip.doSetCap
  try dsimp only
  repeat' first | with_reducible assumption | with_reducible apply Chip.finish_follows | with_reducible apply Chip.putCap_follows
                | simp only [Chip.Follows.upd_iff] | split | intro _ | with_reducible apply Chip.foldl_follows

theorem Chip.orderCompute_follows {c0 c : Chip} (reason : Nat) (h : c0.Follows c) : c0.Follows (Chip.orderCompute c reason) := by
  unfold Chip.orderCompute
  try dsimp only
  repeat' first | with_reducible assumption | simp only [Chip.Follows.upd_iff] | split | intro _ | with_reducible apply Chip.foldl_follows

theorem Chip.doComputeReset_follows {c0 c : Chip} (r : Req) (h : c0.Follows c) : c0.Follows (Chip.doComputeReset c r) := by
  unfold Chip.doComputeReset
  try dsimp only
  repeat' first | with_reducible assumption | with_reducible apply Chip.modFlt_follows | with_reducible apply Chip.orderCompute_follows
                | simp only [Chip.Follows.upd_iff] | split | intro _ | with_reducible apply Chip.foldl_follows

theorem Chip.stageChunk_follows {c0 c : Chip} (mctp : Bool) (off : Nat) (len : Nat) (chunk : List Byte) (h : c0.Follows c) : c0.Follows
    (Chip.stageChunk c mctp off len chunk).1 := by
  unfold Chip.stageChunk
  try dsimp only
  repeat' first | with_reducible assumption | simp only [Chip.Follows.upd_iff] | with_reducible apply Chip.foldl_follows
                | with_reducible apply Chip.foldl_fst_follows | with_reducible apply Chip.foldl_snd_follows
                | with_reducible apply Chip.foldl_third_follows | split | intro _
                | with_reducible refine Chip.Follows.fst_of (by assumption) ?_
                | with_reducible refine Chip.Follows.snd_of (by assumption) ?_
                | simp (disch := first | rfl | exact Nor.setInactive_rollback _ _ | exact Nor.addPending_rollback _ _ _) only [Chip.Follows.updNor_iff]
                | simp (disch := rfl) only [Chip.Follows.updMem_iff] | with_reducible rfl | dsimp only

theorem Chip.doStageFw_follows {c0 c : Chip} (r : Req) (h : c0.Follows c) : c0.Follows (Chip.doStageFw c r) := by
  unfold Chip.doStageFw
  try dsimp only
  repeat' first | with_reducible assumption | with_reducible apply Chip.stageChunk_follows | with_reducible apply Chip.finish_follows
                | simp only [Chip.Follows.upd_iff] | split | intro _ | with_reducible apply Chip.foldl_follows

theorem Chip.doStageWrite_follows {c0 c : Chip} (r : Req) (h : c0.Follows c) : c0.Follows (Chip.doStageWrite c r) := by
  unfold Chip.doStageWrite
  try dsimp only
  repeat' first | with_reducible assumption | with_reducible apply Chip.finish_follows | simp only [Chip.Follows.upd_iff] | split
                | intro _ | with_reducible apply Chip.foldl_follows

theorem Chip.doPlanLoad_follows {c0 c : Chip} (r : Req) (h : c0.Follows c) : c0.Follows (Chip.doPlanLoad c r) := by
  unfold Chip.doPlanLoad
  try dsimp only
  repeat' first | with_reducible assumption | with_reducible apply Chip.finish_follows | simp only [Chip.Follows.upd_iff] | split
                | intro _ | with_reducible apply Chip.foldl_follows

theorem Chip.doPlanCancel_follows {c0 c : Chip} (r : Req) (h : c0.Follows c) : c0.Follows (Chip.doPlanCancel c r) := by
  unfold Chip.doPlanCancel
  try dsimp only
  repeat' first | with_reducible assumption | with_reducible apply Chip.finish_follows | simp only [Chip.Follows.upd_iff] | split
                | intro _ | with_reducible apply Chip.foldl_follows

theorem Chip.doCreate_follows {c0 c : Chip} (r : Req) (h : c0.Follows c) : c0.Follows (Chip.doCreate c r) := by
  unfold Chip.doCreate
  dsimp only
  refine Chip.refresh_follows (Chip.finish_follows _ _ _ _ _ _ _ (Chip.Follows.upd (Chip.modDig_follows _ _ (Chip.modCtx_follows _ _
      ?_))))
  refine Chip.foldl_follows _ _ (fun d n hd => Chip.modCore_follows _ _ hd) (Chip.foldl_follows _ _ (fun d n hd => Chip.modEngine_follows
      _ _ hd) ?_)
  refine Chip.Follows.updMem h ?_
  intro w
  exact ⟨w.1, w.2.1, twf_foldl_tset _ _ _ w.2.2⟩

theorem Chip.doTeardown_follows {c0 c : Chip} (r : Req) (h : c0.Follows c) : c0.Follows (Chip.doTeardown c r) := by
  unfold Chip.doTeardown
  try dsimp only
  repeat' first | with_reducible assumption | with_reducible apply Chip.modCtx_follows | with_reducible apply Chip.setCtxState_follows
                | simp only [Chip.Follows.upd_iff] | split | intro _ | with_reducible apply Chip.foldl_follows

theorem Chip.doCtxReset_follows {c0 c : Chip} (r : Req) (h : c0.Follows c) : c0.Follows (Chip.doCtxReset c r) := by
  unfold Chip.doCtxReset
  try dsimp only
  repeat' first | with_reducible assumption | with_reducible apply Chip.modCtx_follows | simp only [Chip.Follows.upd_iff] | split
                | intro _ | with_reducible apply Chip.foldl_follows

theorem Chip.doHold_follows {c0 c : Chip} (r : Req) (h : c0.Follows c) : c0.Follows (Chip.doHold c r) := by
  unfold Chip.doHold
  try dsimp only
  repeat' first | with_reducible assumption | with_reducible apply Chip.finishAfter_follows | with_reducible apply Chip.modCtx_follows
                | simp only [Chip.Follows.upd_iff] | split | intro _ | with_reducible apply Chip.foldl_follows

theorem Chip.startTrial_follows {c0 c : Chip} (x : CtxId) (ahead : Nat) (h : c0.Follows c) : c0.Follows (Chip.startTrial c x ahead) := by
  unfold Chip.startTrial
  try dsimp only
  repeat' first | with_reducible assumption | simp only [Chip.Follows.upd_iff] | split | intro _ | with_reducible apply Chip.foldl_follows

theorem Chip.doResume_follows {c0 c : Chip} (r : Req) (h : c0.Follows c) : c0.Follows (Chip.doResume c r) := by
  unfold Chip.doResume
  try dsimp only
  repeat' first | with_reducible assumption | with_reducible apply Chip.modCtx_follows | with_reducible apply Chip.setCtxState_follows
                | with_reducible apply Chip.startTrial_follows | with_reducible apply Chip.finish_follows
                | with_reducible apply Chip.refresh_follows | with_reducible apply Chip.modDig_follows | simp only [Chip.Follows.upd_iff]
                | split | intro _ | with_reducible apply Chip.foldl_follows

theorem Chip.doCheckLoad_follows {c0 c : Chip} (r : Req) (h : c0.Follows c) : c0.Follows (Chip.doCheckLoad c r) := by
  unfold Chip.doCheckLoad
  try dsimp only
  repeat' first | with_reducible assumption | with_reducible apply Chip.finish_follows | with_reducible apply Chip.modCtx_follows
                | simp only [Chip.Follows.upd_iff] | split | intro _ | with_reducible apply Chip.foldl_follows

theorem Chip.doDefine_follows {c0 c : Chip} (r : Req) (h : c0.Follows c) : c0.Follows (Chip.doDefine c r) := by
  unfold Chip.doDefine
  try dsimp only
  repeat' first | with_reducible assumption | with_reducible apply Chip.finish_follows | with_reducible apply Chip.modCtx_follows
                | simp only [Chip.Follows.upd_iff] | split | intro _ | with_reducible apply Chip.foldl_follows

theorem Chip.doRun_follows {c0 c : Chip} (r : Req) (h : c0.Follows c) : c0.Follows (Chip.doRun c r) := by
  unfold Chip.doRun
  try dsimp only
  repeat' first | with_reducible assumption | with_reducible apply Chip.setCtxState_follows | with_reducible apply Chip.modCtx_follows
                | simp only [Chip.Follows.upd_iff] | split | intro _ | with_reducible apply Chip.foldl_follows

theorem Chip.doProgLoad_follows {c0 c : Chip} (r : Req) (h : c0.Follows c) : c0.Follows (Chip.doProgLoad c r) := by
  unfold Chip.doProgLoad
  try dsimp only
  repeat' first | with_reducible assumption | with_reducible apply Chip.modCtx_follows | simp only [Chip.Follows.upd_iff] | split
                | intro _ | with_reducible apply Chip.foldl_follows

theorem Chip.doReplay_follows {c0 c : Chip} (r : Req) (h : c0.Follows c) : c0.Follows (Chip.doReplay c r) := by
  unfold Chip.doReplay
  try dsimp only
  repeat' first | with_reducible assumption | with_reducible apply Chip.modCtx_follows | simp only [Chip.Follows.upd_iff] | split
                | intro _ | with_reducible apply Chip.foldl_follows

theorem Chip.doOp_follows {c0 c : Chip} (o : Op) (r : Req) (h : c0.Follows c) : c0.Follows (Chip.doOp c o r) := by
  unfold Chip.doOp
  try dsimp only
  repeat' first | with_reducible assumption | with_reducible apply Chip.doSetCap_follows
                | with_reducible apply Chip.doComputeReset_follows | with_reducible apply Chip.doStageFw_follows
                | with_reducible apply Chip.doActivate_follows | with_reducible apply Chip.doStageWrite_follows
                | with_reducible apply Chip.doPlanLoad_follows | with_reducible apply Chip.doPlanCancel_follows
                | with_reducible apply Chip.doCreate_follows | with_reducible apply Chip.doTeardown_follows
                | with_reducible apply Chip.doCtxReset_follows | with_reducible apply Chip.doHold_follows
                | with_reducible apply Chip.doResume_follows | with_reducible apply Chip.doCheckLoad_follows
                | with_reducible apply Chip.doDefine_follows | with_reducible apply Chip.doRun_follows
                | with_reducible apply Chip.doProgLoad_follows | with_reducible apply Chip.doReplay_follows
                | simp only [Chip.Follows.upd_iff] | split | intro _ | with_reducible apply Chip.foldl_follows

theorem Chip.accept_follows {c0 c : Chip} (cmd : Cmd) (h : c0.Follows c) : c0.Follows (Chip.accept c cmd) := by
  unfold Chip.accept
  try dsimp only
  repeat' first | with_reducible assumption | with_reducible apply Chip.slotDone_follows | simp only [Chip.Follows.upd_iff] | split
                | intro _ | with_reducible apply Chip.foldl_follows

theorem Chip.carryOut_follows {c0 c : Chip} (i : Intent) (h : c0.Follows c) : c0.Follows (Chip.carryOut c i) := by
  unfold Chip.carryOut
  try dsimp only
  repeat' first | with_reducible assumption | with_reducible apply Chip.finish_follows | with_reducible apply Chip.doOp_follows
                | with_reducible apply Chip.accept_follows | simp only [Chip.Follows.upd_iff] | split | intro _
                | with_reducible apply Chip.foldl_follows

theorem Chip.dropSync_follows {c0 c : Chip} (h : c0.Follows c) : c0.Follows (Chip.dropSync c) := by
  unfold Chip.dropSync
  try dsimp only
  repeat' first | with_reducible assumption | with_reducible apply Chip.modMbx_follows | with_reducible apply Chip.release__follows
                | with_reducible apply Chip.carryOut_follows | simp only [Chip.Follows.upd_iff] | split | intro _
                | with_reducible apply Chip.foldl_follows

theorem Chip.failIbex_follows {c0 c : Chip} (u : IbexUnit) (h : c0.Follows c) : c0.Follows (Chip.failIbex c u) := by
  unfold Chip.failIbex
  try dsimp only
  repeat' first | with_reducible assumption | with_reducible apply Chip.modMbx_follows | with_reducible apply Chip.refresh_follows
                | with_reducible apply Chip.orderPackage_follows | with_reducible apply Chip.mbxErr_follows
                | with_reducible apply Chip.dropSync_follows | simp only [Chip.Follows.upd_iff] | split | intro _
                | with_reducible apply Chip.foldl_follows

theorem Chip.collect_follows {c0 c : Chip} (d : DossierCause) (h : c0.Follows c) : c0.Follows (Chip.collect c d) := by
  unfold Chip.collect
  try dsimp only
  repeat' first | with_reducible assumption | with_reducible apply Chip.fltErr_follows | simp only [Chip.Follows.upd_iff] | split
                | intro _ | with_reducible apply Chip.foldl_follows

theorem unitResetEffect_follows {c0 c : Chip} (h : c0.Follows c) : c0.Follows (unitResetEffect c) := by
  unfold unitResetEffect
  try dsimp only
  repeat' first | with_reducible assumption | with_reducible apply Chip.failIbex_follows | with_reducible apply Chip.modFlt_follows
                | with_reducible apply Chip.collect_follows | with_reducible apply Chip.refresh_follows
                | with_reducible apply Chip.modMbx_follows | simp only [Chip.Follows.upd_iff] | split | intro _
                | with_reducible apply Chip.foldl_follows

theorem peerChange_follows {c0 c : Chip} (l : LinkId) (good : BitVec 16) (lfn : BitVec 12) (h : c0.Follows c) : c0.Follows (peerChange l
    good lfn c) := by
  unfold peerChange
  try dsimp only
  repeat' first | with_reducible assumption | with_reducible apply Chip.modLink_follows | simp only [Chip.Follows.upd_iff] | split
                | intro _ | with_reducible apply Chip.foldl_follows

theorem Chip.dropQueued_follows {c0 c : Chip} (test : Packet → Bool) (h : c0.Follows c) : c0.Follows (Chip.dropQueued c test) := by
  unfold Chip.dropQueued
  try dsimp only
  repeat' first | with_reducible assumption | with_reducible apply Chip.modLink_follows | simp only [Chip.Follows.upd_iff] | split
                | intro _ | with_reducible apply Chip.foldl_follows

theorem Chip.holdCreating_follows {c0 c : Chip} (x : CtxId) (when_ : Bool) (why : BitVec 16) (h : c0.Follows c) : c0.Follows
    (Chip.holdCreating c x when_ why) := by
  unfold Chip.holdCreating
  try dsimp only
  repeat' first | with_reducible assumption | with_reducible apply Chip.modCtx_follows | simp only [Chip.Follows.upd_iff] | split
                | intro _ | with_reducible apply Chip.foldl_follows

theorem freerunEffect_follows {c0 c : Chip} (h : c0.Follows c) : c0.Follows (freerunEffect c) := by
  unfold freerunEffect
  try dsimp only
  repeat' first | with_reducible assumption | with_reducible apply Chip.dropQueued_follows | with_reducible apply Chip.modCtx_follows
                | with_reducible apply Chip.chargeStop_follows | with_reducible apply Chip.holdCreating_follows
                | with_reducible apply Chip.refresh_follows | with_reducible apply Chip.event_follows | simp only [Chip.Follows.upd_iff]
                | split | intro _ | with_reducible apply Chip.foldl_follows

theorem Chip.sendGroup_follows {c0 c : Chip} (l : LinkId) (kind : Nat) (cseq : Byte) (flits : List (List Byte)) (h : c0.Follows c) :
    c0.Follows (Chip.sendGroup c l kind cseq flits) := by
  unfold Chip.sendGroup
  try dsimp only
  repeat' first | with_reducible assumption | with_reducible apply Chip.emit_follows | with_reducible apply Chip.modLink_follows
                | simp only [Chip.Follows.upd_iff] | split | intro _ | with_reducible apply Chip.foldl_follows

theorem Chip.flushTx_follows {c0 c : Chip} (l : LinkId) (h : c0.Follows c) : c0.Follows (Chip.flushTx c l) := by
  unfold Chip.flushTx
  try dsimp only
  repeat' first | with_reducible assumption | with_reducible apply Chip.sendGroup_follows | with_reducible apply Chip.modLink_follows
                | simp only [Chip.Follows.upd_iff] | split | intro _ | with_reducible apply Chip.foldl_follows

theorem Chip.wakeCore_follows {c0 c : Chip} (n : CoreId) (k : Core) (h : c0.Follows c) : c0.Follows (Chip.wakeCore c n k) := by
  unfold Chip.wakeCore
  try dsimp only
  repeat' first | with_reducible assumption | with_reducible apply Chip.setCore_follows | simp only [Chip.Follows.upd_iff] | split
                | intro _ | with_reducible apply Chip.foldl_follows

theorem Chip.replayCompleted_follows {c0 c : Chip} (x : CtxId) (r : Run) (us : List UnitId) (h : c0.Follows c) : c0.Follows
    (Chip.replayCompleted c x r us) := by
  unfold Chip.replayCompleted
  try dsimp only
  repeat' first | with_reducible assumption | with_reducible apply Chip.digErr_follows | with_reducible apply Chip.modCtx_follows
                | with_reducible apply Chip.finish_follows | simp only [Chip.Follows.upd_iff] | split | intro _
                | with_reducible apply Chip.foldl_follows

theorem Chip.sendStep_follows {c0 c : Chip} (x : CtxId) (o : OwnDigest) (h : c0.Follows c) : c0.Follows (Chip.sendStep c x o) := by
  unfold Chip.sendStep
  try dsimp only
  repeat' first | with_reducible assumption | with_reducible apply Chip.queueRecord_follows | simp only [Chip.Follows.upd_iff] | split
                | intro _ | with_reducible apply Chip.foldl_follows

theorem Chip.stepCompleted_follows {c0 c : Chip} (x : CtxId) (r : Run) (us : List UnitId) (h : c0.Follows c) : c0.Follows
    (Chip.stepCompleted c x r us) := by
  unfold Chip.stepCompleted
  try dsimp only
  repeat' first | with_reducible assumption | with_reducible apply Chip.sendStep_follows | with_reducible apply Chip.modCtx_follows
                | with_reducible apply Chip.modDig_follows | simp only [Chip.Follows.upd_iff] | split | intro _
                | with_reducible apply Chip.foldl_follows

theorem Chip.unitCompleted_follows {c0 c : Chip} (u : UnitId) (h : c0.Follows c) : c0.Follows (Chip.unitCompleted c u) := by
  unfold Chip.unitCompleted
  try dsimp only
  repeat' first | with_reducible assumption | with_reducible apply Chip.replayCompleted_follows
                | with_reducible apply Chip.stepCompleted_follows | simp only [Chip.Follows.upd_iff] | split | intro _
                | with_reducible apply Chip.foldl_follows

theorem Chip.sgaDone_follows {c0 c : Chip} (e : EngineId) (next : BitVec 25) (halt : Bool) (h : c0.Follows c) : c0.Follows (Chip.sgaDone c
    e next halt) := by
  unfold Chip.sgaDone
  try dsimp only
  repeat' first | with_reducible assumption | with_reducible apply Chip.modEngine_follows
                | with_reducible apply Chip.unitCompleted_follows | simp only [Chip.Follows.upd_iff] | split | intro _
                | with_reducible apply Chip.foldl_follows

theorem Chip.sendArrive_follows {c0 c : Chip} (dpkg : Nat) (dcore : BitVec 12) (ctr : Byte) (val : Byte) (ctx : Option CtxId) (gen :
    BitVec 16) (score : BitVec 16) (h : c0.Follows c) : c0.Follows (Chip.sendArrive c dpkg dcore ctr val ctx gen score) := by
  unfold Chip.sendArrive
  try dsimp only
  repeat' first | with_reducible assumption | with_reducible apply Chip.enqueueMessage_follows | simp only [Chip.Follows.upd_iff] | split
                | intro _ | with_reducible apply Chip.foldl_follows

theorem Chip.sendArrival_follows {c0 c : Chip} (dpkg : Nat) (dcore : BitVec 12) (ctr : Byte) (val : Byte) (ctx : Option CtxId) (gen :
    BitVec 16) (score : BitVec 16) (h : c0.Follows c) : c0.Follows (Chip.sendArrival c dpkg dcore ctr val ctx gen score) := by
  unfold Chip.sendArrival
  try dsimp only
  repeat' first | with_reducible assumption | with_reducible apply Chip.sendArrive_follows | simp only [Chip.Follows.upd_iff] | split
                | intro _ | with_reducible apply Chip.foldl_follows

theorem Chip.trySignal_follows {c0 c : Chip} (e : EngineId) (g : Signal) (h : c0.Follows c) : c0.Follows (Chip.trySignal c e g).1 := by
  unfold Chip.trySignal
  try dsimp only
  repeat' first | with_reducible assumption | with_reducible apply Chip.sendArrival_follows | simp only [Chip.Follows.upd_iff] | split
                | intro _ | with_reducible apply Chip.foldl_follows

theorem Chip.sgaFinish_follows {c0 c : Chip} (e : EngineId) (g : Option Signal) (next : BitVec 25) (halt : Bool) (h : c0.Follows c) :
    c0.Follows (Chip.sgaFinish c e g next halt) := by
  unfold Chip.sgaFinish
  try dsimp only
  repeat' first | with_reducible assumption | with_reducible apply Chip.sgaDone_follows | with_reducible apply Chip.trySignal_follows
                | with_reducible apply Chip.modEngine_follows | simp only [Chip.Follows.upd_iff] | split | intro _
                | with_reducible apply Chip.foldl_follows

theorem Chip.sgaResume_follows {c0 c : Chip} (e : EngineId) (h : c0.Follows c) : c0.Follows (Chip.sgaResume c e) := by
  unfold Chip.sgaResume
  try dsimp only
  repeat' first | with_reducible assumption | with_reducible apply Chip.sgaFinish_follows | with_reducible apply Chip.modEngine_follows
                | simp only [Chip.Follows.upd_iff] | split | intro _ | with_reducible apply Chip.foldl_follows

theorem Chip.waitsBoundary_follows {c0 c : Chip} (h : c0.Follows c) : c0.Follows (Chip.waitsBoundary c) := by
  unfold Chip.waitsBoundary
  try dsimp only
  repeat' first | with_reducible assumption | with_reducible apply Chip.wakeCore_follows | with_reducible apply Chip.setCore_follows
                | with_reducible apply Chip.sgaResume_follows | with_reducible apply Chip.modEngine_follows
                | simp only [Chip.Follows.upd_iff] | split | intro _ | with_reducible apply Chip.foldl_follows

theorem Chip.newSlack_follows {c0 c : Chip} (h : c0.Follows c) : c0.Follows (Chip.newSlack c) := by
  unfold Chip.newSlack
  try dsimp only
  repeat' first | with_reducible assumption | with_reducible apply Chip.mapUnits_follows | simp only [Chip.Follows.upd_iff] | split
                | intro _ | with_reducible apply Chip.foldl_follows

theorem Chip.chargeFrame_follows {c0 c : Chip} (m : FrameMeasure) (h : c0.Follows c) : c0.Follows (Chip.chargeFrame c m) := by
  unfold Chip.chargeFrame
  try dsimp only
  repeat' first | with_reducible assumption | with_reducible apply Chip.modCtx_follows | with_reducible apply Chip.modPwr_follows
                | with_reducible apply Chip.newSlack_follows | simp only [Chip.Follows.upd_iff] | split | intro _
                | with_reducible apply Chip.foldl_follows

theorem Chip.powerBoundary_follows {c0 c : Chip} (m : FrameMeasure) (f : Nat) (h : c0.Follows c) : c0.Follows (Chip.powerBoundary c m f)
    := by
  unfold Chip.powerBoundary
  try dsimp only
  repeat' first | with_reducible assumption | with_reducible apply Chip.modPwr_follows | with_reducible apply Chip.chargeFrame_follows
                | with_reducible apply Chip.recap_follows | with_reducible apply Chip.freeWord_follows
                | with_reducible apply Chip.mapUnits_follows | with_reducible apply Chip.pwrErr_follows | simp only [Chip.Follows.upd_iff]
                | split | intro _ | with_reducible apply Chip.foldl_follows

theorem Chip.quarantine_follows {c0 c : Chip} (u : UnitId) (h : c0.Follows c) : c0.Follows (Chip.quarantine c u) := by
  unfold Chip.quarantine
  dsimp only
  refine Chip.orderCompute_follows _ (Chip.refresh_follows (Chip.event_follows _ (Chip.fltErr_follows _ ?_)))
  simp only [Chip.Follows.upd_iff]
  split
  · exact (Chip.modCore_follows _ _ (Chip.addNotDone_follows _ _ _ h)).updNor (Nor.addPending_rollback _ _ _)
  · exact (Chip.modEngine_follows _ _ h).updNor (Nor.addPending_rollback _ _ _)

theorem Chip.fetchFirmware_follows {c0 c : Chip} (h : c0.Follows c) : c0.Follows (Chip.fetchFirmware c) := by
  unfold Chip.fetchFirmware
  try dsimp only
  repeat' first | with_reducible assumption | with_reducible apply Chip.modCore_follows | with_reducible apply Chip.quarantine_follows
                | simp only [Chip.Follows.upd_iff] | split | intro _ | with_reducible apply Chip.foldl_follows

theorem Chip.chargeOpen_follows {c0 c : Chip} (x : CtxId) (h : c0.Follows c) : c0.Follows (Chip.chargeOpen c x) := by
  unfold Chip.chargeOpen
  try dsimp only
  repeat' first | with_reducible assumption | with_reducible apply Chip.chargeStop_follows | simp only [Chip.Follows.upd_iff] | split
                | intro _ | with_reducible apply Chip.foldl_follows

theorem Chip.shortBoundary_follows {c0 c : Chip} (l : LinkId) (h : c0.Follows c) : c0.Follows (Chip.shortBoundary c l) := by
  unfold Chip.shortBoundary
  try dsimp only
  repeat' first | with_reducible assumption | with_reducible apply Chip.modLink_follows | with_reducible apply Chip.event_follows
                | with_reducible apply Chip.modCtx_follows | with_reducible apply Chip.chargeOpen_follows
                | with_reducible apply Chip.holdCreating_follows | simp only [Chip.Follows.upd_iff] | split | intro _
                | with_reducible apply Chip.foldl_follows

theorem Chip.linkBoundary_follows {c0 c : Chip} (lfn : BitVec 16) (l : LinkId) (h : c0.Follows c) : c0.Follows (Chip.linkBoundary c lfn l)
    := by
  unfold Chip.linkBoundary
  try dsimp only
  repeat' first | with_reducible assumption | with_reducible apply Chip.modLink_follows | with_reducible apply Chip.linkDown_follows
                | simp only [Chip.Follows.upd_iff] | split | intro _ | with_reducible apply Chip.foldl_follows

theorem Chip.xferLate_follows {c0 c : Chip} (x : CtxId) (h : c0.Follows c) : c0.Follows (Chip.xferLate c x) := by
  unfold Chip.xferLate
  try dsimp only
  repeat' first | with_reducible assumption | with_reducible apply Chip.digErr_follows | simp only [Chip.Follows.upd_iff] | split
                | intro _ | with_reducible apply Chip.foldl_follows

theorem Chip.release_follows {c0 c : Chip} (x : CtxId) (lfn : BitVec 16) (h : c0.Follows c) : c0.Follows (Chip.release c x lfn) := by
  unfold Chip.release
  try dsimp only
  repeat' first | with_reducible assumption | simp only [Chip.Follows.upd_iff] | with_reducible apply Chip.foldl_follows
                | with_reducible apply Chip.foldl_fst_follows | with_reducible apply Chip.foldl_snd_follows
                | with_reducible apply Chip.foldl_third_follows | split | intro _
                | with_reducible refine Chip.Follows.fst_of (by assumption) ?_
                | with_reducible refine Chip.Follows.snd_of (by assumption) ?_
                | simp (disch := first | rfl | exact Nor.setInactive_rollback _ _ | exact Nor.addPending_rollback _ _ _) only [Chip.Follows.updNor_iff]
                | simp (disch := rfl) only [Chip.Follows.updMem_iff] | with_reducible rfl | dsimp only

theorem Chip.reapRuns_follows {c0 c : Chip} (x : CtxId) (h : c0.Follows c) : c0.Follows (Chip.reapRuns c x) := by
  unfold Chip.reapRuns
  try dsimp only
  repeat' first | with_reducible assumption | with_reducible apply Chip.finishAfter_follows | with_reducible apply Chip.modCtx_follows
                | with_reducible apply Chip.setCtxState_follows | simp only [Chip.Follows.upd_iff] | split | intro _
                | with_reducible apply Chip.foldl_follows

theorem Chip.confirm_follows {c0 c : Chip} (x : CtxId) (lfn : BitVec 16) (h : c0.Follows c) : c0.Follows (Chip.confirm c x lfn) := by
  unfold Chip.confirm
  try dsimp only
  repeat' first | with_reducible assumption | with_reducible apply Chip.modDig_follows | with_reducible apply Chip.release_follows
                | with_reducible apply Chip.reapRuns_follows | with_reducible apply Chip.modCtx_follows | simp only [Chip.Follows.upd_iff]
                | split | intro _ | with_reducible apply Chip.foldl_follows

theorem Chip.restore_follows {c0 c : Chip} (x : CtxId) (lfn : BitVec 16) (h : c0.Follows c) : c0.Follows (Chip.restore c x lfn) := by
  unfold Chip.restore
  dsimp only
  exact (Chip.foldl_follows _ _ (fun _ _ hd => Chip.putLine_follows _ _ _ hd) h).updMem id

theorem Chip.commit_follows {c0 c : Chip} (x : CtxId) (lfn : BitVec 16) (h : c0.Follows c) : c0.Follows (Chip.commit c x lfn) := by
  unfold Chip.commit
  try dsimp only
  repeat' first | with_reducible assumption | with_reducible apply Chip.modCtx_follows | with_reducible apply Chip.modDig_follows
                | simp only [Chip.Follows.upd_iff] | split | intro _ | with_reducible apply Chip.foldl_follows

theorem Chip.rollOn_follows {c0 c : Chip} (x : CtxId) (lfn : BitVec 16) (restart : BitVec 16) (mismatch : Bool) (hold : Bool) (h :
    c0.Follows c) : c0.Follows (Chip.rollOn c x lfn restart mismatch hold) := by
  unfold Chip.rollOn
  try dsimp only
  repeat' first | with_reducible assumption | with_reducible apply Chip.modDig_follows | with_reducible apply Chip.modCtx_follows
                | with_reducible apply Chip.resetContext_follows | simp only [Chip.Follows.upd_iff] | split | intro _
                | with_reducible apply Chip.foldl_follows

theorem Chip.forcedRollback_follows {c0 c : Chip} (x : CtxId) (lfn : BitVec 16) (h : c0.Follows c) : c0.Follows (Chip.forcedRollback c x
    lfn) := by
  unfold Chip.forcedRollback
  try dsimp only
  repeat' first | with_reducible assumption | with_reducible apply Chip.restore_follows | with_reducible apply Chip.rollOn_follows
                | with_reducible apply Chip.modDig_follows | with_reducible apply Chip.modCtx_follows | simp only [Chip.Follows.upd_iff]
                | split | intro _ | with_reducible apply Chip.foldl_follows

theorem Chip.ownRollback_follows {c0 c : Chip} (x : CtxId) (lfn : BitVec 16) (cause : Nat) (h : c0.Follows c) : c0.Follows
    (Chip.ownRollback c x lfn cause) := by
  unfold Chip.ownRollback
  try dsimp only
  repeat' first | with_reducible assumption | with_reducible apply Chip.modDig_follows | with_reducible apply Chip.modCtx_follows
                | with_reducible apply Chip.rollOn_follows | with_reducible apply Chip.restore_follows
                | with_reducible apply Chip.sendNotices_follows | simp only [Chip.Follows.upd_iff] | split | intro _
                | with_reducible apply Chip.foldl_follows

theorem Chip.applyDecision_follows {c0 c : Chip} (x : CtxId) (lfn : BitVec 16) (h : c0.Follows c) : c0.Follows (Chip.applyDecision c x
    lfn) := by
  unfold Chip.applyDecision
  try dsimp only
  repeat' first | with_reducible assumption | with_reducible apply Chip.verdictCtx_follows | with_reducible apply Chip.xferLate_follows
                | with_reducible apply Chip.confirm_follows | with_reducible apply Chip.modDig_follows
                | with_reducible apply Chip.modCtx_follows | with_reducible apply Chip.restore_follows
                | with_reducible apply Chip.commit_follows | with_reducible apply Chip.forcedRollback_follows
                | with_reducible apply Chip.ownRollback_follows | simp only [Chip.Follows.upd_iff] | split | intro _
                | with_reducible apply Chip.foldl_follows

theorem Chip.endFrame_follows {c0 c : Chip} (m : FrameMeasure) (next : BitVec 16) (h : c0.Follows c) : c0.Follows (Chip.endFrame c m next)
    := by
  unfold Chip.endFrame
  try dsimp only
  repeat' first | with_reducible assumption | with_reducible apply Chip.modCtx_follows | with_reducible apply Chip.waitsBoundary_follows
                | with_reducible apply Chip.powerBoundary_follows | with_reducible apply Chip.fetchFirmware_follows
                | with_reducible apply Chip.mapUnits_follows | with_reducible apply Chip.shortBoundary_follows
                | with_reducible apply Chip.linkBoundary_follows | with_reducible apply Chip.applyDecision_follows
                | simp only [Chip.Follows.upd_iff] | split | intro _ | with_reducible apply Chip.foldl_follows

theorem Chip.payUnpaid_follows {c0 c : Chip} (x : CtxId) (h : c0.Follows c) : c0.Follows (Chip.payUnpaid c x) := by
  unfold Chip.payUnpaid
  try dsimp only
  repeat' first | with_reducible assumption | with_reducible apply Chip.finish_follows | with_reducible apply Chip.modCtx_follows
                | simp only [Chip.Follows.upd_iff] | split | intro _ | with_reducible apply Chip.foldl_follows

theorem Chip.resetOnce_follows {c0 c : Chip} (x : CtxId) (h : c0.Follows c) : c0.Follows (Chip.resetOnce c x) := by
  unfold Chip.resetOnce
  try dsimp only
  repeat' first | with_reducible assumption | with_reducible apply Chip.resetContext_follows | simp only [Chip.Follows.upd_iff] | split
                | intro _ | with_reducible apply Chip.foldl_follows

theorem Chip.dropLoad_follows {c0 c : Chip} (x : CtxId) (h : c0.Follows c) : c0.Follows (Chip.dropLoad c x) := by
  unfold Chip.dropLoad
  try dsimp only
  repeat' first | with_reducible assumption | with_reducible apply Chip.finish_follows | with_reducible apply Chip.modCtx_follows
                | simp only [Chip.Follows.upd_iff] | split | intro _ | with_reducible apply Chip.foldl_follows

theorem Chip.releaseRows_follows {c0 c : Chip} (x : CtxId) (h : c0.Follows c) : c0.Follows (Chip.releaseRows c x) := by
  unfold Chip.releaseRows
  dsimp only
  refine h.updMem (fun w => ⟨w.1, w.2.1, ?_⟩)
  exact twf_foldl_tset _ _ (fun t b => _) w.2.2

theorem Chip.finishHolds_follows {c0 c : Chip} (x : CtxId) (cmds : List Cmd) (h : c0.Follows c) : c0.Follows (Chip.finishHolds c x cmds)
    := by
  unfold Chip.finishHolds
  try dsimp only
  repeat' first | with_reducible assumption | with_reducible apply Chip.finishAfter_follows | simp only [Chip.Follows.upd_iff] | split
                | intro _ | with_reducible apply Chip.foldl_follows

theorem Chip.teardownBoundary_follows {c0 c : Chip} (x : CtxId) (h : c0.Follows c) : c0.Follows (Chip.teardownBoundary c x) := by
  unfold Chip.teardownBoundary
  try dsimp only
  repeat' first | with_reducible assumption | with_reducible apply Chip.resetOnce_follows | with_reducible apply Chip.dropLoad_follows
                | with_reducible apply Chip.endRuns_follows | with_reducible apply Chip.releaseRows_follows
                | with_reducible apply Chip.modUnits_follows | with_reducible apply Chip.modFlt_follows
                | with_reducible apply Chip.finishHolds_follows | with_reducible apply Chip.modCtx_follows
                | simp only [Chip.Follows.upd_iff] | split | intro _ | with_reducible apply Chip.foldl_follows

theorem Chip.holdBoundary_follows {c0 c : Chip} (x : CtxId) (h : c0.Follows c) : c0.Follows (Chip.holdBoundary c x) := by
  unfold Chip.holdBoundary
  try dsimp only
  repeat' first | with_reducible assumption | with_reducible apply Chip.enterHold_follows | with_reducible apply Chip.modCtx_follows
                | with_reducible apply Chip.endRuns_follows | with_reducible apply Chip.finishHolds_follows
                | simp only [Chip.Follows.upd_iff] | split | intro _ | with_reducible apply Chip.foldl_follows

theorem Chip.finishAll_follows {c0 c : Chip} (cmds : List Cmd) (h : c0.Follows c) : c0.Follows (Chip.finishAll c cmds) := by
  unfold Chip.finishAll
  try dsimp only
  repeat' first | with_reducible assumption | with_reducible apply Chip.finish_follows | simp only [Chip.Follows.upd_iff] | split
                | intro _ | with_reducible apply Chip.foldl_follows

theorem Chip.resetDone_follows {c0 c : Chip} (x : CtxId) (h : c0.Follows c) : c0.Follows (Chip.resetDone c x) := by
  unfold Chip.resetDone
  try dsimp only
  repeat' first | with_reducible assumption | with_reducible apply Chip.finishAll_follows | with_reducible apply Chip.setCtxState_follows
                | with_reducible apply Chip.modCtx_follows | simp only [Chip.Follows.upd_iff] | split | intro _
                | with_reducible apply Chip.foldl_follows

theorem Chip.resetBoundary_follows {c0 c : Chip} (x : CtxId) (h : c0.Follows c) : c0.Follows (Chip.resetBoundary c x) := by
  unfold Chip.resetBoundary
  try dsimp only
  repeat' first | with_reducible assumption | with_reducible apply Chip.setCtxState_follows | with_reducible apply Chip.modFlt_follows
                | with_reducible apply Chip.modCtx_follows | with_reducible apply Chip.resetOnce_follows
                | with_reducible apply Chip.endRuns_follows | simp only [Chip.Follows.upd_iff] | split | intro _
                | with_reducible apply Chip.foldl_follows

theorem Chip.ctxBoundary_follows {c0 c : Chip} (x : CtxId) (h : c0.Follows c) : c0.Follows (Chip.ctxBoundary c x) := by
  unfold Chip.ctxBoundary
  try dsimp only
  repeat' first | with_reducible assumption | with_reducible apply Chip.payUnpaid_follows
                | with_reducible apply Chip.teardownBoundary_follows | with_reducible apply Chip.holdBoundary_follows
                | with_reducible apply Chip.resetDone_follows | with_reducible apply Chip.resetBoundary_follows
                | simp only [Chip.Follows.upd_iff] | split | intro _ | with_reducible apply Chip.foldl_follows

theorem Chip.circuitsChanged_follows {c0 c : Chip} (old : Tab Word) (h : c0.Follows c) : c0.Follows (Chip.circuitsChanged c old) := by
  unfold Chip.circuitsChanged
  try dsimp only
  repeat' first | with_reducible assumption | with_reducible apply Chip.recordRmem_follows | with_reducible apply Chip.modRte_follows
                | simp only [Chip.Follows.upd_iff] | split | intro _ | with_reducible apply Chip.foldl_follows

theorem Chip.planBoundary_follows {c0 c : Chip} (lfn : BitVec 16) (h : c0.Follows c) : c0.Follows (Chip.planBoundary c lfn) := by
  unfold Chip.planBoundary
  try dsimp only
  repeat' first | with_reducible assumption | with_reducible apply Chip.circuitsChanged_follows | simp only [Chip.Follows.upd_iff] | split
                | intro _ | with_reducible apply Chip.foldl_follows

theorem Chip.created_follows {c0 c : Chip} (x : CtxId) (h : c0.Follows c) : c0.Follows (Chip.created c x) := by
  unfold Chip.created
  try dsimp only
  repeat' first | with_reducible assumption | with_reducible apply Chip.setCtxState_follows | simp only [Chip.Follows.upd_iff] | split
                | intro _ | with_reducible apply Chip.foldl_follows

theorem Chip.createBoundary_follows {c0 c : Chip} (h : c0.Follows c) : c0.Follows (Chip.createBoundary c) := by
  unfold Chip.createBoundary
  try dsimp only
  repeat' first | with_reducible assumption | with_reducible apply Chip.release__follows | with_reducible apply Chip.created_follows
                | simp only [Chip.Follows.upd_iff] | split | intro _ | with_reducible apply Chip.foldl_follows

theorem Chip.freeLine_follows {c0 c : Chip} (h : c0.Follows c) : c0.Follows (Chip.freeLine c).2 := by
  unfold Chip.freeLine
  try dsimp only
  repeat' first | with_reducible assumption | simp only [Chip.Follows.upd_iff] | split | intro _ | with_reducible apply Chip.foldl_follows

theorem Chip.reportLine_follows {c0 c : Chip} (l : Nat) (h : c0.Follows c) : c0.Follows (Chip.reportLine c l) := by
  unfold Chip.reportLine
  exact h.updMem id

theorem Chip.uncorrectable_follows {c0 c : Chip} (l : Nat) (consumed : Bool) (h : c0.Follows c) : c0.Follows (Chip.uncorrectable c l
    consumed) := by
  unfold Chip.uncorrectable
  try dsimp only
  repeat' first | with_reducible assumption | with_reducible apply Chip.freeLine_follows | with_reducible apply Chip.modStack_follows
                | with_reducible apply Chip.putLine_follows | with_reducible apply Chip.reportLine_follows
                | with_reducible apply Chip.event_follows | with_reducible apply Chip.fltErr_follows | simp only [Chip.Follows.upd_iff]
                | split | intro _ | with_reducible apply Chip.foldl_follows

theorem Chip.freeBit_follows {c0 c : Chip} (h : c0.Follows c) : c0.Follows (Chip.freeBit c).2 := by
  unfold Chip.freeBit
  try dsimp only
  repeat' first | with_reducible assumption | simp only [Chip.Follows.upd_iff] | split | intro _ | with_reducible apply Chip.foldl_follows

end Sys2Proof.Machine
end

