-- ==== Sys2Proof/Laws/FollowsOps3.lean ====
section
/-! SUPPORT. The operations of the package keep Chip.Follows, part 3 of 5: every operation after those it calls. -/
namespace Sys2Proof.Machine

theorem Chip.decodeLine_follows {c0 c : Chip} (l : Nat) (n : Nat) (consumed : Bool) (h : c0.Follows c) : c0.Follows (Chip.decodeLine c l n
    consumed) := by
  unfold Chip.decodeLine
  try dsimp only
  repeat' first | with_reducible assumption | with_reducible apply Chip.modStack_follows | with_reducible apply Chip.uncorrectable_follows
                | with_reducible apply Chip.freeBit_follows | with_reducible apply Chip.freeLine_follows
                | with_reducible apply Chip.putLine_follows | simp only [Chip.Follows.upd_iff] | split | intro _
                | with_reducible apply Chip.foldl_follows

theorem Chip.readLine_follows {c0 c : Chip} (l : Nat) (ups : Upsets) (consumed : Bool) (h : c0.Follows c) : c0.Follows (Chip.readLine c l
    ups consumed).2 := by
  unfold Chip.readLine
  try dsimp only
  repeat' first | with_reducible assumption | with_reducible apply Chip.decodeLine_follows | simp only [Chip.Follows.upd_iff] | split
                | intro _ | with_reducible apply Chip.foldl_follows

theorem Chip.loadGranule_follows {c0 c : Chip} (x : CtxId) (u : UnitId) (dest : Nat) (g : Granule) (h : c0.Follows c) : c0.Follows
    (Chip.loadGranule c x u dest g) := by
  unfold Chip.loadGranule
  try dsimp only
  repeat' first | with_reducible assumption | with_reducible apply Chip.modCore_follows | with_reducible apply Chip.writeLine_follows
                | simp only [Chip.Follows.upd_iff] | split | intro _ | with_reducible apply Chip.foldl_follows

theorem Chip.carryLoad_follows {c0 c : Chip} (x : CtxId) (ups : Upsets) (l : LoadEntry) (h : c0.Follows c) : c0.Follows (Chip.carryLoad c
    x ups l).1 := by
  unfold Chip.carryLoad
  try dsimp only
  repeat' first | with_reducible assumption | with_reducible apply Chip.readLine_follows | with_reducible apply Chip.loadGranule_follows
                | simp only [Chip.Follows.upd_iff] | split | intro _ | with_reducible apply Chip.foldl_follows

theorem Chip.carryList_follows {c0 c : Chip} (x : CtxId) (ups : Upsets) (ls : List LoadEntry) (h : c0.Follows c) : c0.Follows
    (Chip.carryList c x ups ls).1 := by
  unfold Chip.carryList
  refine Chip.foldl_fst_follows _ _ (fun s l hs => ?_) _ h
  exact Chip.carryLoad_follows _ _ _ hs

theorem Chip.payLoad_follows {c0 c : Chip} (cmd : Cmd) (done : List Bool) (h : c0.Follows c) : c0.Follows (Chip.payLoad c cmd done) := by
  unfold Chip.payLoad
  try dsimp only
  repeat' first | with_reducible assumption | with_reducible apply Chip.finish_follows | simp only [Chip.Follows.upd_iff] | split
                | intro _ | with_reducible apply Chip.foldl_follows

theorem Chip.carryLoads_follows {c0 c : Chip} (x : CtxId) (ups : Upsets) (h : c0.Follows c) : c0.Follows (Chip.carryLoads c x ups) := by
  unfold Chip.carryLoads
  try dsimp only
  repeat' first | with_reducible assumption | with_reducible apply Chip.modCtx_follows | with_reducible apply Chip.carryList_follows
                | with_reducible apply Chip.payLoad_follows | simp only [Chip.Follows.upd_iff] | with_reducible apply Chip.foldl_follows
                | with_reducible apply Chip.foldl_fst_follows | with_reducible apply Chip.foldl_snd_follows
                | with_reducible apply Chip.foldl_third_follows | split | intro _
                | with_reducible refine Chip.Follows.fst_of (by assumption) ?_
                | with_reducible refine Chip.Follows.snd_of (by assumption) ?_
                | simp (disch := first | rfl | exact Nor.setInactive_rollback _ _ | exact Nor.addPending_rollback _ _ _) only [Chip.Follows.updNor_iff]
                | simp (disch := rfl) only [Chip.Follows.updMem_iff] | with_reducible rfl | dsimp only

theorem Chip.loadBoundary_follows {c0 c : Chip} (ups : Upsets) (x : CtxId) (h : c0.Follows c) : c0.Follows (Chip.loadBoundary ups c x) :=
    by
  unfold Chip.loadBoundary
  try dsimp only
  repeat' first | with_reducible assumption | with_reducible apply Chip.carryLoads_follows | simp only [Chip.Follows.upd_iff] | split
                | intro _ | with_reducible apply Chip.foldl_follows

theorem Chip.mbxBoundary_follows {c0 c : Chip} (load : Nat) (h : c0.Follows c) : c0.Follows (Chip.mbxBoundary c load) := by
  unfold Chip.mbxBoundary
  try dsimp only
  repeat' first | with_reducible assumption | with_reducible apply Chip.modMbx_follows | simp only [Chip.Follows.upd_iff] | split
                | intro _ | with_reducible apply Chip.foldl_follows

theorem Chip.copyBoundary_follows {c0 c : Chip} (f : Nat) (lfn : BitVec 16) (m : FrameMeasure) (h : c0.Follows c) : c0.Follows
    (Chip.copyBoundary c f lfn m) := by
  unfold Chip.copyBoundary
  try dsimp only
  repeat' first | with_reducible assumption | with_reducible apply Chip.modMbx_follows | with_reducible apply Chip.failIbex_follows
                | simp only [Chip.Follows.upd_iff] | split | intro _ | with_reducible apply Chip.foldl_follows

theorem Chip.replayStart_follows {c0 c : Chip} (lfn : BitVec 16) (x : CtxId) (h : c0.Follows c) : c0.Follows (Chip.replayStart c lfn x) :=
    by
  unfold Chip.replayStart
  try dsimp only
  repeat' first | with_reducible assumption | with_reducible apply Chip.startStep_follows | with_reducible apply Chip.modCtx_follows
                | simp only [Chip.Follows.upd_iff] | split | intro _ | with_reducible apply Chip.foldl_follows

theorem Chip.startBoundary_follows {c0 c : Chip} (lfn : BitVec 16) (x : CtxId) (h : c0.Follows c) : c0.Follows (Chip.startBoundary c lfn
    x) := by
  unfold Chip.startBoundary
  try dsimp only
  repeat' first | with_reducible assumption | with_reducible apply Chip.replayStart_follows | with_reducible apply Chip.ctxStarts_follows
                | simp only [Chip.Follows.upd_iff] | split | intro _ | with_reducible apply Chip.foldl_follows

theorem Chip.undoBoundary_follows {c0 c : Chip} (slow : BitVec 16) (lfn : BitVec 16) (x : CtxId) (h : c0.Follows c) : c0.Follows
    (Chip.undoBoundary c slow lfn x) := by
  unfold Chip.undoBoundary
  try dsimp only
  repeat' first | with_reducible assumption | with_reducible apply Chip.enterHold_follows | with_reducible apply Chip.sendNotices_follows
                | with_reducible apply Chip.digErr_follows | simp only [Chip.Follows.upd_iff] | split | intro _
                | with_reducible apply Chip.foldl_follows

theorem Chip.shortNotices_follows {c0 c : Chip} (l : LinkId) (h : c0.Follows c) : c0.Follows (Chip.shortNotices c l) := by
  unfold Chip.shortNotices
  try dsimp only
  repeat' first | with_reducible assumption | with_reducible apply Chip.notifyLoss_follows | simp only [Chip.Follows.upd_iff] | split
                | intro _ | with_reducible apply Chip.foldl_follows

theorem Chip.beginFrame_follows {c0 c : Chip} (m : FrameMeasure) (f : Nat) (old : BitVec 16) (h : c0.Follows c) : c0.Follows
    (Chip.beginFrame c m f old) := by
  unfold Chip.beginFrame
  try dsimp only
  repeat' first | with_reducible assumption | with_reducible apply Chip.ctxBoundary_follows
                | with_reducible apply Chip.planBoundary_follows | with_reducible apply Chip.createBoundary_follows
                | with_reducible apply Chip.loadBoundary_follows | with_reducible apply Chip.mbxBoundary_follows
                | with_reducible apply Chip.copyBoundary_follows | with_reducible apply Chip.startBoundary_follows
                | with_reducible apply Chip.undoBoundary_follows | with_reducible apply Chip.refresh_follows
                | with_reducible apply Chip.shortNotices_follows | simp only [Chip.Follows.upd_iff] | split | intro _
                | with_reducible apply Chip.foldl_follows

theorem Chip.passBoundary_follows {c0 c : Chip} (m : FrameMeasure) (h : c0.Follows c) : c0.Follows (Chip.passBoundary c m) := by
  unfold Chip.passBoundary
  try dsimp only
  repeat' first | with_reducible assumption | with_reducible apply freerunEffect_follows | with_reducible apply Chip.flushTx_follows
                | with_reducible apply Chip.endFrame_follows | with_reducible apply Chip.beginFrame_follows
                | simp only [Chip.Follows.upd_iff] | split | intro _ | with_reducible apply Chip.foldl_follows

theorem frameBoundaryEffect_follows {c0 c : Chip} (m : FrameMeasure) (h : c0.Follows c) : c0.Follows (frameBoundaryEffect m c) := by
  unfold frameBoundaryEffect
  try dsimp only
  repeat' first | with_reducible assumption | with_reducible apply Chip.passBoundary_follows | simp only [Chip.Follows.upd_iff] | split
                | intro _ | with_reducible apply Chip.foldl_follows

theorem Chip.freeBuffer_follows {c0 c : Chip} (l : LinkId) (h : c0.Follows c) : c0.Follows (Chip.freeBuffer c l) := by
  unfold Chip.freeBuffer
  try dsimp only
  repeat' first | with_reducible assumption | with_reducible apply Chip.modLink_follows | simp only [Chip.Follows.upd_iff] | split
                | intro _ | with_reducible apply Chip.foldl_follows

theorem Chip.arriveCore_follows {c0 c : Chip} (n : CoreId) (ctx : CtxId) (gen : BitVec 16) (ctr : Nat) (amount : Nat) (h : c0.Follows c) :
    c0.Follows (Chip.arriveCore c n ctx gen ctr amount) := by
  unfold Chip.arriveCore
  try dsimp only
  repeat' first | with_reducible assumption | with_reducible apply Chip.coreCount_follows | with_reducible apply Chip.setCore_follows
                | simp only [Chip.Follows.upd_iff] | split | intro _ | with_reducible apply Chip.foldl_follows

theorem Chip.sgaStop_follows {c0 c : Chip} (e : EngineId) (b : Nat) (faulted : Bool) (h : c0.Follows c) : c0.Follows (Chip.sgaStop c e b
    faulted) := by
  unfold Chip.sgaStop
  try dsimp only
  repeat' first | with_reducible assumption | with_reducible apply Chip.modEngine_follows | with_reducible apply Chip.programStop_follows
                | simp only [Chip.Follows.upd_iff] | split | intro _ | with_reducible apply Chip.foldl_follows

theorem Chip.sgaAsyncStop_follows {c0 c : Chip} (e : EngineId) (b : Nat) (h : c0.Follows c) : c0.Follows (Chip.sgaAsyncStop c e b) := by
  unfold Chip.sgaAsyncStop
  try dsimp only
  repeat' first | with_reducible assumption | with_reducible apply Chip.sgaStop_follows | with_reducible apply Chip.modEngine_follows
                | simp only [Chip.Follows.upd_iff] | split | intro _ | with_reducible apply Chip.foldl_follows

theorem Chip.arriveEngine_follows {c0 c : Chip} (e : EngineId) (ctx : CtxId) (gen : BitVec 16) (ctr : Nat) (amount : Nat) (h : c0.Follows
    c) : c0.Follows (Chip.arriveEngine c e ctx gen ctr amount) := by
  unfold Chip.arriveEngine
  try dsimp only
  repeat' first | with_reducible assumption | with_reducible apply Chip.modEngine_follows | with_reducible apply Chip.sgaAsyncStop_follows
                | simp only [Chip.Follows.upd_iff] | split | intro _ | with_reducible apply Chip.foldl_follows

theorem Chip.arriveAt_follows {c0 c : Chip} (d : Nat) (ctx : CtxId) (gen : BitVec 16) (ctr : Nat) (amount : Nat) (h : c0.Follows c) :
    c0.Follows (Chip.arriveAt c d ctx gen ctr amount) := by
  unfold Chip.arriveAt
  try dsimp only
  repeat' first | with_reducible assumption | with_reducible apply Chip.arriveCore_follows
                | with_reducible apply Chip.arriveEngine_follows | simp only [Chip.Follows.upd_iff] | split | intro _
                | with_reducible apply Chip.foldl_follows

theorem Chip.noticeIn_follows {c0 c : Chip} (x : CtxId) (member : Nat) (lfn : BitVec 16) (restart : BitVec 16) (hold : Bool) (h :
    c0.Follows c) : c0.Follows (Chip.noticeIn c x member lfn restart hold) := by
  unfold Chip.noticeIn
  try dsimp only
  repeat' first | with_reducible assumption | with_reducible apply Chip.digErr_follows | with_reducible apply Chip.modCtx_follows
                | with_reducible apply Chip.modDig_follows | with_reducible apply Chip.noticeLate_follows
                | simp only [Chip.Follows.upd_iff] | split | intro _ | with_reducible apply Chip.foldl_follows

theorem Chip.recordIn_follows {c0 c : Chip} (x : CtxId) (lfn : BitVec 16) (r : List Byte) (h : c0.Follows c) : c0.Follows (Chip.recordIn c
    x lfn r) := by
  unfold Chip.recordIn
  try dsimp only
  repeat' first | with_reducible assumption | with_reducible apply Chip.noticeIn_follows | with_reducible apply Chip.digErr_follows
                | with_reducible apply Chip.modDig_follows | simp only [Chip.Follows.upd_iff] | split | intro _
                | with_reducible apply Chip.foldl_follows

theorem Chip.recordsIn_follows {c0 c : Chip} (x : CtxId) (job : Word) (lfn : BitVec 16) (rs : List (List Byte)) (h : c0.Follows c) :
    c0.Follows (Chip.recordsIn c x job lfn rs) := by
  unfold Chip.recordsIn
  try dsimp only
  repeat' first | with_reducible assumption | with_reducible apply Chip.decideLate_follows | with_reducible apply Chip.mbxErr_follows
                | with_reducible apply Chip.recordIn_follows | simp only [Chip.Follows.upd_iff] | split | intro _
                | with_reducible apply Chip.foldl_follows

theorem Chip.acceptMessage_follows {c0 c : Chip} (p : Packet) (h : c0.Follows c) : c0.Follows (Chip.acceptMessage c p) := by
  unfold Chip.acceptMessage
  try dsimp only
  repeat' first | with_reducible assumption | with_reducible apply Chip.modRte_follows | with_reducible apply Chip.arriveAt_follows
                | with_reducible apply Chip.recordsIn_follows | with_reducible apply Chip.chargeLoss_follows
                | simp only [Chip.Follows.upd_iff] | split | intro _ | with_reducible apply Chip.foldl_follows

theorem Chip.ownMessage_follows {c0 c : Chip} (p : Packet) (h : c0.Follows c) : c0.Follows (Chip.ownMessage c p) := by
  unfold Chip.ownMessage
  try dsimp only
  repeat' first | with_reducible assumption | with_reducible apply Chip.modRte_follows | with_reducible apply Chip.acceptMessage_follows
                | simp only [Chip.Follows.upd_iff] | split | intro _ | with_reducible apply Chip.foldl_follows

theorem Chip.messagePacket_follows {c0 c : Chip} (l : LinkId) (p : Packet) (h : c0.Follows c) : c0.Follows (Chip.messagePacket c l p) :=
    by
  unfold Chip.messagePacket
  try dsimp only
  repeat' first | with_reducible assumption | with_reducible apply Chip.freeBuffer_follows | with_reducible apply Chip.modRte_follows
                | with_reducible apply Chip.ownMessage_follows | with_reducible apply Chip.modLink_follows
                | simp only [Chip.Follows.upd_iff] | split | intro _ | with_reducible apply Chip.foldl_follows

theorem quarantineEffect_follows {c0 c : Chip} (u : UnitId) (h : c0.Follows c) : c0.Follows (quarantineEffect u c) := by
  unfold quarantineEffect
  try dsimp only
  repeat' first | with_reducible assumption | with_reducible apply Chip.quarantine_follows | simp only [Chip.Follows.upd_iff] | split
                | intro _ | with_reducible apply Chip.foldl_follows

theorem Chip.vendor_follows {c0 c : Chip} (cmd : Byte) (tag : BitVec 16) (status : BitVec 16) (data : List Byte) (h : c0.Follows c) :
    c0.Follows (Chip.vendor c cmd tag status data) := by
  unfold Chip.vendor
  try dsimp only
  repeat' first | with_reducible assumption | with_reducible apply Chip.emit_follows | simp only [Chip.Follows.upd_iff] | split | intro _
                | with_reducible apply Chip.foldl_follows

theorem mctpStageEffect_follows {c0 c : Chip} (tag : BitVec 16) (off : Word) (len : Word) (chunk : List Byte) (h : c0.Follows c) :
    c0.Follows (mctpStageEffect tag off len chunk c) := by
  unfold mctpStageEffect
  try dsimp only
  repeat' first | with_reducible assumption | with_reducible apply Chip.vendor_follows | with_reducible apply Chip.stageChunk_follows
                | simp only [Chip.Follows.upd_iff] | split | intro _ | with_reducible apply Chip.foldl_follows

theorem Chip.spreadBallast_follows {c0 c : Chip} (total : Nat) (h : c0.Follows c) : c0.Follows (Chip.spreadBallast c total) := by
  unfold Chip.spreadBallast
  exact Chip.foldl_fst_follows _ _ (fun s n hs => Chip.modCore_follows _ _ hs) _ (Chip.noBallast_follows h)

theorem Chip.ballastWindow_follows {c0 c : Chip} (own : Nat) (room : Nat) (h : c0.Follows c) : c0.Follows (Chip.ballastWindow c own room)
    := by
  unfold Chip.ballastWindow
  try dsimp only
  repeat' first | with_reducible assumption | with_reducible apply Chip.modPwr_follows | with_reducible apply Chip.spreadBallast_follows
                | with_reducible apply Chip.pwrErr_follows | with_reducible apply Chip.stopBallast_follows
                | simp only [Chip.Follows.upd_iff] | split | intro _ | with_reducible apply Chip.foldl_follows

theorem Chip.putPace_follows {c0 c : Chip} (p : BitVec 16) (h : c0.Follows c) : c0.Follows (Chip.putPace c p) := by
  unfold Chip.putPace
  try dsimp only
  repeat' first | with_reducible assumption | with_reducible apply Chip.modPwr_follows | with_reducible apply Chip.powerBeacon_follows
                | with_reducible apply Chip.pwrErr_follows | simp only [Chip.Follows.upd_iff] | split | intro _
                | with_reducible apply Chip.foldl_follows

theorem windowEffect_follows {c0 c : Chip} (m : WindowMeasure) (h : c0.Follows c) : c0.Follows (windowEffect m c) := by
  unfold windowEffect
  try dsimp only
  repeat' first | with_reducible assumption | with_reducible apply Chip.modPwr_follows | with_reducible apply Chip.ballastWindow_follows
                | with_reducible apply Chip.putPace_follows | simp only [Chip.Follows.upd_iff] | split | intro _
                | with_reducible apply Chip.foldl_follows

theorem msixEffect_follows {c0 c : Chip} (v : Fin 8) (h : c0.Follows c) : c0.Follows (msixEffect v c) := by
  unfold msixEffect
  try dsimp only
  repeat' first | with_reducible assumption | with_reducible apply Chip.sendVector_follows | simp only [Chip.Follows.upd_iff] | split
                | intro _ | with_reducible apply Chip.foldl_follows

theorem heartbeatEffect_follows {c0 c : Chip} (h : c0.Follows c) : c0.Follows (heartbeatEffect c) := by
  unfold heartbeatEffect
  try dsimp only
  repeat' first | with_reducible assumption | with_reducible apply Chip.modMbx_follows | simp only [Chip.Follows.upd_iff] | split
                | intro _ | with_reducible apply Chip.foldl_follows

theorem Chip.newSecond_follows {c0 c : Chip} (h : c0.Follows c) : c0.Follows (Chip.newSecond c) := by
  unfold Chip.newSecond
  try dsimp only
  repeat' first | with_reducible assumption | with_reducible apply Chip.modPkg_follows | with_reducible apply Chip.modFlt_follows
                | simp only [Chip.Follows.upd_iff] | split | intro _ | with_reducible apply Chip.foldl_follows

theorem Chip.readsCircuit_follows {c0 c : Chip} (n : CoreId) (x : CtxId) (h : c0.Follows c) : c0.Follows (Chip.readsCircuit c n x) := by
  unfold Chip.readsCircuit
  try dsimp only
  repeat' first | with_reducible assumption | with_reducible apply Chip.modDig_follows | simp only [Chip.Follows.upd_iff] | split
                | intro _ | with_reducible apply Chip.foldl_follows

theorem Chip.granuleAt_follows {c0 c : Chip} (n : CoreId) (ctx : Option CtxId) (gen : BitVec 16) (a : Nat) (ctr : Nat) (g : Granule) (h :
    c0.Follows c) : c0.Follows (Chip.granuleAt c n ctx gen a ctr g) := by
  unfold Chip.granuleAt
  try dsimp only
  repeat' first | with_reducible assumption | with_reducible apply Chip.coreCount_follows | with_reducible apply Chip.setCore_follows
                | simp only [Chip.Follows.upd_iff] | split | intro _ | with_reducible apply Chip.foldl_follows

theorem Chip.sumInbound_follows {c0 c : Chip} (x : CtxId) (p : Packet) (h : c0.Follows c) : c0.Follows (Chip.sumInbound c x p) := by
  unfold Chip.sumInbound
  try dsimp only
  repeat' first | with_reducible assumption | with_reducible apply Chip.modDig_follows | simp only [Chip.Follows.upd_iff] | split
                | intro _ | with_reducible apply Chip.foldl_follows

theorem Chip.deliverData_follows {c0 c : Chip} (x : CtxId) (p : Packet) (h : c0.Follows c) : c0.Follows (Chip.deliverData c x p) := by
  unfold Chip.deliverData
  try dsimp only
  repeat' first | with_reducible assumption | with_reducible apply Chip.readsCircuit_follows | with_reducible apply Chip.granuleAt_follows
                | with_reducible apply Chip.sumInbound_follows | simp only [Chip.Follows.upd_iff] | split | intro _
                | with_reducible apply Chip.foldl_follows

theorem Chip.sendPackets_follows {c0 c : Chip} (l : LinkId) (e : PlanEntry) (ps : List Packet) (h : c0.Follows c) : c0.Follows
    (Chip.sendPackets c l e ps) := by
  unfold Chip.sendPackets
  try dsimp only
  repeat' first | with_reducible assumption | with_reducible apply Chip.emit_follows | with_reducible apply Chip.modLink_follows
                | with_reducible apply Chip.sendGroup_follows | simp only [Chip.Follows.upd_iff] | split | intro _
                | with_reducible apply Chip.foldl_follows

theorem Chip.countOut_follows {c0 c : Chip} (p : Packet) (h : c0.Follows c) : c0.Follows (Chip.countOut c p) := by
  unfold Chip.countOut
  try dsimp only
  repeat' first | with_reducible assumption | with_reducible apply Chip.modDig_follows | simp only [Chip.Follows.upd_iff] | split
                | intro _ | with_reducible apply Chip.foldl_follows

theorem Chip.sendDue_follows {c0 c : Chip} (l : LinkId) (h : c0.Follows c) : c0.Follows (Chip.sendDue c l) := by
  unfold Chip.sendDue
  try dsimp only
  repeat' first | with_reducible assumption | with_reducible apply Chip.modLink_follows | with_reducible apply Chip.sendPackets_follows
                | with_reducible apply Chip.countOut_follows | simp only [Chip.Follows.upd_iff] | split | intro _
                | with_reducible apply Chip.foldl_follows

theorem Chip.sendCircuit_follows {c0 c : Chip} (l : LinkId) (p : Packet) (h : c0.Follows c) : c0.Follows (Chip.sendCircuit c l p) := by
  unfold Chip.sendCircuit
  try dsimp only
  repeat' first | with_reducible assumption | with_reducible apply Chip.sendDue_follows | with_reducible apply Chip.modLink_follows
                | simp only [Chip.Follows.upd_iff] | split | intro _ | with_reducible apply Chip.foldl_follows

theorem Chip.respond_follows {c0 c : Chip} (p : Packet) (ptype : Nat) (val : Nat) (pmask : Nat) (flits : List (List Byte)) (refused :
    optParam Bool false) (h : c0.Follows c) : c0.Follows (Chip.respond c p ptype val pmask flits refused) := by
  unfold Chip.respond
  try dsimp only
  repeat' first | with_reducible assumption | with_reducible apply Chip.sendCircuit_follows | simp only [Chip.Follows.upd_iff] | split
                | intro _ | with_reducible apply Chip.foldl_follows

theorem Chip.countRefused_follows {c0 c : Chip} (p : Packet) (h : c0.Follows c) : c0.Follows (Chip.countRefused c p) := by
  unfold Chip.countRefused
  try dsimp only
  repeat' first | with_reducible assumption | with_reducible apply Chip.modStack_follows | simp only [Chip.Follows.upd_iff] | split
                | intro _ | with_reducible apply Chip.foldl_follows

theorem Chip.serveRead_follows {c0 c : Chip} (p : Packet) (ups : Upsets) (h : c0.Follows c) : c0.Follows (Chip.serveRead c p ups) := by
  unfold Chip.serveRead
  try dsimp only
  repeat' first | with_reducible assumption | with_reducible apply Chip.readLine_follows | with_reducible apply Chip.respond_follows
                | with_reducible apply Chip.freeLine_follows | with_reducible apply Chip.countRefused_follows
                | simp only [Chip.Follows.upd_iff] | with_reducible apply Chip.foldl_follows | with_reducible apply Chip.foldl_fst_follows
                | with_reducible apply Chip.foldl_snd_follows | with_reducible apply Chip.foldl_third_follows | split | intro _
                | with_reducible refine Chip.Follows.fst_of (by assumption) ?_
                | with_reducible refine Chip.Follows.snd_of (by assumption) ?_
                | simp (disch := first | rfl | exact Nor.setInactive_rollback _ _ | exact Nor.addPending_rollback _ _ _) only [Chip.Follows.updNor_iff]
                | simp (disch := rfl) only [Chip.Follows.updMem_iff] | with_reducible rfl | dsimp only

theorem Chip.refusedAt_follows {c0 c : Chip} (p : Packet) (f : Option Flight) (h : c0.Follows c) : c0.Follows (Chip.refusedAt c p f) := by
  unfold Chip.refusedAt
  try dsimp only
  repeat' first | with_reducible assumption | with_reducible apply Chip.coreAsyncStop_follows | with_reducible apply Chip.modCore_follows
                | with_reducible apply Chip.addNotDone_follows | simp only [Chip.Follows.upd_iff] | split | intro _
                | with_reducible apply Chip.foldl_follows

theorem Chip.readBack_follows {c0 c : Chip} (p : Packet) (h : c0.Follows c) : c0.Follows (Chip.readBack c p) := by
  unfold Chip.readBack
  try dsimp only
  repeat' first | with_reducible assumption | with_reducible apply Chip.granuleAt_follows | with_reducible apply Chip.modCore_follows
                | with_reducible apply Chip.readsCircuit_follows | with_reducible apply Chip.refusedAt_follows
                | simp only [Chip.Follows.upd_iff] | split | intro _ | with_reducible apply Chip.foldl_follows

theorem Chip.serveWrite_follows {c0 c : Chip} (p : Packet) (h : c0.Follows c) : c0.Follows (Chip.serveWrite c p) := by
  unfold Chip.serveWrite
  try dsimp only
  repeat' first | with_reducible assumption | with_reducible apply Chip.respond_follows | with_reducible apply Chip.writeLine_follows
                | with_reducible apply Chip.countRefused_follows | simp only [Chip.Follows.upd_iff] | split | intro _
                | with_reducible apply Chip.foldl_follows

theorem Chip.writeBack_follows {c0 c : Chip} (p : Packet) (h : c0.Follows c) : c0.Follows (Chip.writeBack c p) := by
  unfold Chip.writeBack
  try dsimp only
  repeat' first | with_reducible assumption | with_reducible apply Chip.modCore_follows | with_reducible apply Chip.ackAt_follows
                | with_reducible apply Chip.refusedAt_follows | simp only [Chip.Follows.upd_iff] | split | intro _
                | with_reducible apply Chip.foldl_follows

theorem Chip.arrived_follows {c0 c : Chip} (l : LinkId) (p : Packet) (ups : Upsets) (h : c0.Follows c) : c0.Follows (Chip.arrived c l p
    ups) := by
  unfold Chip.arrived
  try dsimp only
  repeat' first | with_reducible assumption | with_reducible apply Chip.charge_follows | with_reducible apply Chip.modLink_follows
                | with_reducible apply Chip.modRte_follows | with_reducible apply Chip.deliverData_follows
                | with_reducible apply Chip.serveRead_follows | with_reducible apply Chip.readBack_follows
                | with_reducible apply Chip.serveWrite_follows | with_reducible apply Chip.writeBack_follows
                | simp only [Chip.Follows.upd_iff] | split | intro _ | with_reducible apply Chip.foldl_follows

theorem ldGranuleEffect_follows {c0 c : Chip} (n : CoreId) (mv : Nat) (g : BitVec 16) (ups : Upsets) (h : c0.Follows c) : c0.Follows
    (ldGranuleEffect n mv g ups c) := by
  unfold ldGranuleEffect
  try dsimp only
  repeat' first | with_reducible assumption | with_reducible apply Chip.readLine_follows | with_reducible apply Chip.granuleAt_follows
                | with_reducible apply Chip.modCore_follows | simp only [Chip.Follows.upd_iff] | split | intro _
                | with_reducible apply Chip.foldl_follows

theorem heartbeatMissEffect_follows {c0 c : Chip} (by_ : IbexUnit) (h : c0.Follows c) : c0.Follows (heartbeatMissEffect by_ c) := by
  unfold heartbeatMissEffect
  try dsimp only
  repeat' first | with_reducible assumption | with_reducible apply Chip.failIbex_follows | simp only [Chip.Follows.upd_iff] | split
                | intro _ | with_reducible apply Chip.foldl_follows

theorem Chip.recoverCtx_follows {c0 c : Chip} (x : CtxId) (h : c0.Follows c) : c0.Follows (Chip.recoverCtx c x) := by
  unfold Chip.recoverCtx
  try dsimp only
  repeat' first | with_reducible assumption | with_reducible apply Chip.enterHold_follows | with_reducible apply Chip.chargeStop_follows
                | with_reducible apply Chip.modCtx_follows | with_reducible apply Chip.finishAfter_follows
                | simp only [Chip.Follows.upd_iff] | split | intro _ | with_reducible apply Chip.foldl_follows

theorem syncWaitResumeEffect_follows {c0 c : Chip} (n : CoreId) (h : c0.Follows c) : c0.Follows (syncWaitResumeEffect n c) := by
  unfold syncWaitResumeEffect
  try dsimp only
  repeat' first | with_reducible assumption | with_reducible apply Chip.wakeCore_follows | simp only [Chip.Follows.upd_iff] | split
                | intro _ | with_reducible apply Chip.foldl_follows

theorem Chip.lockCompare_follows {c0 c : Chip} (o : RefInput) (m : Mark) (h : c0.Follows c) : c0.Follows (Chip.lockCompare c o m) := by
  unfold Chip.lockCompare
  try dsimp only
  repeat' first | with_reducible assumption | with_reducible apply Chip.mismatch_follows | simp only [Chip.Follows.upd_iff] | split
                | intro _ | with_reducible apply Chip.foldl_follows

theorem frameLockEffect_follows {c0 c : Chip} (h : c0.Follows c) : c0.Follows (frameLockEffect c) := by
  unfold frameLockEffect
  try dsimp only
  repeat' first | with_reducible assumption | with_reducible apply Chip.realign_follows | with_reducible apply Chip.refresh_follows
                | with_reducible apply Chip.lockCompare_follows | simp only [Chip.Follows.upd_iff] | split | intro _
                | with_reducible apply Chip.foldl_follows

theorem tombExpireEffect_follows {c0 c : Chip} (circuit : BitVec 16) (h : c0.Follows c) : c0.Follows (tombExpireEffect circuit c) := by
  unfold tombExpireEffect
  try dsimp only
  repeat' first | with_reducible assumption | with_reducible apply Chip.circuitsChanged_follows | simp only [Chip.Follows.upd_iff] | split
                | intro _ | with_reducible apply Chip.foldl_follows

theorem Chip.sendMgmt_follows {c0 c : Chip} (l : LinkId) (word : Dword) (til : Option (BitVec 12)) (h : c0.Follows c) : c0.Follows
    (Chip.sendMgmt c l word til) := by
  unfold Chip.sendMgmt
  try dsimp only
  repeat' first | with_reducible assumption | with_reducible apply Chip.emit_follows | with_reducible apply Chip.modLink_follows
                | simp only [Chip.Follows.upd_iff] | split | intro _ | with_reducible apply Chip.foldl_follows

theorem Chip.sendLaneChange_follows {c0 c : Chip} (l : LinkId) (type : Nat) (good : BitVec 16) (h : c0.Follows c) : c0.Follows
    (Chip.sendLaneChange c l type good) := by
  unfold Chip.sendLaneChange
  try dsimp only
  repeat' first | with_reducible assumption | with_reducible apply Chip.sendMgmt_follows | with_reducible apply Chip.modLink_follows
                | simp only [Chip.Follows.upd_iff] | split | intro _ | with_reducible apply Chip.foldl_follows

theorem moveFResumeEffect_follows {c0 c : Chip} (n : CoreId) (h : c0.Follows c) : c0.Follows (moveFResumeEffect n c) := by
  unfold moveFResumeEffect
  try dsimp only
  repeat' first | with_reducible assumption | with_reducible apply Chip.setCore_follows | simp only [Chip.Follows.upd_iff] | split
                | intro _ | with_reducible apply Chip.foldl_follows

theorem Chip.sendData_follows {c0 c : Chip} (n : CoreId) (d : MoveDesc) (total : Nat) (r : Nat × List Granule) (h : c0.Follows c) :
    c0.Follows (Chip.sendData c n d total r) := by
  unfold Chip.sendData
  try dsimp only
  repeat' first | with_reducible assumption | with_reducible apply Chip.sendCircuit_follows | simp only [Chip.Follows.upd_iff] | split
                | intro _ | with_reducible apply Chip.foldl_follows

theorem Chip.sendRemote_follows {c0 c : Chip} (n : CoreId) (d : MoveDesc) (r : Nat × List Granule) (h : c0.Follows c) : c0.Follows
    (Chip.sendRemote c n d r) := by
  unfold Chip.sendRemote
  try dsimp only
  repeat' first | with_reducible assumption | with_reducible apply Chip.sendCircuit_follows | simp only [Chip.Follows.upd_iff] | split
                | intro _ | with_reducible apply Chip.foldl_follows

theorem Chip.launch_follows {c0 c : Chip} (n : CoreId) (d : MoveDesc) (h : c0.Follows c) : c0.Follows (Chip.launch c n d) := by
  unfold Chip.launch
  try dsimp only
  repeat' first | with_reducible assumption | with_reducible apply Chip.sendData_follows | with_reducible apply Chip.setCore_follows
                | with_reducible apply Chip.sendRemote_follows | with_reducible apply Chip.coreCount_follows
                | simp only [Chip.Follows.upd_iff] | split | intro _ | with_reducible apply Chip.foldl_follows

theorem ringWriteEffect_follows {c0 c : Chip} (h : c0.Follows c) : c0.Follows (ringWriteEffect c) := by
  unfold ringWriteEffect
  try dsimp only
  repeat' first | with_reducible assumption | with_reducible apply Chip.ringPut_follows | simp only [Chip.Follows.upd_iff] | split
                | intro _ | with_reducible apply Chip.foldl_follows

theorem Chip.writeFrmCtl_follows {c0 c : Chip} (w : Word) (h : c0.Follows c) : c0.Follows (Chip.writeFrmCtl c w) := by
  unfold Chip.writeFrmCtl
  try dsimp only
  repeat' first | with_reducible assumption | with_reducible apply Chip.inputBad_follows | simp only [Chip.Follows.upd_iff] | split
                | intro _ | with_reducible apply Chip.foldl_follows

theorem Chip.refillSignals_follows {c0 c : Chip} (h : c0.Follows c) : c0.Follows (Chip.refillSignals c) := by
  unfold Chip.refillSignals
  try dsimp only
  repeat' first | with_reducible assumption | with_reducible apply Chip.sgaFinish_follows | with_reducible apply Chip.modEngine_follows
                | simp only [Chip.Follows.upd_iff] | split | intro _ | with_reducible apply Chip.foldl_follows

theorem Chip.dropLanes_follows {c0 c : Chip} (l : LinkId) (lanes : List Nat) (lost : Bool) (h : c0.Follows c) : c0.Follows (Chip.dropLanes
    c l lanes lost) := by
  unfold Chip.dropLanes
  try dsimp only
  repeat' first | with_reducible assumption | with_reducible apply Chip.modLink_follows | with_reducible apply Chip.sendLaneChange_follows
                | simp only [Chip.Follows.upd_iff] | split | intro _ | with_reducible apply Chip.foldl_follows

theorem Chip.countLost_follows {c0 c : Chip} (l : LinkId) (lane : Nat) (h : c0.Follows c) : c0.Follows (Chip.countLost c l lane) := by
  unfold Chip.countLost
  try dsimp only
  repeat' first | with_reducible assumption | with_reducible apply Chip.modLink_follows | with_reducible apply Chip.dropLanes_follows
                | simp only [Chip.Follows.upd_iff] | split | intro _ | with_reducible apply Chip.foldl_follows

theorem Chip.countCodeword_follows {c0 c : Chip} (l : LinkId) (w : Codeword) (h : c0.Follows c) : c0.Follows (Chip.countCodeword c l w) :=
    by
  unfold Chip.countCodeword
  try dsimp only
  repeat' first | with_reducible assumption | with_reducible apply Chip.countLost_follows | with_reducible apply Chip.modLink_follows
                | simp only [Chip.Follows.upd_iff] | split | intro _ | with_reducible apply Chip.foldl_follows

theorem Chip.countGroup_follows {c0 c : Chip} (l : LinkId) (g : List Codeword) (h : c0.Follows c) : c0.Follows (Chip.countGroup c l g) :=
    by
  unfold Chip.countGroup
  try dsimp only
  repeat' first | with_reducible assumption | with_reducible apply Chip.countLost_follows
                | with_reducible apply Chip.countCodeword_follows | simp only [Chip.Follows.upd_iff] | split | intro _
                | with_reducible apply Chip.foldl_follows

theorem goodbyeEffect_follows {c0 c : Chip} (l : LinkId) (h : c0.Follows c) : c0.Follows (goodbyeEffect l c) := by
  unfold goodbyeEffect
  try dsimp only
  repeat' first | with_reducible assumption | with_reducible apply Chip.linkDown_follows | simp only [Chip.Follows.upd_iff] | split
                | intro _ | with_reducible apply Chip.foldl_follows

theorem neighbourEffect_follows {c0 c : Chip} (l : LinkId) (rec : BitVec 16) (h : c0.Follows c) : c0.Follows (neighbourEffect l rec c) :=
    by
  unfold neighbourEffect
  try dsimp only
  repeat' first | with_reducible assumption | with_reducible apply Chip.modLink_follows | with_reducible apply Chip.linkDown_follows
                | simp only [Chip.Follows.upd_iff] | split | intro _ | with_reducible apply Chip.foldl_follows

theorem Chip.mgmtIn_follows {c0 c : Chip} (l : LinkId) (w : Dword) (h : c0.Follows c) : c0.Follows (Chip.mgmtIn c l w) := by
  unfold Chip.mgmtIn
  try dsimp only
  repeat' first | with_reducible assumption | with_reducible apply peerChange_follows | with_reducible apply goodbyeEffect_follows
                | with_reducible apply neighbourEffect_follows | simp only [Chip.Follows.upd_iff] | split | intro _
                | with_reducible apply Chip.foldl_follows

theorem Chip.mgmtBit_follows {c0 c : Chip} (l : LinkId) (w : Codeword) (h : c0.Follows c) : c0.Follows (Chip.mgmtBit c l w) := by
  unfold Chip.mgmtBit
  try dsimp only
  repeat' first | with_reducible assumption | with_reducible apply Chip.mgmtIn_follows | with_reducible apply Chip.modLink_follows
                | simp only [Chip.Follows.upd_iff] | split | intro _ | with_reducible apply Chip.foldl_follows

theorem Chip.takeData_follows {c0 c : Chip} (l : LinkId) (g : List (Option Codeword)) (h : c0.Follows c) : c0.Follows (Chip.takeData c l
    g) := by
  unfold Chip.takeData
  try dsimp only
  repeat' first | with_reducible assumption | with_reducible apply Chip.modRte_follows | with_reducible apply Chip.modLink_follows
                | simp only [Chip.Follows.upd_iff] | split | intro _ | with_reducible apply Chip.foldl_follows

theorem codewordEffect_follows {c0 c : Chip} (l : LinkId) (g : List Codeword) (h : c0.Follows c) : c0.Follows (codewordEffect l g c) := by
  unfold codewordEffect
  split
  · exact h
  · extract_lets t used good heard off taken c1 c2 c3 kind lost c4 c5 c6
    have h1 : c0.Follows c1 := Chip.modLink_follows _ _ (Chip.countGroup_follows _ _ h)
    have h2 : c0.Follows c2 := by
      show c0.Follows (match taken.head? with | none => _ | some w => _)
      split
      · exact h1
      · exact Chip.takeHeader_follows _ _ h1
    have h3 : c0.Follows c3 := Chip.foldl_follows _ _ (fun _ _ hd => Chip.mgmtBit_follows _ _ hd) h2
    have h4 : c0.Follows c4 := by
      show c0.Follows (if _ then _ else _)
      split
      · exact Chip.modLink_follows _ _ h3
      · exact h3
    have h5 : c0.Follows c5 := by
      show c0.Follows (if _ then _ else _)
      split
      · exact Chip.loseData_follows _ h4
      · exact h4
    have h6 : c0.Follows c6 := by
      show c0.Follows (if _ then _ else if _ then _ else _)
      split
      · exact Chip.modLink_follows _ _ h5
      · split
        · exact Chip.takeData_follows _ _ h5
        · exact h5
    clear_value c6
    split
    · exact Chip.sendGroup_follows _ _ _ _ h6
    · exact h6

theorem Chip.modThm_follows {c0 c : Chip} (f : Thm → Thm) (h : c0.Follows c) : c0.Follows (Chip.modThm c f) := by
  unfold Chip.modThm
  try dsimp only
  repeat' first | with_reducible assumption | simp only [Chip.Follows.upd_iff] | split | intro _ | with_reducible apply Chip.foldl_follows

theorem Chip.thmErr_follows {c0 c : Chip} (b : Nat) (h : c0.Follows c) : c0.Follows (Chip.thmErr c b) := by
  unfold Chip.thmErr
  try dsimp only
  repeat' first | with_reducible assumption | with_reducible apply Chip.irqCause_follows | simp only [Chip.Follows.upd_iff] | split
                | intro _ | with_reducible apply Chip.foldl_follows

theorem Chip.realert_follows {c0 c : Chip} (h : c0.Follows c) : c0.Follows (Chip.realert c) := by
  unfold Chip.realert
  try dsimp only
  repeat' first | with_reducible assumption | with_reducible apply Chip.modThm_follows | with_reducible apply Chip.thmErr_follows
                | simp only [Chip.Follows.upd_iff] | split | intro _ | with_reducible apply Chip.foldl_follows

theorem Chip.thermalShutdown_follows {c0 c : Chip} (row : Nat) (h : c0.Follows c) : c0.Follows (Chip.thermalShutdown c row) := by
  unfold Chip.thermalShutdown
  try dsimp only
  repeat' first | with_reducible assumption | with_reducible apply Chip.mapUnits_follows | with_reducible apply Chip.realert_follows
                | with_reducible apply Chip.modThm_follows | with_reducible apply Chip.orderPackage_follows
                | with_reducible apply Chip.powerBeacon_follows | simp only [Chip.Follows.upd_iff] | split | intro _
                | with_reducible apply Chip.foldl_follows

theorem Chip.readStack_follows {c0 c : Chip} (i : StackId) (base : BitVec 16) (dram : BitVec 16) (h : c0.Follows c) : c0.Follows
    (Chip.readStack c i base dram) := by
  unfold Chip.readStack
  try dsimp only
  repeat' first | with_reducible assumption | with_reducible apply Chip.modStack_follows
                | with_reducible apply Chip.thermalShutdown_follows | with_reducible apply Chip.realert_follows
                | with_reducible apply Chip.powerBeacon_follows | with_reducible apply Chip.thmErr_follows
                | simp only [Chip.Follows.upd_iff] | split | intro _ | with_reducible apply Chip.foldl_follows

theorem Chip.refuse_follows {c0 c : Chip} (off : Nat) (causes : List Nat) (h : c0.Follows c) : c0.Follows (Chip.refuse c off causes) := by
  unfold Chip.refuse
  try dsimp only
  repeat' first | with_reducible assumption | simp only [Chip.Follows.upd_iff] | split | intro _ | with_reducible apply Chip.foldl_follows

theorem Chip.writeRoute_follows {c0 c : Chip} (i : Nat) (w : Word) (h : c0.Follows c) : c0.Follows (Chip.writeRoute c i w) := by
  unfold Chip.writeRoute
  try dsimp only
  repeat' first | with_reducible assumption | with_reducible apply Chip.modRte_follows | simp only [Chip.Follows.upd_iff] | split
                | intro _ | with_reducible apply Chip.foldl_follows

theorem Chip.hostRoute_follows {c0 c : Chip} (i : Nat) (a : RegAlias) (d : Word) (off : Nat) (h : c0.Follows c) : c0.Follows
    (Chip.hostRoute c i a d off) := by
  unfold Chip.hostRoute
  try dsimp only
  repeat' first | with_reducible assumption | with_reducible apply Chip.refuse_follows | with_reducible apply Chip.writeRoute_follows
                | simp only [Chip.Follows.upd_iff] | split | intro _ | with_reducible apply Chip.foldl_follows

theorem Chip.consume_follows {c0 c : Chip} (u : UnitId) (stack : Nat) (addr : Nat) (err : Word) (h : c0.Follows c) : c0.Follows
    (Chip.consume c u stack addr err) := by
  unfold Chip.consume
  try dsimp only
  repeat' first | with_reducible assumption | with_reducible apply Chip.fltErr_follows | with_reducible apply Chip.event_follows
                | with_reducible apply Chip.modDig_follows | with_reducible apply Chip.modCtx_follows
                | with_reducible apply Chip.orderCompute_follows | with_reducible apply Chip.faultHold_follows
                | with_reducible apply Chip.stepStopped_follows | simp only [Chip.Follows.upd_iff] | split | intro _
                | with_reducible apply Chip.foldl_follows

theorem Chip.engRead_follows {c0 c : Chip} (e : EngineId) (bs : List (Nat × Nat)) (ups : Upsets) (h : c0.Follows c) : c0.Follows
    (Chip.engRead c e bs ups) := by
  unfold Chip.engRead
  try dsimp only
  repeat' first | with_reducible assumption | with_reducible apply Chip.decodeLine_follows | with_reducible apply Chip.modEngine_follows
                | with_reducible apply Chip.consume_follows | simp only [Chip.Follows.upd_iff] | split | intro _
                | with_reducible apply Chip.foldl_follows

theorem Chip.engWrite_follows {c0 c : Chip} (e : EngineId) (ups : Upsets) (a : Nat) (bs : List Byte) (h : c0.Follows c) : c0.Follows
    (Chip.engWrite c e ups a bs) := by
  unfold Chip.engWrite
  try dsimp only
  repeat' first | with_reducible assumption | with_reducible apply Chip.writeLine_follows | with_reducible apply Chip.decodeLine_follows
                | with_reducible apply Chip.logUndo_follows | with_reducible apply Chip.putLine_follows | simp only [Chip.Follows.upd_iff]
                | split | intro _ | with_reducible apply Chip.foldl_follows

theorem Chip.dropLateRecords_follows {c0 c : Chip} (h : c0.Follows c) : c0.Follows (Chip.dropLateRecords c) := by
  unfold Chip.dropLateRecords
  try dsimp only
  repeat' first | with_reducible assumption | with_reducible apply Chip.digErr_follows | simp only [Chip.Follows.upd_iff] | split
                | intro _ | with_reducible apply Chip.foldl_follows

theorem Chip.transmit_follows {c0 c : Chip} (o : LinkId) (p : Packet) (h : c0.Follows c) : c0.Follows (Chip.transmit c o p) := by
  unfold Chip.transmit
  try dsimp only
  repeat' first | with_reducible assumption | with_reducible apply Chip.emit_follows | with_reducible apply Chip.modLink_follows
                | simp only [Chip.Follows.upd_iff] | split | intro _ | with_reducible apply Chip.foldl_follows

theorem Chip.trySend_follows {c0 c : Chip} (q : QPacket) (h : c0.Follows c) : c0.Follows (Chip.trySend c q).1 := by
  unfold Chip.trySend
  try dsimp only
  repeat' first | with_reducible assumption | with_reducible apply Chip.modRte_follows | with_reducible apply Chip.transmit_follows
                | simp only [Chip.Follows.upd_iff] | split | intro _ | with_reducible apply Chip.foldl_follows

theorem Chip.markQuarEngine_follows {c0 c : Chip} (e : EngineId) (h : c0.Follows c) : c0.Follows (Chip.markQuarEngine c e) := by
  unfold Chip.markQuarEngine
  try dsimp only
  repeat' first | with_reducible assumption | with_reducible apply Chip.modEngine_follows | simp only [Chip.Follows.upd_iff] | split
                | intro _ | with_reducible apply Chip.foldl_follows

theorem Chip.useGroups_follows {c0 c : Chip} (l : LinkId) (n : Nat) (h : c0.Follows c) : c0.Follows (Chip.useGroups c l n) := by
  unfold Chip.useGroups
  try dsimp only
  repeat' first | with_reducible assumption | with_reducible apply Chip.modLink_follows | simp only [Chip.Follows.upd_iff] | split
                | intro _ | with_reducible apply Chip.foldl_follows

theorem Chip.replay_follows {c0 c : Chip} (l : LinkId) (h : c0.Follows c) : c0.Follows (Chip.replay c l) := by
  unfold Chip.replay
  try dsimp only
  repeat' first | with_reducible assumption | with_reducible apply Chip.modLink_follows | with_reducible apply Chip.useGroups_follows
                | simp only [Chip.Follows.upd_iff] | split | intro _ | with_reducible apply Chip.foldl_follows

theorem Chip.storeParams_follows {c0 c : Chip} (l : LinkId) (h : c0.Follows c) : c0.Follows (Chip.storeParams c l) := by
  unfold Chip.storeParams
  exact h.updNor rfl

theorem recoveryEndEffect_follows {c0 c : Chip} (ms : Nat) (h : c0.Follows c) : c0.Follows (recoveryEndEffect ms c) := by
  unfold recoveryEndEffect
  try dsimp only
  repeat' first | with_reducible assumption | with_reducible apply Chip.modFlt_follows | with_reducible apply Chip.event_follows
                | with_reducible apply Chip.setDState_follows | with_reducible apply Chip.finish_follows
                | simp only [Chip.Follows.upd_iff] | split | intro _ | with_reducible apply Chip.foldl_follows

theorem Chip.writeIrqStatus_follows {c0 c : Chip} (a : RegAlias) (d : Word) (h : c0.Follows c) : c0.Follows (Chip.writeIrqStatus c a d) :=
    by
  unfold Chip.writeIrqStatus
  try dsimp only
  repeat' first | with_reducible assumption | with_reducible apply Chip.refuse_follows | with_reducible apply Chip.modPkg_follows
                | simp only [Chip.Follows.upd_iff] | split | intro _ | with_reducible apply Chip.foldl_follows

theorem Chip.countFrame_follows {c0 c : Chip} (h : c0.Follows c) : c0.Follows (Chip.countFrame c) := by
  unfold Chip.countFrame
  try dsimp only
  repeat' first | with_reducible assumption | with_reducible apply Chip.modFlt_follows | simp only [Chip.Follows.upd_iff] | split
                | intro _ | with_reducible apply Chip.foldl_follows

theorem Chip.phaseD_follows {c0 c : Chip} (h : c0.Follows c) : c0.Follows (Chip.phaseD c) := by
  unfold Chip.phaseD
  try dsimp only
  repeat' first | with_reducible assumption | with_reducible apply Chip.fltErr_follows | with_reducible apply Chip.collect_follows
                | with_reducible apply Chip.event_follows | with_reducible apply Chip.setDState_follows
                | with_reducible apply Chip.recoverCtx_follows | simp only [Chip.Follows.upd_iff] | split | intro _
                | with_reducible apply Chip.foldl_follows

theorem Chip.unitIdle_follows {c0 c : Chip} (x1 : UnitId) (h : c0.Follows c) : c0.Follows (Chip.unitIdle c x1) := by
  unfold Chip.unitIdle
  try dsimp only
  repeat' first | with_reducible assumption | with_reducible apply Chip.modCore_follows | with_reducible apply Chip.modEngine_follows
                | simp only [Chip.Follows.upd_iff] | split | intro _ | with_reducible apply Chip.foldl_follows

theorem engineCompleteEffect_follows {c0 c : Chip} (h : c0.Follows c) : c0.Follows (engineCompleteEffect c) := by
  unfold engineCompleteEffect
  try dsimp only
  repeat' first | with_reducible assumption | with_reducible apply Chip.modFlt_follows | with_reducible apply Chip.unitIdle_follows
                | with_reducible apply Chip.event_follows | with_reducible apply Chip.fltErr_follows
                | with_reducible apply Chip.startTrial_follows | simp only [Chip.Follows.upd_iff] | split | intro _
                | with_reducible apply Chip.foldl_follows

end Sys2Proof.Machine
end

