-- ==== Sys2Proof/Laws/FollowsOps4.lean ====
section
/-! SUPPORT. The operations of the package keep Chip.Follows, part 4 of 5: every operation after those it calls. -/
namespace Sys2Proof.Machine

theorem Chip.ledgerCondition_follows {c0 c : Chip} (u : UnitId) (h : c0.Follows c) : c0.Follows (Chip.ledgerCondition c u) := by
  unfold Chip.ledgerCondition
  try dsimp only
  repeat' first | with_reducible assumption | with_reducible apply Chip.faultHold_follows | simp only [Chip.Follows.upd_iff] | split
                | intro _ | with_reducible apply Chip.foldl_follows

theorem Chip.serveUnknown_follows {c0 c : Chip} (r : Req) (h : c0.Follows c) : c0.Follows (Chip.serveUnknown c r) := by
  unfold Chip.serveUnknown
  try dsimp only
  repeat' first | with_reducible assumption | with_reducible apply Chip.mbxErr_follows | with_reducible apply Chip.slotDone_follows
                | simp only [Chip.Follows.upd_iff] | split | intro _ | with_reducible apply Chip.foldl_follows

theorem Chip.markTaken_follows {c0 c : Chip} (s : SlotId) (pages : Nat) (h : c0.Follows c) : c0.Follows (Chip.markTaken c s pages) := by
  unfold Chip.markTaken
  try dsimp only
  repeat' first | with_reducible assumption | simp only [Chip.Follows.upd_iff] | split | intro _ | with_reducible apply Chip.foldl_follows

theorem Chip.submit_follows {c0 c : Chip} (i : Intent) (h : c0.Follows c) : c0.Follows (Chip.submit c i) := by
  unfold Chip.submit
  try dsimp only
  repeat' first | with_reducible assumption | with_reducible apply Chip.carryOut_follows | simp only [Chip.Follows.upd_iff] | split
                | intro _ | with_reducible apply Chip.foldl_follows

theorem Chip.answer_follows {c0 c : Chip} (o : Op) (r : Req) (h : c0.Follows c) : c0.Follows (Chip.answer c o r) := by
  unfold Chip.answer
  try dsimp only
  repeat' first | with_reducible assumption | with_reducible apply Chip.slotDone_follows | with_reducible apply Chip.modPkg_follows
                | simp only [Chip.Follows.upd_iff] | split | intro _ | with_reducible apply Chip.foldl_follows

theorem Chip.serve_follows {c0 c : Chip} (o : Op) (r : Req) (h : c0.Follows c) : c0.Follows (Chip.serve c o r) := by
  unfold Chip.serve
  try dsimp only
  repeat' first | with_reducible assumption | with_reducible apply Chip.submit_follows | with_reducible apply Chip.slotDone_follows
                | with_reducible apply Chip.answer_follows | simp only [Chip.Follows.upd_iff] | split | intro _
                | with_reducible apply Chip.foldl_follows

theorem Chip.takeSlot_follows {c0 c : Chip} (s : SlotId) (ver1 : Bool) (o : Op) (h : c0.Follows c) : c0.Follows (Chip.takeSlot c s ver1 o)
    := by
  unfold Chip.takeSlot
  try dsimp only
  repeat' first | with_reducible assumption | with_reducible apply Chip.serveUnknown_follows | with_reducible apply Chip.markTaken_follows
                | with_reducible apply Chip.serve_follows | simp only [Chip.Follows.upd_iff] | split | intro _
                | with_reducible apply Chip.foldl_follows

theorem Chip.mapStacks_follows {c0 c : Chip} (f : Stack → Stack) (h : c0.Follows c) : c0.Follows (Chip.mapStacks c f) := by
  unfold Chip.mapStacks
  try dsimp only
  repeat' first | with_reducible assumption | with_reducible apply Chip.modStack_follows | simp only [Chip.Follows.upd_iff] | split
                | intro _ | with_reducible apply Chip.foldl_follows

theorem Chip.phaseC_follows {c0 c : Chip} (failed : List UnitId) (h : c0.Follows c) : c0.Follows (Chip.phaseC c failed) := by
  unfold Chip.phaseC
  try dsimp only
  repeat' first | with_reducible assumption | with_reducible apply Chip.modFlt_follows | with_reducible apply Chip.mapStacks_follows
                | with_reducible apply Chip.quarantine_follows | simp only [Chip.Follows.upd_iff] | split | intro _
                | with_reducible apply Chip.foldl_follows

theorem Chip.trainFail_follows {c0 c : Chip} (l : LinkId) (signal : Bool) (h : c0.Follows c) : c0.Follows (Chip.trainFail c l signal) :=
    by
  unfold Chip.trainFail
  try dsimp only
  repeat' first | with_reducible assumption | with_reducible apply Chip.modLink_follows | with_reducible apply Chip.linkDown_follows
                | simp only [Chip.Follows.upd_iff] | split | intro _ | with_reducible apply Chip.foldl_follows

theorem Chip.guilty_follows {c0 c : Chip} (x : CtxId) (u : UnitId) (h : c0.Follows c) : c0.Follows (Chip.guilty c x u) := by
  unfold Chip.guilty
  try dsimp only
  repeat' first | with_reducible assumption | with_reducible apply Chip.modFlt_follows | with_reducible apply Chip.event_follows
                | with_reducible apply Chip.fltErr_follows | with_reducible apply Chip.faultHold_follows
                | with_reducible apply Chip.stepStopped_follows | simp only [Chip.Follows.upd_iff] | split | intro _
                | with_reducible apply Chip.foldl_follows

theorem Chip.countThrottle_follows {c0 c : Chip} (h : c0.Follows c) : c0.Follows (Chip.countThrottle c) := by
  unfold Chip.countThrottle
  try dsimp only
  repeat' first | with_reducible assumption | with_reducible apply Chip.thmErr_follows | with_reducible apply Chip.modThm_follows
                | simp only [Chip.Follows.upd_iff] | split | intro _ | with_reducible apply Chip.foldl_follows

theorem Chip.coreTemp_follows {c0 c : Chip} (n : CoreId) (e : Int) (h : c0.Follows c) : c0.Follows (Chip.coreTemp c n e) := by
  unfold Chip.coreTemp
  try dsimp only
  repeat' first | with_reducible assumption | with_reducible apply Chip.modCore_follows
                | with_reducible apply Chip.thermalShutdown_follows | with_reducible apply Chip.countThrottle_follows
                | with_reducible apply Chip.powerBeacon_follows | with_reducible apply Chip.thmErr_follows
                | with_reducible apply Chip.modThm_follows | with_reducible apply Chip.realert_follows | simp only [Chip.Follows.upd_iff]
                | split | intro _ | with_reducible apply Chip.foldl_follows

theorem Chip.writeRteCtl_follows {c0 c : Chip} (w : Word) (h : c0.Follows c) : c0.Follows (Chip.writeRteCtl c w) := by
  unfold Chip.writeRteCtl
  try dsimp only
  repeat' first | with_reducible assumption | with_reducible apply Chip.modLink_follows | simp only [Chip.Follows.upd_iff] | split
                | intro _ | with_reducible apply Chip.foldl_follows

theorem Chip.putDerate_follows {c0 c : Chip} (d : Option Nat) (h : c0.Follows c) : c0.Follows (Chip.putDerate c d) := by
  unfold Chip.putDerate
  try dsimp only
  repeat' first | with_reducible assumption | with_reducible apply Chip.liftTerm_follows | with_reducible apply Chip.modPwr_follows
                | with_reducible apply Chip.recap_follows | with_reducible apply Chip.powerBeacon_follows
                | with_reducible apply Chip.pwrErr_follows | simp only [Chip.Follows.upd_iff] | split | intro _
                | with_reducible apply Chip.foldl_follows

theorem Chip.writePwrCtl_follows {c0 c : Chip} (w : Word) (h : c0.Follows c) : c0.Follows (Chip.writePwrCtl c w) := by
  unfold Chip.writePwrCtl
  try dsimp only
  repeat' first | with_reducible assumption | with_reducible apply Chip.modPwr_follows | with_reducible apply Chip.stopBallast_follows
                | with_reducible apply Chip.putDerate_follows | simp only [Chip.Follows.upd_iff] | split | intro _
                | with_reducible apply Chip.foldl_follows

theorem Chip.cutExcursion_follows {c0 c : Chip} (h : c0.Follows c) : c0.Follows (Chip.cutExcursion c) := by
  unfold Chip.cutExcursion
  try dsimp only
  repeat' first | with_reducible assumption | with_reducible apply Chip.freeWord_follows | with_reducible apply Chip.pwrErr_follows
                | with_reducible apply Chip.modPwr_follows | simp only [Chip.Follows.upd_iff] | split | intro _
                | with_reducible apply Chip.foldl_follows

theorem Chip.phaseQ_follows {c0 c : Chip} (h : c0.Follows c) : c0.Follows (Chip.phaseQ c) := by
  unfold Chip.phaseQ
  try dsimp only
  repeat' first | with_reducible assumption | with_reducible apply Chip.modFlt_follows | with_reducible apply Chip.mapUnits_follows
                | simp only [Chip.Follows.upd_iff] | split | intro _ | with_reducible apply Chip.foldl_follows

theorem Chip.residueFault_follows {c0 c : Chip} (h : c0.Follows c) : c0.Follows (Chip.residueFault c) := by
  unfold Chip.residueFault
  try dsimp only
  repeat' first | with_reducible assumption | with_reducible apply Chip.digErr_follows | simp only [Chip.Follows.upd_iff] | split
                | intro _ | with_reducible apply Chip.foldl_follows

theorem Chip.loadRepair_follows {c0 c : Chip} (i : StackId) (h : c0.Follows c) : c0.Follows (Chip.loadRepair c i) := by
  unfold Chip.loadRepair
  try dsimp only
  repeat' first | with_reducible assumption | with_reducible apply Chip.modStack_follows | simp only [Chip.Follows.upd_iff] | split
                | intro _ | with_reducible apply Chip.foldl_follows

theorem Chip.airflowEnd_follows {c0 c : Chip} (f : Pwr → Pwr) (h : c0.Follows c) : c0.Follows (Chip.airflowEnd c f) := by
  unfold Chip.airflowEnd
  try dsimp only
  repeat' first | with_reducible assumption | with_reducible apply Chip.realert_follows | with_reducible apply Chip.liftTerm_follows
                | with_reducible apply Chip.modPwr_follows | simp only [Chip.Follows.upd_iff] | split | intro _
                | with_reducible apply Chip.foldl_follows

theorem airReleaseEffect_follows {c0 c : Chip} (h : c0.Follows c) : c0.Follows (airReleaseEffect c) := by
  unfold airReleaseEffect
  try dsimp only
  repeat' first | with_reducible assumption | with_reducible apply Chip.endAirWait_follows | with_reducible apply Chip.airflowEnd_follows
                | with_reducible apply Chip.modPwr_follows | simp only [Chip.Follows.upd_iff] | split | intro _
                | with_reducible apply Chip.foldl_follows

theorem Chip.unsupported_follows {c0 c : Chip} (h : c0.Follows c) : c0.Follows (Chip.unsupported c) := by
  unfold Chip.unsupported
  try dsimp only
  repeat' first | with_reducible assumption | simp only [Chip.Follows.upd_iff] | split | intro _ | with_reducible apply Chip.foldl_follows

theorem Chip.bar4Refuse_follows {c0 c : Chip} (h : c0.Follows c) : c0.Follows (Chip.bar4Refuse c) := by
  unfold Chip.bar4Refuse
  try dsimp only
  repeat' first | with_reducible assumption | simp only [Chip.Follows.upd_iff] | with_reducible apply Chip.foldl_follows
                | with_reducible apply Chip.foldl_fst_follows | with_reducible apply Chip.foldl_snd_follows
                | with_reducible apply Chip.foldl_third_follows | split | intro _
                | with_reducible refine Chip.Follows.fst_of (by assumption) ?_
                | with_reducible refine Chip.Follows.snd_of (by assumption) ?_
                | simp (disch := first | rfl | exact Nor.setInactive_rollback _ _ | exact Nor.addPending_rollback _ _ _) only [Chip.Follows.updNor_iff]
                | simp (disch := rfl) only [Chip.Follows.updMem_iff] | with_reducible rfl | dsimp only

theorem Chip.writePart_follows {c0 c : Chip} (l : Nat) (off : Nat) (bs : List Byte) (ups : Upsets) (h : c0.Follows c) : c0.Follows
    (Chip.writePart c l off bs ups) := by
  unfold Chip.writePart
  try dsimp only
  repeat' first | with_reducible assumption | with_reducible apply Chip.readLine_follows | with_reducible apply Chip.putLine_follows
                | simp only [Chip.Follows.upd_iff] | split | intro _ | with_reducible apply Chip.foldl_follows

theorem Chip.bar4Line_follows {c0 c : Chip} (addr : Nat) (data : List Byte) (ups : Upsets) (first : Nat) (line : Nat) (h : c0.Follows c) :
    c0.Follows (Chip.bar4Line c addr data ups first line) := by
  unfold Chip.bar4Line
  try dsimp only
  repeat' first | with_reducible assumption | with_reducible apply Chip.putLine_follows | with_reducible apply Chip.writePart_follows
                | simp only [Chip.Follows.upd_iff] | split | intro _ | with_reducible apply Chip.foldl_follows

theorem bar4WriteEffect_follows {c0 c : Chip} (x : BitVec 36) (data : List Byte) (ups : Upsets) (h : c0.Follows c) : c0.Follows
    (bar4WriteEffect x data ups c) := by
  unfold bar4WriteEffect
  try dsimp only
  repeat' first | with_reducible assumption | with_reducible apply Chip.unsupported_follows | with_reducible apply Chip.bar4Refuse_follows
                | with_reducible apply Chip.bar4Line_follows | simp only [Chip.Follows.upd_iff] | split | intro _
                | with_reducible apply Chip.foldl_follows

theorem Chip.undoTo_follows {c0 c : Chip} (u : BruUndo) (h : c0.Follows c) : c0.Follows (Chip.undoTo c u) := by
  unfold Chip.undoTo
  extract_lets c1 n
  have h1 : c0.Follows c1 := Chip.foldl_follows _ _ (fun _ _ hd => Chip.modStack_follows _ _ hd) h
  clear_value c1
  refine Chip.modBru_follows _ ⟨h1.fuse, h1.rollback, fun q => ⟨?_, ?_, (h1.canonical q).stks, (h1.canonical q).links, (h1.canonical
      q).mem⟩⟩
  · with_reducible exact twf_tabOf _ _ _
  · with_reducible exact twf_tabOf _ _ _

theorem Chip.revertNor_follows {c0 c : Chip} (h : c0.Follows c) : c0.Follows (Chip.revertNor c) := by
  unfold Chip.revertNor
  try dsimp only
  repeat' first | with_reducible assumption | with_reducible apply Chip.modBru_follows | with_reducible apply Chip.undoTo_follows
                | simp only [Chip.Follows.upd_iff] | with_reducible apply Chip.foldl_follows | with_reducible apply Chip.foldl_fst_follows
                | with_reducible apply Chip.foldl_snd_follows | with_reducible apply Chip.foldl_third_follows | split | intro _
                | with_reducible refine Chip.Follows.fst_of (by assumption) ?_
                | with_reducible refine Chip.Follows.snd_of (by assumption) ?_
                | simp (disch := first | rfl | exact Nor.setInactive_rollback _ _ | exact Nor.addPending_rollback _ _ _) only [Chip.Follows.updNor_iff]
                | simp (disch := rfl) only [Chip.Follows.updMem_iff] | with_reducible rfl | dsimp only

theorem Chip.resetBlocks_follows {c0 c : Chip} (h : c0.Follows c) : c0.Follows (Chip.resetBlocks c) := by
  unfold Chip.resetBlocks
  dsimp only
  refine Chip.Follows.fresh (Chip.revertNor_follows h) rfl rfl ⟨rfl, rfl, twf_tabOf _ _ _, rfl, rfl, rfl, rfl⟩

theorem packageResetEffect_follows {c0 c : Chip} (h : c0.Follows c) : c0.Follows (packageResetEffect c) := by
  unfold packageResetEffect
  try dsimp only
  repeat' first | with_reducible assumption | with_reducible apply Chip.collect_follows | with_reducible apply Chip.event_follows
                | with_reducible apply Chip.setDState_follows | with_reducible apply Chip.recap_follows
                | with_reducible apply Chip.resetBlocks_follows | simp only [Chip.Follows.upd_iff] | split | intro _
                | with_reducible apply Chip.foldl_follows

theorem Chip.takeImage_follows {c0 c : Chip} (h : c0.Follows c) : c0.Follows (Chip.takeImage c) := by
  unfold Chip.takeImage
  try dsimp only
  repeat' first | with_reducible assumption | with_reducible apply Chip.modCtx_follows | with_reducible apply Chip.created_follows
                | simp only [Chip.Follows.upd_iff] | split | intro _ | with_reducible apply Chip.foldl_follows

theorem Chip.passStep_follows {c0 c : Chip} (k : Nat) (h : c0.Follows c) : c0.Follows (Chip.passStep c k) := by
  unfold Chip.passStep
  try dsimp only
  repeat' first | with_reducible assumption | with_reducible apply Chip.modBru_follows | with_reducible apply Chip.bruNext_follows
                | with_reducible apply Chip.liftTerm_follows | simp only [Chip.Follows.upd_iff] | split | intro _
                | with_reducible apply Chip.foldl_follows

theorem Chip.endStep_follows {c0 c : Chip} (result : Nat) (ms : Nat) (h : c0.Follows c) : c0.Follows (Chip.endStep c result ms) := by
  unfold Chip.endStep
  try dsimp only
  repeat' first | with_reducible assumption | with_reducible apply Chip.modBru_follows | with_reducible apply Chip.failStep_follows
                | with_reducible apply Chip.passStep_follows | simp only [Chip.Follows.upd_iff] | split | intro _
                | with_reducible apply Chip.foldl_follows

theorem bruTimeoutEffect_follows {c0 c : Chip} (h : c0.Follows c) : c0.Follows (bruTimeoutEffect c) := by
  unfold bruTimeoutEffect
  try dsimp only
  repeat' first | with_reducible assumption | with_reducible apply Chip.endStep_follows | with_reducible apply Chip.bruErr_follows
                | simp only [Chip.Follows.upd_iff] | split | intro _ | with_reducible apply Chip.foldl_follows

theorem Chip.commitWBase_follows {c0 c : Chip} (a : RegAlias) (d : Word) (off : Nat) (h : c0.Follows c) : c0.Follows (Chip.commitWBase c a
    d off) := by
  unfold Chip.commitWBase
  try dsimp only
  repeat' first | with_reducible assumption | with_reducible apply Chip.refuse_follows | simp only [Chip.Follows.upd_iff]
                | with_reducible apply Chip.foldl_follows | with_reducible apply Chip.foldl_fst_follows
                | with_reducible apply Chip.foldl_snd_follows | with_reducible apply Chip.foldl_third_follows | split | intro _
                | with_reducible refine Chip.Follows.fst_of (by assumption) ?_
                | with_reducible refine Chip.Follows.snd_of (by assumption) ?_
                | simp (disch := first | rfl | exact Nor.setInactive_rollback _ _ | exact Nor.addPending_rollback _ _ _) only [Chip.Follows.updNor_iff]
                | simp (disch := rfl) only [Chip.Follows.updMem_iff] | with_reducible rfl | dsimp only

theorem sampleEffect_follows {c0 c : Chip} (v : BitVec 16) (a : BitVec 16) (h : c0.Follows c) : c0.Follows (sampleEffect v a c) := by
  unfold sampleEffect
  try dsimp only
  repeat' first | with_reducible assumption | with_reducible apply Chip.modPwr_follows | with_reducible apply Chip.cutExcursion_follows
                | simp only [Chip.Follows.upd_iff] | split | intro _ | with_reducible apply Chip.foldl_follows

theorem regFaultEffect_follows {c0 c : Chip} (r : Regulator) (h : c0.Follows c) : c0.Follows (regFaultEffect r c) := by
  unfold regFaultEffect
  try dsimp only
  repeat' first | with_reducible assumption | with_reducible apply Chip.powerBeacon_follows | with_reducible apply Chip.pwrErr_follows
                | with_reducible apply Chip.orderCompute_follows | with_reducible apply Chip.modFlt_follows
                | with_reducible apply Chip.orderPackage_follows | simp only [Chip.Follows.upd_iff] | split | intro _
                | with_reducible apply Chip.foldl_follows

theorem mctpDossierEffect_follows {c0 c : Chip} (tag : BitVec 16) (index : BitVec 16) (off : Word) (h : c0.Follows c) : c0.Follows
    (mctpDossierEffect tag index off c) := by
  unfold mctpDossierEffect
  try dsimp only
  repeat' first | with_reducible assumption | with_reducible apply Chip.vendor_follows | simp only [Chip.Follows.upd_iff] | split
                | intro _ | with_reducible apply Chip.foldl_follows

theorem Chip.countHang_follows {c0 c : Chip} (row : Byte) (h : c0.Follows c) : c0.Follows (Chip.countHang c row) := by
  unfold Chip.countHang
  try dsimp only
  repeat' first | with_reducible assumption | with_reducible apply Chip.modFlt_follows | simp only [Chip.Follows.upd_iff] | split
                | intro _ | with_reducible apply Chip.foldl_follows

theorem Chip.resetHung_follows {c0 c : Chip} (row : Byte) (domain : Nat) (h : c0.Follows c) : c0.Follows (Chip.resetHung c row domain) :=
    by
  unfold Chip.resetHung
  try dsimp only
  repeat' first | with_reducible assumption | with_reducible apply Chip.event_follows | with_reducible apply Chip.fltErr_follows
                | with_reducible apply Chip.modFlt_follows | with_reducible apply Chip.countHang_follows
                | simp only [Chip.Follows.upd_iff] | split | intro _ | with_reducible apply Chip.foldl_follows

theorem engineWatchdogEffect_follows {c0 c : Chip} (h : c0.Follows c) : c0.Follows (engineWatchdogEffect c) := by
  unfold engineWatchdogEffect
  try dsimp only
  repeat' first | with_reducible assumption | with_reducible apply Chip.quarantine_follows | with_reducible apply Chip.modFlt_follows
                | with_reducible apply Chip.resetHung_follows | simp only [Chip.Follows.upd_iff] | split | intro _
                | with_reducible apply Chip.foldl_follows

theorem linkLosEffect_follows {c0 c : Chip} (l : LinkId) (h : c0.Follows c) : c0.Follows (linkLosEffect l c) := by
  unfold linkLosEffect
  try dsimp only
  repeat' first | with_reducible assumption | with_reducible apply Chip.linkDown_follows | simp only [Chip.Follows.upd_iff] | split
                | intro _ | with_reducible apply Chip.foldl_follows

theorem Chip.writeLnkCtl_follows {c0 c : Chip} (l : LinkId) (w : Word) (h : c0.Follows c) : c0.Follows (Chip.writeLnkCtl c l w) := by
  unfold Chip.writeLnkCtl
  try dsimp only
  repeat' first | with_reducible assumption | with_reducible apply Chip.modLink_follows | with_reducible apply Chip.linkDown_follows
                | with_reducible apply Chip.sendMgmt_follows | with_reducible apply Chip.startTraining_follows
                | simp only [Chip.Follows.upd_iff] | split | intro _ | with_reducible apply Chip.foldl_follows

theorem Chip.writeRteId_follows {c0 c : Chip} (w : Word) (h : c0.Follows c) : c0.Follows (Chip.writeRteId c w) := by
  unfold Chip.writeRteId
  try dsimp only
  repeat' first | with_reducible assumption | simp only [Chip.Follows.upd_iff] | split | intro _ | with_reducible apply Chip.foldl_follows

theorem Chip.hostRteId_follows {c0 c : Chip} (a : RegAlias) (d : Word) (off : Nat) (h : c0.Follows c) : c0.Follows (Chip.hostRteId c a d
    off) := by
  unfold Chip.hostRteId
  try dsimp only
  repeat' first | with_reducible assumption | with_reducible apply Chip.refuse_follows | with_reducible apply Chip.writeRteId_follows
                | simp only [Chip.Follows.upd_iff] | split | intro _ | with_reducible apply Chip.foldl_follows

theorem Chip.notifyDrop_follows {c0 c : Chip} (l : LinkId) (circuit : Nat) (dst : Nat) (h : c0.Follows c) : c0.Follows (Chip.notifyDrop c
    l circuit dst) := by
  unfold Chip.notifyDrop
  try dsimp only
  repeat' first | with_reducible assumption | with_reducible apply Chip.notifyOnce_follows | simp only [Chip.Follows.upd_iff] | split
                | intro _ | with_reducible apply Chip.foldl_follows

theorem Chip.forwardDrop_follows {c0 c : Chip} (f : Forwarded) (h : c0.Follows c) : c0.Follows (Chip.forwardDrop c f) := by
  unfold Chip.forwardDrop
  try dsimp only
  repeat' first | with_reducible assumption | with_reducible apply Chip.notifyDrop_follows | with_reducible apply Chip.modRte_follows
                | simp only [Chip.Follows.upd_iff] | split | intro _ | with_reducible apply Chip.foldl_follows

theorem Chip.forward_follows {c0 c : Chip} (p : Packet) (out : LinkId) (h : c0.Follows c) : c0.Follows (Chip.forward c p out) := by
  unfold Chip.forward
  try dsimp only
  repeat' first | with_reducible assumption | with_reducible apply Chip.forwardDrop_follows | with_reducible apply Chip.modRte_follows
                | simp only [Chip.Follows.upd_iff] | split | intro _ | with_reducible apply Chip.foldl_follows

theorem Chip.circuitPacket_follows {c0 c : Chip} (l : LinkId) (p : Packet) (ups : Upsets) (h : c0.Follows c) : c0.Follows
    (Chip.circuitPacket c l p ups) := by
  unfold Chip.circuitPacket
  try dsimp only
  repeat' first | with_reducible assumption | with_reducible apply Chip.modRte_follows | with_reducible apply Chip.forward_follows
                | with_reducible apply Chip.arrived_follows | simp only [Chip.Follows.upd_iff] | split | intro _
                | with_reducible apply Chip.foldl_follows

theorem Chip.sealCopy_follows {c0 c : Chip} (k : Copy) (h : c0.Follows c) : c0.Follows (Chip.sealCopy c k) := by
  unfold Chip.sealCopy
  try dsimp only
  repeat' first | with_reducible assumption | with_reducible apply Chip.release__follows | with_reducible apply Chip.modMbx_follows
                | simp only [Chip.Follows.upd_iff] | split | intro _ | with_reducible apply Chip.foldl_follows

theorem handoverEffect_follows {c0 c : Chip} (h : c0.Follows c) : c0.Follows (handoverEffect c) := by
  unfold handoverEffect
  try dsimp only
  repeat' first | with_reducible assumption | with_reducible apply Chip.sealCopy_follows | with_reducible apply Chip.modMbx_follows
                | simp only [Chip.Follows.upd_iff] | split | intro _ | with_reducible apply Chip.foldl_follows

theorem copyDeadlineEffect_follows {c0 c : Chip} (h : c0.Follows c) : c0.Follows (copyDeadlineEffect c) := by
  unfold copyDeadlineEffect
  try dsimp only
  repeat' first | with_reducible assumption | with_reducible apply Chip.failIbex_follows | simp only [Chip.Follows.upd_iff] | split
                | intro _ | with_reducible apply Chip.foldl_follows

theorem hsReadEffect_follows {c0 c : Chip} (t0 : Option (BitVec 16)) (t1 : Option (BitVec 16)) (h : c0.Follows c) : c0.Follows
    (hsReadEffect t0 t1 c) := by
  unfold hsReadEffect
  try dsimp only
  repeat' first | with_reducible assumption | with_reducible apply Chip.modThm_follows | with_reducible apply Chip.liftTerm_follows
                | with_reducible apply Chip.thmErr_follows | with_reducible apply Chip.powerBeacon_follows
                | with_reducible apply Chip.realert_follows | with_reducible apply Chip.thermalShutdown_follows
                | simp only [Chip.Follows.upd_iff] | split | intro _ | with_reducible apply Chip.foldl_follows

theorem Chip.writeRingHead_follows {c0 c : Chip} (a : RegAlias) (d : Word) (off : Nat) (h : c0.Follows c) : c0.Follows (Chip.writeRingHead
    c a d off) := by
  unfold Chip.writeRingHead
  try dsimp only
  repeat' first | with_reducible assumption | with_reducible apply Chip.refuse_follows | with_reducible apply Chip.modMbx_follows
                | simp only [Chip.Follows.upd_iff] | split | intro _ | with_reducible apply Chip.foldl_follows

theorem Chip.sendControl1_follows {c0 c : Chip} (l : LinkId) (flits : List (List Byte)) (h : c0.Follows c) : c0.Follows (Chip.sendControl1
    c l flits) := by
  unfold Chip.sendControl1
  try dsimp only
  repeat' first | with_reducible assumption | with_reducible apply Chip.sendGroup_follows | with_reducible apply Chip.modLink_follows
                | simp only [Chip.Follows.upd_iff] | split | intro _ | with_reducible apply Chip.foldl_follows

theorem Chip.enterPhase_follows {c0 c : Chip} (l : LinkId) (phase : Nat) (h : c0.Follows c) : c0.Follows (Chip.enterPhase c l phase) := by
  unfold Chip.enterPhase
  try dsimp only
  repeat' first | with_reducible assumption | with_reducible apply Chip.modLink_follows | with_reducible apply Chip.sendMgmt_follows
                | simp only [Chip.Follows.upd_iff] | split | intro _ | with_reducible apply Chip.foldl_follows

theorem Chip.trainTick_follows {c0 c : Chip} (l : LinkId) (h : c0.Follows c) : c0.Follows (Chip.trainTick c l) := by
  unfold Chip.trainTick
  try dsimp only
  repeat' first | with_reducible assumption | with_reducible apply Chip.enterPhase_follows | simp only [Chip.Follows.upd_iff] | split
                | intro _ | with_reducible apply Chip.foldl_follows

theorem Chip.testRows_follows {c0 c : Chip} (rows : List RowTest) (cols : List (StackId × Fin 2048)) (h : c0.Follows c) : c0.Follows
    (Chip.testRows c rows cols) := by
  unfold Chip.testRows
  dsimp only
  refine Chip.foldl_follows _ _ (fun d i hd => Chip.loadRepair_follows _ (Chip.modStack_follows _ _ hd)) (h.updNor ?_)
  rw [Nor.foldl_rollback _ (fun n x => Nor.failColumn_rollback n _ _), Nor.foldl_rollback _ (fun n x => Nor.failRow_rollback n _ _)]

theorem Chip.testFmax_follows {c0 c : Chip} (l : List (CoreId × BitVec 5)) (h : c0.Follows c) : c0.Follows (Chip.testFmax c l) := by
  unfold Chip.testFmax
  try dsimp only
  repeat' first | with_reducible assumption | simp only [Chip.Follows.upd_iff] | with_reducible apply Chip.foldl_follows
                | with_reducible apply Chip.foldl_fst_follows | with_reducible apply Chip.foldl_snd_follows
                | with_reducible apply Chip.foldl_third_follows | split | intro _
                | with_reducible refine Chip.Follows.fst_of (by assumption) ?_
                | with_reducible refine Chip.Follows.snd_of (by assumption) ?_
                | simp (disch := first | rfl | exact Nor.setInactive_rollback _ _ | exact Nor.addPending_rollback _ _ _) only [Chip.Follows.updNor_iff]
                | simp (disch := rfl) only [Chip.Follows.updMem_iff] | with_reducible rfl | dsimp only

theorem Chip.substituteCore_follows {c0 c : Chip} (n : CoreId) (h : c0.Follows c) : c0.Follows (Chip.substituteCore c n).1 := by
  unfold Chip.substituteCore
  try dsimp only
  repeat' first | with_reducible assumption | with_reducible apply Chip.modCore_follows | with_reducible apply Chip.setCore_follows
                | simp only [Chip.Follows.upd_iff] | split | intro _ | with_reducible apply Chip.foldl_follows

theorem Chip.substituteEngine_follows {c0 c : Chip} (e : EngineId) (h : c0.Follows c) : c0.Follows (Chip.substituteEngine c e).1 := by
  unfold Chip.substituteEngine
  try dsimp only
  repeat' first | with_reducible assumption | with_reducible apply Chip.modEngine_follows | with_reducible apply Chip.setEngine_follows
                | simp only [Chip.Follows.upd_iff] | split | intro _ | with_reducible apply Chip.foldl_follows

theorem Chip.serveNumbers_follows {c0 c : Chip} (h : c0.Follows c) : c0.Follows (Chip.serveNumbers c) := by
  unfold Chip.serveNumbers
  try dsimp only
  repeat' first | with_reducible assumption | with_reducible apply Chip.substituteCore_follows
                | with_reducible apply Chip.substituteEngine_follows | simp only [Chip.Follows.upd_iff] | split | intro _
                | with_reducible apply Chip.foldl_follows

theorem Chip.failStacks_follows {c0 c : Chip} (bad : List StackId) (h : c0.Follows c) : c0.Follows (Chip.failStacks c bad).1 := by
  unfold Chip.failStacks
  try dsimp only
  repeat' first | with_reducible assumption | with_reducible apply Chip.bruErr_follows | with_reducible apply Chip.modStack_follows
                | simp only [Chip.Follows.upd_iff] | split | intro _ | with_reducible apply Chip.foldl_follows

theorem defectStep_follows {c0 c : Chip} (sites : List SiteTest) (fmax : List (CoreId × BitVec 5)) (rows : List RowTest) (cols : List
    (StackId × Fin 2048)) (stks : BitVec 24) (h : c0.Follows c) : c0.Follows (defectStep sites fmax rows cols stks c).1 := by
  unfold defectStep
  extract_lets cc c1 r c2 c3 c4 c5 q
  have h1 : c0.Follows c1 := Chip.testFmax_follows _ (Chip.testRows_follows _ _ (Chip.modBru_follows _ h))
  have hr : r.nor.antiRollback = c1.nor.antiRollback := by
    with_reducible exact Chip.reconcile_rollback c1 sites
  clear_value r c1
  have hroll : c0.nor.antiRollback.toNat ≤ r.nor.antiRollback.toNat := by rw [hr]; exact h1.rollback
  have hcs : twf Core.zero (tabOf Core.zero 2448 (c1.testedCore r.off)) = true := twf_tabOf _ _ _
  have hes : twf Engine.zero (tabOf Engine.zero 1632 (c1.testedEngine r.off)) = true := twf_tabOf _ _ _
  have h2 : c0.Follows c2 := by
    refine ⟨?_, ?_, fun q => ⟨?_, ?_, ?_, ?_, ?_⟩⟩
    · exact h1.fuse
    · exact hroll
    · with_reducible exact hcs
    · with_reducible exact hes
    · exact (h1.canonical q).stks
    · exact (h1.canonical q).links
    · exact (h1.canonical q).mem
  clear_value c2
  have h3 : c0.Follows c3 := Chip.modBru_follows _ (Chip.serveNumbers_follows h2)
  have h4 : c0.Follows c4 := by
    show c0.Follows (if _ then _ else _)
    split
    · exact Chip.bruErr_follows _ h3
    · exact h3
  have h5 : c0.Follows c5 := by
    show c0.Follows (if _ then _ else _)
    split
    · exact Chip.bruErr_follows _ h4
    · exact h4
  exact Chip.failStacks_follows _ h5

theorem laneBerEffect_follows {c0 c : Chip} (l : LinkId) (errs : List (Fin 16 × Nat × Nat)) (h : c0.Follows c) : c0.Follows (laneBerEffect
    l errs c) := by
  unfold laneBerEffect
  try dsimp only
  repeat' first | with_reducible assumption | with_reducible apply Chip.dropLanes_follows | simp only [Chip.Follows.upd_iff] | split
                | intro _ | with_reducible apply Chip.foldl_follows

theorem passOr_follows {c0 c : Chip} (ok : Bool) (b : Nat) (h : c0.Follows c) : c0.Follows (passOr ok b c).1 := by
  unfold passOr
  try dsimp only
  repeat' first | with_reducible assumption | with_reducible apply Chip.bruErr_follows | simp only [Chip.Follows.upd_iff] | split
                | intro _ | with_reducible apply Chip.foldl_follows

theorem Chip.undoLoad_follows {c0 c : Chip} (h : c0.Follows c) : c0.Follows (Chip.undoLoad c) := by
  unfold Chip.undoLoad
  try dsimp only
  repeat' first | with_reducible assumption | with_reducible apply Chip.modBru_follows | with_reducible apply Chip.undoTo_follows
                | simp only [Chip.Follows.upd_iff] | split | intro _ | with_reducible apply Chip.foldl_follows

theorem contextWatchdogEffect_follows {c0 c : Chip} (x : CtxId) (h : c0.Follows c) : c0.Follows (contextWatchdogEffect x c) := by
  unfold contextWatchdogEffect
  try dsimp only
  repeat' first | with_reducible assumption | with_reducible apply Chip.orderCompute_follows | with_reducible apply Chip.modFlt_follows
                | with_reducible apply Chip.resetHung_follows | simp only [Chip.Follows.upd_iff] | split | intro _
                | with_reducible apply Chip.foldl_follows

theorem RowOp.writeScan_follows {c0 c : Chip} (o : RowOp) (e : EngineId) (ups : Upsets) (rs : List RowScan) (h : c0.Follows c) :
    c0.Follows (RowOp.writeScan o c e ups rs) := by
  unfold RowOp.writeScan
  try dsimp only
  repeat' first | with_reducible assumption | with_reducible apply Chip.engWrite_follows | simp only [Chip.Follows.upd_iff] | split
                | intro _ | with_reducible apply Chip.foldl_follows

theorem d2dStep_follows {c0 c : Chip} (ok : Bool) (h : c0.Follows c) : c0.Follows (d2dStep ok c).1 := by
  unfold d2dStep
  try dsimp only
  repeat' first | with_reducible assumption | with_reducible apply passOr_follows | with_reducible apply Chip.modBru_follows
                | with_reducible apply Chip.freeWord_follows | simp only [Chip.Follows.upd_iff] | split | intro _
                | with_reducible apply Chip.foldl_follows

theorem Chip.airflowFailure_follows {c0 c : Chip} (declared : Bool) (h : c0.Follows c) : c0.Follows (Chip.airflowFailure c declared) := by
  unfold Chip.airflowFailure
  try dsimp only
  repeat' first | with_reducible assumption | with_reducible apply Chip.modPwr_follows | with_reducible apply Chip.realert_follows
                | with_reducible apply Chip.recap_follows | with_reducible apply Chip.stopBallast_follows
                | with_reducible apply Chip.powerBeacon_follows | with_reducible apply Chip.pwrErr_follows
                | simp only [Chip.Follows.upd_iff] | split | intro _ | with_reducible apply Chip.foldl_follows

theorem Chip.unpowered_follows {c0 c : Chip} (h : c0.Follows c) : c0.Follows (Chip.unpowered c) := by
  unfold Chip.unpowered
  dsimp only
  refine Chip.Follows.fresh (Chip.revertNor_follows h) rfl rfl ⟨rfl, rfl, rfl, rfl, rfl, rfl, rfl⟩

theorem computeWatchdogEffect_follows {c0 c : Chip} (h : c0.Follows c) : c0.Follows (computeWatchdogEffect c) := by
  unfold computeWatchdogEffect
  try dsimp only
  repeat' first | with_reducible assumption | with_reducible apply Chip.orderPackage_follows | with_reducible apply Chip.resetHung_follows
                | simp only [Chip.Follows.upd_iff] | split | intro _ | with_reducible apply Chip.foldl_follows

theorem Chip.untrainLinks_follows {c0 c : Chip} (h : c0.Follows c) : c0.Follows (Chip.untrainLinks c) := by
  unfold Chip.untrainLinks
  try dsimp only
  repeat' first | with_reducible assumption | with_reducible apply Chip.modLink_follows | simp only [Chip.Follows.upd_iff] | split
                | intro _ | with_reducible apply Chip.foldl_follows

theorem Chip.unloadFirmware_follows {c0 c : Chip} (h : c0.Follows c) : c0.Follows (Chip.unloadFirmware c) := by
  unfold Chip.unloadFirmware
  exact h.updMem id

theorem Chip.untestUnits_follows {c0 c : Chip} (h : c0.Follows c) : c0.Follows (Chip.untestUnits c) := by
  unfold Chip.untestUnits
  exact Chip.modBru_follows _ ⟨h.fuse, h.rollback, fun q => ⟨rfl, rfl, (h.canonical q).stks, (h.canonical q).links, (h.canonical q).mem⟩⟩

theorem Chip.undoSteps_follows {c0 c : Chip} (k : Nat) (h : c0.Follows c) : c0.Follows (Chip.undoSteps c k) := by
  unfold Chip.undoSteps
  extract_lets c1 c2 c3 c4 c5 c6
  have h1 : c0.Follows c1 := by
    show c0.Follows (if _ then _ else _)
    split
    · exact h.upd
    · exact h
  have h2 : c0.Follows c2 := by
    show c0.Follows (if _ then _ else _)
    split
    · exact Chip.untrainLinks_follows h1
    · exact h1
  have h3 : c0.Follows c3 := by
    show c0.Follows (if _ then _ else _)
    split
    · exact Chip.undoLoad_follows (Chip.unloadFirmware_follows h2)
    · exact h2
  have h4 : c0.Follows c4 := by
    show c0.Follows (if _ then _ else _)
    split
    · exact Chip.untestUnits_follows (Chip.revertNor_follows h3)
    · exact h3
  have h5 : c0.Follows c5 := by
    show c0.Follows (if _ then _ else _)
    split
    · exact Chip.untrainStacks_follows h4
    · exact h4
  have h6 : c0.Follows c6 := by
    show c0.Follows (if _ then _ else _)
    split
    · exact Chip.modBru_follows _ h5
    · exact h5
  clear_value c6
  split
  · exact Chip.modBru_follows _ h6
  · exact h6

theorem Chip.restartAt_follows {c0 c : Chip} (k : Nat) (h : c0.Follows c) : c0.Follows (Chip.restartAt c k) := by
  unfold Chip.restartAt
  exact Chip.recap_follows (Chip.modBru_follows _ (Chip.undoSteps_follows _ h))

theorem Chip.writeBruRestart_follows {c0 c : Chip} (a : RegAlias) (d : Word) (h : c0.Follows c) : c0.Follows (Chip.writeBruRestart c a d)
    := by
  unfold Chip.writeBruRestart
  try dsimp only
  repeat' first | with_reducible assumption | with_reducible apply Chip.refuse_follows | with_reducible apply Chip.restartAt_follows
                | with_reducible apply Chip.bruErr_follows | simp only [Chip.Follows.upd_iff] | split | intro _
                | with_reducible apply Chip.foldl_follows

theorem Chip.sendTransit_follows {c0 c : Chip} (l : LinkId) (h : c0.Follows c) : c0.Follows (Chip.sendTransit c l) := by
  unfold Chip.sendTransit
  try dsimp only
  repeat' first | with_reducible assumption | with_reducible apply Chip.trySend_follows | with_reducible apply Chip.freeBuffer_follows
                | with_reducible apply Chip.modLink_follows | simp only [Chip.Follows.upd_iff] | with_reducible apply Chip.foldl_follows
                | with_reducible apply Chip.foldl_fst_follows | with_reducible apply Chip.foldl_snd_follows
                | with_reducible apply Chip.foldl_third_follows | split | intro _
                | with_reducible refine Chip.Follows.fst_of (by assumption) ?_
                | with_reducible refine Chip.Follows.snd_of (by assumption) ?_
                | simp (disch := first | rfl | exact Nor.setInactive_rollback _ _ | exact Nor.addPending_rollback _ _ _) only [Chip.Follows.updNor_iff]
                | simp (disch := rfl) only [Chip.Follows.updMem_iff] | with_reducible rfl | dsimp only

theorem Chip.readReg_follows {c0 c : Chip} (o : Nat) (h : c0.Follows c) : c0.Follows (Chip.readReg c o).2 := by
  unfold Chip.readReg
  try dsimp only
  repeat' first | with_reducible assumption | with_reducible apply Chip.modPkg_follows | simp only [Chip.Follows.upd_iff] | split
                | intro _ | with_reducible apply Chip.foldl_follows

theorem Chip.regRead_follows {c0 c : Chip} (off : Nat) (h : c0.Follows c) : c0.Follows (Chip.regRead c off) := by
  unfold Chip.regRead
  try dsimp only
  repeat' first | with_reducible assumption | with_reducible apply Chip.readReg_follows | with_reducible apply Chip.emit_follows
                | simp only [Chip.Follows.upd_iff] | split | intro _ | with_reducible apply Chip.foldl_follows

theorem clockStep_follows {c0 c : Chip} (ok : Bool) (h : c0.Follows c) : c0.Follows (clockStep ok c).1 := by
  unfold clockStep
  try dsimp only
  repeat' first | with_reducible assumption | with_reducible apply passOr_follows | simp only [Chip.Follows.upd_iff] | split | intro _
                | with_reducible apply Chip.foldl_follows

theorem signalDetectEffect_follows {c0 c : Chip} (l : LinkId) (h : c0.Follows c) : c0.Follows (signalDetectEffect l c) := by
  unfold signalDetectEffect
  try dsimp only
  repeat' first | with_reducible assumption | with_reducible apply Chip.startTraining_follows | simp only [Chip.Follows.upd_iff] | split
                | intro _ | with_reducible apply Chip.foldl_follows

theorem Chip.sgaFetchPoison_follows {c0 c : Chip} (e : EngineId) (line : Nat) (h : c0.Follows c) : c0.Follows (Chip.sgaFetchPoison c e
    line) := by
  unfold Chip.sgaFetchPoison
  try dsimp only
  repeat' first | with_reducible assumption | with_reducible apply Chip.sgaStop_follows | with_reducible apply Chip.quarantine_follows
                | with_reducible apply Chip.consume_follows | simp only [Chip.Follows.upd_iff] | split | intro _
                | with_reducible apply Chip.foldl_follows

theorem Chip.sgaRun_follows {c0 c : Chip} (e : EngineId) (w : SgaWords) (fields : List Dword) (f : Chip → SgaOut) (hf : ∀ d, c0.Follows d
    → c0.Follows (f d).chip) (h : c0.Follows c) : c0.Follows (Chip.sgaRun c e w fields f) := by
  unfold Chip.sgaRun
  try dsimp only
  repeat' first | with_reducible assumption | with_reducible apply Chip.sgaStop_follows | with_reducible apply Chip.sgaFinish_follows
                | with_reducible apply Chip.modEngine_follows | with_reducible apply hf | simp only [Chip.Follows.upd_iff] | split
                | intro _ | with_reducible apply Chip.foldl_follows

theorem Chip.sgaStep_follows {c0 c : Chip} (e : EngineId) (op : Byte) (w : SgaWords) (fields : List Dword) (f : Chip → SgaOut) (hf : ∀ d,
    c0.Follows d → c0.Follows (f d).chip) (h : c0.Follows c) : c0.Follows (Chip.sgaStep c e op w fields f) := by
  unfold Chip.sgaStep
  extract_lets k line c1 c2
  have h1 : c0.Follows c1 := Chip.decodeLine_follows _ _ _ h
  have h2 : c0.Follows c2 := Chip.modEngine_follows _ _ h1
  clear_value c1 c2
  split
  · exact h
  · split
    · exact Chip.sgaStop_follows _ _ _ h
    · split
      · exact Chip.sgaFetchPoison_follows _ _ h1
      · split
        · exact Chip.sgaStop_follows _ _ _ h2
        · split
          · exact h
          · exact Chip.sgaRun_follows _ _ _ _ hf h2

theorem fuseNorStep_follows {c0 c : Chip} (majority : Bool) (bad : List (Fin 8)) (h : c0.Follows c) : c0.Follows (fuseNorStep majority bad
    c).1 := by
  unfold fuseNorStep
  extract_lets fuseOk lost c1 c2
  have h1 : c0.Follows c1 := by
    show c0.Follows (if _ then _ else _)
    split
    · exact h
    · exact Chip.bruErr_follows _ h
  have h2 : c0.Follows c2 := by
    show c0.Follows (if _ then _ else _)
    split
    · exact h1
    · exact Chip.bruErr_follows _ h1
  clear_value c2
  split
  · exact h2.updNor rfl
  · dsimp only
    exact Chip.modBru_follows _ (h2.updNor ((Nor.foldl_rollback _ Nor.rebuild_rollback _ _).trans (Nor.takeDefects_rollback _ _)))

theorem Chip.chargeShort_follows {c0 c : Chip} (h : c0.Follows c) : c0.Follows (Chip.chargeShort c) := by
  unfold Chip.chargeShort
  try dsimp only
  repeat' first | with_reducible assumption | with_reducible apply Chip.chargeOpen_follows | simp only [Chip.Follows.upd_iff] | split
                | intro _ | with_reducible apply Chip.foldl_follows

theorem verdictEffect_follows {c0 c : Chip} (h : c0.Follows c) : c0.Follows (verdictEffect c) := by
  unfold verdictEffect
  try dsimp only
  repeat' first | with_reducible assumption | with_reducible apply Chip.verdictCtx_follows | with_reducible apply Chip.chargeShort_follows
                | simp only [Chip.Follows.upd_iff] | split | intro _ | with_reducible apply Chip.foldl_follows

theorem Chip.ctxGone_follows {c0 c : Chip} (x : CtxId) (h : c0.Follows c) : c0.Follows (Chip.ctxGone c x) := by
  unfold Chip.ctxGone
  try dsimp only
  repeat' first | with_reducible assumption | with_reducible apply Chip.payUnpaid_follows | with_reducible apply Chip.modDig_follows
                | with_reducible apply Chip.modCtx_follows | with_reducible apply Chip.refresh_follows
                | with_reducible apply Chip.finishAll_follows | with_reducible apply Chip.recordRmem_follows
                | simp only [Chip.Follows.upd_iff] | split | intro _ | with_reducible apply Chip.foldl_follows

theorem Chip.tryNext_follows {c0 c : Chip} (h : c0.Follows c) : c0.Follows (Chip.tryNext c) := by
  unfold Chip.tryNext
  try dsimp only
  repeat' first | with_reducible assumption | with_reducible apply Chip.event_follows | with_reducible apply Chip.fltErr_follows
                | with_reducible apply Chip.startTrial_follows | with_reducible apply Chip.chargeStop_follows
                | simp only [Chip.Follows.upd_iff] | split | intro _ | with_reducible apply Chip.foldl_follows

theorem trialEndEffect_follows {c0 c : Chip} (h : c0.Follows c) : c0.Follows (trialEndEffect c) := by
  unfold trialEndEffect
  try dsimp only
  repeat' first | with_reducible assumption | with_reducible apply Chip.tryNext_follows | with_reducible apply Chip.modFlt_follows
                | simp only [Chip.Follows.upd_iff] | split | intro _ | with_reducible apply Chip.foldl_follows

theorem setEidEffect_follows {c0 c : Chip} (e : SetEid) (h : c0.Follows c) : c0.Follows (setEidEffect e c) := by
  unfold setEidEffect
  try dsimp only
  repeat' first | with_reducible assumption | with_reducible apply Chip.control_follows | with_reducible apply Chip.modPkg_follows
                | simp only [Chip.Follows.upd_iff] | split | intro _ | with_reducible apply Chip.foldl_follows

theorem Chip.mgmtRespond_follows {c0 c : Chip} (src : Peer) (seq : Word) (status : BitVec 16) (data : List Byte) (h : c0.Follows c) :
    c0.Follows (Chip.mgmtRespond c src seq status data) := by
  unfold Chip.mgmtRespond
  try dsimp only
  repeat' first | with_reducible assumption | with_reducible apply Chip.modPkg_follows | with_reducible apply Chip.emit_follows
                | simp only [Chip.Follows.upd_iff] | split | intro _ | with_reducible apply Chip.foldl_follows

theorem Chip.respondPage_follows {c0 c : Chip} (src : Peer) (seq : Word) (obj : Option (List Byte)) (off : Nat) (h : c0.Follows c) :
    c0.Follows (Chip.respondPage c src seq obj off) := by
  unfold Chip.respondPage
  try dsimp only
  repeat' first | with_reducible assumption | with_reducible apply Chip.mgmtRespond_follows | simp only [Chip.Follows.upd_iff] | split
                | intro _ | with_reducible apply Chip.foldl_follows

theorem Chip.host_follows {c0 c : Chip} (f : Chip → Chip) (hf : ∀ d, c0.Follows d → c0.Follows (f d)) (h : c0.Follows c) : c0.Follows
    (Chip.host c f) := by
  unfold Chip.host
  try dsimp only
  repeat' first | with_reducible assumption | with_reducible apply Chip.unsupported_follows | with_reducible apply hf
                | simp only [Chip.Follows.upd_iff] | split | intro _ | with_reducible apply Chip.foldl_follows

theorem forwardSendEffect_follows {c0 c : Chip} (die : Fin 2) (i : Nat) (h : c0.Follows c) : c0.Follows (forwardSendEffect die i c) := by
  unfold forwardSendEffect
  try dsimp only
  repeat' first | with_reducible assumption | with_reducible apply Chip.modRte_follows | with_reducible apply Chip.forwardDrop_follows
                | with_reducible apply Chip.sendPackets_follows | simp only [Chip.Follows.upd_iff] | split | intro _
                | with_reducible apply Chip.foldl_follows

theorem thetaEffect_follows {c0 c : Chip} (p : Nat) (h : c0.Follows c) : c0.Follows (thetaEffect p c) := by
  unfold thetaEffect
  try dsimp only
  repeat' first | with_reducible assumption | with_reducible apply Chip.modPwr_follows | with_reducible apply Chip.putDerate_follows
                | with_reducible apply Chip.airflowFailure_follows | with_reducible apply Chip.airflowEnd_follows
                | simp only [Chip.Follows.upd_iff] | split | intro _ | with_reducible apply Chip.foldl_follows

theorem Chip.copyLine_follows {c0 c : Chip} (e : EngineId) (ups : Upsets) (src : Nat) (dst : Nat) (h : c0.Follows c) : c0.Follows
    (Chip.copyLine c e ups src dst) := by
  unfold Chip.copyLine
  try dsimp only
  repeat' first | with_reducible assumption | with_reducible apply Chip.readLine_follows | with_reducible apply Chip.writeLine_follows
                | simp only [Chip.Follows.upd_iff] | split | intro _ | with_reducible apply Chip.foldl_follows

theorem powerOnEffect_follows {c0 c : Chip} (activeOk : Bool) (otherOk : Bool) (h : c0.Follows c) : c0.Follows (powerOnEffect activeOk
    otherOk c) := by
  unfold powerOnEffect
  try dsimp only
  repeat' first | with_reducible assumption | with_reducible apply Chip.modPkg_follows | with_reducible apply Chip.airflowFailure_follows
                | with_reducible apply Chip.realert_follows | with_reducible apply Chip.recap_follows
                | with_reducible apply Chip.storeLowOn_follows | simp only [Chip.Follows.upd_iff] | split | intro _
                | with_reducible apply Chip.foldl_follows

theorem tickResumeEffect_follows {c0 c : Chip} (u : UnitId) (h : c0.Follows c) : c0.Follows (tickResumeEffect u c) := by
  unfold tickResumeEffect
  try dsimp only
  repeat' first | with_reducible assumption | with_reducible apply Chip.wakeCore_follows | with_reducible apply Chip.sgaResume_follows
                | with_reducible apply Chip.modEngine_follows | simp only [Chip.Follows.upd_iff] | split | intro _
                | with_reducible apply Chip.foldl_follows

theorem Chip.clearRow_follows {c0 c : Chip} (b : Nat) (h : c0.Follows c) : c0.Follows (Chip.clearRow c b) := by
  unfold Chip.clearRow MemSys.clearRow
  exact h.updMem (fun w => ⟨twf_filter w.1 _, twf_filter w.2.1 _, twf_tset w.2.2 _ _⟩)

theorem bandClearEffect_follows {c0 c : Chip} (b : Fin 48) (h : c0.Follows c) : c0.Follows (bandClearEffect b c) := by
  unfold bandClearEffect
  try dsimp only
  repeat' first | with_reducible assumption | with_reducible apply Chip.clearRow_follows | with_reducible apply Chip.ctxGone_follows
                | simp only [Chip.Follows.upd_iff] | split | intro _ | with_reducible apply Chip.foldl_follows

end Sys2Proof.Machine
end

