-- ==== Sys2Proof/Laws/FollowsOps5.lean ====
section
/-! SUPPORT. The operations of the package keep Chip.Follows, part 5 of 5: every operation after those it calls. -/
namespace Sys2Proof.Machine

theorem Chip.writePkgrst_follows {c0 c : Chip} (w : Word) (h : c0.Follows c) : c0.Follows (Chip.writePkgrst c w) := by
  unfold Chip.writePkgrst
  try dsimp only
  repeat' first | with_reducible assumption | with_reducible apply Chip.modFlt_follows | with_reducible apply Chip.orderPackage_follows
                | simp only [Chip.Follows.upd_iff] | split | intro _ | with_reducible apply Chip.foldl_follows

theorem Chip.writeWo_follows {c0 c : Chip} (b : RegBlock) (d : Word) (h : c0.Follows c) : c0.Follows (Chip.writeWo c b d) := by
  unfold Chip.writeWo
  try dsimp only
  repeat' first | with_reducible assumption | with_reducible apply Chip.writePkgrst_follows
                | with_reducible apply Chip.writeBruRestart_follows | simp only [Chip.Follows.upd_iff] | split | intro _
                | with_reducible apply Chip.foldl_follows

theorem Chip.modW1c_follows {c0 c : Chip} (b : RegBlock) (o : Nat) (f : Word → Word) (h : c0.Follows c) : c0.Follows (Chip.modW1c c b o f)
    := by
  unfold Chip.modW1c
  try dsimp only
  repeat' first | with_reducible assumption | with_reducible apply Chip.modPkg_follows | with_reducible apply Chip.modMbx_follows
                | with_reducible apply Chip.modCore_follows | with_reducible apply Chip.modEngine_follows
                | with_reducible apply Chip.modStack_follows | with_reducible apply Chip.modLink_follows
                | with_reducible apply Chip.modPwr_follows | with_reducible apply Chip.modThm_follows
                | with_reducible apply Chip.modFrm_follows | with_reducible apply Chip.modFlt_follows
                | with_reducible apply Chip.modBru_follows | with_reducible apply Chip.modRte_follows | simp only [Chip.Follows.upd_iff]
                | with_reducible apply Chip.foldl_follows | with_reducible apply Chip.foldl_fst_follows
                | with_reducible apply Chip.foldl_snd_follows | with_reducible apply Chip.foldl_third_follows | split | intro _
                | with_reducible refine Chip.Follows.fst_of (by assumption) ?_
                | with_reducible refine Chip.Follows.snd_of (by assumption) ?_
                | simp (disch := first | rfl | exact Nor.setInactive_rollback _ _ | exact Nor.addPending_rollback _ _ _) only [Chip.Follows.updNor_iff]
                | simp (disch := rfl) only [Chip.Follows.updMem_iff] | with_reducible rfl | dsimp only

theorem Chip.writeW1c_follows {c0 c : Chip} (b : RegBlock) (o : Nat) (m : Word) (a : RegAlias) (d : Word) (off : Nat) (h : c0.Follows c) :
    c0.Follows (Chip.writeW1c c b o m a d off) := by
  unfold Chip.writeW1c
  try dsimp only
  repeat' first | with_reducible assumption | with_reducible apply Chip.refuse_follows | with_reducible apply Chip.modW1c_follows
                | simp only [Chip.Follows.upd_iff] | split | intro _ | with_reducible apply Chip.foldl_follows

theorem Chip.writeMsix_follows {c0 c : Chip} (i : Nat) (a : RegAlias) (d : Word) (h : c0.Follows c) : c0.Follows (Chip.writeMsix c i a d)
    := by
  unfold Chip.writeMsix
  try dsimp only
  repeat' first | with_reducible assumption | with_reducible apply Chip.modPkg_follows | simp only [Chip.Follows.upd_iff] | split
                | intro _ | with_reducible apply Chip.foldl_follows

theorem Chip.stageWBase_follows {c0 c : Chip} (a : RegAlias) (d : Word) (h : c0.Follows c) : c0.Follows (Chip.stageWBase c a d) := by
  unfold Chip.stageWBase
  try dsimp only
  repeat' first | with_reducible assumption | simp only [Chip.Follows.upd_iff] | with_reducible apply Chip.foldl_follows
                | with_reducible apply Chip.foldl_fst_follows | with_reducible apply Chip.foldl_snd_follows
                | with_reducible apply Chip.foldl_third_follows | split | intro _
                | with_reducible refine Chip.Follows.fst_of (by assumption) ?_
                | with_reducible refine Chip.Follows.snd_of (by assumption) ?_
                | simp (disch := first | rfl | exact Nor.setInactive_rollback _ _ | exact Nor.addPending_rollback _ _ _) only [Chip.Follows.updNor_iff]
                | simp (disch := rfl) only [Chip.Follows.updMem_iff] | with_reducible rfl | dsimp only

theorem Chip.hostLnkCtl_follows {c0 c : Chip} (l : LinkId) (a : RegAlias) (d : Word) (off : Nat) (h : c0.Follows c) : c0.Follows
    (Chip.hostLnkCtl c l a d off) := by
  unfold Chip.hostLnkCtl
  try dsimp only
  repeat' first | with_reducible assumption | with_reducible apply Chip.refuse_follows | with_reducible apply Chip.writeLnkCtl_follows
                | simp only [Chip.Follows.upd_iff] | split | intro _ | with_reducible apply Chip.foldl_follows

theorem Chip.writeHardcap_follows {c0 c : Chip} (a : RegAlias) (d : Word) (h : c0.Follows c) : c0.Follows (Chip.writeHardcap c a d) := by
  unfold Chip.writeHardcap
  try dsimp only
  repeat' first | with_reducible assumption | with_reducible apply Chip.refuse_follows | with_reducible apply Chip.recap_follows
                | with_reducible apply Chip.modPwr_follows | simp only [Chip.Follows.upd_iff] | split | intro _
                | with_reducible apply Chip.foldl_follows

theorem Chip.writeTheta0_follows {c0 c : Chip} (a : RegAlias) (d : Word) (h : c0.Follows c) : c0.Follows (Chip.writeTheta0 c a d) := by
  unfold Chip.writeTheta0
  try dsimp only
  repeat' first | with_reducible assumption | with_reducible apply Chip.refuse_follows | with_reducible apply Chip.modPwr_follows
                | simp only [Chip.Follows.upd_iff] | split | intro _ | with_reducible apply Chip.foldl_follows

theorem Chip.writeSlipMap_follows {c0 c : Chip} (i : Nat) (w : Word) (open_ : Bool) (h : c0.Follows c) : c0.Follows (Chip.writeSlipMap c i
    w open_) := by
  unfold Chip.writeSlipMap
  try dsimp only
  repeat' first | with_reducible assumption | simp only [Chip.Follows.upd_iff] | split | intro _ | with_reducible apply Chip.foldl_follows

theorem Chip.hostSlipMap_follows {c0 c : Chip} (i : Nat) (a : RegAlias) (d : Word) (off : Nat) (h : c0.Follows c) : c0.Follows
    (Chip.hostSlipMap c i a d off) := by
  unfold Chip.hostSlipMap
  try dsimp only
  repeat' first | with_reducible assumption | with_reducible apply Chip.refuse_follows | with_reducible apply Chip.writeSlipMap_follows
                | simp only [Chip.Follows.upd_iff] | split | intro _ | with_reducible apply Chip.foldl_follows

theorem Chip.writeBruCtl_follows {c0 c : Chip} (a : RegAlias) (d : Word) (h : c0.Follows c) : c0.Follows (Chip.writeBruCtl c a d) := by
  unfold Chip.writeBruCtl
  try dsimp only
  repeat' first | with_reducible assumption | with_reducible apply Chip.bruNext_follows | with_reducible apply Chip.modBru_follows
                | with_reducible apply Chip.bruErr_follows | with_reducible apply Chip.refuse_follows | simp only [Chip.Follows.upd_iff]
                | split | intro _ | with_reducible apply Chip.foldl_follows

theorem Chip.writeRw_follows {c0 c : Chip} (b : RegBlock) (o : Nat) (a : RegAlias) (d : Word) (off : Nat) (h : c0.Follows c) : c0.Follows
    (Chip.writeRw c b o a d off) := by
  unfold Chip.writeRw
  try dsimp only
  repeat' first | with_reducible assumption | with_reducible apply Chip.refuse_follows | with_reducible apply Chip.modPkg_follows
                | with_reducible apply Chip.writeMsix_follows | with_reducible apply Chip.modMbx_follows
                | with_reducible apply Chip.writeRingHead_follows | with_reducible apply Chip.stageWBase_follows
                | with_reducible apply Chip.commitWBase_follows | with_reducible apply Chip.hostLnkCtl_follows
                | with_reducible apply Chip.writePwrCtl_follows | with_reducible apply Chip.writeHardcap_follows
                | with_reducible apply Chip.writeTheta0_follows | with_reducible apply Chip.writeFrmCtl_follows
                | with_reducible apply Chip.hostSlipMap_follows | with_reducible apply Chip.modFlt_follows
                | with_reducible apply Chip.writeBruCtl_follows | with_reducible apply Chip.hostRteId_follows
                | with_reducible apply Chip.writeRteCtl_follows | with_reducible apply Chip.hostRoute_follows
                | simp only [Chip.Follows.upd_iff] | split | intro _ | with_reducible apply Chip.foldl_follows

theorem Chip.regWrite_follows {c0 c : Chip} (off : Nat) (d : Word) (h : c0.Follows c) : c0.Follows (Chip.regWrite c off d) := by
  unfold Chip.regWrite
  try dsimp only
  repeat' first | with_reducible assumption | with_reducible apply Chip.refuse_follows | with_reducible apply Chip.writeWo_follows
                | with_reducible apply Chip.writeW1c_follows | with_reducible apply Chip.writeRw_follows
                | simp only [Chip.Follows.upd_iff] | split | intro _ | with_reducible apply Chip.foldl_follows

theorem Chip.aliasWrite_follows {c0 c : Chip} (a : RegAlias) (o : Nat) (d : Word) (h : c0.Follows c) : c0.Follows (Chip.aliasWrite c a o
    d) := by
  unfold Chip.aliasWrite
  try dsimp only
  repeat' first | with_reducible assumption | with_reducible apply Chip.host_follows | with_reducible apply Chip.regWrite_follows
                | simp only [Chip.Follows.upd_iff] | split | intro _ | with_reducible apply Chip.foldl_follows

theorem engineResetEffect_follows {c0 c : Chip} (h : c0.Follows c) : c0.Follows (engineResetEffect c) := by
  unfold engineResetEffect
  try dsimp only
  repeat' first | with_reducible assumption | with_reducible apply Chip.collect_follows | with_reducible apply Chip.modFlt_follows
                | with_reducible apply Chip.modCore_follows | with_reducible apply Chip.modEngine_follows
                | with_reducible apply Chip.chargeStop_follows | simp only [Chip.Follows.upd_iff] | split | intro _
                | with_reducible apply Chip.foldl_follows

theorem syncTimeoutEffect_follows {c0 c : Chip} (u : UnitId) (h : c0.Follows c) : c0.Follows (syncTimeoutEffect u c) := by
  unfold syncTimeoutEffect
  try dsimp only
  repeat' first | with_reducible assumption | with_reducible apply Chip.coreStopReport_follows | with_reducible apply Chip.setCore_follows
                | with_reducible apply Chip.sgaStop_follows | simp only [Chip.Follows.upd_iff] | split | intro _
                | with_reducible apply Chip.foldl_follows

theorem portTrainingLostEffect_follows {c0 c : Chip} (s : StackId) (h : c0.Follows c) : c0.Follows (portTrainingLostEffect s c) := by
  unfold portTrainingLostEffect
  try dsimp only
  repeat' first | with_reducible assumption | with_reducible apply Chip.modStack_follows
                | with_reducible apply Chip.quarantinePackage_follows | simp only [Chip.Follows.upd_iff] | split | intro _
                | with_reducible apply Chip.foldl_follows

theorem wakeTokenEffect_follows {c0 c : Chip} (die : Fin 2) (h : c0.Follows c) : c0.Follows (wakeTokenEffect die c) := by
  unfold wakeTokenEffect
  try dsimp only
  repeat' first | with_reducible assumption | with_reducible apply Chip.modCore_follows | simp only [Chip.Follows.upd_iff] | split
                | intro _ | with_reducible apply Chip.foldl_follows

theorem Chip.resubstitute_follows {c0 c : Chip} (h : c0.Follows c) : c0.Follows (Chip.resubstitute c) := by
  unfold Chip.resubstitute
  try dsimp only
  repeat' first | with_reducible assumption | with_reducible apply Chip.coreTemp_follows | simp only [Chip.Follows.upd_iff] | split
                | intro _ | with_reducible apply Chip.foldl_follows

theorem mctpAttestEffect_follows {c0 c : Chip} (tag : BitVec 16) (nonce : List Byte) (off : Word) (h : c0.Follows c) : c0.Follows
    (mctpAttestEffect tag nonce off c) := by
  unfold mctpAttestEffect
  try dsimp only
  repeat' first | with_reducible assumption | with_reducible apply Chip.modPkg_follows | with_reducible apply Chip.vendor_follows
                | simp only [Chip.Follows.upd_iff] | split | intro _ | with_reducible apply Chip.foldl_follows

theorem Chip.dropDatagram_follows {c0 c : Chip} (h : c0.Follows c) : c0.Follows (Chip.dropDatagram c) := by
  unfold Chip.dropDatagram
  try dsimp only
  repeat' first | with_reducible assumption | with_reducible apply Chip.modPkg_follows | simp only [Chip.Follows.upd_iff] | split
                | intro _ | with_reducible apply Chip.foldl_follows

theorem Chip.datagram_follows {c0 c : Chip} (src : Peer) (p : List Byte) (h : c0.Follows c) : c0.Follows (Chip.datagram c src p) := by
  unfold Chip.datagram
  try dsimp only
  repeat' first | with_reducible assumption | with_reducible apply Chip.dropDatagram_follows
                | with_reducible apply Chip.respondPage_follows | simp only [Chip.Follows.upd_iff] | split | intro _
                | with_reducible apply Chip.foldl_follows

theorem Chip.stepCore_follows {c0 c : Chip} (n : CoreId) (h : c0.Follows c) : c0.Follows (Chip.stepCore c n) := by
  unfold Chip.stepCore
  try dsimp only
  repeat' first | with_reducible assumption | with_reducible apply Chip.modCore_follows | with_reducible apply Chip.countThrottle_follows
                | simp only [Chip.Follows.upd_iff] | split | intro _ | with_reducible apply Chip.foldl_follows

theorem Chip.stepEngine_follows {c0 c : Chip} (e : EngineId) (lower : Bool) (h : c0.Follows c) : c0.Follows (Chip.stepEngine c e lower) :=
    by
  unfold Chip.stepEngine
  try dsimp only
  repeat' first | with_reducible assumption | with_reducible apply Chip.countThrottle_follows
                | with_reducible apply Chip.modEngine_follows | simp only [Chip.Follows.upd_iff] | split | intro _
                | with_reducible apply Chip.foldl_follows

theorem throttleEffect_follows {c0 c : Chip} (u : ThermalUnit) (h : c0.Follows c) : c0.Follows (throttleEffect u c) := by
  unfold throttleEffect
  try dsimp only
  repeat' first | with_reducible assumption | with_reducible apply Chip.stepCore_follows | with_reducible apply Chip.stepEngine_follows
                | simp only [Chip.Follows.upd_iff] | split | intro _ | with_reducible apply Chip.foldl_follows

theorem resyncDoneEffect_follows {c0 c : Chip} (h : c0.Follows c) : c0.Follows (resyncDoneEffect c) := by
  unfold resyncDoneEffect
  try dsimp only
  repeat' first | with_reducible assumption | with_reducible apply Chip.refresh_follows | with_reducible apply Chip.mbxErr_follows
                | with_reducible apply Chip.modMbx_follows | simp only [Chip.Follows.upd_iff] | split | intro _
                | with_reducible apply Chip.foldl_follows

theorem refEdgeLossEffect_follows {c0 c : Chip} (i : RefInput) (h : c0.Follows c) : c0.Follows (refEdgeLossEffect i c) := by
  unfold refEdgeLossEffect
  try dsimp only
  repeat' first | with_reducible assumption | with_reducible apply Chip.inputBad_follows | simp only [Chip.Follows.upd_iff] | split
                | intro _ | with_reducible apply Chip.foldl_follows

theorem Chip.sendCredit_follows {c0 c : Chip} (l : LinkId) (h : c0.Follows c) : c0.Follows (Chip.sendCredit c l) := by
  unfold Chip.sendCredit
  try dsimp only
  repeat' first | with_reducible assumption | with_reducible apply Chip.modLink_follows | with_reducible apply Chip.transmit_follows
                | simp only [Chip.Follows.upd_iff] | split | intro _ | with_reducible apply Chip.foldl_follows

theorem Chip.trainStack_follows {c0 c : Chip} (i : StackId) (h : c0.Follows c) : c0.Follows (Chip.trainStack c i) := by
  unfold Chip.trainStack
  try dsimp only
  repeat' first | with_reducible assumption | with_reducible apply Chip.modBru_follows | with_reducible apply Chip.freeWord_follows
                | simp only [Chip.Follows.upd_iff] | split | intro _ | with_reducible apply Chip.foldl_follows

theorem memoryStep_follows {c0 c : Chip} (failed : BitVec 24) (h : c0.Follows c) : c0.Follows (memoryStep failed c).1 := by
  unfold memoryStep
  try dsimp only
  repeat' first | with_reducible assumption | with_reducible apply Chip.loadRepair_follows | with_reducible apply Chip.modStack_follows
                | with_reducible apply Chip.trainStack_follows | with_reducible apply Chip.failStacks_follows
                | simp only [Chip.Follows.upd_iff] | split | intro _ | with_reducible apply Chip.foldl_follows

theorem requalDoneEffect_follows {c0 c : Chip} (l : LinkId) (r : TrainResult) (h : c0.Follows c) : c0.Follows (requalDoneEffect l r c) :=
    by
  unfold requalDoneEffect
  try dsimp only
  repeat' first | with_reducible assumption | with_reducible apply Chip.modLink_follows | with_reducible apply Chip.sendLaneChange_follows
                | simp only [Chip.Follows.upd_iff] | split | intro _ | with_reducible apply Chip.foldl_follows

theorem slipApplyEffect_follows {c0 c : Chip} (h : c0.Follows c) : c0.Follows (slipApplyEffect c) := by
  unfold slipApplyEffect
  try dsimp only
  repeat' first | with_reducible assumption | with_reducible apply Chip.realign_follows | simp only [Chip.Follows.upd_iff] | split
                | intro _ | with_reducible apply Chip.foldl_follows

theorem beaconCfgEffect_follows {c0 c : Chip} (tag : BitVec 16) (b : BeaconCfg) (dup : Bool) (h : c0.Follows c) : c0.Follows
    (beaconCfgEffect tag b dup c) := by
  unfold beaconCfgEffect
  try dsimp only
  repeat' first | with_reducible assumption | with_reducible apply Chip.vendor_follows | with_reducible apply Chip.modPkg_follows
                | with_reducible apply Chip.probe_follows | simp only [Chip.Follows.upd_iff] | with_reducible apply Chip.foldl_follows
                | with_reducible apply Chip.foldl_fst_follows | with_reducible apply Chip.foldl_snd_follows
                | with_reducible apply Chip.foldl_third_follows | split | intro _
                | with_reducible refine Chip.Follows.fst_of (by assumption) ?_
                | with_reducible refine Chip.Follows.snd_of (by assumption) ?_
                | simp (disch := first | rfl | exact Nor.setInactive_rollback _ _ | exact Nor.addPending_rollback _ _ _) only [Chip.Follows.updNor_iff]
                | simp (disch := rfl) only [Chip.Follows.updMem_iff] | with_reducible rfl | dsimp only

theorem Chip.engReport_follows {c0 c : Chip} (e : EngineId) (t : SgaTrace) (h : c0.Follows c) : c0.Follows (Chip.engReport c e t) := by
  unfold Chip.engReport
  try dsimp only
  repeat' first | with_reducible assumption | with_reducible apply Chip.modEngine_follows
                | with_reducible apply Chip.ledgerCondition_follows | with_reducible apply Chip.residueFault_follows
                | with_reducible apply Chip.quarantine_follows | simp only [Chip.Follows.upd_iff] | split | intro _
                | with_reducible apply Chip.foldl_follows

theorem ibexWatchdogEffect_follows {c0 c : Chip} (u : IbexUnit) (h : c0.Follows c) : c0.Follows (ibexWatchdogEffect u c) := by
  unfold ibexWatchdogEffect
  try dsimp only
  repeat' first | with_reducible assumption | with_reducible apply Chip.failIbex_follows | with_reducible apply Chip.countHang_follows
                | simp only [Chip.Follows.upd_iff] | split | intro _ | with_reducible apply Chip.foldl_follows

theorem roleSwapEffect_follows {c0 c : Chip} (h : c0.Follows c) : c0.Follows (roleSwapEffect c) := by
  unfold roleSwapEffect
  try dsimp only
  repeat' first | with_reducible assumption | with_reducible apply Chip.modMbx_follows | simp only [Chip.Follows.upd_iff] | split
                | intro _ | with_reducible apply Chip.foldl_follows

theorem Chip.refillNotices_follows {c0 c : Chip} (x0 : Nat) (h : c0.Follows c) : c0.Follows (Chip.refillNotices x0 c) := by
  induction x0 generalizing c with
  | zero => exact h
  | succ n ih =>
    unfold Chip.refillNotices
    split
    · exact h
    · split
      · exact h
      · exact ih (Chip.enqueueMessage_follows _ _ h.upd)

theorem arriveDeliveryEffect_follows {c0 c : Chip} (i : Nat) (h : c0.Follows c) : c0.Follows (arriveDeliveryEffect i c) := by
  unfold arriveDeliveryEffect
  try dsimp only
  repeat' first | with_reducible assumption | with_reducible apply Chip.arriveAt_follows | simp only [Chip.Follows.upd_iff] | split
                | intro _ | with_reducible apply Chip.foldl_follows

theorem Chip.takeoverCtx_follows {c0 c : Chip} (n : Nat) (x : CtxId) (h : c0.Follows c) : c0.Follows (Chip.takeoverCtx c n x) := by
  unfold Chip.takeoverCtx
  try dsimp only
  repeat' first | with_reducible assumption | with_reducible apply Chip.chargeStop_follows | with_reducible apply Chip.noticeLate_follows
                | with_reducible apply Chip.modDig_follows | with_reducible apply Chip.confirm_follows
                | with_reducible apply Chip.sendNotices_follows | simp only [Chip.Follows.upd_iff] | split | intro _
                | with_reducible apply Chip.foldl_follows

theorem packageWatchdogEffect_follows {c0 c : Chip} (h : c0.Follows c) : c0.Follows (packageWatchdogEffect c) := by
  unfold packageWatchdogEffect
  try dsimp only
  repeat' first | with_reducible assumption | with_reducible apply Chip.modFlt_follows | with_reducible apply Chip.resetHung_follows
                | simp only [Chip.Follows.upd_iff] | split | intro _ | with_reducible apply Chip.foldl_follows

theorem Chip.firstSeal_follows {c0 c : Chip} (h : c0.Follows c) : c0.Follows (Chip.firstSeal c) := by
  unfold Chip.firstSeal
  try dsimp only
  repeat' first | with_reducible assumption | simp only [Chip.Follows.upd_iff] | split | intro _ | with_reducible apply Chip.foldl_follows

theorem coreIdleEffect_follows {c0 c : Chip} (n : CoreId) (h : c0.Follows c) : c0.Follows (coreIdleEffect n c) := by
  unfold coreIdleEffect
  try dsimp only
  repeat' first | with_reducible assumption | with_reducible apply Chip.setCore_follows | simp only [Chip.Follows.upd_iff] | split
                | intro _ | with_reducible apply Chip.foldl_follows

theorem Chip.finishPhases_follows {c0 c : Chip} (x0 : Nat) (x1 : LinkId) (h : c0.Follows c) : c0.Follows (Chip.finishPhases x0 x1 c) := by
  induction x0 generalizing c with
  | zero => exact h
  | succ n ih =>
    unfold Chip.finishPhases
    split
    · split
      · exact ih (Chip.enterPhase_follows _ _ h)
      · exact h
    · exact h

theorem cpGranuleEffect_follows {c0 c : Chip} (n : CoreId) (mv : Nat) (g : BitVec 16) (h : c0.Follows c) : c0.Follows (cpGranuleEffect n
    mv g c) := by
  unfold cpGranuleEffect
  try dsimp only
  repeat' first | with_reducible assumption | with_reducible apply Chip.granuleAt_follows | with_reducible apply Chip.modCore_follows
                | simp only [Chip.Follows.upd_iff] | split | intro _ | with_reducible apply Chip.foldl_follows

theorem Chip.phaseR_follows {c0 c : Chip} (h : c0.Follows c) : c0.Follows (Chip.phaseR c) := by
  unfold Chip.phaseR
  try dsimp only
  repeat' first | with_reducible assumption | with_reducible apply Chip.mapStacks_follows | with_reducible apply Chip.endFlights_follows
                | with_reducible apply Chip.modFlt_follows | with_reducible apply Chip.mapUnits_follows
                | with_reducible apply Chip.modLink_follows | with_reducible apply Chip.dropQueued_follows
                | simp only [Chip.Follows.upd_iff] | split | intro _ | with_reducible apply Chip.foldl_follows

theorem Chip.markLocked_follows {c0 c : Chip} (i : RefInput) (w : MarkWord) (h : c0.Follows c) : c0.Follows (Chip.markLocked c i w) := by
  unfold Chip.markLocked
  try dsimp only
  repeat' first | with_reducible assumption | with_reducible apply Chip.takeMark_follows | with_reducible apply Chip.compareInputs_follows
                | with_reducible apply Chip.failover_follows | simp only [Chip.Follows.upd_iff] | split | intro _
                | with_reducible apply Chip.foldl_follows

theorem Chip.markOther_follows {c0 c : Chip} (i : RefInput) (w : MarkWord) (h : c0.Follows c) : c0.Follows (Chip.markOther c i w) := by
  unfold Chip.markOther
  try dsimp only
  repeat' first | with_reducible assumption | with_reducible apply Chip.mismatch_follows | with_reducible apply Chip.failover_follows
                | simp only [Chip.Follows.upd_iff] | split | intro _ | with_reducible apply Chip.foldl_follows

theorem Chip.markHoldover_follows {c0 c : Chip} (i : RefInput) (w : MarkWord) (h : c0.Follows c) : c0.Follows (Chip.markHoldover c i w) :=
    by
  unfold Chip.markHoldover
  try dsimp only
  repeat' first | with_reducible assumption | with_reducible apply Chip.realign_follows | simp only [Chip.Follows.upd_iff] | split
                | intro _ | with_reducible apply Chip.foldl_follows

theorem markReceivedEffect_follows {c0 c : Chip} (i : RefInput) (w : MarkWord) (h : c0.Follows c) : c0.Follows (markReceivedEffect i w c)
    := by
  unfold markReceivedEffect
  try dsimp only
  repeat' first | with_reducible assumption | with_reducible apply Chip.inputBad_follows | with_reducible apply Chip.markLocked_follows
                | with_reducible apply Chip.markOther_follows | with_reducible apply Chip.markHoldover_follows
                | simp only [Chip.Follows.upd_iff] | split | intro _ | with_reducible apply Chip.foldl_follows

theorem Chip.firmwareBad_follows {c0 c : Chip} (u : UnitId) (h : c0.Follows c) : c0.Follows (Chip.firmwareBad c u) := by
  unfold Chip.firmwareBad
  extract_lets one
  have hone : ∀ d b site f, c0.Follows d → c0.Follows (one d b site f) := by
    intro d b site f hd
    show c0.Follows (if _ then _ else _)
    have h1 : ∀ r : Recon, r.nor.antiRollback = d.nor.antiRollback → c0.Follows (({ d with nor := r.nor }.modBru (fun q => { q with newEntries := q.newEntries + BitVec.ofNat 11 r.new, held := q.held + BitVec.ofNat 32 r.held })).bruErr 7) :=
      fun r hr => Chip.bruErr_follows _ (Chip.modBru_follows _ (hd.updNor hr))
    split
    · exact Chip.bruErr_follows _ (h1 _ (Recon.list_rollback _ _ _ _ _ _))
    · exact h1 _ (Recon.list_rollback _ _ _ _ _ _)
  clear_value one
  split
  · extract_lets k r c1
    split
    · exact h
    · have h1 : c0.Follows c1 := by
        show c0.Follows (match k.servedBy with | some old => _ | none => _)
        split
        · exact Chip.modCore_follows _ _ (Chip.substituteCore_follows _ (hone _ _ _ _ h))
        · exact Chip.substituteCore_follows _ (hone _ _ _ _ h)
      split
      · exact h1
      · exact Chip.modCore_follows _ _ h1
  · extract_lets k r c1
    split
    · exact h
    · have h1 : c0.Follows c1 := by
        show c0.Follows (match k.servedBy with | some old => _ | none => _)
        split
        · exact Chip.modEngine_follows _ _ (Chip.substituteEngine_follows _ (hone _ _ _ _ h))
        · exact Chip.substituteEngine_follows _ (hone _ _ _ _ h)
      split
      · exact h1
      · exact Chip.modEngine_follows _ _ h1

theorem Chip.creditPacket_follows {c0 c : Chip} (l : LinkId) (p : Packet) (h : c0.Follows c) : c0.Follows (Chip.creditPacket c l p) := by
  unfold Chip.creditPacket
  try dsimp only
  repeat' first | with_reducible assumption | with_reducible apply Chip.modRte_follows | with_reducible apply Chip.modLink_follows
                | simp only [Chip.Follows.upd_iff] | split | intro _ | with_reducible apply Chip.foldl_follows

theorem Chip.sendOrigin_follows {c0 c : Chip} (h : c0.Follows c) : c0.Follows (Chip.sendOrigin c).1 := by
  unfold Chip.sendOrigin
  try dsimp only
  repeat' first | with_reducible assumption | with_reducible apply Chip.trySend_follows | with_reducible apply Chip.modRte_follows
                | simp only [Chip.Follows.upd_iff] | with_reducible apply Chip.foldl_follows | with_reducible apply Chip.foldl_fst_follows
                | with_reducible apply Chip.foldl_snd_follows | with_reducible apply Chip.foldl_third_follows | split | intro _
                | with_reducible refine Chip.Follows.fst_of (by assumption) ?_
                | with_reducible refine Chip.Follows.snd_of (by assumption) ?_
                | simp (disch := first | rfl | exact Nor.setInactive_rollback _ _ | exact Nor.addPending_rollback _ _ _) only [Chip.Follows.updNor_iff]
                | simp (disch := rfl) only [Chip.Follows.updMem_iff] | with_reducible rfl | dsimp only

theorem Chip.queueXfer_follows {c0 c : Chip} (x : CtxId) (h : c0.Follows c) : c0.Follows (Chip.queueXfer c x) := by
  unfold Chip.queueXfer
  try dsimp only
  repeat' first | with_reducible assumption | with_reducible apply Chip.queueRecord_follows | with_reducible apply Chip.modDig_follows
                | simp only [Chip.Follows.upd_iff] | split | intro _ | with_reducible apply Chip.foldl_follows

theorem Chip.sendDigest_follows {c0 c : Chip} (room : Room) (h : c0.Follows c) : c0.Follows (Chip.sendDigest c room) := by
  unfold Chip.sendDigest
  try dsimp only
  repeat' first | with_reducible assumption | with_reducible apply Chip.trySend_follows | simp only [Chip.Follows.upd_iff] | split
                | intro _ | with_reducible apply Chip.foldl_follows

theorem Chip.openWindow_follows {c0 c : Chip} (h : c0.Follows c) : c0.Follows (Chip.openWindow c) := by
  unfold Chip.openWindow
  try dsimp only
  repeat' first | with_reducible assumption | with_reducible apply Chip.sendOrigin_follows | with_reducible apply Chip.queueXfer_follows
                | with_reducible apply Chip.dropLateRecords_follows | with_reducible apply Chip.sendDigest_follows
                | with_reducible apply Chip.modRte_follows | with_reducible apply Chip.refillSignals_follows
                | with_reducible apply Chip.refillNotices_follows | simp only [Chip.Follows.upd_iff] | split | intro _
                | with_reducible apply Chip.foldl_follows

theorem Chip.coreReports_follows {c0 c : Chip} (n : CoreId) (o : CoreOut) (h : c0.Follows c) : c0.Follows (Chip.coreReports c n o) := by
  unfold Chip.coreReports
  try dsimp only
  repeat' first | with_reducible assumption | with_reducible apply Chip.consume_follows
                | with_reducible apply Chip.ledgerCondition_follows | with_reducible apply Chip.residueFault_follows
                | with_reducible apply Chip.quarantine_follows | simp only [Chip.Follows.upd_iff] | split | intro _
                | with_reducible apply Chip.foldl_follows

theorem Chip.coreStep_follows {c0 c : Chip} (n : CoreId) (i : Instr) (f : Core → CoreOut) (h : c0.Follows c) : c0.Follows (Chip.coreStep c
    n i f) := by
  unfold Chip.coreStep
  try dsimp only
  repeat' first | with_reducible assumption | with_reducible apply Chip.coreStopReport_follows | with_reducible apply Chip.setCore_follows
                | with_reducible apply Chip.consume_follows | with_reducible apply Chip.coreReports_follows
                | simp only [Chip.Follows.upd_iff] | split | intro _ | with_reducible apply Chip.foldl_follows

theorem moveQEffect_follows {c0 c : Chip} (n : CoreId) (w : BitVec 54) (h : c0.Follows c) : c0.Follows (moveQEffect n w c) := by
  unfold moveQEffect
  try dsimp only
  repeat' first | with_reducible assumption | with_reducible apply Chip.coreStep_follows | simp only [Chip.Follows.upd_iff] | split
                | intro _ | with_reducible apply Chip.foldl_follows

theorem Chip.phaseM_follows {c0 c : Chip} (h : c0.Follows c) : c0.Follows (Chip.phaseM c) := by
  unfold Chip.phaseM
  try dsimp only
  repeat' first | with_reducible assumption | with_reducible apply Chip.modFlt_follows | with_reducible apply Chip.mapStacks_follows
                | simp only [Chip.Follows.upd_iff] | split | intro _ | with_reducible apply Chip.foldl_follows

theorem copySealEffect_follows {c0 c : Chip} (h : c0.Follows c) : c0.Follows (copySealEffect c) := by
  unfold copySealEffect
  try dsimp only
  repeat' first | with_reducible assumption | with_reducible apply Chip.sealCopy_follows | simp only [Chip.Follows.upd_iff] | split
                | intro _ | with_reducible apply Chip.foldl_follows

theorem Chip.sensorFault_follows {c0 c : Chip} (n : CoreId) (h : c0.Follows c) : c0.Follows (Chip.sensorFault c n) := by
  unfold Chip.sensorFault
  try dsimp only
  repeat' first | with_reducible assumption | with_reducible apply Chip.modCore_follows | with_reducible apply Chip.powerBeacon_follows
                | with_reducible apply Chip.thmErr_follows | with_reducible apply Chip.modThm_follows | simp only [Chip.Follows.upd_iff]
                | split | intro _ | with_reducible apply Chip.foldl_follows

theorem Chip.readCore_follows {c0 c : Chip} (n : CoreId) (t0 : BitVec 16) (t1 : BitVec 16) (h : c0.Follows c) : c0.Follows (Chip.readCore
    c n t0 t1) := by
  unfold Chip.readCore
  try dsimp only
  repeat' first | with_reducible assumption | with_reducible apply Chip.modCore_follows | with_reducible apply Chip.resubstitute_follows
                | with_reducible apply Chip.sensorFault_follows | with_reducible apply Chip.coreTemp_follows
                | simp only [Chip.Follows.upd_iff] | split | intro _ | with_reducible apply Chip.foldl_follows

theorem Chip.sendControl_follows {c0 c : Chip} (l : LinkId) (h : c0.Follows c) : c0.Follows (Chip.sendControl c l) := by
  unfold Chip.sendControl
  try dsimp only
  repeat' first | with_reducible assumption | with_reducible apply Chip.modLink_follows | with_reducible apply Chip.useGroups_follows
                | with_reducible apply Chip.sendControl1_follows | simp only [Chip.Follows.upd_iff] | split | intro _
                | with_reducible apply Chip.foldl_follows

theorem controlWindowEffect_follows {c0 c : Chip} (h : c0.Follows c) : c0.Follows (controlWindowEffect c) := by
  unfold controlWindowEffect
  try dsimp only
  repeat' first | with_reducible assumption | with_reducible apply Chip.replay_follows | with_reducible apply Chip.modLink_follows
                | with_reducible apply Chip.openWindow_follows | with_reducible apply Chip.sendTransit_follows
                | with_reducible apply Chip.sendControl_follows | with_reducible apply Chip.sendCredit_follows
                | simp only [Chip.Follows.upd_iff] | split | intro _ | with_reducible apply Chip.foldl_follows

theorem linkStep_follows {c0 c : Chip} (h : c0.Follows c) : c0.Follows (linkStep c).1 := by
  unfold linkStep
  try dsimp only
  repeat' first | with_reducible assumption | with_reducible apply Chip.bruErr_follows | simp only [Chip.Follows.upd_iff] | split
                | intro _ | with_reducible apply Chip.foldl_follows

theorem mctpActivateEffect_follows {c0 c : Chip} (tag : BitVec 16) (h : c0.Follows c) : c0.Follows (mctpActivateEffect tag c) := by
  unfold mctpActivateEffect
  try dsimp only
  repeat' first | with_reducible assumption | with_reducible apply Chip.vendor_follows | with_reducible apply Chip.activate_follows
                | simp only [Chip.Follows.upd_iff] | split | intro _ | with_reducible apply Chip.foldl_follows

theorem trainCompleteEffect_follows {c0 c : Chip} (l : LinkId) (r : TrainResult) (h : c0.Follows c) : c0.Follows (trainCompleteEffect l r
    c) := by
  unfold trainCompleteEffect
  try dsimp only
  repeat' first | with_reducible assumption | with_reducible apply Chip.trainFail_follows | with_reducible apply Chip.modLink_follows
                | with_reducible apply Chip.finishPhases_follows | with_reducible apply Chip.linkDown_follows
                | with_reducible apply Chip.enterPhase_follows | with_reducible apply Chip.sendMgmt_follows
                | with_reducible apply Chip.refresh_follows | with_reducible apply Chip.storeParams_follows
                | simp only [Chip.Follows.upd_iff] | with_reducible apply Chip.foldl_follows | with_reducible apply Chip.foldl_fst_follows
                | with_reducible apply Chip.foldl_snd_follows | with_reducible apply Chip.foldl_third_follows | split | intro _
                | with_reducible refine Chip.Follows.fst_of (by assumption) ?_
                | with_reducible refine Chip.Follows.snd_of (by assumption) ?_
                | simp (disch := first | rfl | exact Nor.setInactive_rollback _ _ | exact Nor.addPending_rollback _ _ _) only [Chip.Follows.updNor_iff]
                | simp (disch := rfl) only [Chip.Follows.updMem_iff] | with_reducible rfl | dsimp only

theorem patrolScrubEffect_follows {c0 c : Chip} (s : StackId) (symbols : Nat) (h : c0.Follows c) : c0.Follows (patrolScrubEffect s symbols
    c) := by
  unfold patrolScrubEffect
  try dsimp only
  repeat' first | with_reducible assumption | with_reducible apply Chip.decodeLine_follows | with_reducible apply Chip.modStack_follows
                | simp only [Chip.Follows.upd_iff] | split | intro _ | with_reducible apply Chip.foldl_follows

theorem Chip.markQuarCore_follows {c0 c : Chip} (n : CoreId) (h : c0.Follows c) : c0.Follows (Chip.markQuarCore c n) := by
  unfold Chip.markQuarCore
  try dsimp only
  repeat' first | with_reducible assumption | with_reducible apply Chip.modCore_follows | simp only [Chip.Follows.upd_iff] | split
                | intro _ | with_reducible apply Chip.foldl_follows

theorem linkTrainingEffect_follows {c0 c : Chip} (l : LinkId) (cold : Bool) (h : c0.Follows c) : c0.Follows (linkTrainingEffect l cold c)
    := by
  unfold linkTrainingEffect
  try dsimp only
  repeat' first | with_reducible assumption | with_reducible apply Chip.startTraining_follows | simp only [Chip.Follows.upd_iff] | split
                | intro _ | with_reducible apply Chip.foldl_follows

theorem Chip.requestEngine_follows {c0 c : Chip} (u : UnitId) (mover : Bool) (h : c0.Follows c) : c0.Follows (Chip.requestEngine c u
    mover) := by
  unfold Chip.requestEngine
  try dsimp only
  repeat' first | with_reducible assumption | with_reducible apply Chip.orderCompute_follows | with_reducible apply Chip.modFlt_follows
                | simp only [Chip.Follows.upd_iff] | split | intro _ | with_reducible apply Chip.foldl_follows

theorem Chip.hang_follows {c0 c : Chip} (u : UnitId) (mover : Bool) (h : c0.Follows c) : c0.Follows (Chip.hang c u mover) := by
  unfold Chip.hang
  try dsimp only
  repeat' first | with_reducible assumption | with_reducible apply Chip.event_follows | with_reducible apply Chip.fltErr_follows
                | with_reducible apply Chip.modFlt_follows | with_reducible apply Chip.countHang_follows
                | with_reducible apply Chip.requestEngine_follows | with_reducible apply Chip.guilty_follows
                | simp only [Chip.Follows.upd_iff] | split | intro _ | with_reducible apply Chip.foldl_follows

theorem linkDrainedEffect_follows {c0 c : Chip} (l : LinkId) (h : c0.Follows c) : c0.Follows (linkDrainedEffect l c) := by
  unfold linkDrainedEffect
  try dsimp only
  repeat' first | with_reducible assumption | with_reducible apply Chip.modLink_follows | simp only [Chip.Follows.upd_iff] | split
                | intro _ | with_reducible apply Chip.foldl_follows

theorem sealRecordEffect_follows {c0 c : Chip} (r : SealRecord) (h : c0.Follows c) : c0.Follows (sealRecordEffect r c) := by
  unfold sealRecordEffect
  try dsimp only
  repeat' first | with_reducible assumption | with_reducible apply Chip.modMbx_follows | simp only [Chip.Follows.upd_iff] | split
                | intro _ | with_reducible apply Chip.foldl_follows

theorem Chip.releaseReset_follows {c0 c : Chip} (h : c0.Follows c) : c0.Follows (Chip.releaseReset c) := by
  unfold Chip.releaseReset
  try dsimp only
  repeat' first | with_reducible assumption | with_reducible apply Chip.setDState_follows | with_reducible apply Chip.modPkg_follows
                | with_reducible apply Chip.modFlt_follows | with_reducible apply Chip.recap_follows
                | with_reducible apply Chip.quarantinePackage_follows | simp only [Chip.Follows.upd_iff] | split | intro _
                | with_reducible apply Chip.foldl_follows

theorem shutdownReleaseEffect_follows {c0 c : Chip} (seconds : Nat) (h : c0.Follows c) : c0.Follows (shutdownReleaseEffect seconds c) :=
    by
  unfold shutdownReleaseEffect
  try dsimp only
  repeat' first | with_reducible assumption | with_reducible apply Chip.releaseReset_follows | with_reducible apply Chip.realert_follows
                | with_reducible apply Chip.modThm_follows | simp only [Chip.Follows.upd_iff] | split | intro _
                | with_reducible apply Chip.foldl_follows

theorem moveStartEffect_follows {c0 c : Chip} (n : CoreId) (h : c0.Follows c) : c0.Follows (moveStartEffect n c) := by
  unfold moveStartEffect
  try dsimp only
  repeat' first | with_reducible assumption | with_reducible apply Chip.setCore_follows | with_reducible apply Chip.coreCount_follows
                | with_reducible apply Chip.launch_follows | with_reducible apply Chip.coreAsyncStop_follows
                | with_reducible apply Chip.modCore_follows | simp only [Chip.Follows.upd_iff] | split | intro _
                | with_reducible apply Chip.foldl_follows

theorem RowOp.writeReduce_follows {c0 c : Chip} (o : RowOp) (e : EngineId) (ups : Upsets) (codes : List Nat) (h : c0.Follows c) :
    c0.Follows (RowOp.writeReduce o c e ups codes) := by
  unfold RowOp.writeReduce
  try dsimp only
  repeat' first | with_reducible assumption | with_reducible apply Chip.engWrite_follows | simp only [Chip.Follows.upd_iff] | split
                | intro _ | with_reducible apply Chip.foldl_follows

theorem Chip.broadcast_follows {c0 c : Chip} (h : c0.Follows c) : c0.Follows (Chip.broadcast c) := by
  unfold Chip.broadcast
  try dsimp only
  repeat' first | with_reducible assumption | with_reducible apply Chip.mapUnits_follows | simp only [Chip.Follows.upd_iff] | split
                | intro _ | with_reducible apply Chip.foldl_follows

theorem firmwareStep_follows {c0 c : Chip} (activeOk : Bool) (otherOk : Bool) (startA : Bool) (startB : Bool) (bad : List UnitId) (h :
    c0.Follows c) : c0.Follows (firmwareStep activeOk otherOk startA startB bad c).1 := by
  unfold firmwareStep
  extract_lets useActive i c1 m c2 b m2 c3
  have h2 : c0.Follows c2 := (Chip.modPkg_follows _ (Chip.modBru_follows _ h)).upd
  have hb : c0.Follows (bad.foldl Chip.firmwareBad c2) := Chip.foldl_follows _ _ (fun _ _ hd => Chip.firmwareBad_follows _ hd) h2
  have h3 : c0.Follows c3 := Chip.broadcast_follows (hb.updMem id)
  clear_value c3
  split
  · dsimp only
    exact Chip.modPkg_follows _ (Chip.bruErr_follows _ h)
  · split
    · exact Chip.bruErr_follows _ h
    · split
      · exact h3
      · exact Chip.bruErr_follows _ h3

theorem autoRetrainEffect_follows {c0 c : Chip} (l : LinkId) (h : c0.Follows c) : c0.Follows (autoRetrainEffect l c) := by
  unfold autoRetrainEffect
  try dsimp only
  repeat' first | with_reducible assumption | with_reducible apply Chip.startTraining_follows | simp only [Chip.Follows.upd_iff] | split
                | intro _ | with_reducible apply Chip.foldl_follows

theorem Chip.phaseB_follows {c0 c : Chip} (h : c0.Follows c) : c0.Follows (Chip.phaseB c) := by
  unfold Chip.phaseB
  try dsimp only
  repeat' first | with_reducible assumption | with_reducible apply Chip.modFlt_follows | simp only [Chip.Follows.upd_iff] | split
                | intro _ | with_reducible apply Chip.foldl_follows

theorem airAssertEffect_follows {c0 c : Chip} (h : c0.Follows c) : c0.Follows (airAssertEffect c) := by
  unfold airAssertEffect
  try dsimp only
  repeat' first | with_reducible assumption | with_reducible apply Chip.whenOn_follows | with_reducible apply Chip.modPwr_follows
                | with_reducible apply Chip.airflowFailure_follows | with_reducible apply Chip.modBru_follows
                | simp only [Chip.Follows.upd_iff] | split | intro _ | with_reducible apply Chip.foldl_follows

theorem intentAckEffect_follows {c0 c : Chip} (s : SlotId) (h : c0.Follows c) : c0.Follows (intentAckEffect s c) := by
  unfold intentAckEffect
  try dsimp only
  repeat' first | with_reducible assumption | with_reducible apply Chip.carryOut_follows | simp only [Chip.Follows.upd_iff] | split
                | intro _ | with_reducible apply Chip.foldl_follows

theorem Chip.repost_follows {c0 c : Chip} (s : SlotId) (h : c0.Follows c) : c0.Follows (Chip.repost c s) := by
  unfold Chip.repost
  try dsimp only
  repeat' first | with_reducible assumption | with_reducible apply Chip.modMbx_follows | simp only [Chip.Follows.upd_iff] | split
                | intro _ | with_reducible apply Chip.foldl_follows

theorem takeoverEffect_follows {c0 c : Chip} (h : c0.Follows c) : c0.Follows (takeoverEffect c) := by
  unfold takeoverEffect
  try dsimp only
  repeat' first | with_reducible assumption | with_reducible apply Chip.modMbx_follows | with_reducible apply Chip.takeImage_follows
                | with_reducible apply Chip.repost_follows | with_reducible apply Chip.carryOut_follows
                | with_reducible apply Chip.takeoverCtx_follows | with_reducible apply Chip.release__follows
                | with_reducible apply Chip.refresh_follows | with_reducible apply Chip.event_follows
                | with_reducible apply Chip.mbxErr_follows | simp only [Chip.Follows.upd_iff] | split | intro _
                | with_reducible apply Chip.foldl_follows

theorem Chip.phaseF_follows {c0 c : Chip} (h : c0.Follows c) : c0.Follows (Chip.phaseF c) := by
  unfold Chip.phaseF
  try dsimp only
  repeat' first | with_reducible assumption | with_reducible apply Chip.modCtx_follows | with_reducible apply Chip.substituteCore_follows
                | with_reducible apply Chip.markQuarCore_follows | with_reducible apply Chip.substituteEngine_follows
                | with_reducible apply Chip.markQuarEngine_follows | with_reducible apply Chip.modFlt_follows
                | with_reducible apply Chip.broadcast_follows | simp only [Chip.Follows.upd_iff] | split | intro _
                | with_reducible apply Chip.foldl_follows

theorem computeDomainEffect_follows {c0 c : Chip} (failed : List UnitId) (h : c0.Follows c) : c0.Follows (computeDomainEffect failed c) :=
    by
  unfold computeDomainEffect
  try dsimp only
  repeat' first | with_reducible assumption | with_reducible apply Chip.phaseD_follows | with_reducible apply Chip.phaseQ_follows
                | with_reducible apply Chip.phaseR_follows | with_reducible apply Chip.phaseM_follows
                | with_reducible apply Chip.phaseC_follows | with_reducible apply Chip.phaseF_follows
                | with_reducible apply Chip.phaseB_follows | simp only [Chip.Follows.upd_iff] | split | intro _
                | with_reducible apply Chip.foldl_follows

theorem Chip.passTick_follows {c0 c : Chip} (h : c0.Follows c) : c0.Follows (Chip.passTick c) := by
  unfold Chip.passTick
  try dsimp only
  repeat' first | with_reducible assumption | with_reducible apply Chip.countFrame_follows | with_reducible apply Chip.newSecond_follows
                | simp only [Chip.Follows.upd_iff] | split | intro _ | with_reducible apply Chip.foldl_follows

theorem Chip.loopTick_follows {c0 c : Chip} (l : LinkId) (h : c0.Follows c) : c0.Follows (Chip.loopTick c l) := by
  unfold Chip.loopTick
  try dsimp only
  repeat' first | with_reducible assumption | with_reducible apply codewordEffect_follows | with_reducible apply Chip.modLink_follows
                | simp only [Chip.Follows.upd_iff] | split | intro _ | with_reducible apply Chip.foldl_follows

theorem Chip.idle_follows {c0 c : Chip} (h : c0.Follows c) : c0.Follows (Chip.idle c) := by
  unfold Chip.idle
  try dsimp only
  repeat' first | with_reducible assumption | with_reducible apply Chip.flushTx_follows | with_reducible apply slipApplyEffect_follows
                | with_reducible apply Chip.loopTick_follows | with_reducible apply Chip.trainTick_follows
                | with_reducible apply Chip.sendDue_follows | with_reducible apply Chip.passTick_follows
                | simp only [Chip.Follows.upd_iff] | split | intro _ | with_reducible apply Chip.foldl_follows

theorem Chip.writeSlot_follows {c0 c : Chip} (s : SlotId) (w : Nat) (bs : List (Option Byte)) (h : c0.Follows c) : c0.Follows
    (Chip.writeSlot c s w bs) := by
  unfold Chip.writeSlot
  try dsimp only
  repeat' first | with_reducible assumption | with_reducible apply Chip.mbxErr_follows | simp only [Chip.Follows.upd_iff] | split
                | intro _ | with_reducible apply Chip.foldl_follows

theorem beaconRepeatEffect_follows {c0 c : Chip} (h : c0.Follows c) : c0.Follows (beaconRepeatEffect c) := by
  unfold beaconRepeatEffect
  try dsimp only
  repeat' first | with_reducible assumption | with_reducible apply Chip.modFlt_follows | with_reducible apply Chip.sendBeacon_follows
                | simp only [Chip.Follows.upd_iff] | split | intro _ | with_reducible apply Chip.foldl_follows

theorem packetEffect_follows {c0 c : Chip} (l : LinkId) (p : Packet) (ups : Upsets) (h : c0.Follows c) : c0.Follows (packetEffect l p ups
    c) := by
  unfold packetEffect
  try dsimp only
  repeat' first | with_reducible assumption | with_reducible apply Chip.modLink_follows | with_reducible apply Chip.circuitPacket_follows
                | with_reducible apply Chip.messagePacket_follows | with_reducible apply Chip.creditPacket_follows
                | with_reducible apply Chip.modRte_follows | simp only [Chip.Follows.upd_iff] | split | intro _
                | with_reducible apply Chip.foldl_follows

theorem arriveEffect_follows {c0 c : Chip} (n : CoreId) (w : BitVec 54) (h : c0.Follows c) : c0.Follows (arriveEffect n w c) := by
  unfold arriveEffect
  try dsimp only
  repeat' first | with_reducible assumption | with_reducible apply Chip.coreStep_follows | with_reducible apply Chip.sendArrival_follows
                | simp only [Chip.Follows.upd_iff] | split | intro _ | with_reducible apply Chip.foldl_follows

theorem sensorEffect_follows {c0 c : Chip} (r : SensorReading) (h : c0.Follows c) : c0.Follows (sensorEffect r c) := by
  unfold sensorEffect
  try dsimp only
  repeat' first | with_reducible assumption | with_reducible apply Chip.readCore_follows | with_reducible apply Chip.modEngine_follows
                | with_reducible apply Chip.thermalShutdown_follows | with_reducible apply Chip.readStack_follows
                | simp only [Chip.Follows.upd_iff] | split | intro _ | with_reducible apply Chip.foldl_follows

theorem readyStep_follows {c0 c : Chip} (h : c0.Follows c) : c0.Follows (readyStep c).1 := by
  unfold readyStep
  extract_lets quar src n c1
  have hr : c0.nor.antiRollback.toNat ≤ c.raisedSvn.toNat := by
    refine Nat.le_trans h.rollback ?_
    unfold Chip.raisedSvn
    split
    · rw [BitVec.toNat_ofNat, Nat.mod_eq_of_lt (by have := c.nor.antiRollback.isLt; omega)]
      omega
    · exact Nat.le_refl _
  have h1 : c0.Follows { c with nor := n } :=
    ⟨h.fuse, hr, fun q => ⟨(h.canonical q).cores, (h.canonical q).engines, (h.canonical q).stks, (h.canonical q).links, (h.canonical
        q).mem⟩⟩
  clear_value n src
  have h2 : c0.Follows c1 := Chip.firstSeal_follows (Chip.modFlt_follows _ (Chip.modBru_follows _ h1))
  clear_value c1
  split
  · exact Chip.quarantinePackage_follows _ h2
  · exact Chip.setDState_follows _ h2

theorem releaseEffect_follows {c0 c : Chip} (h : c0.Follows c) : c0.Follows (releaseEffect c) := by
  unfold releaseEffect
  try dsimp only
  repeat' first | with_reducible assumption | with_reducible apply Chip.releaseReset_follows | simp only [Chip.Follows.upd_iff] | split
                | intro _ | with_reducible apply Chip.foldl_follows

theorem inletStaleEffect_follows {c0 c : Chip} (h : c0.Follows c) : c0.Follows (inletStaleEffect c) := by
  unfold inletStaleEffect
  try dsimp only
  repeat' first | with_reducible assumption | with_reducible apply Chip.powerBeacon_follows | with_reducible apply Chip.thmErr_follows
                | with_reducible apply Chip.modThm_follows | simp only [Chip.Follows.upd_iff] | split | intro _
                | with_reducible apply Chip.foldl_follows

theorem bar4ReadEffect_follows {c0 c : Chip} (x : BitVec 36) (n : Nat) (ups : Upsets) (h : c0.Follows c) : c0.Follows (bar4ReadEffect x n
    ups c) := by
  unfold bar4ReadEffect
  try dsimp only
  repeat' first | with_reducible assumption | with_reducible apply Chip.unsupported_follows | with_reducible apply Chip.emit_follows
                | with_reducible apply Chip.bar4Refuse_follows | with_reducible apply Chip.readLine_follows
                | simp only [Chip.Follows.upd_iff] | with_reducible apply Chip.foldl_follows | with_reducible apply Chip.foldl_fst_follows
                | with_reducible apply Chip.foldl_snd_follows | with_reducible apply Chip.foldl_third_follows | split | intro _
                | with_reducible refine Chip.Follows.fst_of (by assumption) ?_
                | with_reducible refine Chip.Follows.snd_of (by assumption) ?_
                | simp (disch := first | rfl | exact Nor.setInactive_rollback _ _ | exact Nor.addPending_rollback _ _ _) only [Chip.Follows.updNor_iff]
                | simp (disch := rfl) only [Chip.Follows.updMem_iff] | with_reducible rfl | dsimp only

theorem slotPostEffect_follows {c0 c : Chip} (off : Nat) (data : List (Option Byte)) (h : c0.Follows c) : c0.Follows (slotPostEffect off
    data c) := by
  unfold slotPostEffect
  try dsimp only
  repeat' first | with_reducible assumption | with_reducible apply Chip.unsupported_follows | with_reducible apply Chip.writeSlot_follows
                | simp only [Chip.Follows.upd_iff] | split | intro _ | with_reducible apply Chip.foldl_follows

theorem Chip.runStep_follows {c0 c : Chip} (k : Nat) (ms : BitVec 16) (f : Chip → Chip × Nat) (hf : ∀ d, c0.Follows d → c0.Follows (f
    d).1) (h : c0.Follows c) : c0.Follows (Chip.runStep c k ms f) := by
  unfold Chip.runStep
  try dsimp only
  repeat' first | with_reducible assumption | with_reducible apply Chip.endStep_follows | with_reducible apply Chip.bruErr_follows
                | with_reducible apply hf | simp only [Chip.Follows.upd_iff] | split | intro _ | with_reducible apply Chip.foldl_follows

theorem missingMarkEffect_follows {c0 c : Chip} (i : RefInput) (h : c0.Follows c) : c0.Follows (missingMarkEffect i c) := by
  unfold missingMarkEffect
  try dsimp only
  repeat' first | with_reducible assumption | with_reducible apply Chip.inputBad_follows | simp only [Chip.Follows.upd_iff] | split
                | intro _ | with_reducible apply Chip.foldl_follows

theorem sgaWaitResumeEffect_follows {c0 c : Chip} (e : EngineId) (h : c0.Follows c) : c0.Follows (sgaWaitResumeEffect e c) := by
  unfold sgaWaitResumeEffect
  try dsimp only
  repeat' first | with_reducible assumption | with_reducible apply Chip.sgaResume_follows | simp only [Chip.Follows.upd_iff] | split
                | intro _ | with_reducible apply Chip.foldl_follows

end Sys2Proof.Machine
end

