-- ==== Sys2Proof/Laws/FollowsOps6.lean ====
section
/-! SUPPORT. The commands of the engines keep Chip.Follows, and what a command lifted to the state answers. -/
namespace Sys2Proof.Machine

theorem SgaOut.ok_follows {c0 c : Chip} (h : c0.Follows c) : c0.Follows (SgaOut.ok c).chip := h

theorem SgaOut.fail_follows {c0 c : Chip} (b : Nat) (h : c0.Follows c) : c0.Follows (SgaOut.fail c b).chip := h

theorem sgaWaitOut_follows {c0 c : Chip} (e : EngineId) (w : SgaWords) (h : c0.Follows c) : c0.Follows (sgaWaitOut e w c).chip := by
  unfold sgaWaitOut; dsimp only; split <;> exact h

theorem sgaTickOut_follows {c0 c : Chip} (e : EngineId) (w : SgaWords) (h : c0.Follows c) : c0.Follows (sgaTickOut e w c).chip := by
  unfold sgaTickOut; dsimp only; split
  · exact h
  · split
    · exact SgaOut.ok_follows (Chip.modEngine_follows _ _ h)
    · split
      · exact h
      · exact h

theorem attnSegment_follows {c0 : Chip} (e : EngineId) (o : AttnOp) (ups : Upsets) (s : Chip × SgaTrace) (j : Nat) (h : c0.Follows s.1) :
    c0.Follows (attnSegment e o ups s j).1 := by
  unfold attnSegment
  extract_lets c lprot c1 c2 r c3
  have h1 : c0.Follows c1 := Chip.engRead_follows _ _ _ h
  have h2 : c0.Follows c2 := by
    show c0.Follows (if _ then _ else _)
    split
    · exact Chip.engRead_follows _ _ _ h1
    · exact h1
  have h3 : c0.Follows c3 := Chip.modEngine_follows _ _ h2
  clear_value c3 r
  with_reducible refine Chip.foldl_fst_follows _ _ (fun s x hs => ?_) (c3, s.2) h3
  dsimp only
  with_reducible exact Chip.engWrite_follows _ _ _ _ hs

theorem attnOut_follows {c0 c : Chip} (e : EngineId) (w : SgaWords) (ups : Upsets) (h : c0.Follows c) : c0.Follows (attnOut e w ups
    c).chip := by
  unfold attnOut; dsimp only; split
  · exact h
  · split
    · exact h
    · exact Chip.engReport_follows _ _ (Chip.foldl_fst_follows _ _ (fun s x hs => attnSegment_follows _ _ _ _ _ hs) _ h)

theorem reduceOut_follows {c0 c : Chip} (e : EngineId) (w : SgaWords) (ups : Upsets) (h : c0.Follows c) : c0.Follows (reduceOut e w ups
    c).chip := by
  unfold reduceOut; dsimp only; split
  · exact h
  · split
    · exact h
    · split
      · exact Chip.engWrite_follows _ _ _ _ (Chip.engRead_follows _ _ _ h)
      · exact Chip.engReport_follows _ _ (Chip.modEngine_follows _ _ (RowOp.writeReduce_follows _ _ _ _ (Chip.engRead_follows _ _ _ h)))

theorem scanOut_follows {c0 c : Chip} (e : EngineId) (w : SgaWords) (ups : Upsets) (h : c0.Follows c) : c0.Follows (scanOut e w ups
    c).chip := by
  unfold scanOut; dsimp only; split
  · exact h
  · split
    · exact h
    · exact Chip.engReport_follows _ _ (Chip.modEngine_follows _ _ (Chip.engWrite_follows _ _ _ _ (Chip.engWrite_follows _ _ _ _
        (RowOp.writeScan_follows _ _ _ _ (Chip.engRead_follows _ _ _ h)))))

theorem gatherStep_follows {c0 : Chip} (e : EngineId) (o : GatherOp) (ups : Upsets) (s : Chip × Bool) (i : Nat) (h : c0.Follows s.1) :
    c0.Follows (gatherStep e o ups s i).1 := by
  unfold gatherStep; dsimp only; split
  · exact h
  · have h1 := Chip.decodeLine_follows (engLine e (o.iaddr + i / 16)) (errsOf ups (engLine e (o.iaddr + i / 16))) true h
    split
    · exact Chip.consume_follows _ _ _ _ (Chip.modEngine_follows _ _ h1)
    · split
      · exact h1
      · exact Chip.foldl_follows _ _ (fun d k hd => Chip.copyLine_follows _ _ _ _ hd) h1

theorem gatherOut_follows {c0 c : Chip} (e : EngineId) (w : SgaWords) (ups : Upsets) (h : c0.Follows c) : c0.Follows (gatherOut e w ups
    c).chip := by
  unfold gatherOut; dsimp only; split
  · exact h
  · split
    · exact h
    · have hr := Chip.foldl_fst_follows _ (List.range (gatherOp w).n) (fun s x hs => gatherStep_follows e (gatherOp w) ups s x hs) (c,
        false) h
      split
      · exact hr
      · exact hr

/-- A command that answers a next state only by an effect that follows. -/

theorem lift_follows {s s' : State} {f : Chip → Chip} (hf : ∀ c0 c : Chip, c0.Follows c → c0.Follows (f c))
   (h : s.lift f = .next s') : s.chip.Follows s'.chip := by
  cases h
  exact hf _ _ (Chip.Follows.refl _)

end Sys2Proof.Machine
end

