-- ==== Sys2Proof/Laws/FollowsExec.lean ====
section
/-! SUPPORT. The meaning of every command keeps Chip.Follows. -/
namespace Sys2Proof.Machine

theorem execBruFuseNor_follows (x0 : Bool) (x1 : List (Fin 8)) (x2 : BitVec 16) {s s' : State} (h : execBruFuseNor x0 x1 x2 s = .next s')
    : s.chip.Follows s'.chip := by
  refine lift_follows (fun c0 c hc => ?_) h
  repeat' first | with_reducible assumption | with_reducible apply Chip.runStep_follows | with_reducible apply fuseNorStep_follows
                | simp only [Chip.Follows.upd_iff] | split | intro _ | dsimp only [id]

theorem execSlipApply_follows  {s s' : State} (h : execSlipApply  s = .next s') : s.chip.Follows s'.chip := by
  refine lift_follows (fun c0 c hc => ?_) h
  repeat' first | with_reducible assumption | with_reducible apply slipApplyEffect_follows | simp only [Chip.Follows.upd_iff] | split
                | intro _ | dsimp only [id]

theorem execMctpDossierRead_follows (x0 : BitVec 16) (x1 : BitVec 16) (x2 : Word) {s s' : State} (h : execMctpDossierRead x0 x1 x2 s =
    .next s') : s.chip.Follows s'.chip := by
  refine lift_follows (fun c0 c hc => ?_) h
  repeat' first | with_reducible assumption | with_reducible apply Chip.whenOn_follows | with_reducible apply mctpDossierEffect_follows
                | simp only [Chip.Follows.upd_iff] | split | intro _ | dsimp only [id]

theorem execDigest_follows (x0 : LinkId) (x1 : Packet) {s s' : State} (h : execDigest x0 x1 s = .next s') : s.chip.Follows s'.chip := by
  refine lift_follows (fun c0 c hc => ?_) h
  repeat' first | with_reducible assumption | with_reducible apply packetEffect_follows | simp only [Chip.Follows.upd_iff] | split
                | intro _ | dsimp only [id]

theorem execWakeTokenGrant_follows (x0 : Fin 2) {s s' : State} (h : execWakeTokenGrant x0 s = .next s') : s.chip.Follows s'.chip := by
  refine lift_follows (fun c0 c hc => ?_) h
  repeat' first | with_reducible assumption | with_reducible apply wakeTokenEffect_follows | simp only [Chip.Follows.upd_iff] | split
                | intro _ | dsimp only [id]

theorem execLaneCdrLoss_follows (x0 : LinkId) (x1 : Fin 16) {s s' : State} (h : execLaneCdrLoss x0 x1 s = .next s') : s.chip.Follows
    s'.chip := by
  refine lift_follows (fun c0 c hc => ?_) h
  repeat' first | with_reducible assumption | with_reducible apply Chip.dropLanes_follows | simp only [Chip.Follows.upd_iff] | split
                | intro _ | dsimp only [id]

theorem execMma_follows (x0 : CoreId) (x1 : BitVec 54) {s s' : State} (h : execMma x0 x1 s = .next s') : s.chip.Follows s'.chip := by
  refine lift_follows (fun c0 c hc => ?_) h
  repeat' first | with_reducible assumption | with_reducible apply Chip.coreStep_follows | simp only [Chip.Follows.upd_iff] | split
                | intro _ | dsimp only [id]

theorem execPwrHardcapWrite_follows (x0 : RegAlias) (x1 : Word) {s s' : State} (h : execPwrHardcapWrite x0 x1 s = .next s') :
    s.chip.Follows s'.chip := by
  refine lift_follows (fun c0 c hc => ?_) h
  repeat' first | with_reducible assumption | with_reducible apply Chip.host_follows | with_reducible apply Chip.writeHardcap_follows
                | simp only [Chip.Follows.upd_iff] | split | intro _ | dsimp only [id]

theorem execNeighborSolicitation_follows (x0 : BitVec 128) {s s' : State} (h : execNeighborSolicitation x0 s = .next s') : s.chip.Follows
    s'.chip := by
  refine lift_follows (fun c0 c hc => ?_) h
  repeat' first | with_reducible assumption | with_reducible apply Chip.emit_follows | simp only [Chip.Follows.upd_iff] | split | intro _
                | dsimp only [id]

theorem execLedgClr_follows (x0 : CoreId) (x1 : BitVec 54) {s s' : State} (h : execLedgClr x0 x1 s = .next s') : s.chip.Follows s'.chip :=
    by
  refine lift_follows (fun c0 c hc => ?_) h
  repeat' first | with_reducible assumption | with_reducible apply Chip.coreStep_follows | simp only [Chip.Follows.upd_iff] | split
                | intro _ | dsimp only [id]

theorem execHeartbeatMiss_follows (x0 : IbexUnit) {s s' : State} (h : execHeartbeatMiss x0 s = .next s') : s.chip.Follows s'.chip := by
  refine lift_follows (fun c0 c hc => ?_) h
  repeat' first | with_reducible assumption | with_reducible apply heartbeatMissEffect_follows | simp only [Chip.Follows.upd_iff] | split
                | intro _ | dsimp only [id]

theorem execLaneDrop_follows (x0 : LinkId) (x1 : BitVec 16) (x2 : BitVec 12) {s s' : State} (h : execLaneDrop x0 x1 x2 s = .next s') :
    s.chip.Follows s'.chip := by
  refine lift_follows (fun c0 c hc => ?_) h
  repeat' first | with_reducible assumption | with_reducible apply peerChange_follows | simp only [Chip.Follows.upd_iff] | split | intro _
                | dsimp only [id]

theorem execAirflowFailAssert_follows  {s s' : State} (h : execAirflowFailAssert  s = .next s') : s.chip.Follows s'.chip := by
  refine lift_follows (fun c0 c hc => ?_) h
  repeat' first | with_reducible assumption | with_reducible apply airAssertEffect_follows | simp only [Chip.Follows.upd_iff] | split
                | intro _ | dsimp only [id]

theorem execCtxCreate_follows (x0 : SlotId) {s s' : State} (h : execCtxCreate x0 s = .next s') : s.chip.Follows s'.chip := by
  refine lift_follows (fun c0 c hc => ?_) h
  repeat' first | with_reducible assumption | with_reducible apply Chip.takeSlot_follows | simp only [Chip.Follows.upd_iff] | split
                | intro _ | dsimp only [id]

theorem execVsub_follows (x0 : CoreId) (x1 : BitVec 54) {s s' : State} (h : execVsub x0 x1 s = .next s') : s.chip.Follows s'.chip := by
  refine lift_follows (fun c0 c hc => ?_) h
  repeat' first | with_reducible assumption | with_reducible apply Chip.coreStep_follows | simp only [Chip.Follows.upd_iff] | split
                | intro _ | dsimp only [id]

theorem execControlReplay_follows (x0 : LinkId) {s s' : State} (h : execControlReplay x0 s = .next s') : s.chip.Follows s'.chip := by
  refine lift_follows (fun c0 c hc => ?_) h
  repeat' first | with_reducible assumption | with_reducible apply Chip.replay_follows | simp only [Chip.Follows.upd_iff] | split
                | intro _ | dsimp only [id]

theorem execEngineResetWatchdog_follows  {s s' : State} (h : execEngineResetWatchdog  s = .next s') : s.chip.Follows s'.chip := by
  refine lift_follows (fun c0 c hc => ?_) h
  repeat' first | with_reducible assumption | with_reducible apply engineWatchdogEffect_follows | simp only [Chip.Follows.upd_iff] | split
                | intro _ | dsimp only [id]

theorem execBar4Write_follows (x0 : BitVec 36) (x1 : List Byte) (x2 : Upsets) {s s' : State} (h : execBar4Write x0 x1 x2 s = .next s') :
    s.chip.Follows s'.chip := by
  refine lift_follows (fun c0 c hc => ?_) h
  repeat' first | with_reducible assumption | with_reducible apply Chip.host_follows | with_reducible apply bar4WriteEffect_follows
                | simp only [Chip.Follows.upd_iff] | split | intro _ | dsimp only [id]

theorem execTombExpire_follows (x0 : BitVec 16) {s s' : State} (h : execTombExpire x0 s = .next s') : s.chip.Follows s'.chip := by
  refine lift_follows (fun c0 c hc => ?_) h
  repeat' first | with_reducible assumption | with_reducible apply tombExpireEffect_follows | simp only [Chip.Follows.upd_iff] | split
                | intro _ | dsimp only [id]

theorem execFaults_follows (x0 : SlotId) {s s' : State} (h : execFaults x0 s = .next s') : s.chip.Follows s'.chip := by
  refine lift_follows (fun c0 c hc => ?_) h
  repeat' first | with_reducible assumption | with_reducible apply Chip.takeSlot_follows | simp only [Chip.Follows.upd_iff] | split
                | intro _ | dsimp only [id]

theorem execVlog2_follows (x0 : CoreId) (x1 : BitVec 54) {s s' : State} (h : execVlog2 x0 x1 s = .next s') : s.chip.Follows s'.chip := by
  refine lift_follows (fun c0 c hc => ?_) h
  repeat' first | with_reducible assumption | with_reducible apply Chip.coreStep_follows | simp only [Chip.Follows.upd_iff] | split
                | intro _ | dsimp only [id]

theorem execRoleSwap_follows  {s s' : State} (h : execRoleSwap  s = .next s') : s.chip.Follows s'.chip := by
  refine lift_follows (fun c0 c hc => ?_) h
  repeat' first | with_reducible assumption | with_reducible apply roleSwapEffect_follows | simp only [Chip.Follows.upd_iff] | split
                | intro _ | dsimp only [id]

theorem execSealRecord_follows (x0 : SealRecord) {s s' : State} (h : execSealRecord x0 s = .next s') : s.chip.Follows s'.chip := by
  refine lift_follows (fun c0 c hc => ?_) h
  repeat' first | with_reducible assumption | with_reducible apply sealRecordEffect_follows | simp only [Chip.Follows.upd_iff] | split
                | intro _ | dsimp only [id]

theorem execPlanLoad_follows (x0 : SlotId) {s s' : State} (h : execPlanLoad x0 s = .next s') : s.chip.Follows s'.chip := by
  refine lift_follows (fun c0 c hc => ?_) h
  repeat' first | with_reducible assumption | with_reducible apply Chip.takeSlot_follows | simp only [Chip.Follows.upd_iff] | split
                | intro _ | dsimp only [id]

theorem execRegFault_follows (x0 : Regulator) {s s' : State} (h : execRegFault x0 s = .next s') : s.chip.Follows s'.chip := by
  refine lift_follows (fun c0 c hc => ?_) h
  repeat' first | with_reducible assumption | with_reducible apply Chip.whenOn_follows | with_reducible apply regFaultEffect_follows
                | simp only [Chip.Follows.upd_iff] | split | intro _ | dsimp only [id]

theorem execVexp2_follows (x0 : CoreId) (x1 : BitVec 54) {s s' : State} (h : execVexp2 x0 x1 s = .next s') : s.chip.Follows s'.chip := by
  refine lift_follows (fun c0 c hc => ?_) h
  repeat' first | with_reducible assumption | with_reducible apply Chip.coreStep_follows | simp only [Chip.Follows.upd_iff] | split
                | intro _ | dsimp only [id]

theorem execGetMessageTypeSupport_follows  {s s' : State} (h : execGetMessageTypeSupport  s = .next s') : s.chip.Follows s'.chip := by
  refine lift_follows (fun c0 c hc => ?_) h
  repeat' first | with_reducible assumption | with_reducible apply Chip.whenOn_follows | with_reducible apply Chip.control_follows
                | simp only [Chip.Follows.upd_iff] | split | intro _ | dsimp only [id]

theorem execProgLoad_follows (x0 : SlotId) {s s' : State} (h : execProgLoad x0 s = .next s') : s.chip.Follows s'.chip := by
  refine lift_follows (fun c0 c hc => ?_) h
  repeat' first | with_reducible assumption | with_reducible apply Chip.takeSlot_follows | simp only [Chip.Follows.upd_iff] | split
                | intro _ | dsimp only [id]

theorem execMarkReceived_follows (x0 : RefInput) (x1 : MarkWord) {s s' : State} (h : execMarkReceived x0 x1 s = .next s') : s.chip.Follows
    s'.chip := by
  refine lift_follows (fun c0 c hc => ?_) h
  repeat' first | with_reducible assumption | with_reducible apply markReceivedEffect_follows | simp only [Chip.Follows.upd_iff] | split
                | intro _ | dsimp only [id]

theorem execUci1Run_follows (x0 : SlotId) {s s' : State} (h : execUci1Run x0 s = .next s') : s.chip.Follows s'.chip := by
  refine lift_follows (fun c0 c hc => ?_) h
  repeat' first | with_reducible assumption | with_reducible apply Chip.takeSlot_follows | simp only [Chip.Follows.upd_iff] | split
                | intro _ | dsimp only [id]

theorem execCpGranuleArrival_follows (x0 : CoreId) (x1 : Nat) (x2 : BitVec 16) {s s' : State} (h : execCpGranuleArrival x0 x1 x2 s = .next
    s') : s.chip.Follows s'.chip := by
  refine lift_follows (fun c0 c hc => ?_) h
  repeat' first | with_reducible assumption | with_reducible apply cpGranuleEffect_follows | simp only [Chip.Follows.upd_iff] | split
                | intro _ | dsimp only [id]

theorem execComputeResetWatchdog_follows  {s s' : State} (h : execComputeResetWatchdog  s = .next s') : s.chip.Follows s'.chip := by
  refine lift_follows (fun c0 c hc => ?_) h
  repeat' first | with_reducible assumption | with_reducible apply computeWatchdogEffect_follows | simp only [Chip.Follows.upd_iff]
                | split | intro _ | dsimp only [id]

theorem execReadDefects_follows (x0 : SlotId) {s s' : State} (h : execReadDefects x0 s = .next s') : s.chip.Follows s'.chip := by
  refine lift_follows (fun c0 c hc => ?_) h
  repeat' first | with_reducible assumption | with_reducible apply Chip.takeSlot_follows | simp only [Chip.Follows.upd_iff] | split
                | intro _ | dsimp only [id]

theorem execMbxRingHeadWrite_follows (x0 : RegAlias) (x1 : Word) {s s' : State} (h : execMbxRingHeadWrite x0 x1 s = .next s') :
    s.chip.Follows s'.chip := by
  refine lift_follows (fun c0 c hc => ?_) h
  repeat' first | with_reducible assumption | with_reducible apply Chip.aliasWrite_follows | simp only [Chip.Follows.upd_iff] | split
                | intro _ | dsimp only [id]

theorem execVrcp_follows (x0 : CoreId) (x1 : BitVec 54) {s s' : State} (h : execVrcp x0 x1 s = .next s') : s.chip.Follows s'.chip := by
  refine lift_follows (fun c0 c hc => ?_) h
  repeat' first | with_reducible assumption | with_reducible apply Chip.coreStep_follows | simp only [Chip.Follows.upd_iff] | split
                | intro _ | dsimp only [id]

theorem execAddc_follows (x0 : CoreId) (x1 : BitVec 54) {s s' : State} (h : execAddc x0 x1 s = .next s') : s.chip.Follows s'.chip := by
  refine lift_follows (fun c0 c hc => ?_) h
  repeat' first | with_reducible assumption | with_reducible apply Chip.coreStep_follows | simp only [Chip.Follows.upd_iff] | split
                | intro _ | dsimp only [id]

theorem execBandClearDone_follows (x0 : Fin 48) {s s' : State} (h : execBandClearDone x0 s = .next s') : s.chip.Follows s'.chip := by
  refine lift_follows (fun c0 c hc => ?_) h
  repeat' first | with_reducible assumption | with_reducible apply bandClearEffect_follows | simp only [Chip.Follows.upd_iff] | split
                | intro _ | dsimp only [id]

theorem execArrivePacket_follows (x0 : LinkId) (x1 : Packet) {s s' : State} (h : execArrivePacket x0 x1 s = .next s') : s.chip.Follows
    s'.chip := by
  refine lift_follows (fun c0 c hc => ?_) h
  repeat' first | with_reducible assumption | with_reducible apply packetEffect_follows | simp only [Chip.Follows.upd_iff] | split
                | intro _ | dsimp only [id]

theorem execMgmtPortLink_follows (x0 : PortLink) {s s' : State} (h : execMgmtPortLink x0 s = .next s') : s.chip.Follows s'.chip := by
  refine lift_follows (fun c0 c hc => ?_) h
  repeat' first | with_reducible assumption | with_reducible apply portLinkEffect_follows | simp only [Chip.Follows.upd_iff] | split
                | intro _ | dsimp only [id]

theorem execIbexUnitReset_follows  {s s' : State} (h : execIbexUnitReset  s = .next s') : s.chip.Follows s'.chip := by
  refine lift_follows (fun c0 c hc => ?_) h
  repeat' first | with_reducible assumption | with_reducible apply unitResetEffect_follows | simp only [Chip.Follows.upd_iff] | split
                | intro _ | dsimp only [id]

theorem execResyncDone_follows  {s s' : State} (h : execResyncDone  s = .next s') : s.chip.Follows s'.chip := by
  refine lift_follows (fun c0 c hc => ?_) h
  repeat' first | with_reducible assumption | with_reducible apply resyncDoneEffect_follows | simp only [Chip.Follows.upd_iff] | split
                | intro _ | dsimp only [id]

theorem execSgaWait_follows (x0 : EngineId) (x1 : SgaWords) {s s' : State} (h : execSgaWait x0 x1 s = .next s') : s.chip.Follows s'.chip
    := by
  refine lift_follows (fun c0 c hc => ?_) h
  repeat' first | with_reducible assumption | with_reducible apply Chip.sgaStep_follows | with_reducible apply sgaWaitOut_follows
                | simp only [Chip.Follows.upd_iff] | split | intro _ | dsimp only [id]

theorem execPcieLinkLoss_follows  {s s' : State} (h : execPcieLinkLoss  s = .next s') : s.chip.Follows s'.chip := by
  refine lift_follows (fun c0 c hc => ?_) h
  repeat' first | with_reducible assumption | with_reducible apply pcieLossEffect_follows | simp only [Chip.Follows.upd_iff] | split
                | intro _ | dsimp only [id]

theorem execSensorRead_follows (x0 : SensorReading) {s s' : State} (h : execSensorRead x0 s = .next s') : s.chip.Follows s'.chip := by
  refine lift_follows (fun c0 c hc => ?_) h
  repeat' first | with_reducible assumption | with_reducible apply Chip.whenOn_follows | with_reducible apply sensorEffect_follows
                | simp only [Chip.Follows.upd_iff] | split | intro _ | dsimp only [id]

theorem execFrmCtlDis_follows (x0 : RegAlias) (x1 : Word) {s s' : State} (h : execFrmCtlDis x0 x1 s = .next s') : s.chip.Follows s'.chip
    := by
  refine lift_follows (fun c0 c hc => ?_) h
  repeat' first | with_reducible assumption | with_reducible apply Chip.aliasWrite_follows | simp only [Chip.Follows.upd_iff] | split
                | intro _ | dsimp only [id]

theorem execFwStage_follows (x0 : SlotId) {s s' : State} (h : execFwStage x0 s = .next s') : s.chip.Follows s'.chip := by
  refine lift_follows (fun c0 c hc => ?_) h
  repeat' first | with_reducible assumption | with_reducible apply Chip.takeSlot_follows | simp only [Chip.Follows.upd_iff] | split
                | intro _ | dsimp only [id]

theorem execSetc_follows (x0 : CoreId) (x1 : BitVec 54) {s s' : State} (h : execSetc x0 x1 s = .next s') : s.chip.Follows s'.chip := by
  refine lift_follows (fun c0 c hc => ?_) h
  repeat' first | with_reducible assumption | with_reducible apply Chip.coreStep_follows | simp only [Chip.Follows.upd_iff] | split
                | intro _ | dsimp only [id]

theorem execRteIdWrite_follows (x0 : RegAlias) (x1 : Word) {s s' : State} (h : execRteIdWrite x0 x1 s = .next s') : s.chip.Follows s'.chip
    := by
  refine lift_follows (fun c0 c hc => ?_) h
  repeat' first | with_reducible assumption | with_reducible apply Chip.aliasWrite_follows | simp only [Chip.Follows.upd_iff] | split
                | intro _ | dsimp only [id]

theorem execStateRead_follows (x0 : Peer) (x1 : List Byte) {s s' : State} (h : execStateRead x0 x1 s = .next s') : s.chip.Follows s'.chip
    := by
  refine lift_follows (fun c0 c hc => ?_) h
  repeat' first | with_reducible assumption | with_reducible apply Chip.datagram_follows | simp only [Chip.Follows.upd_iff] | split
                | intro _ | dsimp only [id]

theorem execVcmp_follows (x0 : CoreId) (x1 : BitVec 54) {s s' : State} (h : execVcmp x0 x1 s = .next s') : s.chip.Follows s'.chip := by
  refine lift_follows (fun c0 c hc => ?_) h
  repeat' first | with_reducible assumption | with_reducible apply Chip.coreStep_follows | simp only [Chip.Follows.upd_iff] | split
                | intro _ | dsimp only [id]

theorem execVfma_follows (x0 : CoreId) (x1 : BitVec 54) {s s' : State} (h : execVfma x0 x1 s = .next s') : s.chip.Follows s'.chip := by
  refine lift_follows (fun c0 c hc => ?_) h
  repeat' first | with_reducible assumption | with_reducible apply Chip.coreStep_follows | simp only [Chip.Follows.upd_iff] | split
                | intro _ | dsimp only [id]

theorem execRdReq_follows (x0 : LinkId) (x1 : Packet) (x2 : Upsets) {s s' : State} (h : execRdReq x0 x1 x2 s = .next s') : s.chip.Follows
    s'.chip := by
  refine lift_follows (fun c0 c hc => ?_) h
  repeat' first | with_reducible assumption | with_reducible apply packetEffect_follows | simp only [Chip.Follows.upd_iff] | split
                | intro _ | dsimp only [id]

theorem execTickNext_follows (x0 : CoreId) (x1 : BitVec 54) {s s' : State} (h : execTickNext x0 x1 s = .next s') : s.chip.Follows s'.chip
    := by
  refine lift_follows (fun c0 c hc => ?_) h
  repeat' first | with_reducible assumption | with_reducible apply Chip.coreStep_follows | simp only [Chip.Follows.upd_iff] | split
                | intro _ | dsimp only [id]

theorem execBruRestart_follows (x0 : RegAlias) (x1 : Word) {s s' : State} (h : execBruRestart x0 x1 s = .next s') : s.chip.Follows s'.chip
    := by
  refine lift_follows (fun c0 c hc => ?_) h
  repeat' first | with_reducible assumption | with_reducible apply Chip.host_follows | with_reducible apply Chip.writeBruRestart_follows
                | simp only [Chip.Follows.upd_iff] | split | intro _ | dsimp only [id]

theorem execAirflowFailRelease_follows  {s s' : State} (h : execAirflowFailRelease  s = .next s') : s.chip.Follows s'.chip := by
  refine lift_follows (fun c0 c hc => ?_) h
  repeat' first | with_reducible assumption | with_reducible apply airReleaseEffect_follows | simp only [Chip.Follows.upd_iff] | split
                | intro _ | dsimp only [id]

theorem execPatrolScrub_follows (x0 : StackId) (x1 : Nat) {s s' : State} (h : execPatrolScrub x0 x1 s = .next s') : s.chip.Follows s'.chip
    := by
  refine lift_follows (fun c0 c hc => ?_) h
  repeat' first | with_reducible assumption | with_reducible apply patrolScrubEffect_follows | simp only [Chip.Follows.upd_iff] | split
                | intro _ | dsimp only [id]

theorem execData_follows (x0 : LinkId) (x1 : Packet) {s s' : State} (h : execData x0 x1 s = .next s') : s.chip.Follows s'.chip := by
  refine lift_follows (fun c0 c hc => ?_) h
  repeat' first | with_reducible assumption | with_reducible apply packetEffect_follows | simp only [Chip.Follows.upd_iff] | split
                | intro _ | dsimp only [id]

theorem execEngineResetComplete_follows  {s s' : State} (h : execEngineResetComplete  s = .next s') : s.chip.Follows s'.chip := by
  refine lift_follows (fun c0 c hc => ?_) h
  repeat' first | with_reducible assumption | with_reducible apply engineCompleteEffect_follows | simp only [Chip.Follows.upd_iff] | split
                | intro _ | dsimp only [id]

theorem execPwrStoreLowAssert_follows  {s s' : State} (h : execPwrStoreLowAssert  s = .next s') : s.chip.Follows s'.chip := by
  refine lift_follows (fun c0 c hc => ?_) h
  repeat' first | with_reducible assumption | with_reducible apply storeAssertEffect_follows | simp only [Chip.Follows.upd_iff] | split
                | intro _ | dsimp only [id]

theorem execIfence_follows (x0 : CoreId) (x1 : BitVec 54) {s s' : State} (h : execIfence x0 x1 s = .next s') : s.chip.Follows s'.chip :=
    by
  refine lift_follows (fun c0 c hc => ?_) h
  repeat' first | with_reducible assumption | with_reducible apply Chip.coreStep_follows | simp only [Chip.Follows.upd_iff] | split
                | intro _ | dsimp only [id]

theorem execFwActivate_follows (x0 : SlotId) {s s' : State} (h : execFwActivate x0 s = .next s') : s.chip.Follows s'.chip := by
  refine lift_follows (fun c0 c hc => ?_) h
  repeat' first | with_reducible assumption | with_reducible apply Chip.takeSlot_follows | simp only [Chip.Follows.upd_iff] | split
                | intro _ | dsimp only [id]

theorem execArrive_follows (x0 : CoreId) (x1 : BitVec 54) {s s' : State} (h : execArrive x0 x1 s = .next s') : s.chip.Follows s'.chip :=
    by
  refine lift_follows (fun c0 c hc => ?_) h
  repeat' first | with_reducible assumption | with_reducible apply arriveEffect_follows | simp only [Chip.Follows.upd_iff] | split
                | intro _ | dsimp only [id]

theorem execCheckLoad_follows (x0 : SlotId) {s s' : State} (h : execCheckLoad x0 s = .next s') : s.chip.Follows s'.chip := by
  refine lift_follows (fun c0 c hc => ?_) h
  repeat' first | with_reducible assumption | with_reducible apply Chip.takeSlot_follows | simp only [Chip.Follows.upd_iff] | split
                | intro _ | dsimp only [id]

theorem execSubc_follows (x0 : CoreId) (x1 : BitVec 54) {s s' : State} (h : execSubc x0 x1 s = .next s') : s.chip.Follows s'.chip := by
  refine lift_follows (fun c0 c hc => ?_) h
  repeat' first | with_reducible assumption | with_reducible apply Chip.coreStep_follows | simp only [Chip.Follows.upd_iff] | split
                | intro _ | dsimp only [id]

theorem execLedgLoad_follows (x0 : CoreId) (x1 : BitVec 54) {s s' : State} (h : execLedgLoad x0 x1 s = .next s') : s.chip.Follows s'.chip
    := by
  refine lift_follows (fun c0 c hc => ?_) h
  repeat' first | with_reducible assumption | with_reducible apply Chip.coreStep_follows | simp only [Chip.Follows.upd_iff] | split
                | intro _ | dsimp only [id]

theorem execStageRead_follows (x0 : SlotId) {s s' : State} (h : execStageRead x0 s = .next s') : s.chip.Follows s'.chip := by
  refine lift_follows (fun c0 c hc => ?_) h
  repeat' first | with_reducible assumption | with_reducible apply Chip.takeSlot_follows | simp only [Chip.Follows.upd_iff] | split
                | intro _ | dsimp only [id]

theorem execLoopback_follows (x0 : LinkId) (x1 : Bool) {s s' : State} (h : execLoopback x0 x1 s = .next s') : s.chip.Follows s'.chip := by
  refine lift_follows (fun c0 c hc => ?_) h
  repeat' first | with_reducible assumption | with_reducible apply Chip.aliasWrite_follows | simp only [Chip.Follows.upd_iff] | split
                | intro _ | dsimp only [id]

theorem execBar4Read_follows (x0 : BitVec 36) (x1 : Nat) (x2 : Upsets) {s s' : State} (h : execBar4Read x0 x1 x2 s = .next s') :
    s.chip.Follows s'.chip := by
  refine lift_follows (fun c0 c hc => ?_) h
  repeat' first | with_reducible assumption | with_reducible apply Chip.host_follows | with_reducible apply bar4ReadEffect_follows
                | simp only [Chip.Follows.upd_iff] | split | intro _ | dsimp only [id]

theorem execBruLinkTraining_follows (x0 : BitVec 16) {s s' : State} (h : execBruLinkTraining x0 s = .next s') : s.chip.Follows s'.chip :=
    by
  refine lift_follows (fun c0 c hc => ?_) h
  repeat' first | with_reducible assumption | with_reducible apply Chip.runStep_follows | with_reducible apply linkStep_follows
                | simp only [Chip.Follows.upd_iff] | split | intro _ | dsimp only [id]

theorem execSetCap_follows (x0 : SlotId) {s s' : State} (h : execSetCap x0 s = .next s') : s.chip.Follows s'.chip := by
  refine lift_follows (fun c0 c hc => ?_) h
  repeat' first | with_reducible assumption | with_reducible apply Chip.takeSlot_follows | simp only [Chip.Follows.upd_iff] | split
                | intro _ | dsimp only [id]

theorem execStepState_follows (x0 : SlotId) {s s' : State} (h : execStepState x0 s = .next s') : s.chip.Follows s'.chip := by
  refine lift_follows (fun c0 c hc => ?_) h
  repeat' first | with_reducible assumption | with_reducible apply Chip.takeSlot_follows | simp only [Chip.Follows.upd_iff] | split
                | intro _ | dsimp only [id]

theorem execGather_follows (x0 : EngineId) (x1 : SgaWords) (x2 : Upsets) {s s' : State} (h : execGather x0 x1 x2 s = .next s') :
    s.chip.Follows s'.chip := by
  refine lift_follows (fun c0 c hc => ?_) h
  repeat' first | with_reducible assumption | with_reducible apply Chip.sgaStep_follows | with_reducible apply gatherOut_follows
                | simp only [Chip.Follows.upd_iff] | split | intro _ | dsimp only [id]

theorem execFltPkgrstWrite_follows (x0 : RegAlias) (x1 : Word) {s s' : State} (h : execFltPkgrstWrite x0 x1 s = .next s') : s.chip.Follows
    s'.chip := by
  refine lift_follows (fun c0 c hc => ?_) h
  repeat' first | with_reducible assumption | with_reducible apply Chip.aliasWrite_follows | simp only [Chip.Follows.upd_iff] | split
                | intro _ | dsimp only [id]

theorem execCtxTeardown_follows (x0 : SlotId) {s s' : State} (h : execCtxTeardown x0 s = .next s') : s.chip.Follows s'.chip := by
  refine lift_follows (fun c0 c hc => ?_) h
  repeat' first | with_reducible assumption | with_reducible apply Chip.takeSlot_follows | simp only [Chip.Follows.upd_iff] | split
                | intro _ | dsimp only [id]

theorem execHeartbeat_follows  {s s' : State} (h : execHeartbeat  s = .next s') : s.chip.Follows s'.chip := by
  refine lift_follows (fun c0 c hc => ?_) h
  repeat' first | with_reducible assumption | with_reducible apply heartbeatEffect_follows | simp only [Chip.Follows.upd_iff] | split
                | intro _ | dsimp only [id]

theorem execUci1Stage_follows (x0 : SlotId) {s s' : State} (h : execUci1Stage x0 s = .next s') : s.chip.Follows s'.chip := by
  refine lift_follows (fun c0 c hc => ?_) h
  repeat' first | with_reducible assumption | with_reducible apply Chip.takeSlot_follows | simp only [Chip.Follows.upd_iff] | split
                | intro _ | dsimp only [id]

theorem execFreerunEntry_follows  {s s' : State} (h : execFreerunEntry  s = .next s') : s.chip.Follows s'.chip := by
  refine lift_follows (fun c0 c hc => ?_) h
  repeat' first | with_reducible assumption | with_reducible apply freerunEffect_follows | simp only [Chip.Follows.upd_iff] | split
                | intro _ | dsimp only [id]

theorem execPkgrstSeqTimeout_follows  {s s' : State} (h : execPkgrstSeqTimeout  s = .next s') : s.chip.Follows s'.chip := by
  refine lift_follows (fun c0 c hc => ?_) h
  repeat' first | with_reducible assumption | with_reducible apply Chip.modFlt_follows | simp only [Chip.Follows.upd_iff] | split
                | intro _ | dsimp only [id]

theorem execVsel_follows (x0 : CoreId) (x1 : BitVec 54) {s s' : State} (h : execVsel x0 x1 s = .next s') : s.chip.Follows s'.chip := by
  refine lift_follows (fun c0 c hc => ?_) h
  repeat' first | with_reducible assumption | with_reducible apply Chip.coreStep_follows | simp only [Chip.Follows.upd_iff] | split
                | intro _ | dsimp only [id]

theorem execVld_follows (x0 : CoreId) (x1 : BitVec 54) {s s' : State} (h : execVld x0 x1 s = .next s') : s.chip.Follows s'.chip := by
  refine lift_follows (fun c0 c hc => ?_) h
  repeat' first | with_reducible assumption | with_reducible apply Chip.coreStep_follows | simp only [Chip.Follows.upd_iff] | split
                | intro _ | dsimp only [id]

theorem execFrmSlipmapWrite_follows (x0 : Fin 128) (x1 : RegAlias) (x2 : Word) {s s' : State} (h : execFrmSlipmapWrite x0 x1 x2 s = .next
    s') : s.chip.Follows s'.chip := by
  refine lift_follows (fun c0 c hc => ?_) h
  repeat' first | with_reducible assumption | with_reducible apply Chip.aliasWrite_follows | simp only [Chip.Follows.upd_iff] | split
                | intro _ | dsimp only [id]

theorem execStepStatus_follows (x0 : SlotId) {s s' : State} (h : execStepStatus x0 s = .next s') : s.chip.Follows s'.chip := by
  refine lift_follows (fun c0 c hc => ?_) h
  repeat' first | with_reducible assumption | with_reducible apply Chip.takeSlot_follows | simp only [Chip.Follows.upd_iff] | split
                | intro _ | dsimp only [id]

theorem execBeaconCfg_follows (x0 : BitVec 16) (x1 : BitVec 128) (x2 : BitVec 128) (x3 : Unicast) (x4 : Byte) (x5 : BitVec 256) {s s' :
    State} (h : execBeaconCfg x0 x1 x2 x3 x4 x5 s = .next s') : s.chip.Follows s'.chip := by
  refine lift_follows (fun c0 c hc => ?_) h
  repeat' first | with_reducible assumption | with_reducible apply Chip.whenOn_follows | with_reducible apply beaconCfgEffect_follows
                | simp only [Chip.Follows.upd_iff] | split | intro _ | dsimp only [id]

theorem execIbexMemUe_follows  {s s' : State} (h : execIbexMemUe  s = .next s') : s.chip.Follows s'.chip := by
  refine lift_follows (fun c0 c hc => ?_) h
  repeat' first | with_reducible assumption | with_reducible apply Chip.failIbex_follows | simp only [Chip.Follows.upd_iff] | split
                | intro _ | dsimp only [id]

theorem execLinkTraining_follows (x0 : LinkId) (x1 : Bool) {s s' : State} (h : execLinkTraining x0 x1 s = .next s') : s.chip.Follows
    s'.chip := by
  refine lift_follows (fun c0 c hc => ?_) h
  repeat' first | with_reducible assumption | with_reducible apply linkTrainingEffect_follows | simp only [Chip.Follows.upd_iff] | split
                | intro _ | dsimp only [id]

theorem execMoveQ_follows (x0 : CoreId) (x1 : BitVec 54) {s s' : State} (h : execMoveQ x0 x1 s = .next s') : s.chip.Follows s'.chip := by
  refine lift_follows (fun c0 c hc => ?_) h
  repeat' first | with_reducible assumption | with_reducible apply moveQEffect_follows | simp only [Chip.Follows.upd_iff] | split
                | intro _ | dsimp only [id]

theorem execEchoRequest_follows (x0 : BitVec 128) (x1 : List Byte) {s s' : State} (h : execEchoRequest x0 x1 s = .next s') :
    s.chip.Follows s'.chip := by
  refine lift_follows (fun c0 c hc => ?_) h
  repeat' first | with_reducible assumption | with_reducible apply Chip.emit_follows | simp only [Chip.Follows.upd_iff] | split | intro _
                | dsimp only [id]

theorem execSyncWait_follows (x0 : CoreId) (x1 : BitVec 54) {s s' : State} (h : execSyncWait x0 x1 s = .next s') : s.chip.Follows s'.chip
    := by
  refine lift_follows (fun c0 c hc => ?_) h
  repeat' first | with_reducible assumption | with_reducible apply Chip.coreStep_follows | simp only [Chip.Follows.upd_iff] | split
                | intro _ | dsimp only [id]

theorem execRteDrainClear_follows (x0 : BitVec 6) {s s' : State} (h : execRteDrainClear x0 s = .next s') : s.chip.Follows s'.chip := by
  refine lift_follows (fun c0 c hc => ?_) h
  repeat' first | with_reducible assumption | with_reducible apply Chip.host_follows | with_reducible apply Chip.writeRteCtl_follows
                | simp only [Chip.Follows.upd_iff] | split | intro _ | dsimp only [id]

theorem execBruMemoryTraining_follows (x0 : BitVec 24) (x1 : BitVec 16) {s s' : State} (h : execBruMemoryTraining x0 x1 s = .next s') :
    s.chip.Follows s'.chip := by
  refine lift_follows (fun c0 c hc => ?_) h
  repeat' first | with_reducible assumption | with_reducible apply Chip.runStep_follows | with_reducible apply memoryStep_follows
                | simp only [Chip.Follows.upd_iff] | split | intro _ | dsimp only [id]

theorem execVadd_follows (x0 : CoreId) (x1 : BitVec 54) {s s' : State} (h : execVadd x0 x1 s = .next s') : s.chip.Follows s'.chip := by
  refine lift_follows (fun c0 c hc => ?_) h
  repeat' first | with_reducible assumption | with_reducible apply Chip.coreStep_follows | simp only [Chip.Follows.upd_iff] | split
                | intro _ | dsimp only [id]

theorem execNop_follows (x0 : CoreId) (x1 : BitVec 54) {s s' : State} (h : execNop x0 x1 s = .next s') : s.chip.Follows s'.chip := by
  refine lift_follows (fun c0 c hc => ?_) h
  repeat' first | with_reducible assumption | with_reducible apply Chip.coreStep_follows | simp only [Chip.Follows.upd_iff] | split
                | intro _ | dsimp only [id]

theorem execGetState_follows (x0 : SlotId) {s s' : State} (h : execGetState x0 s = .next s') : s.chip.Follows s'.chip := by
  refine lift_follows (fun c0 c hc => ?_) h
  repeat' first | with_reducible assumption | with_reducible apply Chip.takeSlot_follows | simp only [Chip.Follows.upd_iff] | split
                | intro _ | dsimp only [id]

theorem execPkgIrqStatusClear_follows (x0 : RegAlias) (x1 : Word) {s s' : State} (h : execPkgIrqStatusClear x0 x1 s = .next s') :
    s.chip.Follows s'.chip := by
  refine lift_follows (fun c0 c hc => ?_) h
  repeat' first | with_reducible assumption | with_reducible apply Chip.host_follows | with_reducible apply Chip.writeIrqStatus_follows
                | simp only [Chip.Follows.upd_iff] | split | intro _ | dsimp only [id]

theorem execPlanCancel_follows (x0 : SlotId) {s s' : State} (h : execPlanCancel x0 s = .next s') : s.chip.Follows s'.chip := by
  refine lift_follows (fun c0 c hc => ?_) h
  repeat' first | with_reducible assumption | with_reducible apply Chip.takeSlot_follows | simp only [Chip.Follows.upd_iff] | split
                | intro _ | dsimp only [id]

theorem execBruD2dTraining_follows (x0 : Bool) (x1 : BitVec 16) {s s' : State} (h : execBruD2dTraining x0 x1 s = .next s') :
    s.chip.Follows s'.chip := by
  refine lift_follows (fun c0 c hc => ?_) h
  repeat' first | with_reducible assumption | with_reducible apply Chip.runStep_follows | with_reducible apply d2dStep_follows
                | simp only [Chip.Follows.upd_iff] | split | intro _ | dsimp only [id]

theorem execMoveFResume_follows (x0 : CoreId) {s s' : State} (h : execMoveFResume x0 s = .next s') : s.chip.Follows s'.chip := by
  refine lift_follows (fun c0 c hc => ?_) h
  repeat' first | with_reducible assumption | with_reducible apply moveFResumeEffect_follows | simp only [Chip.Follows.upd_iff] | split
                | intro _ | dsimp only [id]

theorem execRegisterWrite_follows (x0 : Bar0Access) (x1 : Word) {s s' : State} (h : execRegisterWrite x0 x1 s = .next s') : s.chip.Follows
    s'.chip := by
  refine lift_follows (fun c0 c hc => ?_) h
  repeat' first | with_reducible assumption | with_reducible apply Chip.host_follows | with_reducible apply Chip.regWrite_follows
                | with_reducible apply Chip.unsupported_follows | simp only [Chip.Follows.upd_iff] | split | intro _ | dsimp only [id]

theorem execUnitQuarantine_follows (x0 : UnitId) {s s' : State} (h : execUnitQuarantine x0 s = .next s') : s.chip.Follows s'.chip := by
  refine lift_follows (fun c0 c hc => ?_) h
  repeat' first | with_reducible assumption | with_reducible apply quarantineEffect_follows | simp only [Chip.Follows.upd_iff] | split
                | intro _ | dsimp only [id]

theorem execUci1Replay_follows (x0 : SlotId) {s s' : State} (h : execUci1Replay x0 s = .next s') : s.chip.Follows s'.chip := by
  refine lift_follows (fun c0 c hc => ?_) h
  repeat' first | with_reducible assumption | with_reducible apply Chip.takeSlot_follows | simp only [Chip.Follows.upd_iff] | split
                | intro _ | dsimp only [id]

theorem execReadFaultMap_follows (x0 : SlotId) {s s' : State} (h : execReadFaultMap x0 s = .next s') : s.chip.Follows s'.chip := by
  refine lift_follows (fun c0 c hc => ?_) h
  repeat' first | with_reducible assumption | with_reducible apply Chip.takeSlot_follows | simp only [Chip.Follows.upd_iff] | split
                | intro _ | dsimp only [id]

theorem execCredit_follows (x0 : LinkId) (x1 : Packet) {s s' : State} (h : execCredit x0 x1 s = .next s') : s.chip.Follows s'.chip := by
  refine lift_follows (fun c0 c hc => ?_) h
  repeat' first | with_reducible assumption | with_reducible apply packetEffect_follows | simp only [Chip.Follows.upd_iff] | split
                | intro _ | dsimp only [id]

theorem execBruClockLock_follows (x0 : Bool) (x1 : BitVec 16) {s s' : State} (h : execBruClockLock x0 x1 s = .next s') : s.chip.Follows
    s'.chip := by
  refine lift_follows (fun c0 c hc => ?_) h
  repeat' first | with_reducible assumption | with_reducible apply Chip.runStep_follows | with_reducible apply clockStep_follows
                | simp only [Chip.Follows.upd_iff] | split | intro _ | dsimp only [id]

theorem execGetMctpVersionSupport_follows  {s s' : State} (h : execGetMctpVersionSupport  s = .next s') : s.chip.Follows s'.chip := by
  refine lift_follows (fun c0 c hc => ?_) h
  repeat' first | with_reducible assumption | with_reducible apply Chip.whenOn_follows | with_reducible apply versionEffect_follows
                | simp only [Chip.Follows.upd_iff] | split | intro _ | dsimp only [id]

theorem execStAck_follows (x0 : CoreId) (x1 : Nat) (x2 : BitVec 16) {s s' : State} (h : execStAck x0 x1 x2 s = .next s') : s.chip.Follows
    s'.chip := by
  refine lift_follows (fun c0 c hc => ?_) h
  repeat' first | with_reducible assumption | with_reducible apply stAckEffect_follows | simp only [Chip.Follows.upd_iff] | split
                | intro _ | dsimp only [id]

theorem execCfgParitySweep_follows (x0 : List (Nat × BitVec 33)) {s s' : State} (h : execCfgParitySweep x0 s = .next s') : s.chip.Follows
    s'.chip := by
  refine lift_follows (fun c0 c hc => ?_) h
  repeat' first | with_reducible assumption | with_reducible apply paritySweepEffect_follows | simp only [Chip.Follows.upd_iff] | split
                | intro _ | dsimp only [id]

theorem execLdGranuleArrival_follows (x0 : CoreId) (x1 : Nat) (x2 : BitVec 16) (x3 : Upsets) {s s' : State} (h : execLdGranuleArrival x0
    x1 x2 x3 s = .next s') : s.chip.Follows s'.chip := by
  refine lift_follows (fun c0 c hc => ?_) h
  repeat' first | with_reducible assumption | with_reducible apply ldGranuleEffect_follows | simp only [Chip.Follows.upd_iff] | split
                | intro _ | dsimp only [id]

theorem execUci1Info_follows (x0 : SlotId) {s s' : State} (h : execUci1Info x0 s = .next s') : s.chip.Follows s'.chip := by
  refine lift_follows (fun c0 c hc => ?_) h
  repeat' first | with_reducible assumption | with_reducible apply Chip.takeSlot_follows | simp only [Chip.Follows.upd_iff] | split
                | intro _ | dsimp only [id]

theorem execMissingMark_follows (x0 : RefInput) {s s' : State} (h : execMissingMark x0 s = .next s') : s.chip.Follows s'.chip := by
  refine lift_follows (fun c0 c hc => ?_) h
  repeat' first | with_reducible assumption | with_reducible apply missingMarkEffect_follows | simp only [Chip.Follows.upd_iff] | split
                | intro _ | dsimp only [id]

theorem execBar4Resize_follows (x0 : Fin 7) {s s' : State} (h : execBar4Resize x0 s = .next s') : s.chip.Follows s'.chip := by
  refine lift_follows (fun c0 c hc => ?_) h
  repeat' first | with_reducible assumption | with_reducible apply Chip.setBar4Size_follows | simp only [Chip.Follows.upd_iff] | split
                | intro _ | dsimp only [id]

theorem execSgaEnd_follows (x0 : EngineId) (x1 : SgaWords) {s s' : State} (h : execSgaEnd x0 x1 s = .next s') : s.chip.Follows s'.chip :=
    by
  refine lift_follows (fun c0 c hc => ?_) h
  repeat' first | with_reducible assumption | with_reducible apply Chip.sgaStep_follows | simp only [Chip.Follows.upd_iff] | split
                | intro _ | dsimp only [id]

theorem execFrameBoundary_follows (x0 : FrameMeasure) {s s' : State} (h : execFrameBoundary x0 s = .next s') : s.chip.Follows s'.chip :=
    by
  refine lift_follows (fun c0 c hc => ?_) h
  repeat' first | with_reducible assumption | with_reducible apply frameBoundaryEffect_follows | simp only [Chip.Follows.upd_iff] | split
                | intro _ | dsimp only [id]

theorem execBeaconRepeat_follows  {s s' : State} (h : execBeaconRepeat  s = .next s') : s.chip.Follows s'.chip := by
  refine lift_follows (fun c0 c hc => ?_) h
  repeat' first | with_reducible assumption | with_reducible apply beaconRepeatEffect_follows | simp only [Chip.Follows.upd_iff] | split
                | intro _ | dsimp only [id]

theorem execSgaWaitResume_follows (x0 : EngineId) {s s' : State} (h : execSgaWaitResume x0 s = .next s') : s.chip.Follows s'.chip := by
  refine lift_follows (fun c0 c hc => ?_) h
  repeat' first | with_reducible assumption | with_reducible apply sgaWaitResumeEffect_follows | simp only [Chip.Follows.upd_iff] | split
                | intro _ | dsimp only [id]

theorem execCodewordReceive_follows (x0 : LinkId) (x1 : List Codeword) {s s' : State} (h : execCodewordReceive x0 x1 s = .next s') :
    s.chip.Follows s'.chip := by
  refine lift_follows (fun c0 c hc => ?_) h
  repeat' first | with_reducible assumption | with_reducible apply codewordEffect_follows | simp only [Chip.Follows.upd_iff] | split
                | intro _ | dsimp only [id]

theorem execMoverWatchdog_follows (x0 : CoreId) {s s' : State} (h : execMoverWatchdog x0 s = .next s') : s.chip.Follows s'.chip := by
  refine lift_follows (fun c0 c hc => ?_) h
  repeat' first | with_reducible assumption | with_reducible apply Chip.hang_follows | simp only [Chip.Follows.upd_iff] | split | intro _
                | dsimp only [id]

theorem execPackageReset_follows  {s s' : State} (h : execPackageReset  s = .next s') : s.chip.Follows s'.chip := by
  refine lift_follows (fun c0 c hc => ?_) h
  repeat' first | with_reducible assumption | with_reducible apply packageResetEffect_follows | simp only [Chip.Follows.upd_iff] | split
                | intro _ | dsimp only [id]

theorem execAutoRetrain_follows (x0 : LinkId) {s s' : State} (h : execAutoRetrain x0 s = .next s') : s.chip.Follows s'.chip := by
  refine lift_follows (fun c0 c hc => ?_) h
  repeat' first | with_reducible assumption | with_reducible apply autoRetrainEffect_follows | simp only [Chip.Follows.upd_iff] | split
                | intro _ | dsimp only [id]

theorem execMarkhorResetRelease_follows  {s s' : State} (h : execMarkhorResetRelease  s = .next s') : s.chip.Follows s'.chip := by
  refine lift_follows (fun c0 c hc => ?_) h
  repeat' first | with_reducible assumption | with_reducible apply releaseEffect_follows | simp only [Chip.Follows.upd_iff] | split
                | intro _ | dsimp only [id]

theorem execLinkTrainComplete_follows (x0 : LinkId) (x1 : TrainResult) {s s' : State} (h : execLinkTrainComplete x0 x1 s = .next s') :
    s.chip.Follows s'.chip := by
  refine lift_follows (fun c0 c hc => ?_) h
  repeat' first | with_reducible assumption | with_reducible apply trainCompleteEffect_follows | simp only [Chip.Follows.upd_iff] | split
                | intro _ | dsimp only [id]

theorem execMoveStart_follows (x0 : CoreId) {s s' : State} (h : execMoveStart x0 s = .next s') : s.chip.Follows s'.chip := by
  refine lift_follows (fun c0 c hc => ?_) h
  repeat' first | with_reducible assumption | with_reducible apply moveStartEffect_follows | simp only [Chip.Follows.upd_iff] | split
                | intro _ | dsimp only [id]

theorem execVsum_follows (x0 : CoreId) (x1 : BitVec 54) {s s' : State} (h : execVsum x0 x1 s = .next s') : s.chip.Follows s'.chip := by
  refine lift_follows (fun c0 c hc => ?_) h
  repeat' first | with_reducible assumption | with_reducible apply Chip.coreStep_follows | simp only [Chip.Follows.upd_iff] | split
                | intro _ | dsimp only [id]

theorem execPowerLoss_follows  {s s' : State} (h : execPowerLoss  s = .next s') : s.chip.Follows s'.chip := by
  refine lift_follows (fun c0 c hc => ?_) h
  repeat' first | with_reducible assumption | with_reducible apply Chip.unpowered_follows | simp only [Chip.Follows.upd_iff] | split
                | intro _ | dsimp only [id]

theorem execRingWrite_follows  {s s' : State} (h : execRingWrite  s = .next s') : s.chip.Follows s'.chip := by
  refine lift_follows (fun c0 c hc => ?_) h
  repeat' first | with_reducible assumption | with_reducible apply ringWriteEffect_follows | simp only [Chip.Follows.upd_iff] | split
                | intro _ | dsimp only [id]

theorem execNeighbour_follows (x0 : LinkId) (x1 : BitVec 16) {s s' : State} (h : execNeighbour x0 x1 s = .next s') : s.chip.Follows
    s'.chip := by
  refine lift_follows (fun c0 c hc => ?_) h
  repeat' first | with_reducible assumption | with_reducible apply neighbourEffect_follows | simp only [Chip.Follows.upd_iff] | split
                | intro _ | dsimp only [id]

theorem execPowerWindow_follows (x0 : WindowMeasure) {s s' : State} (h : execPowerWindow x0 s = .next s') : s.chip.Follows s'.chip := by
  refine lift_follows (fun c0 c hc => ?_) h
  repeat' first | with_reducible assumption | with_reducible apply Chip.whenOn_follows | with_reducible apply windowEffect_follows
                | simp only [Chip.Follows.upd_iff] | split | intro _ | dsimp only [id]

theorem execVmin_follows (x0 : CoreId) (x1 : BitVec 54) {s s' : State} (h : execVmin x0 x1 s = .next s') : s.chip.Follows s'.chip := by
  refine lift_follows (fun c0 c hc => ?_) h
  repeat' first | with_reducible assumption | with_reducible apply Chip.coreStep_follows | simp only [Chip.Follows.upd_iff] | split
                | intro _ | dsimp only [id]

theorem execLaneBerCheck_follows (x0 : LinkId) (x1 : List (Fin 16 × Nat × Nat)) {s s' : State} (h : execLaneBerCheck x0 x1 s = .next s') :
    s.chip.Follows s'.chip := by
  refine lift_follows (fun c0 c hc => ?_) h
  repeat' first | with_reducible assumption | with_reducible apply laneBerEffect_follows | simp only [Chip.Follows.upd_iff] | split
                | intro _ | dsimp only [id]

theorem execArriveDelivery_follows (x0 : Nat) {s s' : State} (h : execArriveDelivery x0 s = .next s') : s.chip.Follows s'.chip := by
  refine lift_follows (fun c0 c hc => ?_) h
  repeat' first | with_reducible assumption | with_reducible apply arriveDeliveryEffect_follows | simp only [Chip.Follows.upd_iff] | split
                | intro _ | dsimp only [id]

theorem execSwapHandover_follows  {s s' : State} (h : execSwapHandover  s = .next s') : s.chip.Follows s'.chip := by
  refine lift_follows (fun c0 c hc => ?_) h
  repeat' first | with_reducible assumption | with_reducible apply handoverEffect_follows | simp only [Chip.Follows.upd_iff] | split
                | intro _ | dsimp only [id]

theorem execMoveF_follows (x0 : CoreId) (x1 : BitVec 54) {s s' : State} (h : execMoveF x0 x1 s = .next s') : s.chip.Follows s'.chip := by
  refine lift_follows (fun c0 c hc => ?_) h
  repeat' first | with_reducible assumption | with_reducible apply Chip.coreStep_follows | simp only [Chip.Follows.upd_iff] | split
                | intro _ | dsimp only [id]

theorem execDossierRead_follows (x0 : Peer) (x1 : List Byte) {s s' : State} (h : execDossierRead x0 x1 s = .next s') : s.chip.Follows
    s'.chip := by
  refine lift_follows (fun c0 c hc => ?_) h
  repeat' first | with_reducible assumption | with_reducible apply Chip.datagram_follows | simp only [Chip.Follows.upd_iff] | split
                | intro _ | dsimp only [id]

theorem execVmova_follows (x0 : CoreId) (x1 : BitVec 54) {s s' : State} (h : execVmova x0 x1 s = .next s') : s.chip.Follows s'.chip := by
  refine lift_follows (fun c0 c hc => ?_) h
  repeat' first | with_reducible assumption | with_reducible apply Chip.coreStep_follows | simp only [Chip.Follows.upd_iff] | split
                | intro _ | dsimp only [id]

theorem execLedgDig_follows (x0 : CoreId) (x1 : BitVec 54) {s s' : State} (h : execLedgDig x0 x1 s = .next s') : s.chip.Follows s'.chip :=
    by
  refine lift_follows (fun c0 c hc => ?_) h
  repeat' first | with_reducible assumption | with_reducible apply Chip.coreStep_follows | simp only [Chip.Follows.upd_iff] | split
                | intro _ | dsimp only [id]

theorem execShutdownRelease_follows (x0 : Nat) {s s' : State} (h : execShutdownRelease x0 s = .next s') : s.chip.Follows s'.chip := by
  refine lift_follows (fun c0 c hc => ?_) h
  repeat' first | with_reducible assumption | with_reducible apply shutdownReleaseEffect_follows | simp only [Chip.Follows.upd_iff]
                | split | intro _ | dsimp only [id]

theorem execReadDossier_follows (x0 : SlotId) {s s' : State} (h : execReadDossier x0 s = .next s') : s.chip.Follows s'.chip := by
  refine lift_follows (fun c0 c hc => ?_) h
  repeat' first | with_reducible assumption | with_reducible apply Chip.takeSlot_follows | simp only [Chip.Follows.upd_iff] | split
                | intro _ | dsimp only [id]

theorem execSeta_follows (x0 : CoreId) (x1 : BitVec 54) {s s' : State} (h : execSeta x0 x1 s = .next s') : s.chip.Follows s'.chip := by
  refine lift_follows (fun c0 c hc => ?_) h
  repeat' first | with_reducible assumption | with_reducible apply Chip.coreStep_follows | simp only [Chip.Follows.upd_iff] | split
                | intro _ | dsimp only [id]

theorem execStageWrite_follows (x0 : SlotId) {s s' : State} (h : execStageWrite x0 s = .next s') : s.chip.Follows s'.chip := by
  refine lift_follows (fun c0 c hc => ?_) h
  repeat' first | with_reducible assumption | with_reducible apply Chip.takeSlot_follows | simp only [Chip.Follows.upd_iff] | split
                | intro _ | dsimp only [id]

theorem execPwrTheta0Write_follows (x0 : RegAlias) (x1 : Word) {s s' : State} (h : execPwrTheta0Write x0 x1 s = .next s') : s.chip.Follows
    s'.chip := by
  refine lift_follows (fun c0 c hc => ?_) h
  repeat' first | with_reducible assumption | with_reducible apply Chip.host_follows | with_reducible apply Chip.writeTheta0_follows
                | simp only [Chip.Follows.upd_iff] | split | intro _ | dsimp only [id]

theorem execRdResp_follows (x0 : LinkId) (x1 : Packet) {s s' : State} (h : execRdResp x0 x1 s = .next s') : s.chip.Follows s'.chip := by
  refine lift_follows (fun c0 c hc => ?_) h
  repeat' first | with_reducible assumption | with_reducible apply packetEffect_follows | simp only [Chip.Follows.upd_iff] | split
                | intro _ | dsimp only [id]

theorem execTelemetry_follows (x0 : BitVec 16) {s s' : State} (h : execTelemetry x0 s = .next s') : s.chip.Follows s'.chip := by
  refine lift_follows (fun c0 c hc => ?_) h
  repeat' first | with_reducible assumption | with_reducible apply Chip.whenOn_follows | with_reducible apply Chip.vendor_follows
                | simp only [Chip.Follows.upd_iff] | split | intro _ | dsimp only [id]

theorem execTickRd_follows (x0 : CoreId) (x1 : BitVec 54) {s s' : State} (h : execTickRd x0 x1 s = .next s') : s.chip.Follows s'.chip :=
    by
  refine lift_follows (fun c0 c hc => ?_) h
  repeat' first | with_reducible assumption | with_reducible apply Chip.coreStep_follows | simp only [Chip.Follows.upd_iff] | split
                | intro _ | dsimp only [id]

theorem execStkWBaseLowWrite_follows (x0 : RegAlias) (x1 : Word) {s s' : State} (h : execStkWBaseLowWrite x0 x1 s = .next s') :
    s.chip.Follows s'.chip := by
  refine lift_follows (fun c0 c hc => ?_) h
  repeat' first | with_reducible assumption | with_reducible apply Chip.aliasWrite_follows | simp only [Chip.Follows.upd_iff] | split
                | intro _ | dsimp only [id]

theorem execVmul_follows (x0 : CoreId) (x1 : BitVec 54) {s s' : State} (h : execVmul x0 x1 s = .next s') : s.chip.Follows s'.chip := by
  refine lift_follows (fun c0 c hc => ?_) h
  repeat' first | with_reducible assumption | with_reducible apply Chip.coreStep_follows | simp only [Chip.Follows.upd_iff] | split
                | intro _ | dsimp only [id]

theorem execCopySeal_follows  {s s' : State} (h : execCopySeal  s = .next s') : s.chip.Follows s'.chip := by
  refine lift_follows (fun c0 c hc => ?_) h
  repeat' first | with_reducible assumption | with_reducible apply copySealEffect_follows | simp only [Chip.Follows.upd_iff] | split
                | intro _ | dsimp only [id]

theorem execMgmtDatagramDrop_follows (x0 : Peer) (x1 : List Byte) {s s' : State} (h : execMgmtDatagramDrop x0 x1 s = .next s') :
    s.chip.Follows s'.chip := by
  refine lift_follows (fun c0 c hc => ?_) h
  repeat' first | with_reducible assumption | with_reducible apply Chip.datagram_follows | simp only [Chip.Follows.upd_iff] | split
                | intro _ | dsimp only [id]

theorem execGetEndpointId_follows  {s s' : State} (h : execGetEndpointId  s = .next s') : s.chip.Follows s'.chip := by
  refine lift_follows (fun c0 c hc => ?_) h
  repeat' first | with_reducible assumption | with_reducible apply Chip.whenOn_follows | with_reducible apply Chip.control_follows
                | simp only [Chip.Follows.upd_iff] | split | intro _ | dsimp only [id]

theorem execThetaUpdate_follows (x0 : BitVec 16) {s s' : State} (h : execThetaUpdate x0 s = .next s') : s.chip.Follows s'.chip := by
  refine lift_follows (fun c0 c hc => ?_) h
  repeat' first | with_reducible assumption | with_reducible apply Chip.whenOn_follows | with_reducible apply thetaEffect_follows
                | simp only [Chip.Follows.upd_iff] | split | intro _ | dsimp only [id]

theorem execJump_follows (x0 : EngineId) (x1 : SgaWords) {s s' : State} (h : execJump x0 x1 s = .next s') : s.chip.Follows s'.chip := by
  refine lift_follows (fun c0 c hc => ?_) h
  repeat' first | with_reducible assumption | with_reducible apply Chip.sgaStep_follows | simp only [Chip.Follows.upd_iff] | split
                | intro _ | dsimp only [id]

theorem execInlet_follows (x0 : BitVec 16) (x1 : BitVec 16) (x2 : BitVec 16) {s s' : State} (h : execInlet x0 x1 x2 s = .next s') :
    s.chip.Follows s'.chip := by
  refine lift_follows (fun c0 c hc => ?_) h
  repeat' first | with_reducible assumption | with_reducible apply Chip.whenOn_follows | with_reducible apply Chip.vendor_follows
                | with_reducible apply Chip.modThm_follows | simp only [Chip.Follows.upd_iff] | split | intro _ | dsimp only [id]

theorem execVrsq_follows (x0 : CoreId) (x1 : BitVec 54) {s s' : State} (h : execVrsq x0 x1 s = .next s') : s.chip.Follows s'.chip := by
  refine lift_follows (fun c0 c hc => ?_) h
  repeat' first | with_reducible assumption | with_reducible apply Chip.coreStep_follows | simp only [Chip.Follows.upd_iff] | split
                | intro _ | dsimp only [id]

theorem execAdda_follows (x0 : CoreId) (x1 : BitVec 54) {s s' : State} (h : execAdda x0 x1 s = .next s') : s.chip.Follows s'.chip := by
  refine lift_follows (fun c0 c hc => ?_) h
  repeat' first | with_reducible assumption | with_reducible apply Chip.coreStep_follows | simp only [Chip.Follows.upd_iff] | split
                | intro _ | dsimp only [id]

theorem execCopyDeadline_follows  {s s' : State} (h : execCopyDeadline  s = .next s') : s.chip.Follows s'.chip := by
  refine lift_follows (fun c0 c hc => ?_) h
  repeat' first | with_reducible assumption | with_reducible apply copyDeadlineEffect_follows | simp only [Chip.Follows.upd_iff] | split
                | intro _ | dsimp only [id]

theorem execBruReady_follows (x0 : BitVec 16) {s s' : State} (h : execBruReady x0 s = .next s') : s.chip.Follows s'.chip := by
  refine lift_follows (fun c0 c hc => ?_) h
  repeat' first | with_reducible assumption | with_reducible apply Chip.runStep_follows | with_reducible apply readyStep_follows
                | simp only [Chip.Follows.upd_iff] | split | intro _ | dsimp only [id]

theorem execOpenJob_follows (x0 : SlotId) {s s' : State} (h : execOpenJob x0 s = .next s') : s.chip.Follows s'.chip := by
  refine lift_follows (fun c0 c hc => ?_) h
  repeat' first | with_reducible assumption | with_reducible apply Chip.takeSlot_follows | simp only [Chip.Follows.upd_iff] | split
                | intro _ | dsimp only [id]

theorem execStkWBaseHighWrite_follows (x0 : RegAlias) (x1 : Word) {s s' : State} (h : execStkWBaseHighWrite x0 x1 s = .next s') :
    s.chip.Follows s'.chip := by
  refine lift_follows (fun c0 c hc => ?_) h
  repeat' first | with_reducible assumption | with_reducible apply Chip.aliasWrite_follows | simp only [Chip.Follows.upd_iff] | split
                | intro _ | dsimp only [id]

theorem execStepWatchdog_follows (x0 : UnitId) {s s' : State} (h : execStepWatchdog x0 s = .next s') : s.chip.Follows s'.chip := by
  refine lift_follows (fun c0 c hc => ?_) h
  repeat' first | with_reducible assumption | with_reducible apply Chip.hang_follows | simp only [Chip.Follows.upd_iff] | split | intro _
                | dsimp only [id]

theorem execPortTrainingLost_follows (x0 : StackId) {s s' : State} (h : execPortTrainingLost x0 s = .next s') : s.chip.Follows s'.chip :=
    by
  refine lift_follows (fun c0 c hc => ?_) h
  repeat' first | with_reducible assumption | with_reducible apply portTrainingLostEffect_follows | simp only [Chip.Follows.upd_iff]
                | split | intro _ | dsimp only [id]

theorem execWrAck_follows (x0 : LinkId) (x1 : Packet) {s s' : State} (h : execWrAck x0 x1 s = .next s') : s.chip.Follows s'.chip := by
  refine lift_follows (fun c0 c hc => ?_) h
  repeat' first | with_reducible assumption | with_reducible apply packetEffect_follows | simp only [Chip.Follows.upd_iff] | split
                | intro _ | dsimp only [id]

theorem execReduce_follows (x0 : EngineId) (x1 : SgaWords) (x2 : Upsets) {s s' : State} (h : execReduce x0 x1 x2 s = .next s') :
    s.chip.Follows s'.chip := by
  refine lift_follows (fun c0 c hc => ?_) h
  repeat' first | with_reducible assumption | with_reducible apply Chip.sgaStep_follows | with_reducible apply reduceOut_follows
                | simp only [Chip.Follows.upd_iff] | split | intro _ | dsimp only [id]

theorem execBruDefectTest_follows (x0 : List SiteTest) (x1 : List (CoreId × BitVec 5)) (x2 : List RowTest) (x3 : List (StackId × Fin
    2048)) (x4 : BitVec 24) (x5 : BitVec 16) {s s' : State} (h : execBruDefectTest x0 x1 x2 x3 x4 x5 s = .next s') : s.chip.Follows
    s'.chip := by
  refine lift_follows (fun c0 c hc => ?_) h
  repeat' first | with_reducible assumption | with_reducible apply Chip.runStep_follows | with_reducible apply defectStep_follows
                | simp only [Chip.Follows.upd_iff] | split | intro _ | dsimp only [id]

theorem execGoodbye_follows (x0 : LinkId) {s s' : State} (h : execGoodbye x0 s = .next s') : s.chip.Follows s'.chip := by
  refine lift_follows (fun c0 c hc => ?_) h
  repeat' first | with_reducible assumption | with_reducible apply goodbyeEffect_follows | simp only [Chip.Follows.upd_iff] | split
                | intro _ | dsimp only [id]

theorem execLinkLos_follows (x0 : LinkId) {s s' : State} (h : execLinkLos x0 s = .next s') : s.chip.Follows s'.chip := by
  refine lift_follows (fun c0 c hc => ?_) h
  repeat' first | with_reducible assumption | with_reducible apply linkLosEffect_follows | simp only [Chip.Follows.upd_iff] | split
                | intro _ | dsimp only [id]

theorem execResetJob_follows (x0 : SlotId) {s s' : State} (h : execResetJob x0 s = .next s') : s.chip.Follows s'.chip := by
  refine lift_follows (fun c0 c hc => ?_) h
  repeat' first | with_reducible assumption | with_reducible apply Chip.takeSlot_follows | simp only [Chip.Follows.upd_iff] | split
                | intro _ | dsimp only [id]

theorem execPowerSample_follows (x0 : BitVec 16) (x1 : BitVec 16) {s s' : State} (h : execPowerSample x0 x1 s = .next s') : s.chip.Follows
    s'.chip := by
  refine lift_follows (fun c0 c hc => ?_) h
  repeat' first | with_reducible assumption | with_reducible apply Chip.whenOn_follows | with_reducible apply sampleEffect_follows
                | simp only [Chip.Follows.upd_iff] | split | intro _ | dsimp only [id]

theorem execBr_follows (x0 : CoreId) (x1 : BitVec 54) {s s' : State} (h : execBr x0 x1 s = .next s') : s.chip.Follows s'.chip := by
  refine lift_follows (fun c0 c hc => ?_) h
  repeat' first | with_reducible assumption | with_reducible apply Chip.coreStep_follows | simp only [Chip.Follows.upd_iff] | split
                | intro _ | dsimp only [id]

theorem execBruStepTimeout_follows  {s s' : State} (h : execBruStepTimeout  s = .next s') : s.chip.Follows s'.chip := by
  refine lift_follows (fun c0 c hc => ?_) h
  repeat' first | with_reducible assumption | with_reducible apply bruTimeoutEffect_follows | simp only [Chip.Follows.upd_iff] | split
                | intro _ | dsimp only [id]

theorem execSgaNop_follows (x0 : EngineId) (x1 : SgaWords) {s s' : State} (h : execSgaNop x0 x1 s = .next s') : s.chip.Follows s'.chip :=
    by
  refine lift_follows (fun c0 c hc => ?_) h
  repeat' first | with_reducible assumption | with_reducible apply Chip.sgaStep_follows | with_reducible apply SgaOut.ok_follows
                | simp only [Chip.Follows.upd_iff] | split | intro _ | dsimp only [id]

theorem execVmaxr_follows (x0 : CoreId) (x1 : BitVec 54) {s s' : State} (h : execVmaxr x0 x1 s = .next s') : s.chip.Follows s'.chip := by
  refine lift_follows (fun c0 c hc => ?_) h
  repeat' first | with_reducible assumption | with_reducible apply Chip.coreStep_follows | simp only [Chip.Follows.upd_iff] | split
                | intro _ | dsimp only [id]

theorem execLinkEnable_follows (x0 : LinkId) {s s' : State} (h : execLinkEnable x0 s = .next s') : s.chip.Follows s'.chip := by
  refine lift_follows (fun c0 c hc => ?_) h
  repeat' first | with_reducible assumption | with_reducible apply Chip.aliasWrite_follows | simp only [Chip.Follows.upd_iff] | split
                | intro _ | dsimp only [id]

theorem execDerateEn_follows (x0 : Bool) {s s' : State} (h : execDerateEn x0 s = .next s') : s.chip.Follows s'.chip := by
  refine lift_follows (fun c0 c hc => ?_) h
  repeat' first | with_reducible assumption | with_reducible apply Chip.host_follows | with_reducible apply Chip.writePwrCtl_follows
                | simp only [Chip.Follows.upd_iff] | split | intro _ | dsimp only [id]

theorem execSgaSetc_follows (x0 : EngineId) (x1 : SgaWords) {s s' : State} (h : execSgaSetc x0 x1 s = .next s') : s.chip.Follows s'.chip
    := by
  refine lift_follows (fun c0 c hc => ?_) h
  repeat' first | with_reducible assumption | with_reducible apply Chip.sgaStep_follows | with_reducible apply SgaOut.ok_follows
                | with_reducible apply Chip.modEngine_follows | simp only [Chip.Follows.upd_iff] | split | intro _ | dsimp only [id]

theorem execLinkDrained_follows (x0 : LinkId) {s s' : State} (h : execLinkDrained x0 s = .next s') : s.chip.Follows s'.chip := by
  refine lift_follows (fun c0 c hc => ?_) h
  repeat' first | with_reducible assumption | with_reducible apply linkDrainedEffect_follows | simp only [Chip.Follows.upd_iff] | split
                | intro _ | dsimp only [id]

theorem execEngineReset_follows  {s s' : State} (h : execEngineReset  s = .next s') : s.chip.Follows s'.chip := by
  refine lift_follows (fun c0 c hc => ?_) h
  repeat' first | with_reducible assumption | with_reducible apply engineResetEffect_follows | simp only [Chip.Follows.upd_iff] | split
                | intro _ | dsimp only [id]

theorem execTickWait_follows (x0 : CoreId) (x1 : BitVec 54) {s s' : State} (h : execTickWait x0 x1 s = .next s') : s.chip.Follows s'.chip
    := by
  refine lift_follows (fun c0 c hc => ?_) h
  repeat' first | with_reducible assumption | with_reducible apply Chip.coreStep_follows | simp only [Chip.Follows.upd_iff] | split
                | intro _ | dsimp only [id]

theorem execAttest_follows (x0 : SlotId) {s s' : State} (h : execAttest x0 s = .next s') : s.chip.Follows s'.chip := by
  refine lift_follows (fun c0 c hc => ?_) h
  repeat' first | with_reducible assumption | with_reducible apply Chip.takeSlot_follows | simp only [Chip.Follows.upd_iff] | split
                | intro _ | dsimp only [id]

theorem execLoop_follows (x0 : CoreId) (x1 : BitVec 54) {s s' : State} (h : execLoop x0 x1 s = .next s') : s.chip.Follows s'.chip := by
  refine lift_follows (fun c0 c hc => ?_) h
  repeat' first | with_reducible assumption | with_reducible apply Chip.coreStep_follows | simp only [Chip.Follows.upd_iff] | split
                | intro _ | dsimp only [id]

theorem execRdc_follows (x0 : CoreId) (x1 : BitVec 54) {s s' : State} (h : execRdc x0 x1 s = .next s') : s.chip.Follows s'.chip := by
  refine lift_follows (fun c0 c hc => ?_) h
  repeat' first | with_reducible assumption | with_reducible apply Chip.coreStep_follows | simp only [Chip.Follows.upd_iff] | split
                | intro _ | dsimp only [id]

theorem execHsThermistorRead_follows (x0 : Option (BitVec 16)) (x1 : Option (BitVec 16)) {s s' : State} (h : execHsThermistorRead x0 x1 s
    = .next s') : s.chip.Follows s'.chip := by
  refine lift_follows (fun c0 c hc => ?_) h
  repeat' first | with_reducible assumption | with_reducible apply Chip.whenOn_follows | with_reducible apply hsReadEffect_follows
                | simp only [Chip.Follows.upd_iff] | split | intro _ | dsimp only [id]

theorem execWr_follows (x0 : LinkId) (x1 : Packet) {s s' : State} (h : execWr x0 x1 s = .next s') : s.chip.Follows s'.chip := by
  refine lift_follows (fun c0 c hc => ?_) h
  repeat' first | with_reducible assumption | with_reducible apply packetEffect_follows | simp only [Chip.Follows.upd_iff] | split
                | intro _ | dsimp only [id]

theorem execSyncWaitResume_follows (x0 : CoreId) {s s' : State} (h : execSyncWaitResume x0 s = .next s') : s.chip.Follows s'.chip := by
  refine lift_follows (fun c0 c hc => ?_) h
  repeat' first | with_reducible assumption | with_reducible apply syncWaitResumeEffect_follows | simp only [Chip.Follows.upd_iff] | split
                | intro _ | dsimp only [id]

theorem execBallastEn_follows (x0 : Bool) {s s' : State} (h : execBallastEn x0 s = .next s') : s.chip.Follows s'.chip := by
  refine lift_follows (fun c0 c hc => ?_) h
  repeat' first | with_reducible assumption | with_reducible apply Chip.host_follows | with_reducible apply Chip.writePwrCtl_follows
                | simp only [Chip.Follows.upd_iff] | split | intro _ | dsimp only [id]

theorem execVmax_follows (x0 : CoreId) (x1 : BitVec 54) {s s' : State} (h : execVmax x0 x1 s = .next s') : s.chip.Follows s'.chip := by
  refine lift_follows (fun c0 c hc => ?_) h
  repeat' first | with_reducible assumption | with_reducible apply Chip.coreStep_follows | simp only [Chip.Follows.upd_iff] | split
                | intro _ | dsimp only [id]

theorem execComputeDomainReset_follows (x0 : List UnitId) {s s' : State} (h : execComputeDomainReset x0 s = .next s') : s.chip.Follows
    s'.chip := by
  refine lift_follows (fun c0 c hc => ?_) h
  repeat' first | with_reducible assumption | with_reducible apply computeDomainEffect_follows | simp only [Chip.Follows.upd_iff] | split
                | intro _ | dsimp only [id]

theorem execCtxResume_follows (x0 : SlotId) {s s' : State} (h : execCtxResume x0 s = .next s') : s.chip.Follows s'.chip := by
  refine lift_follows (fun c0 c hc => ?_) h
  repeat' first | with_reducible assumption | with_reducible apply Chip.takeSlot_follows | simp only [Chip.Follows.upd_iff] | split
                | intro _ | dsimp only [id]

theorem execCtxReset_follows (x0 : SlotId) {s s' : State} (h : execCtxReset x0 s = .next s') : s.chip.Follows s'.chip := by
  refine lift_follows (fun c0 c hc => ?_) h
  repeat' first | with_reducible assumption | with_reducible apply Chip.takeSlot_follows | simp only [Chip.Follows.upd_iff] | split
                | intro _ | dsimp only [id]

theorem execPackageResetWatchdog_follows  {s s' : State} (h : execPackageResetWatchdog  s = .next s') : s.chip.Follows s'.chip := by
  refine lift_follows (fun c0 c hc => ?_) h
  repeat' first | with_reducible assumption | with_reducible apply packageWatchdogEffect_follows | simp only [Chip.Follows.upd_iff]
                | split | intro _ | dsimp only [id]

theorem execLaneAdd_follows (x0 : LinkId) (x1 : BitVec 16) (x2 : BitVec 12) {s s' : State} (h : execLaneAdd x0 x1 x2 s = .next s') :
    s.chip.Follows s'.chip := by
  refine lift_follows (fun c0 c hc => ?_) h
  repeat' first | with_reducible assumption | with_reducible apply peerChange_follows | simp only [Chip.Follows.upd_iff] | split | intro _
                | dsimp only [id]

theorem execLinkDisable_follows (x0 : LinkId) {s s' : State} (h : execLinkDisable x0 s = .next s') : s.chip.Follows s'.chip := by
  refine lift_follows (fun c0 c hc => ?_) h
  repeat' first | with_reducible assumption | with_reducible apply Chip.aliasWrite_follows | simp only [Chip.Follows.upd_iff] | split
                | intro _ | dsimp only [id]

theorem execRteDrainSet_follows (x0 : BitVec 6) {s s' : State} (h : execRteDrainSet x0 s = .next s') : s.chip.Follows s'.chip := by
  refine lift_follows (fun c0 c hc => ?_) h
  repeat' first | with_reducible assumption | with_reducible apply Chip.host_follows | with_reducible apply Chip.writeRteCtl_follows
                | simp only [Chip.Follows.upd_iff] | split | intro _ | dsimp only [id]

theorem execLedgCvt_follows (x0 : CoreId) (x1 : BitVec 54) {s s' : State} (h : execLedgCvt x0 x1 s = .next s') : s.chip.Follows s'.chip :=
    by
  refine lift_follows (fun c0 c hc => ?_) h
  repeat' first | with_reducible assumption | with_reducible apply Chip.coreStep_follows | simp only [Chip.Follows.upd_iff] | split
                | intro _ | dsimp only [id]

theorem execMctpAttest_follows (x0 : BitVec 16) (x1 : List Byte) (x2 : Word) {s s' : State} (h : execMctpAttest x0 x1 x2 s = .next s') :
    s.chip.Follows s'.chip := by
  refine lift_follows (fun c0 c hc => ?_) h
  repeat' first | with_reducible assumption | with_reducible apply Chip.whenOn_follows | with_reducible apply mctpAttestEffect_follows
                | simp only [Chip.Follows.upd_iff] | split | intro _ | dsimp only [id]

theorem execCtxHold_follows (x0 : SlotId) {s s' : State} (h : execCtxHold x0 s = .next s') : s.chip.Follows s'.chip := by
  refine lift_follows (fun c0 c hc => ?_) h
  repeat' first | with_reducible assumption | with_reducible apply Chip.takeSlot_follows | simp only [Chip.Follows.upd_iff] | split
                | intro _ | dsimp only [id]

theorem execStepDefine_follows (x0 : SlotId) {s s' : State} (h : execStepDefine x0 s = .next s') : s.chip.Follows s'.chip := by
  refine lift_follows (fun c0 c hc => ?_) h
  repeat' first | with_reducible assumption | with_reducible apply Chip.takeSlot_follows | simp only [Chip.Follows.upd_iff] | split
                | intro _ | dsimp only [id]

theorem execRefEdgeLoss_follows (x0 : RefInput) {s s' : State} (h : execRefEdgeLoss x0 s = .next s') : s.chip.Follows s'.chip := by
  refine lift_follows (fun c0 c hc => ?_) h
  repeat' first | with_reducible assumption | with_reducible apply refEdgeLossEffect_follows | simp only [Chip.Follows.upd_iff] | split
                | intro _ | dsimp only [id]

theorem execCloseJob_follows (x0 : SlotId) {s s' : State} (h : execCloseJob x0 s = .next s') : s.chip.Follows s'.chip := by
  refine lift_follows (fun c0 c hc => ?_) h
  repeat' first | with_reducible assumption | with_reducible apply Chip.takeSlot_follows | simp only [Chip.Follows.upd_iff] | split
                | intro _ | dsimp only [id]

theorem execTrialEnd_follows  {s s' : State} (h : execTrialEnd  s = .next s') : s.chip.Follows s'.chip := by
  refine lift_follows (fun c0 c hc => ?_) h
  repeat' first | with_reducible assumption | with_reducible apply trialEndEffect_follows | simp only [Chip.Follows.upd_iff] | split
                | intro _ | dsimp only [id]

theorem execTickResume_follows (x0 : UnitId) {s s' : State} (h : execTickResume x0 s = .next s') : s.chip.Follows s'.chip := by
  refine lift_follows (fun c0 c hc => ?_) h
  repeat' first | with_reducible assumption | with_reducible apply tickResumeEffect_follows | simp only [Chip.Follows.upd_iff] | split
                | intro _ | dsimp only [id]

theorem execReg64LowRead_follows (x0 : Bar0Access) {s s' : State} (h : execReg64LowRead x0 s = .next s') : s.chip.Follows s'.chip := by
  refine lift_follows (fun c0 c hc => ?_) h
  repeat' first | with_reducible assumption | with_reducible apply Chip.host_follows | with_reducible apply Chip.regRead_follows
                | with_reducible apply Chip.unsupported_follows | simp only [Chip.Follows.upd_iff] | split | intro _ | dsimp only [id]

theorem execRequal_follows (x0 : LinkId) {s s' : State} (h : execRequal x0 s = .next s') : s.chip.Follows s'.chip := by
  refine lift_follows (fun c0 c hc => ?_) h
  repeat' first | with_reducible assumption | with_reducible apply Chip.aliasWrite_follows | simp only [Chip.Follows.upd_iff] | split
                | intro _ | dsimp only [id]

theorem execMctpFwStage_follows (x0 : BitVec 16) (x1 : Word) (x2 : Word) (x3 : List Byte) {s s' : State} (h : execMctpFwStage x0 x1 x2 x3
    s = .next s') : s.chip.Follows s'.chip := by
  refine lift_follows (fun c0 c hc => ?_) h
  repeat' first | with_reducible assumption | with_reducible apply Chip.whenOn_follows | with_reducible apply mctpStageEffect_follows
                | simp only [Chip.Follows.upd_iff] | split | intro _ | dsimp only [id]

theorem execPlanStatus_follows (x0 : SlotId) {s s' : State} (h : execPlanStatus x0 s = .next s') : s.chip.Follows s'.chip := by
  refine lift_follows (fun c0 c hc => ?_) h
  repeat' first | with_reducible assumption | with_reducible apply Chip.takeSlot_follows | simp only [Chip.Follows.upd_iff] | split
                | intro _ | dsimp only [id]

theorem execVomul_follows (x0 : CoreId) (x1 : BitVec 54) {s s' : State} (h : execVomul x0 x1 s = .next s') : s.chip.Follows s'.chip := by
  refine lift_follows (fun c0 c hc => ?_) h
  repeat' first | with_reducible assumption | with_reducible apply Chip.coreStep_follows | simp only [Chip.Follows.upd_iff] | split
                | intro _ | dsimp only [id]

theorem execPwrStoreLowRelease_follows  {s s' : State} (h : execPwrStoreLowRelease  s = .next s') : s.chip.Follows s'.chip := by
  refine lift_follows (fun c0 c hc => ?_) h
  repeat' first | with_reducible assumption | with_reducible apply Chip.liftTerm_follows | with_reducible apply Chip.modPwr_follows
                | simp only [Chip.Follows.upd_iff] | split | intro _ | dsimp only [id]

theorem execRequalDone_follows (x0 : LinkId) (x1 : TrainResult) {s s' : State} (h : execRequalDone x0 x1 s = .next s') : s.chip.Follows
    s'.chip := by
  refine lift_follows (fun c0 c hc => ?_) h
  repeat' first | with_reducible assumption | with_reducible apply requalDoneEffect_follows | simp only [Chip.Follows.upd_iff] | split
                | intro _ | dsimp only [id]

theorem execSgaTick_follows (x0 : EngineId) (x1 : SgaWords) {s s' : State} (h : execSgaTick x0 x1 s = .next s') : s.chip.Follows s'.chip
    := by
  refine lift_follows (fun c0 c hc => ?_) h
  repeat' first | with_reducible assumption | with_reducible apply Chip.sgaStep_follows | with_reducible apply sgaTickOut_follows
                | simp only [Chip.Follows.upd_iff] | split | intro _ | dsimp only [id]

theorem execSignal_follows (x0 : EngineId) (x1 : SgaWords) {s s' : State} (h : execSignal x0 x1 s = .next s') : s.chip.Follows s'.chip :=
    by
  refine lift_follows (fun c0 c hc => ?_) h
  repeat' first | with_reducible assumption | with_reducible apply Chip.sgaStep_follows | with_reducible apply SgaOut.ok_follows
                | with_reducible apply SgaOut.fail_follows | simp only [Chip.Follows.upd_iff] | split | intro _ | dsimp only [id]

theorem execLoss_follows (x0 : LinkId) (x1 : Packet) {s s' : State} (h : execLoss x0 x1 s = .next s') : s.chip.Follows s'.chip := by
  refine lift_follows (fun c0 c hc => ?_) h
  repeat' first | with_reducible assumption | with_reducible apply packetEffect_follows | simp only [Chip.Follows.upd_iff] | split
                | intro _ | dsimp only [id]

theorem execBnz_follows (x0 : CoreId) (x1 : BitVec 54) {s s' : State} (h : execBnz x0 x1 s = .next s') : s.chip.Follows s'.chip := by
  refine lift_follows (fun c0 c hc => ?_) h
  repeat' first | with_reducible assumption | with_reducible apply Chip.coreStep_follows | simp only [Chip.Follows.upd_iff] | split
                | intro _ | dsimp only [id]

theorem execIbexTakeover_follows  {s s' : State} (h : execIbexTakeover  s = .next s') : s.chip.Follows s'.chip := by
  refine lift_follows (fun c0 c hc => ?_) h
  repeat' first | with_reducible assumption | with_reducible apply takeoverEffect_follows | simp only [Chip.Follows.upd_iff] | split
                | intro _ | dsimp only [id]

theorem execSyncTimeout_follows (x0 : UnitId) {s s' : State} (h : execSyncTimeout x0 s = .next s') : s.chip.Follows s'.chip := by
  refine lift_follows (fun c0 c hc => ?_) h
  repeat' first | with_reducible assumption | with_reducible apply syncTimeoutEffect_follows | simp only [Chip.Follows.upd_iff] | split
                | intro _ | dsimp only [id]

theorem execEntdaa_follows (x0 : BitVec 7) {s s' : State} (h : execEntdaa x0 s = .next s') : s.chip.Follows s'.chip := by
  refine lift_follows (fun c0 c hc => ?_) h
  repeat' first | with_reducible assumption | with_reducible apply Chip.whenOn_follows | with_reducible apply Chip.modPkg_follows
                | simp only [Chip.Follows.upd_iff] | split | intro _ | dsimp only [id]

theorem execScan_follows (x0 : EngineId) (x1 : SgaWords) (x2 : Upsets) {s s' : State} (h : execScan x0 x1 x2 s = .next s') :
    s.chip.Follows s'.chip := by
  refine lift_follows (fun c0 c hc => ?_) h
  repeat' first | with_reducible assumption | with_reducible apply Chip.sgaStep_follows | with_reducible apply scanOut_follows
                | simp only [Chip.Follows.upd_iff] | split | intro _ | dsimp only [id]

theorem execThrottleStep_follows (x0 : ThermalUnit) {s s' : State} (h : execThrottleStep x0 s = .next s') : s.chip.Follows s'.chip := by
  refine lift_follows (fun c0 c hc => ?_) h
  repeat' first | with_reducible assumption | with_reducible apply Chip.whenOn_follows | with_reducible apply throttleEffect_follows
                | simp only [Chip.Follows.upd_iff] | split | intro _ | dsimp only [id]

theorem execRecoveryEnd_follows (x0 : Nat) {s s' : State} (h : execRecoveryEnd x0 s = .next s') : s.chip.Follows s'.chip := by
  refine lift_follows (fun c0 c hc => ?_) h
  repeat' first | with_reducible assumption | with_reducible apply recoveryEndEffect_follows | simp only [Chip.Follows.upd_iff] | split
                | intro _ | dsimp only [id]

theorem execForwardSend_follows (x0 : Fin 2) (x1 : Nat) {s s' : State} (h : execForwardSend x0 x1 s = .next s') : s.chip.Follows s'.chip
    := by
  refine lift_follows (fun c0 c hc => ?_) h
  repeat' first | with_reducible assumption | with_reducible apply forwardSendEffect_follows | simp only [Chip.Follows.upd_iff] | split
                | intro _ | dsimp only [id]

theorem execPowerOn_follows (x0 : Bool) (x1 : Bool) {s s' : State} (h : execPowerOn x0 x1 s = .next s') : s.chip.Follows s'.chip := by
  refine lift_follows (fun c0 c hc => ?_) h
  repeat' first | with_reducible assumption | with_reducible apply powerOnEffect_follows | simp only [Chip.Follows.upd_iff] | split
                | intro _ | dsimp only [id]

theorem execLedgFlg_follows (x0 : CoreId) (x1 : BitVec 54) {s s' : State} (h : execLedgFlg x0 x1 s = .next s') : s.chip.Follows s'.chip :=
    by
  refine lift_follows (fun c0 c hc => ?_) h
  repeat' first | with_reducible assumption | with_reducible apply Chip.coreStep_follows | simp only [Chip.Follows.upd_iff] | split
                | intro _ | dsimp only [id]

theorem execBruRails_follows (x0 : Bool) (x1 : BitVec 16) {s s' : State} (h : execBruRails x0 x1 s = .next s') : s.chip.Follows s'.chip :=
    by
  refine lift_follows (fun c0 c hc => ?_) h
  repeat' first | with_reducible assumption | with_reducible apply Chip.runStep_follows | with_reducible apply passOr_follows
                | simp only [Chip.Follows.upd_iff] | split | intro _ | dsimp only [id]

theorem execSetEndpointId_follows (x0 : SetEid) {s s' : State} (h : execSetEndpointId x0 s = .next s') : s.chip.Follows s'.chip := by
  refine lift_follows (fun c0 c hc => ?_) h
  repeat' first | with_reducible assumption | with_reducible apply Chip.whenOn_follows | with_reducible apply setEidEffect_follows
                | simp only [Chip.Follows.upd_iff] | split | intro _ | dsimp only [id]

theorem execVst_follows (x0 : CoreId) (x1 : BitVec 54) {s s' : State} (h : execVst x0 x1 s = .next s') : s.chip.Follows s'.chip := by
  refine lift_follows (fun c0 c hc => ?_) h
  repeat' first | with_reducible assumption | with_reducible apply Chip.coreStep_follows | simp only [Chip.Follows.upd_iff] | split
                | intro _ | dsimp only [id]

theorem execMctpFwActivate_follows (x0 : BitVec 16) {s s' : State} (h : execMctpFwActivate x0 s = .next s') : s.chip.Follows s'.chip := by
  refine lift_follows (fun c0 c hc => ?_) h
  repeat' first | with_reducible assumption | with_reducible apply Chip.whenOn_follows | with_reducible apply mctpActivateEffect_follows
                | simp only [Chip.Follows.upd_iff] | split | intro _ | dsimp only [id]

theorem execCoreIdle_follows (x0 : CoreId) {s s' : State} (h : execCoreIdle x0 s = .next s') : s.chip.Follows s'.chip := by
  refine lift_follows (fun c0 c hc => ?_) h
  repeat' first | with_reducible assumption | with_reducible apply coreIdleEffect_follows | simp only [Chip.Follows.upd_iff] | split
                | intro _ | dsimp only [id]

theorem execIntentAck_follows (x0 : SlotId) {s s' : State} (h : execIntentAck x0 s = .next s') : s.chip.Follows s'.chip := by
  refine lift_follows (fun c0 c hc => ?_) h
  repeat' first | with_reducible assumption | with_reducible apply intentAckEffect_follows | simp only [Chip.Follows.upd_iff] | split
                | intro _ | dsimp only [id]

theorem execGetInfo_follows (x0 : SlotId) {s s' : State} (h : execGetInfo x0 s = .next s') : s.chip.Follows s'.chip := by
  refine lift_follows (fun c0 c hc => ?_) h
  repeat' first | with_reducible assumption | with_reducible apply Chip.takeSlot_follows | simp only [Chip.Follows.upd_iff] | split
                | intro _ | dsimp only [id]

theorem execParity_follows (x0 : BitVec 2) {s s' : State} (h : execParity x0 s = .next s') : s.chip.Follows s'.chip := by
  refine lift_follows (fun c0 c hc => ?_) h
  repeat' first | with_reducible assumption | with_reducible apply Chip.host_follows | with_reducible apply Chip.writePwrCtl_follows
                | simp only [Chip.Follows.upd_iff] | split | intro _ | dsimp only [id]

theorem execContextResetWatchdog_follows (x0 : CtxId) {s s' : State} (h : execContextResetWatchdog x0 s = .next s') : s.chip.Follows
    s'.chip := by
  refine lift_follows (fun c0 c hc => ?_) h
  repeat' first | with_reducible assumption | with_reducible apply contextWatchdogEffect_follows | simp only [Chip.Follows.upd_iff]
                | split | intro _ | dsimp only [id]

theorem execIbexWatchdog_follows (x0 : IbexUnit) {s s' : State} (h : execIbexWatchdog x0 s = .next s') : s.chip.Follows s'.chip := by
  refine lift_follows (fun c0 c hc => ?_) h
  repeat' first | with_reducible assumption | with_reducible apply ibexWatchdogEffect_follows | simp only [Chip.Follows.upd_iff] | split
                | intro _ | dsimp only [id]

theorem execBruFirmwareLoad_follows (x0 : Bool) (x1 : Bool) (x2 : Bool) (x3 : Bool) (x4 : List UnitId) (x5 : BitVec 16) {s s' : State} (h
    : execBruFirmwareLoad x0 x1 x2 x3 x4 x5 s = .next s') : s.chip.Follows s'.chip := by
  refine lift_follows (fun c0 c hc => ?_) h
  repeat' first | with_reducible assumption | with_reducible apply Chip.runStep_follows | with_reducible apply firmwareStep_follows
                | simp only [Chip.Follows.upd_iff] | split | intro _ | dsimp only [id]

theorem execHalt_follows (x0 : CoreId) (x1 : BitVec 54) {s s' : State} (h : execHalt x0 x1 s = .next s') : s.chip.Follows s'.chip := by
  refine lift_follows (fun c0 c hc => ?_) h
  repeat' first | with_reducible assumption | with_reducible apply Chip.coreStep_follows | with_reducible apply Chip.unitCompleted_follows
                | simp only [Chip.Follows.upd_iff] | split | intro _ | dsimp only [id]

theorem execAttn_follows (x0 : EngineId) (x1 : SgaWords) (x2 : Upsets) {s s' : State} (h : execAttn x0 x1 x2 s = .next s') :
    s.chip.Follows s'.chip := by
  refine lift_follows (fun c0 c hc => ?_) h
  repeat' first | with_reducible assumption | with_reducible apply Chip.sgaStep_follows | with_reducible apply attnOut_follows
                | simp only [Chip.Follows.upd_iff] | split | intro _ | dsimp only [id]

theorem execBruFrameLock_follows (x0 : BitVec 16) {s s' : State} (h : execBruFrameLock x0 s = .next s') : s.chip.Follows s'.chip := by
  refine lift_follows (fun c0 c hc => ?_) h
  repeat' first | with_reducible assumption | with_reducible apply Chip.runStep_follows | with_reducible apply passOr_follows
                | simp only [Chip.Follows.upd_iff] | split | intro _ | dsimp only [id]

theorem execSlotPost_follows (x0 : BitVec 20) (x1 : List (Option Byte)) {s s' : State} (h : execSlotPost x0 x1 s = .next s') :
    s.chip.Follows s'.chip := by
  refine lift_follows (fun c0 c hc => ?_) h
  repeat' first | with_reducible assumption | with_reducible apply Chip.host_follows | with_reducible apply slotPostEffect_follows
                | simp only [Chip.Follows.upd_iff] | split | intro _ | dsimp only [id]

theorem execUci1Plan_follows (x0 : SlotId) {s s' : State} (h : execUci1Plan x0 s = .next s') : s.chip.Follows s'.chip := by
  refine lift_follows (fun c0 c hc => ?_) h
  repeat' first | with_reducible assumption | with_reducible apply Chip.takeSlot_follows | simp only [Chip.Follows.upd_iff] | split
                | intro _ | dsimp only [id]

theorem execMsixMessage_follows (x0 : Fin 8) {s s' : State} (h : execMsixMessage x0 s = .next s') : s.chip.Follows s'.chip := by
  refine lift_follows (fun c0 c hc => ?_) h
  repeat' first | with_reducible assumption | with_reducible apply msixEffect_follows | simp only [Chip.Follows.upd_iff] | split | intro _
                | dsimp only [id]

theorem execRunTo_follows (x0 : RegAlias) (x1 : Word) {s s' : State} (h : execRunTo x0 x1 s = .next s') : s.chip.Follows s'.chip := by
  refine lift_follows (fun c0 c hc => ?_) h
  repeat' first | with_reducible assumption | with_reducible apply Chip.host_follows | with_reducible apply Chip.writeBruCtl_follows
                | simp only [Chip.Follows.upd_iff] | split | intro _ | dsimp only [id]

theorem execVerdict_follows  {s s' : State} (h : execVerdict  s = .next s') : s.chip.Follows s'.chip := by
  refine lift_follows (fun c0 c hc => ?_) h
  repeat' first | with_reducible assumption | with_reducible apply verdictEffect_follows | simp only [Chip.Follows.upd_iff] | split
                | intro _ | dsimp only [id]

theorem execCtxStatus_follows (x0 : SlotId) {s s' : State} (h : execCtxStatus x0 s = .next s') : s.chip.Follows s'.chip := by
  refine lift_follows (fun c0 c hc => ?_) h
  repeat' first | with_reducible assumption | with_reducible apply Chip.takeSlot_follows | simp only [Chip.Follows.upd_iff] | split
                | intro _ | dsimp only [id]

theorem execFrameLock_follows  {s s' : State} (h : execFrameLock  s = .next s') : s.chip.Follows s'.chip := by
  refine lift_follows (fun c0 c hc => ?_) h
  repeat' first | with_reducible assumption | with_reducible apply frameLockEffect_follows | simp only [Chip.Follows.upd_iff] | split
                | intro _ | dsimp only [id]

theorem execLinkSignalDetect_follows (x0 : LinkId) {s s' : State} (h : execLinkSignalDetect x0 s = .next s') : s.chip.Follows s'.chip :=
    by
  refine lift_follows (fun c0 c hc => ?_) h
  repeat' first | with_reducible assumption | with_reducible apply signalDetectEffect_follows | simp only [Chip.Follows.upd_iff] | split
                | intro _ | dsimp only [id]

theorem execLedgSave_follows (x0 : CoreId) (x1 : BitVec 54) {s s' : State} (h : execLedgSave x0 x1 s = .next s') : s.chip.Follows s'.chip
    := by
  refine lift_follows (fun c0 c hc => ?_) h
  repeat' first | with_reducible assumption | with_reducible apply Chip.coreStep_follows | simp only [Chip.Follows.upd_iff] | split
                | intro _ | dsimp only [id]

theorem execRteRouteWrite_follows (x0 : Fin 49) (x1 : RegAlias) (x2 : Word) {s s' : State} (h : execRteRouteWrite x0 x1 x2 s = .next s') :
    s.chip.Follows s'.chip := by
  refine lift_follows (fun c0 c hc => ?_) h
  repeat' first | with_reducible assumption | with_reducible apply Chip.aliasWrite_follows | simp only [Chip.Follows.upd_iff] | split
                | intro _ | dsimp only [id]

theorem execPlanWidth_follows (x0 : LinkId) (x1 : BitVec 2) {s s' : State} (h : execPlanWidth x0 x1 s = .next s') : s.chip.Follows s'.chip
    := by
  refine lift_follows (fun c0 c hc => ?_) h
  repeat' first | with_reducible assumption | with_reducible apply Chip.aliasWrite_follows | simp only [Chip.Follows.upd_iff] | split
                | intro _ | dsimp only [id]

theorem execComputeReset_follows (x0 : SlotId) {s s' : State} (h : execComputeReset x0 s = .next s') : s.chip.Follows s'.chip := by
  refine lift_follows (fun c0 c hc => ?_) h
  repeat' first | with_reducible assumption | with_reducible apply Chip.takeSlot_follows | simp only [Chip.Follows.upd_iff] | split
                | intro _ | dsimp only [id]

theorem execControlWindowOpen_follows  {s s' : State} (h : execControlWindowOpen  s = .next s') : s.chip.Follows s'.chip := by
  refine lift_follows (fun c0 c hc => ?_) h
  repeat' first | with_reducible assumption | with_reducible apply controlWindowEffect_follows | simp only [Chip.Follows.upd_iff] | split
                | intro _ | dsimp only [id]

theorem execInletStale_follows  {s s' : State} (h : execInletStale  s = .next s') : s.chip.Follows s'.chip := by
  refine lift_follows (fun c0 c hc => ?_) h
  repeat' first | with_reducible assumption | with_reducible apply Chip.whenOn_follows | with_reducible apply inletStaleEffect_follows
                | simp only [Chip.Follows.upd_iff] | split | intro _ | dsimp only [id]

theorem execStepRun_follows (x0 : SlotId) {s s' : State} (h : execStepRun x0 s = .next s') : s.chip.Follows s'.chip := by
  refine lift_follows (fun c0 c hc => ?_) h
  repeat' first | with_reducible assumption | with_reducible apply Chip.takeSlot_follows | simp only [Chip.Follows.upd_iff] | split
                | intro _ | dsimp only [id]

end Sys2Proof.Machine
end

