-- ==== Sys2Proof/Laws/State.lean ====
section
/-! SUPPORT. What each update of the package leaves of each field of State: one lemma per field per update. -/
namespace Sys2Proof.Machine

variable (c : Chip)

@[simp] theorem State.lift_eq (s : State) (f : Chip → Chip) : s.lift f = .next { s with chip := f s.chip } := rfl

/-! setCore -/

@[simp] theorem Chip.setCore_engines (n : CoreId) (k : Core) : (c.setCore n k).engines = c.engines := rfl
@[simp] theorem Chip.setCore_stacks (n : CoreId) (k : Core) : (c.setCore n k).stks = c.stks := rfl
@[simp] theorem Chip.setCore_mem (n : CoreId) (k : Core) : (c.setCore n k).mem = c.mem := rfl
@[simp] theorem Chip.setCore_links (n : CoreId) (k : Core) : (c.setCore n k).links = c.links := rfl
@[simp] theorem Chip.setCore_frm (n : CoreId) (k : Core) : (c.setCore n k).frm = c.frm := rfl
@[simp] theorem Chip.setCore_plan (n : CoreId) (k : Core) : (c.setCore n k).plan = c.plan := rfl
@[simp] theorem Chip.setCore_rte (n : CoreId) (k : Core) : (c.setCore n k).rte = c.rte := rfl
@[simp] theorem Chip.setCore_dig (n : CoreId) (k : Core) : (c.setCore n k).dig = c.dig := rfl
@[simp] theorem Chip.setCore_img (n : CoreId) (k : Core) : (c.setCore n k).img = c.img := rfl
@[simp] theorem Chip.setCore_mbx (n : CoreId) (k : Core) : (c.setCore n k).mbx = c.mbx := rfl
@[simp] theorem Chip.setCore_flt (n : CoreId) (k : Core) : (c.setCore n k).flt = c.flt := rfl
@[simp] theorem Chip.setCore_nor (n : CoreId) (k : Core) : (c.setCore n k).nor = c.nor := rfl
@[simp] theorem Chip.setCore_fuse (n : CoreId) (k : Core) : (c.setCore n k).fuse = c.fuse := rfl
@[simp] theorem Chip.setCore_bru (n : CoreId) (k : Core) : (c.setCore n k).bru = c.bru := rfl
@[simp] theorem Chip.setCore_pwr (n : CoreId) (k : Core) : (c.setCore n k).pwr = c.pwr := rfl
@[simp] theorem Chip.setCore_thm (n : CoreId) (k : Core) : (c.setCore n k).thm = c.thm := rfl
@[simp] theorem Chip.setCore_pkg (n : CoreId) (k : Core) : (c.setCore n k).pkg = c.pkg := rfl
@[simp] theorem Chip.setCore_uptime (n : CoreId) (k : Core) : (c.setCore n k).uptime = c.uptime := rfl
@[simp] theorem Chip.setCore_out (n : CoreId) (k : Core) : (c.setCore n k).out = c.out := rfl
@[simp] theorem Chip.setCore_freeCount (n : CoreId) (k : Core) : (c.setCore n k).freeCount = c.freeCount := rfl

/-! modCore -/

@[simp] theorem Chip.modCore_engines (n : CoreId) (f : Core → Core) : (c.modCore n f).engines = c.engines := rfl
@[simp] theorem Chip.modCore_stacks (n : CoreId) (f : Core → Core) : (c.modCore n f).stks = c.stks := rfl
@[simp] theorem Chip.modCore_mem (n : CoreId) (f : Core → Core) : (c.modCore n f).mem = c.mem := rfl
@[simp] theorem Chip.modCore_links (n : CoreId) (f : Core → Core) : (c.modCore n f).links = c.links := rfl
@[simp] theorem Chip.modCore_frm (n : CoreId) (f : Core → Core) : (c.modCore n f).frm = c.frm := rfl
@[simp] theorem Chip.modCore_plan (n : CoreId) (f : Core → Core) : (c.modCore n f).plan = c.plan := rfl
@[simp] theorem Chip.modCore_rte (n : CoreId) (f : Core → Core) : (c.modCore n f).rte = c.rte := rfl
@[simp] theorem Chip.modCore_dig (n : CoreId) (f : Core → Core) : (c.modCore n f).dig = c.dig := rfl
@[simp] theorem Chip.modCore_img (n : CoreId) (f : Core → Core) : (c.modCore n f).img = c.img := rfl
@[simp] theorem Chip.modCore_mbx (n : CoreId) (f : Core → Core) : (c.modCore n f).mbx = c.mbx := rfl
@[simp] theorem Chip.modCore_flt (n : CoreId) (f : Core → Core) : (c.modCore n f).flt = c.flt := rfl
@[simp] theorem Chip.modCore_nor (n : CoreId) (f : Core → Core) : (c.modCore n f).nor = c.nor := rfl
@[simp] theorem Chip.modCore_fuse (n : CoreId) (f : Core → Core) : (c.modCore n f).fuse = c.fuse := rfl
@[simp] theorem Chip.modCore_bru (n : CoreId) (f : Core → Core) : (c.modCore n f).bru = c.bru := rfl
@[simp] theorem Chip.modCore_pwr (n : CoreId) (f : Core → Core) : (c.modCore n f).pwr = c.pwr := rfl
@[simp] theorem Chip.modCore_thm (n : CoreId) (f : Core → Core) : (c.modCore n f).thm = c.thm := rfl
@[simp] theorem Chip.modCore_pkg (n : CoreId) (f : Core → Core) : (c.modCore n f).pkg = c.pkg := rfl
@[simp] theorem Chip.modCore_uptime (n : CoreId) (f : Core → Core) : (c.modCore n f).uptime = c.uptime := rfl
@[simp] theorem Chip.modCore_out (n : CoreId) (f : Core → Core) : (c.modCore n f).out = c.out := rfl
@[simp] theorem Chip.modCore_freeCount (n : CoreId) (f : Core → Core) : (c.modCore n f).freeCount = c.freeCount := rfl

/-! setEngine -/

@[simp] theorem Chip.setEngine_cores (n : EngineId) (k : Engine) : (c.setEngine n k).cores = c.cores := rfl
@[simp] theorem Chip.setEngine_stacks (n : EngineId) (k : Engine) : (c.setEngine n k).stks = c.stks := rfl
@[simp] theorem Chip.setEngine_mem (n : EngineId) (k : Engine) : (c.setEngine n k).mem = c.mem := rfl
@[simp] theorem Chip.setEngine_links (n : EngineId) (k : Engine) : (c.setEngine n k).links = c.links := rfl
@[simp] theorem Chip.setEngine_frm (n : EngineId) (k : Engine) : (c.setEngine n k).frm = c.frm := rfl
@[simp] theorem Chip.setEngine_plan (n : EngineId) (k : Engine) : (c.setEngine n k).plan = c.plan := rfl
@[simp] theorem Chip.setEngine_rte (n : EngineId) (k : Engine) : (c.setEngine n k).rte = c.rte := rfl
@[simp] theorem Chip.setEngine_dig (n : EngineId) (k : Engine) : (c.setEngine n k).dig = c.dig := rfl
@[simp] theorem Chip.setEngine_img (n : EngineId) (k : Engine) : (c.setEngine n k).img = c.img := rfl
@[simp] theorem Chip.setEngine_mbx (n : EngineId) (k : Engine) : (c.setEngine n k).mbx = c.mbx := rfl
@[simp] theorem Chip.setEngine_flt (n : EngineId) (k : Engine) : (c.setEngine n k).flt = c.flt := rfl
@[simp] theorem Chip.setEngine_nor (n : EngineId) (k : Engine) : (c.setEngine n k).nor = c.nor := rfl
@[simp] theorem Chip.setEngine_fuse (n : EngineId) (k : Engine) : (c.setEngine n k).fuse = c.fuse := rfl
@[simp] theorem Chip.setEngine_bru (n : EngineId) (k : Engine) : (c.setEngine n k).bru = c.bru := rfl
@[simp] theorem Chip.setEngine_pwr (n : EngineId) (k : Engine) : (c.setEngine n k).pwr = c.pwr := rfl
@[simp] theorem Chip.setEngine_thm (n : EngineId) (k : Engine) : (c.setEngine n k).thm = c.thm := rfl
@[simp] theorem Chip.setEngine_pkg (n : EngineId) (k : Engine) : (c.setEngine n k).pkg = c.pkg := rfl
@[simp] theorem Chip.setEngine_uptime (n : EngineId) (k : Engine) : (c.setEngine n k).uptime = c.uptime := rfl
@[simp] theorem Chip.setEngine_out (n : EngineId) (k : Engine) : (c.setEngine n k).out = c.out := rfl
@[simp] theorem Chip.setEngine_freeCount (n : EngineId) (k : Engine) : (c.setEngine n k).freeCount = c.freeCount := rfl

/-! modEngine -/

@[simp] theorem Chip.modEngine_cores (n : EngineId) (f : Engine → Engine) : (c.modEngine n f).cores = c.cores := rfl
@[simp] theorem Chip.modEngine_stacks (n : EngineId) (f : Engine → Engine) : (c.modEngine n f).stks = c.stks := rfl
@[simp] theorem Chip.modEngine_mem (n : EngineId) (f : Engine → Engine) : (c.modEngine n f).mem = c.mem := rfl
@[simp] theorem Chip.modEngine_links (n : EngineId) (f : Engine → Engine) : (c.modEngine n f).links = c.links := rfl
@[simp] theorem Chip.modEngine_frm (n : EngineId) (f : Engine → Engine) : (c.modEngine n f).frm = c.frm := rfl
@[simp] theorem Chip.modEngine_plan (n : EngineId) (f : Engine → Engine) : (c.modEngine n f).plan = c.plan := rfl
@[simp] theorem Chip.modEngine_rte (n : EngineId) (f : Engine → Engine) : (c.modEngine n f).rte = c.rte := rfl
@[simp] theorem Chip.modEngine_dig (n : EngineId) (f : Engine → Engine) : (c.modEngine n f).dig = c.dig := rfl
@[simp] theorem Chip.modEngine_img (n : EngineId) (f : Engine → Engine) : (c.modEngine n f).img = c.img := rfl
@[simp] theorem Chip.modEngine_mbx (n : EngineId) (f : Engine → Engine) : (c.modEngine n f).mbx = c.mbx := rfl
@[simp] theorem Chip.modEngine_flt (n : EngineId) (f : Engine → Engine) : (c.modEngine n f).flt = c.flt := rfl
@[simp] theorem Chip.modEngine_nor (n : EngineId) (f : Engine → Engine) : (c.modEngine n f).nor = c.nor := rfl
@[simp] theorem Chip.modEngine_fuse (n : EngineId) (f : Engine → Engine) : (c.modEngine n f).fuse = c.fuse := rfl
@[simp] theorem Chip.modEngine_bru (n : EngineId) (f : Engine → Engine) : (c.modEngine n f).bru = c.bru := rfl
@[simp] theorem Chip.modEngine_pwr (n : EngineId) (f : Engine → Engine) : (c.modEngine n f).pwr = c.pwr := rfl
@[simp] theorem Chip.modEngine_thm (n : EngineId) (f : Engine → Engine) : (c.modEngine n f).thm = c.thm := rfl
@[simp] theorem Chip.modEngine_pkg (n : EngineId) (f : Engine → Engine) : (c.modEngine n f).pkg = c.pkg := rfl
@[simp] theorem Chip.modEngine_uptime (n : EngineId) (f : Engine → Engine) : (c.modEngine n f).uptime = c.uptime := rfl
@[simp] theorem Chip.modEngine_out (n : EngineId) (f : Engine → Engine) : (c.modEngine n f).out = c.out := rfl
@[simp] theorem Chip.modEngine_freeCount (n : EngineId) (f : Engine → Engine) : (c.modEngine n f).freeCount = c.freeCount := rfl

/-! setStack -/

@[simp] theorem Chip.setStack_cores (n : StackId) (k : Stack) : (c.setStack n k).cores = c.cores := rfl
@[simp] theorem Chip.setStack_engines (n : StackId) (k : Stack) : (c.setStack n k).engines = c.engines := rfl
@[simp] theorem Chip.setStack_mem (n : StackId) (k : Stack) : (c.setStack n k).mem = c.mem := rfl
@[simp] theorem Chip.setStack_links (n : StackId) (k : Stack) : (c.setStack n k).links = c.links := rfl
@[simp] theorem Chip.setStack_frm (n : StackId) (k : Stack) : (c.setStack n k).frm = c.frm := rfl
@[simp] theorem Chip.setStack_plan (n : StackId) (k : Stack) : (c.setStack n k).plan = c.plan := rfl
@[simp] theorem Chip.setStack_rte (n : StackId) (k : Stack) : (c.setStack n k).rte = c.rte := rfl
@[simp] theorem Chip.setStack_dig (n : StackId) (k : Stack) : (c.setStack n k).dig = c.dig := rfl
@[simp] theorem Chip.setStack_img (n : StackId) (k : Stack) : (c.setStack n k).img = c.img := rfl
@[simp] theorem Chip.setStack_mbx (n : StackId) (k : Stack) : (c.setStack n k).mbx = c.mbx := rfl
@[simp] theorem Chip.setStack_flt (n : StackId) (k : Stack) : (c.setStack n k).flt = c.flt := rfl
@[simp] theorem Chip.setStack_nor (n : StackId) (k : Stack) : (c.setStack n k).nor = c.nor := rfl
@[simp] theorem Chip.setStack_fuse (n : StackId) (k : Stack) : (c.setStack n k).fuse = c.fuse := rfl
@[simp] theorem Chip.setStack_bru (n : StackId) (k : Stack) : (c.setStack n k).bru = c.bru := rfl
@[simp] theorem Chip.setStack_pwr (n : StackId) (k : Stack) : (c.setStack n k).pwr = c.pwr := rfl
@[simp] theorem Chip.setStack_thm (n : StackId) (k : Stack) : (c.setStack n k).thm = c.thm := rfl
@[simp] theorem Chip.setStack_pkg (n : StackId) (k : Stack) : (c.setStack n k).pkg = c.pkg := rfl
@[simp] theorem Chip.setStack_uptime (n : StackId) (k : Stack) : (c.setStack n k).uptime = c.uptime := rfl
@[simp] theorem Chip.setStack_out (n : StackId) (k : Stack) : (c.setStack n k).out = c.out := rfl
@[simp] theorem Chip.setStack_freeCount (n : StackId) (k : Stack) : (c.setStack n k).freeCount = c.freeCount := rfl

/-! modStack -/

@[simp] theorem Chip.modStack_cores (n : StackId) (f : Stack → Stack) : (c.modStack n f).cores = c.cores := rfl
@[simp] theorem Chip.modStack_engines (n : StackId) (f : Stack → Stack) : (c.modStack n f).engines = c.engines := rfl
@[simp] theorem Chip.modStack_mem (n : StackId) (f : Stack → Stack) : (c.modStack n f).mem = c.mem := rfl
@[simp] theorem Chip.modStack_links (n : StackId) (f : Stack → Stack) : (c.modStack n f).links = c.links := rfl
@[simp] theorem Chip.modStack_frm (n : StackId) (f : Stack → Stack) : (c.modStack n f).frm = c.frm := rfl
@[simp] theorem Chip.modStack_plan (n : StackId) (f : Stack → Stack) : (c.modStack n f).plan = c.plan := rfl
@[simp] theorem Chip.modStack_rte (n : StackId) (f : Stack → Stack) : (c.modStack n f).rte = c.rte := rfl
@[simp] theorem Chip.modStack_dig (n : StackId) (f : Stack → Stack) : (c.modStack n f).dig = c.dig := rfl
@[simp] theorem Chip.modStack_img (n : StackId) (f : Stack → Stack) : (c.modStack n f).img = c.img := rfl
@[simp] theorem Chip.modStack_mbx (n : StackId) (f : Stack → Stack) : (c.modStack n f).mbx = c.mbx := rfl
@[simp] theorem Chip.modStack_flt (n : StackId) (f : Stack → Stack) : (c.modStack n f).flt = c.flt := rfl
@[simp] theorem Chip.modStack_nor (n : StackId) (f : Stack → Stack) : (c.modStack n f).nor = c.nor := rfl
@[simp] theorem Chip.modStack_fuse (n : StackId) (f : Stack → Stack) : (c.modStack n f).fuse = c.fuse := rfl
@[simp] theorem Chip.modStack_bru (n : StackId) (f : Stack → Stack) : (c.modStack n f).bru = c.bru := rfl
@[simp] theorem Chip.modStack_pwr (n : StackId) (f : Stack → Stack) : (c.modStack n f).pwr = c.pwr := rfl
@[simp] theorem Chip.modStack_thm (n : StackId) (f : Stack → Stack) : (c.modStack n f).thm = c.thm := rfl
@[simp] theorem Chip.modStack_pkg (n : StackId) (f : Stack → Stack) : (c.modStack n f).pkg = c.pkg := rfl
@[simp] theorem Chip.modStack_uptime (n : StackId) (f : Stack → Stack) : (c.modStack n f).uptime = c.uptime := rfl
@[simp] theorem Chip.modStack_out (n : StackId) (f : Stack → Stack) : (c.modStack n f).out = c.out := rfl
@[simp] theorem Chip.modStack_freeCount (n : StackId) (f : Stack → Stack) : (c.modStack n f).freeCount = c.freeCount := rfl

/-! setLink -/

@[simp] theorem Chip.setLink_cores (n : LinkId) (k : Link) : (c.setLink n k).cores = c.cores := rfl
@[simp] theorem Chip.setLink_engines (n : LinkId) (k : Link) : (c.setLink n k).engines = c.engines := rfl
@[simp] theorem Chip.setLink_stacks (n : LinkId) (k : Link) : (c.setLink n k).stks = c.stks := rfl
@[simp] theorem Chip.setLink_mem (n : LinkId) (k : Link) : (c.setLink n k).mem = c.mem := rfl
@[simp] theorem Chip.setLink_frm (n : LinkId) (k : Link) : (c.setLink n k).frm = c.frm := rfl
@[simp] theorem Chip.setLink_plan (n : LinkId) (k : Link) : (c.setLink n k).plan = c.plan := rfl
@[simp] theorem Chip.setLink_rte (n : LinkId) (k : Link) : (c.setLink n k).rte = c.rte := rfl
@[simp] theorem Chip.setLink_dig (n : LinkId) (k : Link) : (c.setLink n k).dig = c.dig := rfl
@[simp] theorem Chip.setLink_img (n : LinkId) (k : Link) : (c.setLink n k).img = c.img := rfl
@[simp] theorem Chip.setLink_mbx (n : LinkId) (k : Link) : (c.setLink n k).mbx = c.mbx := rfl
@[simp] theorem Chip.setLink_flt (n : LinkId) (k : Link) : (c.setLink n k).flt = c.flt := rfl
@[simp] theorem Chip.setLink_nor (n : LinkId) (k : Link) : (c.setLink n k).nor = c.nor := rfl
@[simp] theorem Chip.setLink_fuse (n : LinkId) (k : Link) : (c.setLink n k).fuse = c.fuse := rfl
@[simp] theorem Chip.setLink_bru (n : LinkId) (k : Link) : (c.setLink n k).bru = c.bru := rfl
@[simp] theorem Chip.setLink_pwr (n : LinkId) (k : Link) : (c.setLink n k).pwr = c.pwr := rfl
@[simp] theorem Chip.setLink_thm (n : LinkId) (k : Link) : (c.setLink n k).thm = c.thm := rfl
@[simp] theorem Chip.setLink_pkg (n : LinkId) (k : Link) : (c.setLink n k).pkg = c.pkg := rfl
@[simp] theorem Chip.setLink_uptime (n : LinkId) (k : Link) : (c.setLink n k).uptime = c.uptime := rfl
@[simp] theorem Chip.setLink_out (n : LinkId) (k : Link) : (c.setLink n k).out = c.out := rfl
@[simp] theorem Chip.setLink_freeCount (n : LinkId) (k : Link) : (c.setLink n k).freeCount = c.freeCount := rfl

/-! modLink -/

@[simp] theorem Chip.modLink_cores (n : LinkId) (f : Link → Link) : (c.modLink n f).cores = c.cores := rfl
@[simp] theorem Chip.modLink_engines (n : LinkId) (f : Link → Link) : (c.modLink n f).engines = c.engines := rfl
@[simp] theorem Chip.modLink_stacks (n : LinkId) (f : Link → Link) : (c.modLink n f).stks = c.stks := rfl
@[simp] theorem Chip.modLink_mem (n : LinkId) (f : Link → Link) : (c.modLink n f).mem = c.mem := rfl
@[simp] theorem Chip.modLink_frm (n : LinkId) (f : Link → Link) : (c.modLink n f).frm = c.frm := rfl
@[simp] theorem Chip.modLink_plan (n : LinkId) (f : Link → Link) : (c.modLink n f).plan = c.plan := rfl
@[simp] theorem Chip.modLink_rte (n : LinkId) (f : Link → Link) : (c.modLink n f).rte = c.rte := rfl
@[simp] theorem Chip.modLink_dig (n : LinkId) (f : Link → Link) : (c.modLink n f).dig = c.dig := rfl
@[simp] theorem Chip.modLink_img (n : LinkId) (f : Link → Link) : (c.modLink n f).img = c.img := rfl
@[simp] theorem Chip.modLink_mbx (n : LinkId) (f : Link → Link) : (c.modLink n f).mbx = c.mbx := rfl
@[simp] theorem Chip.modLink_flt (n : LinkId) (f : Link → Link) : (c.modLink n f).flt = c.flt := rfl
@[simp] theorem Chip.modLink_nor (n : LinkId) (f : Link → Link) : (c.modLink n f).nor = c.nor := rfl
@[simp] theorem Chip.modLink_fuse (n : LinkId) (f : Link → Link) : (c.modLink n f).fuse = c.fuse := rfl
@[simp] theorem Chip.modLink_bru (n : LinkId) (f : Link → Link) : (c.modLink n f).bru = c.bru := rfl
@[simp] theorem Chip.modLink_pwr (n : LinkId) (f : Link → Link) : (c.modLink n f).pwr = c.pwr := rfl
@[simp] theorem Chip.modLink_thm (n : LinkId) (f : Link → Link) : (c.modLink n f).thm = c.thm := rfl
@[simp] theorem Chip.modLink_pkg (n : LinkId) (f : Link → Link) : (c.modLink n f).pkg = c.pkg := rfl
@[simp] theorem Chip.modLink_uptime (n : LinkId) (f : Link → Link) : (c.modLink n f).uptime = c.uptime := rfl
@[simp] theorem Chip.modLink_out (n : LinkId) (f : Link → Link) : (c.modLink n f).out = c.out := rfl
@[simp] theorem Chip.modLink_freeCount (n : LinkId) (f : Link → Link) : (c.modLink n f).freeCount = c.freeCount := rfl

/-! modCtx -/

@[simp] theorem Chip.modCtx_cores (x : CtxId) (f : Ctx → Ctx) : (c.modCtx x f).cores = c.cores := rfl
@[simp] theorem Chip.modCtx_engines (x : CtxId) (f : Ctx → Ctx) : (c.modCtx x f).engines = c.engines := rfl
@[simp] theorem Chip.modCtx_stacks (x : CtxId) (f : Ctx → Ctx) : (c.modCtx x f).stks = c.stks := rfl
@[simp] theorem Chip.modCtx_mem (x : CtxId) (f : Ctx → Ctx) : (c.modCtx x f).mem = c.mem := rfl
@[simp] theorem Chip.modCtx_links (x : CtxId) (f : Ctx → Ctx) : (c.modCtx x f).links = c.links := rfl
@[simp] theorem Chip.modCtx_frm (x : CtxId) (f : Ctx → Ctx) : (c.modCtx x f).frm = c.frm := rfl
@[simp] theorem Chip.modCtx_plan (x : CtxId) (f : Ctx → Ctx) : (c.modCtx x f).plan = c.plan := rfl
@[simp] theorem Chip.modCtx_rte (x : CtxId) (f : Ctx → Ctx) : (c.modCtx x f).rte = c.rte := rfl
@[simp] theorem Chip.modCtx_dig (x : CtxId) (f : Ctx → Ctx) : (c.modCtx x f).dig = c.dig := rfl
@[simp] theorem Chip.modCtx_mbx (x : CtxId) (f : Ctx → Ctx) : (c.modCtx x f).mbx = c.mbx := rfl
@[simp] theorem Chip.modCtx_flt (x : CtxId) (f : Ctx → Ctx) : (c.modCtx x f).flt = c.flt := rfl
@[simp] theorem Chip.modCtx_nor (x : CtxId) (f : Ctx → Ctx) : (c.modCtx x f).nor = c.nor := rfl
@[simp] theorem Chip.modCtx_fuse (x : CtxId) (f : Ctx → Ctx) : (c.modCtx x f).fuse = c.fuse := rfl
@[simp] theorem Chip.modCtx_bru (x : CtxId) (f : Ctx → Ctx) : (c.modCtx x f).bru = c.bru := rfl
@[simp] theorem Chip.modCtx_pwr (x : CtxId) (f : Ctx → Ctx) : (c.modCtx x f).pwr = c.pwr := rfl
@[simp] theorem Chip.modCtx_thm (x : CtxId) (f : Ctx → Ctx) : (c.modCtx x f).thm = c.thm := rfl
@[simp] theorem Chip.modCtx_pkg (x : CtxId) (f : Ctx → Ctx) : (c.modCtx x f).pkg = c.pkg := rfl
@[simp] theorem Chip.modCtx_uptime (x : CtxId) (f : Ctx → Ctx) : (c.modCtx x f).uptime = c.uptime := rfl
@[simp] theorem Chip.modCtx_out (x : CtxId) (f : Ctx → Ctx) : (c.modCtx x f).out = c.out := rfl
@[simp] theorem Chip.modCtx_freeCount (x : CtxId) (f : Ctx → Ctx) : (c.modCtx x f).freeCount = c.freeCount := rfl

/-! modDig -/

@[simp] theorem Chip.modDig_cores (x : CtxId) (f : DigCtx → DigCtx) : (c.modDig x f).cores = c.cores := rfl
@[simp] theorem Chip.modDig_engines (x : CtxId) (f : DigCtx → DigCtx) : (c.modDig x f).engines = c.engines := rfl
@[simp] theorem Chip.modDig_stacks (x : CtxId) (f : DigCtx → DigCtx) : (c.modDig x f).stks = c.stks := rfl
@[simp] theorem Chip.modDig_mem (x : CtxId) (f : DigCtx → DigCtx) : (c.modDig x f).mem = c.mem := rfl
@[simp] theorem Chip.modDig_links (x : CtxId) (f : DigCtx → DigCtx) : (c.modDig x f).links = c.links := rfl
@[simp] theorem Chip.modDig_frm (x : CtxId) (f : DigCtx → DigCtx) : (c.modDig x f).frm = c.frm := rfl
@[simp] theorem Chip.modDig_plan (x : CtxId) (f : DigCtx → DigCtx) : (c.modDig x f).plan = c.plan := rfl
@[simp] theorem Chip.modDig_rte (x : CtxId) (f : DigCtx → DigCtx) : (c.modDig x f).rte = c.rte := rfl
@[simp] theorem Chip.modDig_dig (x : CtxId) (f : DigCtx → DigCtx) : (c.modDig x f).dig = c.dig := rfl
@[simp] theorem Chip.modDig_mbx (x : CtxId) (f : DigCtx → DigCtx) : (c.modDig x f).mbx = c.mbx := rfl
@[simp] theorem Chip.modDig_flt (x : CtxId) (f : DigCtx → DigCtx) : (c.modDig x f).flt = c.flt := rfl
@[simp] theorem Chip.modDig_nor (x : CtxId) (f : DigCtx → DigCtx) : (c.modDig x f).nor = c.nor := rfl
@[simp] theorem Chip.modDig_fuse (x : CtxId) (f : DigCtx → DigCtx) : (c.modDig x f).fuse = c.fuse := rfl
@[simp] theorem Chip.modDig_bru (x : CtxId) (f : DigCtx → DigCtx) : (c.modDig x f).bru = c.bru := rfl
@[simp] theorem Chip.modDig_pwr (x : CtxId) (f : DigCtx → DigCtx) : (c.modDig x f).pwr = c.pwr := rfl
@[simp] theorem Chip.modDig_thm (x : CtxId) (f : DigCtx → DigCtx) : (c.modDig x f).thm = c.thm := rfl
@[simp] theorem Chip.modDig_pkg (x : CtxId) (f : DigCtx → DigCtx) : (c.modDig x f).pkg = c.pkg := rfl
@[simp] theorem Chip.modDig_uptime (x : CtxId) (f : DigCtx → DigCtx) : (c.modDig x f).uptime = c.uptime := rfl
@[simp] theorem Chip.modDig_out (x : CtxId) (f : DigCtx → DigCtx) : (c.modDig x f).out = c.out := rfl
@[simp] theorem Chip.modDig_freeCount (x : CtxId) (f : DigCtx → DigCtx) : (c.modDig x f).freeCount = c.freeCount := rfl

/-! modMbx -/

@[simp] theorem Chip.modMbx_cores (f : Mbx → Mbx) : (c.modMbx f).cores = c.cores := rfl
@[simp] theorem Chip.modMbx_engines (f : Mbx → Mbx) : (c.modMbx f).engines = c.engines := rfl
@[simp] theorem Chip.modMbx_stacks (f : Mbx → Mbx) : (c.modMbx f).stks = c.stks := rfl
@[simp] theorem Chip.modMbx_mem (f : Mbx → Mbx) : (c.modMbx f).mem = c.mem := rfl
@[simp] theorem Chip.modMbx_links (f : Mbx → Mbx) : (c.modMbx f).links = c.links := rfl
@[simp] theorem Chip.modMbx_frm (f : Mbx → Mbx) : (c.modMbx f).frm = c.frm := rfl
@[simp] theorem Chip.modMbx_plan (f : Mbx → Mbx) : (c.modMbx f).plan = c.plan := rfl
@[simp] theorem Chip.modMbx_rte (f : Mbx → Mbx) : (c.modMbx f).rte = c.rte := rfl
@[simp] theorem Chip.modMbx_dig (f : Mbx → Mbx) : (c.modMbx f).dig = c.dig := rfl
@[simp] theorem Chip.modMbx_img (f : Mbx → Mbx) : (c.modMbx f).img = c.img := rfl
@[simp] theorem Chip.modMbx_mbx (f : Mbx → Mbx) : (c.modMbx f).mbx = f c.mbx := rfl
@[simp] theorem Chip.modMbx_flt (f : Mbx → Mbx) : (c.modMbx f).flt = c.flt := rfl
@[simp] theorem Chip.modMbx_nor (f : Mbx → Mbx) : (c.modMbx f).nor = c.nor := rfl
@[simp] theorem Chip.modMbx_fuse (f : Mbx → Mbx) : (c.modMbx f).fuse = c.fuse := rfl
@[simp] theorem Chip.modMbx_bru (f : Mbx → Mbx) : (c.modMbx f).bru = c.bru := rfl
@[simp] theorem Chip.modMbx_pwr (f : Mbx → Mbx) : (c.modMbx f).pwr = c.pwr := rfl
@[simp] theorem Chip.modMbx_thm (f : Mbx → Mbx) : (c.modMbx f).thm = c.thm := rfl
@[simp] theorem Chip.modMbx_pkg (f : Mbx → Mbx) : (c.modMbx f).pkg = c.pkg := rfl
@[simp] theorem Chip.modMbx_uptime (f : Mbx → Mbx) : (c.modMbx f).uptime = c.uptime := rfl
@[simp] theorem Chip.modMbx_out (f : Mbx → Mbx) : (c.modMbx f).out = c.out := rfl
@[simp] theorem Chip.modMbx_freeCount (f : Mbx → Mbx) : (c.modMbx f).freeCount = c.freeCount := rfl

/-! modRte -/

@[simp] theorem Chip.modRte_cores (f : Rte → Rte) : (c.modRte f).cores = c.cores := rfl
@[simp] theorem Chip.modRte_engines (f : Rte → Rte) : (c.modRte f).engines = c.engines := rfl
@[simp] theorem Chip.modRte_stacks (f : Rte → Rte) : (c.modRte f).stks = c.stks := rfl
@[simp] theorem Chip.modRte_mem (f : Rte → Rte) : (c.modRte f).mem = c.mem := rfl
@[simp] theorem Chip.modRte_links (f : Rte → Rte) : (c.modRte f).links = c.links := rfl
@[simp] theorem Chip.modRte_frm (f : Rte → Rte) : (c.modRte f).frm = c.frm := rfl
@[simp] theorem Chip.modRte_plan (f : Rte → Rte) : (c.modRte f).plan = c.plan := rfl
@[simp] theorem Chip.modRte_rte (f : Rte → Rte) : (c.modRte f).rte = f c.rte := rfl
@[simp] theorem Chip.modRte_dig (f : Rte → Rte) : (c.modRte f).dig = c.dig := rfl
@[simp] theorem Chip.modRte_img (f : Rte → Rte) : (c.modRte f).img = c.img := rfl
@[simp] theorem Chip.modRte_mbx (f : Rte → Rte) : (c.modRte f).mbx = c.mbx := rfl
@[simp] theorem Chip.modRte_flt (f : Rte → Rte) : (c.modRte f).flt = c.flt := rfl
@[simp] theorem Chip.modRte_nor (f : Rte → Rte) : (c.modRte f).nor = c.nor := rfl
@[simp] theorem Chip.modRte_fuse (f : Rte → Rte) : (c.modRte f).fuse = c.fuse := rfl
@[simp] theorem Chip.modRte_bru (f : Rte → Rte) : (c.modRte f).bru = c.bru := rfl
@[simp] theorem Chip.modRte_pwr (f : Rte → Rte) : (c.modRte f).pwr = c.pwr := rfl
@[simp] theorem Chip.modRte_thm (f : Rte → Rte) : (c.modRte f).thm = c.thm := rfl
@[simp] theorem Chip.modRte_pkg (f : Rte → Rte) : (c.modRte f).pkg = c.pkg := rfl
@[simp] theorem Chip.modRte_uptime (f : Rte → Rte) : (c.modRte f).uptime = c.uptime := rfl
@[simp] theorem Chip.modRte_out (f : Rte → Rte) : (c.modRte f).out = c.out := rfl
@[simp] theorem Chip.modRte_freeCount (f : Rte → Rte) : (c.modRte f).freeCount = c.freeCount := rfl

/-! modPwr -/

@[simp] theorem Chip.modPwr_cores (f : Pwr → Pwr) : (c.modPwr f).cores = c.cores := rfl
@[simp] theorem Chip.modPwr_engines (f : Pwr → Pwr) : (c.modPwr f).engines = c.engines := rfl
@[simp] theorem Chip.modPwr_stacks (f : Pwr → Pwr) : (c.modPwr f).stks = c.stks := rfl
@[simp] theorem Chip.modPwr_mem (f : Pwr → Pwr) : (c.modPwr f).mem = c.mem := rfl
@[simp] theorem Chip.modPwr_links (f : Pwr → Pwr) : (c.modPwr f).links = c.links := rfl
@[simp] theorem Chip.modPwr_frm (f : Pwr → Pwr) : (c.modPwr f).frm = c.frm := rfl
@[simp] theorem Chip.modPwr_plan (f : Pwr → Pwr) : (c.modPwr f).plan = c.plan := rfl
@[simp] theorem Chip.modPwr_rte (f : Pwr → Pwr) : (c.modPwr f).rte = c.rte := rfl
@[simp] theorem Chip.modPwr_dig (f : Pwr → Pwr) : (c.modPwr f).dig = c.dig := rfl
@[simp] theorem Chip.modPwr_img (f : Pwr → Pwr) : (c.modPwr f).img = c.img := rfl
@[simp] theorem Chip.modPwr_mbx (f : Pwr → Pwr) : (c.modPwr f).mbx = c.mbx := rfl
@[simp] theorem Chip.modPwr_flt (f : Pwr → Pwr) : (c.modPwr f).flt = c.flt := rfl
@[simp] theorem Chip.modPwr_nor (f : Pwr → Pwr) : (c.modPwr f).nor = c.nor := rfl
@[simp] theorem Chip.modPwr_fuse (f : Pwr → Pwr) : (c.modPwr f).fuse = c.fuse := rfl
@[simp] theorem Chip.modPwr_bru (f : Pwr → Pwr) : (c.modPwr f).bru = c.bru := rfl
@[simp] theorem Chip.modPwr_pwr (f : Pwr → Pwr) : (c.modPwr f).pwr = f c.pwr := rfl
@[simp] theorem Chip.modPwr_thm (f : Pwr → Pwr) : (c.modPwr f).thm = c.thm := rfl
@[simp] theorem Chip.modPwr_pkg (f : Pwr → Pwr) : (c.modPwr f).pkg = c.pkg := rfl
@[simp] theorem Chip.modPwr_uptime (f : Pwr → Pwr) : (c.modPwr f).uptime = c.uptime := rfl
@[simp] theorem Chip.modPwr_out (f : Pwr → Pwr) : (c.modPwr f).out = c.out := rfl
@[simp] theorem Chip.modPwr_freeCount (f : Pwr → Pwr) : (c.modPwr f).freeCount = c.freeCount := rfl

/-! modThm -/

@[simp] theorem Chip.modThm_cores (f : Thm → Thm) : (c.modThm f).cores = c.cores := rfl
@[simp] theorem Chip.modThm_engines (f : Thm → Thm) : (c.modThm f).engines = c.engines := rfl
@[simp] theorem Chip.modThm_stacks (f : Thm → Thm) : (c.modThm f).stks = c.stks := rfl
@[simp] theorem Chip.modThm_mem (f : Thm → Thm) : (c.modThm f).mem = c.mem := rfl
@[simp] theorem Chip.modThm_links (f : Thm → Thm) : (c.modThm f).links = c.links := rfl
@[simp] theorem Chip.modThm_frm (f : Thm → Thm) : (c.modThm f).frm = c.frm := rfl
@[simp] theorem Chip.modThm_plan (f : Thm → Thm) : (c.modThm f).plan = c.plan := rfl
@[simp] theorem Chip.modThm_rte (f : Thm → Thm) : (c.modThm f).rte = c.rte := rfl
@[simp] theorem Chip.modThm_dig (f : Thm → Thm) : (c.modThm f).dig = c.dig := rfl
@[simp] theorem Chip.modThm_img (f : Thm → Thm) : (c.modThm f).img = c.img := rfl
@[simp] theorem Chip.modThm_mbx (f : Thm → Thm) : (c.modThm f).mbx = c.mbx := rfl
@[simp] theorem Chip.modThm_flt (f : Thm → Thm) : (c.modThm f).flt = c.flt := rfl
@[simp] theorem Chip.modThm_nor (f : Thm → Thm) : (c.modThm f).nor = c.nor := rfl
@[simp] theorem Chip.modThm_fuse (f : Thm → Thm) : (c.modThm f).fuse = c.fuse := rfl
@[simp] theorem Chip.modThm_bru (f : Thm → Thm) : (c.modThm f).bru = c.bru := rfl
@[simp] theorem Chip.modThm_pwr (f : Thm → Thm) : (c.modThm f).pwr = c.pwr := rfl
@[simp] theorem Chip.modThm_thm (f : Thm → Thm) : (c.modThm f).thm = f c.thm := rfl
@[simp] theorem Chip.modThm_pkg (f : Thm → Thm) : (c.modThm f).pkg = c.pkg := rfl
@[simp] theorem Chip.modThm_uptime (f : Thm → Thm) : (c.modThm f).uptime = c.uptime := rfl
@[simp] theorem Chip.modThm_out (f : Thm → Thm) : (c.modThm f).out = c.out := rfl
@[simp] theorem Chip.modThm_freeCount (f : Thm → Thm) : (c.modThm f).freeCount = c.freeCount := rfl

/-! modPkg -/

@[simp] theorem Chip.modPkg_cores (f : Pkg → Pkg) : (c.modPkg f).cores = c.cores := rfl
@[simp] theorem Chip.modPkg_engines (f : Pkg → Pkg) : (c.modPkg f).engines = c.engines := rfl
@[simp] theorem Chip.modPkg_stacks (f : Pkg → Pkg) : (c.modPkg f).stks = c.stks := rfl
@[simp] theorem Chip.modPkg_mem (f : Pkg → Pkg) : (c.modPkg f).mem = c.mem := rfl
@[simp] theorem Chip.modPkg_links (f : Pkg → Pkg) : (c.modPkg f).links = c.links := rfl
@[simp] theorem Chip.modPkg_frm (f : Pkg → Pkg) : (c.modPkg f).frm = c.frm := rfl
@[simp] theorem Chip.modPkg_plan (f : Pkg → Pkg) : (c.modPkg f).plan = c.plan := rfl
@[simp] theorem Chip.modPkg_rte (f : Pkg → Pkg) : (c.modPkg f).rte = c.rte := rfl
@[simp] theorem Chip.modPkg_dig (f : Pkg → Pkg) : (c.modPkg f).dig = c.dig := rfl
@[simp] theorem Chip.modPkg_img (f : Pkg → Pkg) : (c.modPkg f).img = c.img := rfl
@[simp] theorem Chip.modPkg_mbx (f : Pkg → Pkg) : (c.modPkg f).mbx = c.mbx := rfl
@[simp] theorem Chip.modPkg_flt (f : Pkg → Pkg) : (c.modPkg f).flt = c.flt := rfl
@[simp] theorem Chip.modPkg_nor (f : Pkg → Pkg) : (c.modPkg f).nor = c.nor := rfl
@[simp] theorem Chip.modPkg_fuse (f : Pkg → Pkg) : (c.modPkg f).fuse = c.fuse := rfl
@[simp] theorem Chip.modPkg_bru (f : Pkg → Pkg) : (c.modPkg f).bru = c.bru := rfl
@[simp] theorem Chip.modPkg_pwr (f : Pkg → Pkg) : (c.modPkg f).pwr = c.pwr := rfl
@[simp] theorem Chip.modPkg_thm (f : Pkg → Pkg) : (c.modPkg f).thm = c.thm := rfl
@[simp] theorem Chip.modPkg_pkg (f : Pkg → Pkg) : (c.modPkg f).pkg = f c.pkg := rfl
@[simp] theorem Chip.modPkg_uptime (f : Pkg → Pkg) : (c.modPkg f).uptime = c.uptime := rfl
@[simp] theorem Chip.modPkg_out (f : Pkg → Pkg) : (c.modPkg f).out = c.out := rfl
@[simp] theorem Chip.modPkg_freeCount (f : Pkg → Pkg) : (c.modPkg f).freeCount = c.freeCount := rfl

/-! modBru -/

@[simp] theorem Chip.modBru_cores (f : Bru → Bru) : (c.modBru f).cores = c.cores := rfl
@[simp] theorem Chip.modBru_engines (f : Bru → Bru) : (c.modBru f).engines = c.engines := rfl
@[simp] theorem Chip.modBru_stacks (f : Bru → Bru) : (c.modBru f).stks = c.stks := rfl
@[simp] theorem Chip.modBru_mem (f : Bru → Bru) : (c.modBru f).mem = c.mem := rfl
@[simp] theorem Chip.modBru_links (f : Bru → Bru) : (c.modBru f).links = c.links := rfl
@[simp] theorem Chip.modBru_frm (f : Bru → Bru) : (c.modBru f).frm = c.frm := rfl
@[simp] theorem Chip.modBru_plan (f : Bru → Bru) : (c.modBru f).plan = c.plan := rfl
@[simp] theorem Chip.modBru_rte (f : Bru → Bru) : (c.modBru f).rte = c.rte := rfl
@[simp] theorem Chip.modBru_dig (f : Bru → Bru) : (c.modBru f).dig = c.dig := rfl
@[simp] theorem Chip.modBru_img (f : Bru → Bru) : (c.modBru f).img = c.img := rfl
@[simp] theorem Chip.modBru_mbx (f : Bru → Bru) : (c.modBru f).mbx = c.mbx := rfl
@[simp] theorem Chip.modBru_flt (f : Bru → Bru) : (c.modBru f).flt = c.flt := rfl
@[simp] theorem Chip.modBru_nor (f : Bru → Bru) : (c.modBru f).nor = c.nor := rfl
@[simp] theorem Chip.modBru_fuse (f : Bru → Bru) : (c.modBru f).fuse = c.fuse := rfl
@[simp] theorem Chip.modBru_bru (f : Bru → Bru) : (c.modBru f).bru = f c.bru := rfl
@[simp] theorem Chip.modBru_pwr (f : Bru → Bru) : (c.modBru f).pwr = c.pwr := rfl
@[simp] theorem Chip.modBru_thm (f : Bru → Bru) : (c.modBru f).thm = c.thm := rfl
@[simp] theorem Chip.modBru_pkg (f : Bru → Bru) : (c.modBru f).pkg = c.pkg := rfl
@[simp] theorem Chip.modBru_uptime (f : Bru → Bru) : (c.modBru f).uptime = c.uptime := rfl
@[simp] theorem Chip.modBru_out (f : Bru → Bru) : (c.modBru f).out = c.out := rfl
@[simp] theorem Chip.modBru_freeCount (f : Bru → Bru) : (c.modBru f).freeCount = c.freeCount := rfl

/-! modFlt -/

@[simp] theorem Chip.modFlt_cores (f : Flt → Flt) : (c.modFlt f).cores = c.cores := rfl
@[simp] theorem Chip.modFlt_engines (f : Flt → Flt) : (c.modFlt f).engines = c.engines := rfl
@[simp] theorem Chip.modFlt_stacks (f : Flt → Flt) : (c.modFlt f).stks = c.stks := rfl
@[simp] theorem Chip.modFlt_mem (f : Flt → Flt) : (c.modFlt f).mem = c.mem := rfl
@[simp] theorem Chip.modFlt_links (f : Flt → Flt) : (c.modFlt f).links = c.links := rfl
@[simp] theorem Chip.modFlt_frm (f : Flt → Flt) : (c.modFlt f).frm = c.frm := rfl
@[simp] theorem Chip.modFlt_plan (f : Flt → Flt) : (c.modFlt f).plan = c.plan := rfl
@[simp] theorem Chip.modFlt_rte (f : Flt → Flt) : (c.modFlt f).rte = c.rte := rfl
@[simp] theorem Chip.modFlt_dig (f : Flt → Flt) : (c.modFlt f).dig = c.dig := rfl
@[simp] theorem Chip.modFlt_img (f : Flt → Flt) : (c.modFlt f).img = c.img := rfl
@[simp] theorem Chip.modFlt_mbx (f : Flt → Flt) : (c.modFlt f).mbx = c.mbx := rfl
@[simp] theorem Chip.modFlt_flt (f : Flt → Flt) : (c.modFlt f).flt = f c.flt := rfl
@[simp] theorem Chip.modFlt_nor (f : Flt → Flt) : (c.modFlt f).nor = c.nor := rfl
@[simp] theorem Chip.modFlt_fuse (f : Flt → Flt) : (c.modFlt f).fuse = c.fuse := rfl
@[simp] theorem Chip.modFlt_bru (f : Flt → Flt) : (c.modFlt f).bru = c.bru := rfl
@[simp] theorem Chip.modFlt_pwr (f : Flt → Flt) : (c.modFlt f).pwr = c.pwr := rfl
@[simp] theorem Chip.modFlt_thm (f : Flt → Flt) : (c.modFlt f).thm = c.thm := rfl
@[simp] theorem Chip.modFlt_pkg (f : Flt → Flt) : (c.modFlt f).pkg = c.pkg := rfl
@[simp] theorem Chip.modFlt_uptime (f : Flt → Flt) : (c.modFlt f).uptime = c.uptime := rfl
@[simp] theorem Chip.modFlt_out (f : Flt → Flt) : (c.modFlt f).out = c.out := rfl
@[simp] theorem Chip.modFlt_freeCount (f : Flt → Flt) : (c.modFlt f).freeCount = c.freeCount := rfl

/-! modFrm -/

@[simp] theorem Chip.modFrm_cores (f : Frm → Frm) : (c.modFrm f).cores = c.cores := rfl
@[simp] theorem Chip.modFrm_engines (f : Frm → Frm) : (c.modFrm f).engines = c.engines := rfl
@[simp] theorem Chip.modFrm_stacks (f : Frm → Frm) : (c.modFrm f).stks = c.stks := rfl
@[simp] theorem Chip.modFrm_mem (f : Frm → Frm) : (c.modFrm f).mem = c.mem := rfl
@[simp] theorem Chip.modFrm_links (f : Frm → Frm) : (c.modFrm f).links = c.links := rfl
@[simp] theorem Chip.modFrm_frm (f : Frm → Frm) : (c.modFrm f).frm = f c.frm := rfl
@[simp] theorem Chip.modFrm_plan (f : Frm → Frm) : (c.modFrm f).plan = c.plan := rfl
@[simp] theorem Chip.modFrm_rte (f : Frm → Frm) : (c.modFrm f).rte = c.rte := rfl
@[simp] theorem Chip.modFrm_dig (f : Frm → Frm) : (c.modFrm f).dig = c.dig := rfl
@[simp] theorem Chip.modFrm_img (f : Frm → Frm) : (c.modFrm f).img = c.img := rfl
@[simp] theorem Chip.modFrm_mbx (f : Frm → Frm) : (c.modFrm f).mbx = c.mbx := rfl
@[simp] theorem Chip.modFrm_flt (f : Frm → Frm) : (c.modFrm f).flt = c.flt := rfl
@[simp] theorem Chip.modFrm_nor (f : Frm → Frm) : (c.modFrm f).nor = c.nor := rfl
@[simp] theorem Chip.modFrm_fuse (f : Frm → Frm) : (c.modFrm f).fuse = c.fuse := rfl
@[simp] theorem Chip.modFrm_bru (f : Frm → Frm) : (c.modFrm f).bru = c.bru := rfl
@[simp] theorem Chip.modFrm_pwr (f : Frm → Frm) : (c.modFrm f).pwr = c.pwr := rfl
@[simp] theorem Chip.modFrm_thm (f : Frm → Frm) : (c.modFrm f).thm = c.thm := rfl
@[simp] theorem Chip.modFrm_pkg (f : Frm → Frm) : (c.modFrm f).pkg = c.pkg := rfl
@[simp] theorem Chip.modFrm_uptime (f : Frm → Frm) : (c.modFrm f).uptime = c.uptime := rfl
@[simp] theorem Chip.modFrm_out (f : Frm → Frm) : (c.modFrm f).out = c.out := rfl
@[simp] theorem Chip.modFrm_freeCount (f : Frm → Frm) : (c.modFrm f).freeCount = c.freeCount := rfl

/-! emit -/

@[simp] theorem Chip.emit_cores (o : Out) : (c.emit o).cores = c.cores := rfl
@[simp] theorem Chip.emit_engines (o : Out) : (c.emit o).engines = c.engines := rfl
@[simp] theorem Chip.emit_stacks (o : Out) : (c.emit o).stks = c.stks := rfl
@[simp] theorem Chip.emit_mem (o : Out) : (c.emit o).mem = c.mem := rfl
@[simp] theorem Chip.emit_links (o : Out) : (c.emit o).links = c.links := rfl
@[simp] theorem Chip.emit_frm (o : Out) : (c.emit o).frm = c.frm := rfl
@[simp] theorem Chip.emit_plan (o : Out) : (c.emit o).plan = c.plan := rfl
@[simp] theorem Chip.emit_rte (o : Out) : (c.emit o).rte = c.rte := rfl
@[simp] theorem Chip.emit_dig (o : Out) : (c.emit o).dig = c.dig := rfl
@[simp] theorem Chip.emit_img (o : Out) : (c.emit o).img = c.img := rfl
@[simp] theorem Chip.emit_mbx (o : Out) : (c.emit o).mbx = c.mbx := rfl
@[simp] theorem Chip.emit_flt (o : Out) : (c.emit o).flt = c.flt := rfl
@[simp] theorem Chip.emit_nor (o : Out) : (c.emit o).nor = c.nor := rfl
@[simp] theorem Chip.emit_fuse (o : Out) : (c.emit o).fuse = c.fuse := rfl
@[simp] theorem Chip.emit_bru (o : Out) : (c.emit o).bru = c.bru := rfl
@[simp] theorem Chip.emit_pwr (o : Out) : (c.emit o).pwr = c.pwr := rfl
@[simp] theorem Chip.emit_thm (o : Out) : (c.emit o).thm = c.thm := rfl
@[simp] theorem Chip.emit_pkg (o : Out) : (c.emit o).pkg = c.pkg := rfl
@[simp] theorem Chip.emit_uptime (o : Out) : (c.emit o).uptime = c.uptime := rfl
@[simp] theorem Chip.emit_out (o : Out) : (c.emit o).out = c.out ++ [o] := rfl
@[simp] theorem Chip.emit_freeCount (o : Out) : (c.emit o).freeCount = c.freeCount := rfl

end Sys2Proof.Machine
end

