-- ==== Sys2Proof/Tests/Slice0.lean ====
section
/-! SUPPORT. Tests of the model: ill-formed operands, values from the spec's worked examples and tables, and a
witness for the hypotheses of each statement. -/
open Sys2Proof Sys2Proof.Machine
namespace Sys2Proof.Tests

/-! One test after the other: many evaluations at once would each hold a thread. -/
set_option Elab.async false

/-! Small states. -/

/-- A package with no command waiting. -/
def st (c : Chip) : State := { chip := c, pending := [] }

/-- A package with one core, number 0. -/
def withCore (k : Core) : Chip := { Chip.zero with cores := [(0, k)] }

/-- A core that runs at the start of the context area. -/
def runCore : Core := { Core.zero with state := .run, pc := 0x10000, ctx := some 0 }

/-- The core with an instruction of class and operation `op` (bits [63:54]) and operands `w` at the start of the context area. -/
def prog (op : Nat) (w : BitVec 54) (k : Core) : Core := { k with sram := wrBytes k.sram 0x10000 (leBytes 8 (op * 2 ^ 54 + w.toNat)) }

/-- Core 0 can carry out its next instruction, and that is `i`. -/
def carriesB (k : Core) (i : Instr) : Bool :=
  k.issues && k.sramErr.isEmpty && inCtxArea k.pc.toNat 8 && !k.poisoned k.pc.toNat && k.fetched 0 == some i

/-- The core can carry out each of these instructions, of class and operation `p.1` with operands `w`, where it stands at the
start of the context area, and fetches it: `CoreReady` and `Fetches` hold together (`carries_of`). -/
def carry (k : Core) (w : BitVec 54) (is : List (Nat × (CoreId → BitVec 54 → Instr))) : Bool :=
  is.all (fun p => carriesB (prog p.1 w k) (p.2 0 w))

/-- A package with one engine, number 0. -/
def withEngine (k : Engine) : Chip := { Chip.zero with engines := [(0, k)] }

/-- An engine that runs in a window of 16 lines. -/
def runEngine : Engine := { Engine.zero with state := .run, pc := 1, ctx := some 0, winBase := 0, winLimit := 16 }

/-- A package with one link, number 0. -/
def withLink (k : Link) : Chip := { Chip.zero with links := [(0, k)] }

/-- A link that is UP at 16 lanes. -/
def upLink : Link :=
  { Link.zero with
    state := .up, width := 16, usedRx := 0xFFFF, goodRx := 0xFFFF, goodTx := 0xFFFF, goodSent := 0xFFFF
    lanes := (List.range 16).map (fun i => (i, { LaneStat.zero with state := 3, cdr := true })) }

/-- A package in a device state. -/
def inState (d : DState) : Chip := { Chip.zero with mbx := { Mbx.zero with dstate := d } }

/-- A package whose PCI Express endpoint is enabled. -/
def hostChip : Chip := { Chip.zero with pkg := { Pkg.zero with entryIn := true, pcieUp := true } }

/-- The same in a device state. -/
def hostIn (d : DState) : Chip := { hostChip with mbx := { Mbx.zero with dstate := d } }

/-- A package that the host reaches. -/
def hosted (c : Chip) : Chip := { c with pkg := { c.pkg with pcieUp := true, pcie := PcieCfg.zero } }

theorem hosted_up (c : Chip) : (hosted c).hostUp = true := rfl

/-- 64 bytes of a value. -/
def flit (b : Byte) : List Byte := List.replicate 64 b

/-- A packet with one payload flit. -/
def packet : Packet := { hdr := flit 0, flits := [flit 1] }

/-- Whether the tables are in canonical form. -/
def canonicalB (c : Chip) : Bool :=
  twf Core.zero c.cores && twf Engine.zero c.engines && twf Stack.zero c.stks && twf Link.zero c.links
    && memWf c.mem.dram && twf false c.mem.tag && twf Band.zero c.mem.bands

theorem canonical_of {c : Chip} (h : canonicalB c = true) : c.Canonical := by
  simp only [canonicalB, Bool.and_eq_true] at h
  obtain ⟨⟨⟨⟨⟨⟨a, b⟩, d⟩, e⟩, f⟩, g⟩, i⟩ := h
  exact ⟨a, b, d, e, f, g, i⟩

theorem ready_core : CoreReady (withCore runCore) 0 := ⟨by decide, by decide, by decide, by decide⟩

theorem carries_of {k : Core} {i : Instr} (h : carriesB k i = true) : CoreReady (withCore k) 0 ∧ Fetches (withCore k) 0 i := by
  simp only [carriesB, Bool.and_eq_true, Bool.not_eq_true', List.isEmpty_iff, beq_iff_eq] at h
  obtain ⟨⟨⟨⟨a, b⟩, d⟩, e⟩, f⟩ := h
  exact ⟨⟨a, b, d, e⟩, f⟩

theorem ready_engine : EngineReady (withEngine runEngine) 0 := ⟨by decide, by decide, by decide, by decide, by decide⟩

/-! Ill-formed operands are refused by the check (WellFormed). -/

theorem test_bar4_read_of_no_bytes : (Instr.bar4Read 0 0 []).wellFormed = false := by decide
theorem test_bar4_read_above_4096 : (Instr.bar4Read 0 4097 []).wellFormed = false := by decide
theorem test_bar4_write_of_no_bytes : (Instr.bar4Write 0 [] []).wellFormed = false := by decide
theorem test_bar4_write_above_512 : (Instr.bar4Write 0 (List.replicate 513 0) []).wellFormed = false := by decide +kernel
theorem test_short_header : (Instr.data 0 { hdr := [], flits := [] }).wellFormed = false := by decide
theorem test_short_flit : (Instr.credit 0 { hdr := flit 0, flits := [[0]] }).wellFormed = false := by decide
theorem test_whole_packet : (Instr.data 0 packet).wellFormed = true := by decide
theorem test_group_above_16 (w : Codeword) : (Instr.codewordReceive 0 (List.replicate 17 w)).wellFormed = false := by
  simp [Instr.wellFormed]
theorem test_slot_post_past_bar2 : (Instr.slotPost 0xFFFFF [some 0, none]).wellFormed = false := by decide
theorem test_slot_post_of_no_bytes : (Instr.slotPost 0 []).wellFormed = false := by decide
theorem test_short_nonce : (Instr.mctpAttest 0 [1] 0).wellFormed = false := by decide
theorem test_long_chunk : (Instr.mctpFwStage 0 0 2000 (List.replicate 1025 0)).wellFormed = false := by decide +kernel

/-- Two operand lists of the spec's fixed lengths: 16 contexts, 8 block classes, 24 stacks. -/
def measure : FrameMeasure :=
  { energy := List.replicate 16 0, energyPkg := 0, draws := List.replicate 8 0, losses := 0, demands := [0, 0, 0], meanPower := 0
    peakPower := 0, load := 0, paced := false }

/-- What a power window measured. -/
def window : WindowMeasure :=
  { ceiling0 := 0, ceiling1 := 255, duty0 := 15, duty1 := 15, sgaDuty := List.replicate 24 16, pace := 1, ownCurrent := 0, ballastRoom := 0 }

/-- A lane that qualifies. -/
def goodLane : LaneMeasure :=
  { corrBits := 0, corrSymbols := 0, uncorrectable := 0, hist := List.replicate 16 0, locked := true, inverted := false, params := 0 }

/-- A training attempt that finds every lane good. -/
def trained : TrainResult :=
  { signal := true, aligned := true, lanes := List.replicate 16 goodLane, peerGood := 0xFFFF, reversed := false, neighbour := 0 }

theorem test_measure_of_15_contexts : (Instr.frameBoundary { measure with energy := List.replicate 15 0 }).wellFormed = false := by decide
theorem test_window_of_no_stack : (Instr.powerWindow { window with sgaDuty := [] }).wellFormed = false := by decide
theorem test_training_of_no_lane : (Instr.linkTrainComplete 0 { trained with lanes := [] }).wellFormed = false := by decide
theorem test_requal_of_no_histogram : (Instr.requalDone 0
    { trained with lanes := List.replicate 16 { goodLane with hist := [] } }).wellFormed = false := by decide
theorem test_codeword_of_9_flits :
    (Instr.codewordReceive 0 [{ lane := 0, corrected := none, header := 0, flits := List.replicate 9 (flit 0) }]).wellFormed = false := by
  decide

/-! Values from the spec. -/

/-- What command `i` makes of a package. -/
def after (i : Instr) (c : Chip) : Chip :=
  match exec i (st c) with
  | .next s => s.chip
  | _ => Chip.zero

/-- R38, the worked example: T8[3] = 1328 at 2^-13. -/
theorem test_octave_product : OFmt.o8.product 0x2D 0 0x3E 0 = .val false 1328 (-13) := by decide
/-- R49, the worked example: 1070 x 2^-17 lies above the geometric mean. -/
theorem test_octave_boundary : (OFmt.o8.round 0 (.num false 1070 (-17))).1 = 0x09 := by decide
/-- R50, the worked example. -/
theorem test_auto_exponent :
    let vs : List Val := [.num false 3000000 (-20), .num true 45000 (-20), .num false 600 (-20), .num false 0 0]
    OFmt.o8.autoExp vs = -6 ∧ vs.map (fun v => (OFmt.o8.round (-6) v).1) = [0x7C, 0xCC, 0x1A, 0x00] := by decide
/-- R51: 450 becomes 448 in E4M3 without SAT. -/
theorem test_e4m3_450 : CFmt.e4m3.encode (.num false 450 0) = (0x7E, false) := by decide

/-- The four products of Table 2-7. -/
def products : List Prod :=
  [OFmt.o8.product 0x7F 0 0x40 0, OFmt.o8.product 0xFF 0 0x40 0, OFmt.o8.product 0x08 (-5) 0x08 (-4), OFmt.o8.product 0x35 0 0x22 0]

/-- Tables 2-7 and 2-8: both orders end with the same 96 bits. -/
theorem test_ledger_orders :
    let add := fun (l : Ledger) (p : Prod) => (l.group false 0 [p]).1
    let l := (Ledger.clear 0 (-33)).1
    (products.foldl add l).acc = 0x0EAC0400
      ∧ ([products.getD 3 .nar, products.getD 0 .nar, products.getD 2 .nar, products.getD 1 .nar].foldl add l).acc = 0x0EAC0400 := by
  decide +kernel

/-- R6, the worked example: 65,536:2,310 is stored as 0x10000906. -/
theorem test_timestamp :
    ({ Chip.zero with frm := { Machine.Frm.zero with valid := true, frame := 65536, tick := 2310 } } : Chip).now = 0x10000906 := by decide
/-- R8, the worked example: core 1,300 lies on LD1, row 2, column 8. -/
theorem test_core_1300 : coreDie 1300 = 1 ∧ coreRow 1300 = 2 ∧ coreCol 1300 = 8 := by decide
/-- R136, R137, the worked example: S22, bank column 2, column offset 1,593,701. -/
theorem test_interleave :
    let l := Fuse.default.interleave 3 2048006464
    lineStack l = 22 ∧ lineCol l = 2 ∧ lineOff l = 1593701 := by decide
/-- R42, R74: 1 + 2 in FP32, and 1 / 0. -/
theorem test_fp32 : fAdd 0x3F800000 0x40000000 = 0x40400000 ∧ fRcp 0x80000000 = 0xFF800000 := by decide
/-- R75: -0 lies below +0. -/
theorem test_fmax_of_zeros : fMax 0x80000000 0 = 0 ∧ fMin 0 0x80000000 = 0x80000000 := by decide

/-- Table 3-5: SETA, register number in [53:50], the value in [31:0]. -/
theorem test_seta : ((after (.seta 0 0xC000012345678) (withCore (prog 2 0xC000012345678 runCore))).core 0).areg 3 = 0x12345678 := by decide
/-- R66: the program counter moves on by 8 bytes. -/
theorem test_seta_pc : ((after (.seta 0 0xC000012345678) (withCore (prog 2 0xC000012345678 runCore))).core 0).pc = 0x10008 := by decide
/-- R66: a reserved bit stops the program with ILLEGAL_OP. -/
theorem test_reserved_bit : ((after (.nop 0 0x100000000) (withCore (prog 0 0x100000000 runCore))).core 0).err = 1
    ∧ ((after (.nop 0 0x100000000) (withCore (prog 0 0x100000000 runCore))).core 0).state = .stopped := by decide
/-- R90: a subtraction of more than the counter holds stops with SYNC_UNDER. -/
theorem test_subc_under : ((after (.subc 0 1) (withCore (prog 0x142 1 runCore))).core 0).err = 0x80 := by decide
/-- R84: HALT. -/
theorem test_halt : ((after (.halt 0 0) (withCore (prog 1 0 runCore))).core 0).state = .halted := by decide

/-- Table 16-3, steps 1 to 4: the driver's sequence. -/
theorem test_requal_by_alias :
    ((after (.registerWrite { off := 0x06A50008 } 4) { hostChip with links := [(5, upLink)] }).link 5).ctl.val = 0x1E := by decide
theorem test_drain_clear :
    (after (.registerWrite { off := 0x0AF0000C } 0x20) { hostChip with rte := { Rte.zero with ctl := CfgWord.of 0x21 } }).rte.ctl.val = 1 := by decide
theorem test_base_staged :
    (after (.registerWrite { off := 0x029F000C } 0x30) hostChip).mem.wBase = 0 := by decide
theorem test_base_committed :
    (after (.registerWrite { off := 0x029F0008 } 0) (after (.registerWrite { off := 0x029F000C } 0x30) hostChip)).mem.wBase = 0x3000000000 := by decide
/-- Table 16-3, steps 5 and 6. -/
theorem test_time_read :
    let c : Chip := { hostChip with frm := { Machine.Frm.zero with valid := true, frame := 812345, tick := 1200 } }
    (after (.reg64LowRead { off := 0x02C00014 }) (after (.reg64LowRead { off := 0x02C00010 }) c)).out = [.bar0Data 0xC65394B0, .bar0Data 0] := by decide
/-- R398, the worked example: the beacon of a link lost for LOS at 812,345:1,200. -/
theorem test_los_beacon :
    let c : Chip := { withLink upLink with frm := { Machine.Frm.zero with valid := true, frame := 812345, tick := 1200 } }
    ((after (.linkLos 0) c).flt.beacons.map (fun b => (b.code, b.severity, b.time, b.unit, b.arg)))
      = [(0x20, 1, 0xC65394B0, 0xFFFF, 0x10)] := by decide
/-- R416: an offset that no table lists. -/
theorem test_unlisted_write : (after (.registerWrite { off := 0x3000000 } 1) hostChip).pkg.err = 8 := by decide
/-- Reset values: LNK_CTL 0x1A, FLT_CTL 0x1040, RTE_ROUTE, FRM_SLIPMAP of odd words (Tables 7-11, 12-9, 8-5, R180). -/
theorem test_reset_values : [0x2A00008, 0x2D00008, 0x2F00100, 0x2C00404].map (fun o => (Chip.zero.readReg o).1)
    = [0x1A, 0x1040, 0x7E000000, 0xC0000000] := by decide
/-- R394: a vector of the table is masked after reset (log 6), so no message goes out. -/
theorem test_masked_vector : (after (.msixMessage 0) Chip.zero).out = [] := by decide
/-- R90: an addition that would pass the largest value. -/
theorem test_counter_add : counterAdd 0xFFFFFFFF 1 = (0xFFFFFFFF, true) := by decide
/-- R192, R193: what step does with the queue. -/
theorem test_step_takes_the_front : step { chip := Chip.zero, pending := [.heartbeat, .verdict] } = .next { chip := Chip.zero, pending := [.verdict] } := rfl

/-! Witnesses: for each clause of a statement, a state and operands that meet all its hypotheses. -/

theorem witness_idle_step : State.reset.pending = [] ∧ Chip.zero.frm.ended = false ∧ Chip.zero.frm.slipDue = false
    ∧ ({ Machine.Frm.zero with valid := true, elapsed := 4096 } : Machine.Frm).ended = true
    ∧ ∀ l : LinkId, let k := Chip.zero.link l; k.txPart = [] ∧ k.dataQ = [] ∧ k.attempt = none ∧ k.loop = [] :=
  ⟨rfl, by decide, by decide, by decide, fun _ => ⟨rfl, rfl, rfl, rfl⟩⟩
/-- An operand list of another length than the spec's keeps no command from its next state. -/
theorem test_ill_formed_completes : ∃ c, exec (.bar4Read 0 0 []) State.reset = .next { State.reset with chip := c } := ⟨_, rfl⟩
theorem canonical_zero : Chip.zero.Canonical := canonical_of (by decide)
theorem witness_step_keeps_canonical : (st Chip.zero).chip.Canonical ∧ step { st Chip.zero with pending := [.heartbeat] } = .next (st Chip.zero) :=
  ⟨canonical_zero, rfl⟩
theorem witness_step_keeps_fuses : step { st Chip.zero with pending := [.heartbeat] } = .next (st Chip.zero) := rfl

theorem witness_stalled_not_running : coreInstr (.nop 0 0) = some 0 ∧ ((st Chip.zero).chip.core 0).issues = false := by decide
theorem witness_stalled_wake_hold :
    coreInstr (.mma 0 0) = some 0 ∧ ((withCore { runCore with wakeHold := true }).core 0).issues = false := by decide
theorem witness_fetch_below_area : let k := (withCore { runCore with pc := 0xFFF8 }).core 0
    k.issues = true ∧ k.sramErr = [] ∧ inCtxArea k.pc.toNat 8 = false := by decide
theorem witness_fetch_of_poison : let k := (withCore { runCore with poison := [(1024, true)] }).core 0
    k.issues = true ∧ k.sramErr = [] ∧ inCtxArea k.pc.toNat 8 = true ∧ k.poisoned k.pc.toNat = true := by decide
theorem witness_fetch_of_reserved : let c := withCore { runCore with sram := [(0x10007, 0xFF)] }
    let k := c.core 0
    c.Canonical ∧ k.issues = true ∧ k.sramErr = [] ∧ inCtxArea k.pc.toNat 8 = true ∧ k.poisoned k.pc.toNat = false
      ∧ k.fetched 0 = none ∧ k.mq.length < 64 ∧ c.originFull = false := ⟨canonical_of (by decide), by decide⟩
/-- The core fetches NOP, whatever other instruction the sender names. -/
theorem witness_fetch_of_another : let k := (withCore runCore).core 0
    (withCore runCore).Canonical ∧ k.issues = true ∧ k.sramErr = [] ∧ inCtxArea k.pc.toNat 8 = true ∧ k.poisoned k.pc.toNat = false
      ∧ k.fetched 0 = some (.nop 0 0) ∧ Instr.nop 0 0 ≠ .mma 0 0 := ⟨canonical_of (by decide), by decide⟩
theorem witness_core_frame : coreInstr (.seta 0 5) = some 0 ∧ (withCore runCore).Canonical
    ∧ (∃ t, exec (.seta 0 5) (st (withCore runCore)) = .next t) ∧ (1 : CoreId) ≠ 0 :=
  ⟨rfl, canonical_of (by decide), ⟨_, rfl⟩, by decide⟩

/-- A level that ends at the program counter of `runCore`. -/
def level (count : Word) : LoopLevel := { first := 0x10000, last := 0x10000, count := count }

theorem witness_no_loop : runCore.loops = [] := rfl
theorem witness_inside_body : let k : Core := { runCore with loops := [{ level 2 with last := 0x10008 }] }
    k.loops = { level 2 with last := 0x10008 } :: [] ∧ (0x10008 : BitVec 20) ≠ k.pc := by decide
theorem witness_body_repeats : let k : Core := { runCore with loops := [level 2] }
    k.loops = level 2 :: [] ∧ (level 2).last = k.pc ∧ 1 < (level 2).count.toNat := by decide
theorem witness_body_left : let k : Core := { runCore with loops := [level 1] }
    k.loops = [level 1] ∧ (level 1).last = k.pc ∧ (level 1).count.toNat ≤ 1 := by decide
theorem witness_ctrl_fields : carry runCore 0 [(0, .nop), (2, .seta), (3, .adda), (7, .ifence)] = true ∧ bits (0 : BitVec 54) 37 32 = 0 := by
  decide +kernel

/-- `runCore` with a[0] = 1. -/
def oneCore : Core := { runCore with a := [(0, 1)] }

/-- LOOP of one instruction with the count in a[0]. -/
def loopWord : BitVec 54 := 0x4000000000

theorem witness_halt : (withCore (prog 1 0 oneCore)).Canonical ∧ carry oneCore 0 [(1, .halt)] = true ∧ bits (0 : BitVec 54) 37 32 = 0 :=
  ⟨canonical_of (by decide +kernel), by decide +kernel⟩
theorem witness_loop_entered : (withCore (prog 4 loopWord oneCore)).Canonical ∧ carry oneCore loopWord [(4, .loop)] = true ∧ bits loopWord 37 32 = 0
    ∧ bits loopWord 49 38 ≠ 0 ∧ oneCore.loops = [] ∧ oneCore.areg (bits loopWord 53 50) ≠ 0 :=
  ⟨canonical_of (by decide +kernel), by decide +kernel⟩
theorem witness_loop_skipped : (withCore (prog 4 loopWord runCore)).Canonical ∧ carry runCore loopWord [(4, .loop)] = true ∧ bits loopWord 37 32 = 0
    ∧ bits loopWord 49 38 ≠ 0 ∧ runCore.loops = [] ∧ runCore.areg (bits loopWord 53 50) = 0 :=
  ⟨canonical_of (by decide +kernel), by decide +kernel⟩
theorem witness_loop_of_no_body : (withCore (prog 4 0 runCore)).Canonical ∧ carry runCore 0 [(4, .loop)] = true ∧ bits (0 : BitVec 54) 37 32 = 0
    ∧ bits (0 : BitVec 54) 49 38 = 0 := ⟨canonical_of (by decide +kernel), by decide +kernel⟩
theorem witness_loop_fifth_level :
    let k : Core := { runCore with loops := [level 1, level 1, level 1, level 1] }
    carry k loopWord [(4, .loop)] = true ∧ 4 ≤ k.loops.length := by decide +kernel
theorem witness_branches : (withCore (prog 5 0 oneCore)).Canonical ∧ carry oneCore 0 [(5, .br), (6, .bnz)] = true
    ∧ carry runCore 0 [(6, .bnz)] = true := ⟨canonical_of (by decide +kernel), by decide +kernel⟩
theorem witness_branch_taken : oneCore.loops = [] ∧ oneCore.areg (bits (0 : BitVec 54) 53 50) ≠ 0 := by decide
theorem witness_branch_not_taken : runCore.loops = [] ∧ runCore.areg (bits (0 : BitVec 54) 53 50) = 0 := by decide
theorem witness_branch_out_of_body :
    let k : Core := { runCore with loops := [{ level 1 with first := 0x10008, last := 0x10010 }] }
    carry k 0 [(5, .br), (6, .bnz)] = true
      ∧ (k.pc + BitVec.ofInt 20 (8 * sgn 24 (bits (0 : BitVec 54) 23 0))).toNat < (0x10008 : BitVec 20).toNat := by decide +kernel

/-- One word meets every hypothesis on reserved bits. -/
theorem witness_reserved_bits : let w : BitVec 54 := 0x3FFFFFFFFFFFFF
    carry runCore w [(0, .nop), (2, .seta), (3, .adda), (4, .loop), (5, .br), (6, .bnz), (7, .ifence), (0x41, .moveF), (0x140, .setc)
      , (0x141, .addc), (0x142, .subc), (0x143, .syncWait), (0x145, .rdc), (0x180, .tickWait), (0x181, .tickNext), (0x182, .tickRd)
      , (0x100, .ledgClr), (0x102, .ledgFlg), (0x103, .ledgSave), (0x104, .ledgLoad), (0x105, .ledgDig), (0xCC, .vcmp), (0xD1, .vmova)
      , (0xD0, .vomul), (0xC0, .vld), (0xC1, .vst)] = true ∧ bits w 37 32 ≠ 0 ∧ bits w 53 0 ≠ 0 ∧ bit w 32 = true ∧ bits w 49 12 ≠ 0 ∧ bits w 27 0 ≠ 0
      ∧ bits w 37 0 ≠ 0 ∧ bits w 35 0 ≠ 0 ∧ bits w 41 38 ≠ 0 ∧ bits w 41 0 ≠ 0 ∧ 3 < bits w 5 0 ∧ 1 < bits w 5 0 ∧ 9 < bits w 17 14 := by decide +kernel
theorem witness_reserved_image_bits : let w : BitVec 54 := 1 * 2 ^ 38
    bits w 41 38 ≠ 0 ∧ bits w 35 0 = 0 := by decide
theorem witness_first_reserved_sub : 3 < bits (4 : BitVec 54) 5 0 ∧ 1 < bits (2 : BitVec 54) 5 0 ∧ bits (6 * 2 ^ 14 : BitVec 54) 17 14 < 7
    ∧ 9 < bits (10 * 2 ^ 14 : BitVec 54) 17 14 := by decide
theorem witness_vector_carried : carry runCore 0 [(0xC2, .vadd), (0xC3, .vsub), (0xC4, .vmul), (0xC5, .vfma), (0xC6, .vmax), (0xC7, .vmin)
    , (0xC8, .vexp2), (0xC9, .vlog2), (0xCA, .vrcp), (0xCB, .vrsq), (0xCC, .vcmp), (0xCD, .vsel), (0xCE, .vsum), (0xCF, .vmaxr)
    , (0xD1, .vmova)] = true := by decide +kernel
theorem witness_write_back : twf 0 runCore.v = true ∧ 31 < 32 ∧ (1 : Nat) ≠ 0 := by decide
theorem witness_vcmp_sub : carry runCore 3 [(0xCC, .vcmp)] = true ∧ bits (3 : BitVec 54) 5 0 ≤ 3 := by decide +kernel
theorem witness_vomul_format : let w : BitVec 54 := 7 * 2 ^ 14
    carry runCore w [(0xD0, .vomul)] = true ∧ rawOf (bits w 17 14) = some .o8 := by decide +kernel
theorem witness_select : (0x7FC00001 : Word) = 0x7FC00001 ∧ (0 : Word) ≠ 0x7FC00001 ∧ bits (0x7F800001 : Word) 30 23 = 255
    ∧ bits (0x7F800001 : Word) 22 0 ≠ 0 ∧ (0x7F800001 : Word) ≠ 0x7FC00001 ∧ bits (0x7F800000 : Word) 22 0 = 0
    ∧ bits (0 : Word) 30 23 ≠ 255 := by decide
theorem witness_vmova_subs : carry runCore 1 [(0xD1, .vmova)] = true ∧ bits (0 : BitVec 54) 5 0 = 0 ∧ bits (1 : BitVec 54) 5 0 = 1 := by decide +kernel
theorem witness_vsum_finite : carry runCore 0 [(0xCE, .vsum)] = true ∧ ∀ a ∈ runCore.vreg 0, bits a 30 23 ≠ 255 := by
  have h : (runCore.vreg 0).all (fun a => decide (bits a 30 23 ≠ 255)) = true := by decide +kernel
  exact ⟨by decide +kernel, fun a ha => of_decide_eq_true (List.all_eq_true.1 h a ha)⟩
theorem witness_vsum_infinities : let k : Core := { runCore with v := [(0, 0x7F800000), (31, 0xFF800000)] }
    carry k 0 [(0xCE, .vsum)] = true ∧ (0x7F800000 : Word) ∈ k.vreg 0 ∧ (0xFF800000 : Word) ∈ k.vreg 0 ∧ (0x7FC00001 : Word) ∉ k.vreg 0 := by
  decide +kernel
theorem witness_vsum_order : let k : Core := { runCore with v := [(0, 0x7F800000)] }
    (k.vreg 0).reverse.Perm (k.vreg 0) := List.reverse_perm _

/-- A core whose a[0] points into the context area. -/
def ptrCore (a : Word) : Core := { runCore with a := [(0, a)] }

theorem ready_ptr (a : Word) : CoreReady (withCore (ptrCore a)) 0 := ⟨rfl, rfl, rfl, rfl⟩

theorem witness_vld_in_area : carry (ptrCore 0x10040) 0 [(0xC0, .vld), (0xC1, .vst)] = true ∧ vecFmt (bits (0 : BitVec 54) 17 14) = some (.oct .o8)
    ∧ (blockRef (.oct .o8) ((ptrCore 0x10040).opAddr 0 0) 0).base % 64 = 0
    ∧ (blockRef (.oct .o8) ((ptrCore 0x10040).opAddr 0 0) 0).inArea = true := by decide +kernel
theorem witness_vld_unaligned : carry (ptrCore 0x10001) 0 [(0xC0, .vld), (0xC1, .vst)] = true
    ∧ (blockRef (.oct .o8) ((ptrCore 0x10001).opAddr 0 0) 0).base % 64 ≠ 0 := by decide +kernel
theorem witness_vld_below_area : carry (ptrCore 0xFFC0) 0 [(0xC0, .vld), (0xC1, .vst)] = true
    ∧ (blockRef (.oct .o8) ((ptrCore 0xFFC0).opAddr 0 0) 0).base % 64 = 0
    ∧ (blockRef (.oct .o8) ((ptrCore 0xFFC0).opAddr 0 0) 0).inArea = false := by decide +kernel
theorem witness_vst_words : carry (ptrCore 0x10040) (6 * 2 ^ 14) [(0xC1, .vst)] = true ∧ vecFmt (bits (6 * 2 ^ 14 : BitVec 54) 17 14) = some (.conv .fp32) ∧ rawOf (bits (6 * 2 ^ 14 : BitVec 54) 17 14) = none
    ∧ (blockRef (.conv .fp32) 0x10040 0).inArea = true := by decide +kernel
theorem witness_vst_raw : carry (ptrCore 0x10040) (7 * 2 ^ 14) [(0xC1, .vst)] = true ∧ vecFmt (bits (7 * 2 ^ 14 : BitVec 54) 17 14) = some (.oct .o8) ∧ rawOf (bits (7 * 2 ^ 14 : BitVec 54) 17 14) ≠ none
    ∧ ((ptrCore 0x10040).vreg 0).all (fun l => bits l 23 16 == bits (((ptrCore 0x10040).vreg 0).getD 0 0) 23 16) = true := by decide +kernel
theorem witness_vst_converted : vecFmt (bits (0 : BitVec 54) 17 14) = some (.oct .o8) ∧ rawOf (bits (0 : BitVec 54) 17 14) = none
    ∧ (Fmt.oct .o8 ≠ .conv .fp32) ∧ (BitVec.ofNat 8 (bits (0 : BitVec 54) 43 36) : Byte) ≠ 0x80 := by decide
theorem witness_vst_exponent_of_nar : let w : BitVec 54 := 0x80 * 2 ^ 36
    carry (ptrCore 0x10040) w [(0xC1, .vst)] = true ∧ vecFmt (bits w 17 14) = some (.oct .o8) ∧ rawOf (bits w 17 14) = none ∧ bit w 0 = false
      ∧ (BitVec.ofNat 8 (bits w 43 36) : Byte) = 0x80 := by decide +kernel

/-- An MMA of one slab of eight rows: A register 0 for both operands, NBLK 1. -/
def mmaWord : BitVec 54 := 1 * 2 ^ 6 + 3 * 2 ^ 14

theorem witness_mma_runs : let k := ptrCore 0x10040
    let o := mmaOp mmaWord k
    carry k mmaWord [(0x80, .mma)] = true
      ∧ mmaFormats (bits mmaWord 5 3) (bits mmaWord 2 0) = true ∧ ¬ (64 < o.lb + o.rows ∨ o.w % 64 ≠ 0 ∨ o.x % 64 ≠ 0)
      ∧ inCtxArea o.w o.wBytes = true ∧ inCtxArea o.x o.xBytes = true := by decide +kernel
theorem witness_mma_completes : let c := withCore (prog 0x80 mmaWord (ptrCore 0x10040))
    let k := c.core 0
    let o := mmaOp mmaWord k
    let r := o.run (c.lprot k.ctx) k
    c.Canonical ∧ twf Ledger.zero k.ledgers = true ∧ (k.poisonedIn o.w o.wBytes ++ k.poisonedIn o.x o.xBytes).eraseDups = []
      ∧ r.2.parity = false ∧ r.2.residue = false :=
  ⟨canonical_of (by decide +kernel), by decide +kernel, by decide +kernel, by decide +kernel, by decide +kernel⟩
theorem witness_mma_formats : carry runCore 1 [(0x80, .mma)] = true ∧ mmaFormats (bits (1 : BitVec 54) 5 3) (bits (1 : BitVec 54) 2 0) = false := by
  decide +kernel
theorem witness_mma_range : let w := mmaWord + 0x3F0000
    let o := mmaOp w (ptrCore 0x10040)
    carry (ptrCore 0x10040) w [(0x80, .mma)] = true ∧ mmaFormats (bits w 5 3) (bits w 2 0) = true ∧ 64 < o.lb + o.rows := by decide +kernel
theorem witness_mma_outside : let o := mmaOp mmaWord (ptrCore 0)
    carry (ptrCore 0) mmaWord [(0x80, .mma)] = true
      ∧ ¬ (64 < o.lb + o.rows ∨ o.w % 64 ≠ 0 ∨ o.x % 64 ≠ 0) ∧ ¬ (inCtxArea o.w o.wBytes = true ∧ inCtxArea o.x o.xBytes = true) := by
  decide +kernel

theorem witness_group_adds : let l := (Ledger.clear 0 (-33)).1
    l.read false = (l, {}) ∧ l.nar = false ∧ 0 = l.mode ∧ modeDefined (0 : BitVec 3) = true ∧ l.count.toNat + products.length ≤ 2 ^ 48
      ∧ products.all (fun q => match q with
        | .nar => false
        | .val _ _ pe => decide (pe - l.g.toInt ≤ smax 0)
        | .zero => true) = true
      ∧ (1 : BitVec 3) ≠ l.mode ∧ products ≠ [] ∧ smax 0 < (200 : Int) - l.g.toInt := by decide +kernel
theorem witness_ledger_range_in : let w : BitVec 54 := 63 * 2 ^ 42
    carry runCore w [(0x100, .ledgClr), (0x103, .ledgSave), (0x104, .ledgLoad), (0x105, .ledgDig)] = true ∧ bits w 53 48 + bits w 47 42 ≤ 63
      ∧ bits w 27 0 = 0 ∧ bits w 35 0 = 0 ∧ bits w 41 0 = 0 := by decide +kernel
theorem witness_ledger_flags : let w : BitVec 54 := 63 * 2 ^ 48
    carry runCore w [(0x102, .ledgFlg)] = true ∧ bits w 47 42 = 0 ∧ bits w 37 0 = 0 := by decide +kernel
theorem witness_ledger_range_out : let w : BitVec 54 := 1 * 2 ^ 48 + 63 * 2 ^ 42
    carry runCore w [(0x100, .ledgClr), (0x103, .ledgSave), (0x104, .ledgLoad), (0x105, .ledgDig)] = true
      ∧ 63 < bits w 53 48 + bits w 47 42 ∧ bits w 27 0 = 0 ∧ bits w 35 0 = 0 ∧ bits w 41 0 = 0 := by decide +kernel
theorem witness_cvt_runs : let w : BitVec 54 := 0
    let k := ptrCore 0x10040
    carry k w [(0x101, .ledgCvt)] = true ∧ carry k 0x1000 [(0x101, .ledgCvt)] = true
      ∧ fmtOf (bits w 25 22) = some (.oct .o8) ∧ cvtLegal w = true ∧ ¬ (63 < bits w 53 48 + bits w 47 42) ∧ bit w 21 = false
      ∧ (BitVec.ofNat 8 (bits w 20 13) : Byte) ≠ 0x80 ∧ k.opAddr 0 0 % 64 = 0
      ∧ (blockRef (.oct .o8) (k.opAddr 0 0) 0).inArea = true ∧ bit w 12 = false ∧ bit (0x1000 : BitVec 54) 12 = true
      ∧ cvtLegal 0x1000 = true := by decide +kernel
theorem witness_cvt_illegal : let w : BitVec 54 := 1 * 2 ^ 21
    carry (ptrCore 0x10040) w [(0x101, .ledgCvt)] = true ∧ cvtLegal w = false ∧ fmtOf (bits w 25 22) = some (.oct .o8) := by decide +kernel
theorem witness_cvt_bad : let w : BitVec 54 := 0x80 * 2 ^ 13
    carry (ptrCore 0x10040) w [(0x101, .ledgCvt)] = true
      ∧ cvtLegal w = true ∧ bits w 25 22 < 3 ∧ bit w 21 = false ∧ (BitVec.ofNat 8 (bits w 20 13) : Byte) = 0x80 := by decide +kernel
theorem witness_cvt_outside : carry (ptrCore 0) 0 [(0x101, .ledgCvt)] = true
    ∧ (blockRef (.oct .o8) ((ptrCore 0).opAddr 0 0) 0).inArea = false ∧ (ptrCore 0).opAddr 0 0 % 64 = 0 := by decide +kernel

/-- A core whose counter 0 holds the largest value. -/
def fullCore : Core := { runCore with ctr := [(0, 0xFFFFFFFF)] }

theorem witness_counter_fields : carry runCore 1 [(0x140, .setc), (0x145, .rdc)] = true ∧ bit (1 : BitVec 54) 32 = false
    ∧ bits (1 : BitVec 54) 40 33 = 0 ∧ bits (1 : BitVec 54) 53 46 = 0 ∧ BitVec.ofNat 32 (bits (1 : BitVec 54) 31 0) = (1 : Word) := by
  decide +kernel
theorem witness_addc_room : carry runCore 0xFFFFFFFF [(0x141, .addc)] = true
    ∧ (runCore.counter 0).toNat + (0xFFFFFFFF : Word).toNat ≤ 0xFFFFFFFF := by decide +kernel
theorem witness_addc_over : carry fullCore 1 [(0x141, .addc)] = true ∧ 0xFFFFFFFF < (fullCore.counter 0).toNat + (1 : Word).toNat := by
  decide +kernel
theorem witness_subc_all : carry fullCore 0xFFFFFFFF [(0x142, .subc)] = true ∧ (0xFFFFFFFF : Word).toNat ≤ (fullCore.counter 0).toNat := by
  decide +kernel
theorem witness_subc_under : carry runCore 1 [(0x142, .subc)] = true ∧ (runCore.counter 0).toNat < (1 : Word).toNat := by decide +kernel
theorem witness_wait_met : carry runCore 0 [(0x143, .syncWait)] = true ∧ bit (0 : BitVec 54) 32 = false
    ∧ (BitVec.ofNat 32 (bits (0 : BitVec 54) 31 0) : Word).toNat ≤ (runCore.counter 0).toNat := by decide +kernel
theorem witness_wait_unmet : carry runCore 1 [(0x143, .syncWait)] = true
    ∧ (runCore.counter 0).toNat < (BitVec.ofNat 32 (bits (1 : BitVec 54) 31 0) : Word).toNat := by decide +kernel

/-- A core that waits. -/
def waiting (w : Wait) : Core := { runCore with state := .waitSync, wait := w }

theorem witness_wait_resumes : ((withCore (waiting (.sync 0 0 none))).core 0).wait = .sync 0 0 none
    ∧ (0 : Word).toNat ≤ ((waiting (.sync 0 0 none)).counter 0).toNat := by decide
theorem witness_wait_goes_on : ((withCore (waiting (.sync 0 1 (some 0)))).core 0).wait = .sync 0 1 (some 0)
    ∧ ((waiting (.sync 0 1 (some 0))).counter 0).toNat < (1 : Word).toNat := by decide
theorem witness_ticks : carry runCore 0 [(0x180, .tickWait), (0x181, .tickNext), (0x182, .tickRd)] = true
    ∧ carry runCore 4095 [(0x180, .tickWait)] = true ∧ bits (0 : BitVec 54) 49 12 = 0
    ∧ (withCore runCore).frm.passed (BitVec.ofNat 12 (bits (0 : BitVec 54) 11 0) : BitVec 12).toNat = false
    ∧ (BitVec.ofNat 12 (bits (0 : BitVec 54) 11 0) : BitVec 12).toNat ≤ (withCore runCore).frm.tick
    ∧ (withCore runCore).frm.tick < (BitVec.ofNat 12 (bits (4095 : BitVec 54) 11 0) : BitVec 12).toNat := by decide +kernel
theorem witness_tick_past : let c : Chip := { withCore runCore with frm := { Machine.Frm.zero with tick := 4095 } }
    carry runCore 4094 [(0x180, .tickWait)] = true ∧ c.frm.passed (BitVec.ofNat 12 (bits (4094 : BitVec 54) 11 0) : BitVec 12).toNat = true := by
  decide +kernel

/-- A frame whose first slip tick, 33, is skipped, at the tick that follows it. -/
def skippedFrm : Machine.Frm := { Machine.Frm.zero with valid := true, slipNow := -1, slipMap := [(1, CfgWord.of 2)], tick := 34 }

/-- R183: a skipped tick counts as reached with the tick that follows it, and has been passed one tick later. -/
theorem test_skipped_tick : skippedFrm.passed 33 = false ∧ ({ skippedFrm with tick := 35 } : Machine.Frm).passed 33 = true
    ∧ skippedFrm.passed 32 = true ∧ skippedFrm.slipUsed 33 = true := by decide +kernel
theorem witness_skipped_tick : let c : Chip := { withCore (waiting (.tick 33)) with frm := skippedFrm }
    (c.core 0).wait = .tick 33 ∧ (33 : BitVec 12).toNat ≤ c.frm.tick ∧ c.frm.passed (33 : BitVec 12).toNat = false
      ∧ carry runCore 33 [(0x180, .tickWait)] = true := by decide +kernel
theorem witness_tick_resumes : ((withCore (waiting (.tick 0))).core 0).wait = .tick 0 ∧ (0 : BitVec 12).toNat ≤ Chip.zero.frm.tick
    ∧ Chip.zero.frm.passed (0 : BitVec 12).toNat = false
    ∧ ((withCore (waiting (.tick 1))).core 0).wait = .tick 1 ∧ Chip.zero.frm.tick < (1 : BitVec 12).toNat := by decide
theorem witness_tick_resumes_late : let c : Chip := { withCore (waiting (.tick 1)) with frm := { Machine.Frm.zero with tick := 2 } }
    (c.core 0).wait = .tick 1 ∧ c.frm.passed (1 : BitVec 12).toNat = true := by decide
theorem witness_wake_clock : (withCore runCore).Canonical ∧ runCore.clock.off = false
    ∧ ({ runCore with clock := { runCore.clock with off := true } } : Core).clock.off = true := ⟨canonical_of (by decide), by decide⟩
theorem witness_core_idle : (withCore (waiting (.sync 0 1 none))).Canonical ∧ (waiting (.sync 0 1 none)).state = .waitSync
    ∧ (waiting (.sync 0 1 none)).ballast = false := ⟨canonical_of (by decide), by decide⟩
theorem witness_wake_granted :
    4 ≤ ({ Chip.zero with pwr := { Pwr.zero with wokeAt := [(0, (1, 4))] } } : Chip).tokensUsed (0 : Fin 2) := by decide
theorem witness_wake_grant : let c := withCore { runCore with wakeHold := true }
    c.Canonical ∧ c.tokensUsed (0 : Fin 2) < 4 ∧ coreDie (0 : CoreId).val = (0 : Fin 2).val ∧ ∀ m : CoreId, (c.core m).wakeHold = true ↔ m = 0 := by
  refine ⟨canonical_of (by decide), by decide, by decide, fun m => ?_⟩
  by_cases h : m = 0
  · subst h; simp [withCore, Chip.core, tget]
  · have : m.val ≠ 0 := fun e => h (Fin.ext e)
    have e : (0 : Nat) ≠ m.val := fun q => this q.symm
    simp [withCore, Chip.core, tget, h, Core.zero, e]

/-- A descriptor of one granule loaded from local address 0 of the package to the start of the context area. -/
def desc : MoveDesc := { w0 := 1 * 2 ^ 30, w1 := 0x10000, w2 := 0, w3 := 0 }

/-- The descriptor in the queue, taken in frame 0. -/
def queued : QueuedMove := { desc := desc, frame := 0 }

/-- The move in flight. -/
def flight (kind : Dword) : Flight :=
  { desc := { desc with w0 := kind <<< 60 ||| desc.w0 }, ctx := some 0, gen := 0, step := none, frame := 0, src := [{ data := flit 7, poison := false }], done := [] }

/-- Band row 0 belongs to context 0. -/
def ownedMem : MemSys := { MemSys.zero with bands := [(0, { Band.zero with valid := true })] }

theorem witness_move_queue_full : let k : Core := { runCore with mq := List.replicate 64 queued }
    64 ≤ ((withCore k).core 0).mq.length := by decide +kernel
theorem witness_move_enqueued : let k := ptrCore 0x10040
    carry k 0 [(0x40, .moveQ)] = true ∧ k.mq.length < 64 ∧ bits (0 : BitVec 54) 49 20 = 0 ∧ bits (0 : BitVec 54) 19 0 % 32 = 0
      ∧ inCtxArea 0x10040 32 = true ∧ (k.descAt 0x10040).legal = true ∧ (k.descAt 0x10040).localOk = true := by decide +kernel
theorem witness_move_offset : carry (ptrCore 0x10040) 31 [(0x40, .moveQ)] = true
    ∧ ¬ (bits (31 : BitVec 54) 49 20 = 0 ∧ bits (31 : BitVec 54) 19 0 % 32 = 0) := by decide +kernel
theorem witness_move_outside : carry (ptrCore 0xFFE1) 0 [(0x40, .moveQ)] = true ∧ inCtxArea ((ptrCore 0xFFE1).areg 0).toNat 32 = false := by
  decide +kernel
theorem witness_move_illegal : let k : Core := { ptrCore 0x10040 with sram := [(0x10040, 1)] }
    carry k 0 [(0x40, .moveQ)] = true ∧ (k.descAt 0x10040).legal = false := by decide +kernel
theorem witness_move_local_side : let k : Core := { ptrCore 0x10040 with sram := [(0x10048, 1)] }
    carry k 0 [(0x40, .moveQ)] = true ∧ (k.descAt 0x10040).legal = true ∧ (k.descAt 0x10040).localOk = false := by decide +kernel
theorem witness_move_fence : carry runCore 0 [(0x41, .moveF)] = true ∧ carry { runCore with mq := [queued] } 0 [(0x41, .moveF)] = true
    ∧ bits (0 : BitVec 54) 53 0 = 0 ∧ runCore.mq = [] ∧ ({ runCore with mq := [queued] } : Core).mq ≠ [] := by decide +kernel
theorem witness_fence_waits : let k : Core := { runCore with wait := .fence }
    k.wait = .fence ∧ k.mq = [] ∧ ({ k with mq := [queued] } : Core).wait = .fence := by decide

theorem witness_mover_busy : let k : Core := { runCore with mq := [queued], flights := List.replicate 4 (flight 0) }
    k.mq = queued :: [] ∧ 4 ≤ k.flights.length := ⟨rfl, by decide +kernel⟩
theorem witness_move_not_due : (Chip.zero.moveDue { queued with desc := { desc with w0 := 1 * 2 ^ 59 + 4095 * 2 ^ 46 } }).1 = false := by decide +kernel
theorem witness_move_empty : let d : MoveDesc := { desc with w0 := 0 }
    let c := (withCore runCore).setCore 0 runCore
    (Chip.zero.moveDue { desc := d, frame := 0 }).1 = true ∧ c.remoteOk 0 d = true
      ∧ c.remoteOk 0 { d with w0 := 1 * 2 ^ 21 } = true ∧ c.remoteOk 0 { d with w2 := 1 } = false ∧ ({ d with w2 := 1 } : MoveDesc).len = 0
      ∧ d.len = 0 ∧ d.lce = false ∧ ({ d with w0 := 1 * 2 ^ 21 } : MoveDesc).lce = true
      ∧ ({ d with w0 := 1 * 2 ^ 21 } : MoveDesc).len = 0 := by decide
theorem witness_move_launched : let c : Chip := { withCore { runCore with mq := [queued] } with mem := ownedMem }
    (c.core 0).mq = queued :: [] ∧ (c.core 0).flights.length < 4 ∧ (c.moveDue queued).1 = true ∧ desc.len ≠ 0
      ∧ (c.setCore 0 runCore).remoteOk 0 desc = true := by decide
theorem witness_move_refused : let c := withCore { runCore with mq := [queued] }
    desc.len ≠ 0 ∧ (c.setCore 0 runCore).remoteOk 0 desc = false := by decide
theorem witness_flights : let k : Core := { runCore with flights := [flight 0, flight 1, flight 2] }
    k.flightAt 0 0 0 = some (flight 0) ∧ k.flightAt 1 1 0 = some (flight 1) ∧ k.flightAt 2 2 0 = some (flight 2)
      ∧ (withCore k).isRemote (flight 0).ctx (flight 0).desc = false ∧ (withCore k).isRemote (flight 1).ctx (flight 1).desc = false
      ∧ k.flights[3]? = none := by decide
theorem witness_granule_accepted : runCore.accepts (some 0) 0 = true ∧ runCore.accepts (some 0) 1 = false ∧ runCore.accepts none 0 = false := by
  decide

/-- ARRIVE with VAL 1 to core 0 of the own package (63), and of package 5. -/
def arriveOwn : BitVec 54 := 63 * 2 ^ 28 + 1 * 2 ^ 20

/-- ARRIVE to package 5. -/
def arriveFar : BitVec 54 := 5 * 2 ^ 28 + 1 * 2 ^ 20

theorem witness_arrive_own : let c := withCore (prog 0x144 arriveOwn runCore)
    c.Canonical ∧ carry runCore arriveOwn [(0x144, .arrive)] = true ∧ c.arriveOk arriveOwn = true ∧ c.isOwn (arriveOp arriveOwn).dpkg = true :=
  ⟨canonical_of (by decide +kernel), by decide +kernel⟩
theorem witness_arrive_far : let c := withCore (prog 0x144 arriveFar runCore)
    c.Canonical ∧ carry runCore arriveFar [(0x144, .arrive)] = true
      ∧ c.arriveOk arriveFar = true ∧ c.isOwn (arriveOp arriveFar).dpkg = false ∧ c.rte.origin.length < 32 :=
  ⟨canonical_of (by decide +kernel), by decide +kernel⟩
theorem witness_arrive_stalled :
    let c : Chip := { withCore runCore with rte := { Rte.zero with origin := List.replicate 32 { pkt := packet, inLink := none } } }
    c.Canonical ∧ CoreReady c 0 ∧ c.arriveOk arriveFar = true ∧ 32 ≤ c.rte.origin.length :=
  ⟨canonical_of (by decide +kernel), ⟨rfl, by decide +kernel, by decide +kernel, by decide +kernel⟩, by decide +kernel⟩
/-- ARRIVE to a spare site of package 5. -/
def arriveSpare : BitVec 54 := 5 * 2 ^ 28 + 11 * 2 ^ 34 + 1 * 2 ^ 20

theorem witness_arrive_spare : let c := withCore (prog 0x144 arriveSpare runCore)
    carry runCore arriveSpare [(0x144, .arrive)] = true ∧
    c.arriveOk arriveSpare = true ∧ c.isOwn (arriveOp arriveSpare).dpkg = false ∧ isSpareSite (arriveOp arriveSpare).dcore.toNat = true
      ∧ (arriveOp arriveSpare).dcore.toNat < 2448 ∧ isSpareSite (arriveOp arriveFar).dcore.toNat = false := by decide +kernel
theorem witness_arrive_illegal : carry runCore 0 [(0x144, .arrive)] = true ∧ (withCore (prog 0x144 0 runCore)).arriveOk 0 = false := by decide +kernel

/-- An arrival for a number. -/
def arrival (d : BitVec 12) : Arrival := { dcore := d, ctr := 0, amount := 1, ctx := 0, gen := 0 }

theorem witness_delivery : let c : Chip := { withCore runCore with
      engines := [(0, runEngine)], rte := { Rte.zero with arrivals := [arrival 0, arrival 2560, arrival 2448] } }
    c.rte.arrivals[0]? = some (arrival 0) ∧ unitOf (arrival 0).dcore.toNat = some (.core 0) ∧ c.coreServed 0 = true
      ∧ c.rte.arrivals[1]? = some (arrival 2560) ∧ unitOf (arrival 2560).dcore.toNat = some (.engine 0) ∧ c.engineServed 0 = true
      ∧ c.rte.arrivals[2]? = some (arrival 2448) ∧ c.destServed (arrival 2448).dcore.toNat = false
      ∧ Chip.zero.destServed (arrival 0).dcore.toNat = false := by decide

/-- A Saiga command of eight zero words. -/
def zeroWords : SgaWords := { w0 := 0, w1 := 0, w2 := 0, w3 := 0, w4 := 0, w5 := 0, w6 := 0, w7 := 0 }

/-- A package whose engine 0 runs at column offset 1, where a command with operation byte `op` stands. -/
def sgaProg (op : Byte) (w : SgaWords) : Chip :=
  { withEngine runEngine with mem := { MemSys.zero with dram := wrBytes [] (64 * engLine 0 1) (sgaBytes op w) } }

/-- Whether engine 0 fetches the command. -/
def fetchesB (c : Chip) (op : Byte) (w : SgaWords) : Bool :=
  let t := c.fetching 0 w
  !t.tag (c.sgaLine 0) && !t.sgaLineReserved 0 (c.engine 0).pc.toNat && t.lineBytes (c.sgaLine 0) == sgaBytes op w

/-- Whether it is legal so far as its reserved bits and its signal go. -/
def legalB (c : Chip) (op : Byte) (w : SgaWords) (fields : List Dword) : Bool :=
  fetchesB c op w && reservedZero w fields && (c.taking 0 op w).signalOk w

theorem legal_of {c : Chip} {op : Byte} {w : SgaWords} {f : List Dword} (h : legalB c op w f = true) : SgaLegal c 0 op w f := by
  simp only [legalB, fetchesB, Bool.and_eq_true, Bool.not_eq_true', beq_iff_eq] at h
  exact ⟨⟨h.1.1.1.1, h.1.1.1.2, h.1.1.2⟩, h.1.2, h.2⟩

theorem ready_prog (op : Byte) (w : SgaWords) : EngineReady (sgaProg op w) 0 := ⟨rfl, rfl, rfl, rfl, rfl⟩

theorem witness_saiga_legal :
    (∀ f ∈ [(0x00, []), (0x01, []), (0x02, [maskOf 51 40, maskOf 31 0]), (0x03, [maskOf 12 0]), (0x04, [])
      , (0x05, [maskOf 51 48, maskOf 31 0]), (0x06, [0, maskOf 24 0])],
      EngineReady (sgaProg f.1 zeroWords) 0 ∧ SgaLegal (sgaProg f.1 zeroWords) 0 f.1 zeroWords f.2) ∧ sgaSig zeroWords = false :=
  ⟨fun f hf => ⟨ready_prog _ _, legal_of (List.all_eq_true.mp (by decide +kernel : List.all _ (fun (f : Byte × List Dword) =>
    legalB (sgaProg f.1 zeroWords) f.1 zeroWords f.2) = true) f hf)⟩, by decide⟩
/-- SIG set: VAL 1 to core 0 of the own package. -/
def signalWords : SgaWords := { zeroWords with w0 := 1 * 2 ^ 55, w7 := 63 * 2 ^ 28 + 1 }

theorem witness_saiga_wait : (withEngine runEngine).Canonical ∧ (BitVec.ofNat 32 (bits zeroWords.w1 31 0) : Word).toNat ≤ (runEngine.counter 0).toNat
    ∧ (runEngine.counter 0).toNat < (BitVec.ofNat 32 (bits ({ zeroWords with w1 := 1 } : SgaWords).w1 31 0) : Word).toNat :=
  ⟨canonical_of (by decide), by decide⟩
theorem witness_saiga_tick : bit zeroWords.w0 12 = false ∧ (BitVec.ofNat 12 (bits zeroWords.w0 11 0) : BitVec 12).toNat ≤ Chip.zero.frm.tick
    ∧ Chip.zero.frm.passed (BitVec.ofNat 12 (bits zeroWords.w0 11 0) : BitVec 12).toNat = false
    ∧ bit (0x1000 : Dword) 12 = true ∧ Chip.zero.frm.tick < (BitVec.ofNat 12 (bits (1 : Dword) 11 0) : BitVec 12).toNat
    ∧ ({ Machine.Frm.zero with tick := 1 } : Machine.Frm).passed (BitVec.ofNat 12 (bits zeroWords.w0 11 0) : BitVec 12).toNat = true := by decide
theorem witness_saiga_waits : let k : Engine := { runEngine with wait := .sync 0 1 (some 0) }
    (withEngine k).Canonical ∧ k.wait = .sync 0 1 (some 0) ∧ (k.counter 0).toNat < (1 : Word).toNat
      ∧ ({ k with wait := .sync 0 0 none } : Engine).wait = .sync 0 0 none ∧ (0 : Word).toNat ≤ (k.counter 0).toNat :=
  ⟨canonical_of (by decide), by decide⟩
theorem witness_saiga_tick_waits : let k : Engine := { runEngine with wait := .tick 0 }
    k.wait = .tick 0 ∧ (0 : BitVec 12).toNat ≤ (withEngine k).frm.tick ∧ (withEngine k).frm.passed (0 : BitVec 12).toNat = false
      ∧ ({ withEngine k with frm := { Machine.Frm.zero with tick := 1 } } : Chip).frm.passed (0 : BitVec 12).toNat = true := by decide
theorem witness_saiga_completes : let c := withEngine runEngine
    let full : Chip := { c with rte := { Rte.zero with origin := List.replicate 32 { pkt := packet, inLink := none } } }
    c.Canonical ∧ (c.engine 0).state ≠ .quarantined ∧ c.isOwn 63 = true ∧ c.isOwn 5 = false ∧ c.rte.origin.length < 32
      ∧ 32 ≤ full.rte.origin.length := ⟨canonical_of (by decide), by decide +kernel⟩

/-- ATTN of no position: DK 1, SCO, a scale of 1. -/
def attnWords : SgaWords := { zeroWords with w0 := 1 * 2 ^ 43 + 1 * 2 ^ 15, w5 := 0x3F800000, w6 := 264 }

theorem witness_attn : let c := sgaProg 0x11 attnWords
    SgaLegal c 0 0x11 attnWords attnFields ∧ (attnOp attnWords).legal attnWords = true
      ∧ (c.taking 0 0x11 attnWords).covers 0 (attnOp attnWords).ranges = true ∧ (attnOp attnWords).p1 ≤ (attnOp attnWords).p0
      ∧ (attnOp attnWords).sco = true ∧ (attnOp zeroWords).sco = false := ⟨legal_of (by decide +kernel), by decide +kernel⟩
theorem witness_attn_bounds : let w : SgaWords := { attnWords with w1 := 15, w4 := 1 }
    let c := sgaProg 0x11 w
    SgaLegal c 0 0x11 w attnFields ∧ (attnOp w).legal w = true ∧ (c.taking 0 0x11 w).covers 0 (attnOp w).ranges = false :=
  ⟨legal_of (by decide +kernel), by decide +kernel⟩
theorem witness_attn_illegal : SgaLegal (sgaProg 0x11 zeroWords) 0 0x11 zeroWords attnFields ∧ (attnOp zeroWords).legal zeroWords = false :=
  ⟨legal_of (by decide +kernel), by decide⟩

/-- ATTN of one valid position with a query of one group, values of one group, all in memory of zeros. -/
def oneAttn : AttnOp := { attnOp zeroWords with p1 := 1, dk := 32 }

theorem witness_attn_record : oneAttn.sco = false ∧ oneAttn.valid 0 ≠ [] ∧ { oneAttn with p1 := 0 }.valid 0 = [] := by decide +kernel
theorem witness_reduce : let c := sgaProg 0x20 zeroWords
    SgaLegal c 0 0x20 zeroWords (rowFields false) ∧ (rowOp zeroWords).reduceLegal zeroWords = true
      ∧ (c.taking 0 0x20 zeroWords).covers 0 (rowOp zeroWords).reduceRanges = true ∧ (rowOp zeroWords).func < 3 :=
  ⟨legal_of (by decide +kernel), by decide +kernel⟩
theorem witness_scan : let c := sgaProg 0x21 zeroWords
    SgaLegal c 0 0x21 zeroWords (rowFields true) ∧ (rowOp zeroWords).scanLegal zeroWords = true
      ∧ (c.taking 0 0x21 zeroWords).covers 0 (rowOp zeroWords).scanRanges = true := ⟨legal_of (by decide +kernel), by decide +kernel⟩

/-- GATHER of `n` rows of one line, out of one. -/
def gatherWords (n : BitVec 56) : SgaWords := { zeroWords with w0 := n, w1 := 1 * 2 ^ 32, w2 := 2 * 2 ^ 32, w3 := 1 }

/-- The rows of a GATHER are copied, or it meets an index that stops it. -/
def gathered (c : Chip) (w : SgaWords) : Bool :=
  ((List.range (gatherOp w).n).foldl (gatherStep 0 (gatherOp w) []) (c.taking 0 0x30 w, false)).2

theorem witness_gather : let w := gatherWords 1
    let c := sgaProg 0x30 w
    let f := [maskOf 31 0, maskOf 24 0 ||| maskOf 40 32, maskOf 24 0 ||| maskOf 56 32, maskOf 31 0]
    SgaLegal c 0 0x30 w f ∧ 1 ≤ (gatherOp w).rs ∧ (gatherOp w).rs ≤ 256 ∧ (gatherOp w).nrows ≠ 0
      ∧ (c.taking 0 0x30 w).covers 0 (gatherOp w).ranges = true ∧ gathered c w = false := ⟨legal_of (by decide +kernel), by decide +kernel⟩
theorem witness_gather_index : let w := gatherWords 1
    gathered { withEngine runEngine with mem := { MemSys.zero with dram := [(0, 1)] } } w = true := by decide +kernel
theorem witness_gather_step : let o := gatherOp (gatherWords 1)
    let c := withEngine runEngine
    c.tag (engLine 0 (o.iaddr + 0 / 16)) = false ∧ 0 < o.nrows
      ∧ ({ c with mem := { MemSys.zero with tag := [(engLine 0 o.iaddr, true)] } } : Chip).tag (engLine 0 (o.iaddr + 0 / 16)) = true := by
  decide +kernel
theorem witness_saiga_stalled : let c := withEngine { runEngine with state := .halted }
    (c.engine 0).state ≠ .run ∧ ((withEngine runEngine).engine 0).state = .run
      ∧ (let k : Engine := { runEngine with pc := 16 }
         k.wait = .none ∧ k.held.isSome = false ∧ k.gated = false ∧ (withEngine k).engineReach 0 k.pc.toNat (k.pc.toNat + 1) = false) := by decide
theorem witness_saiga_fetch_poison : let c : Chip := { withEngine runEngine with mem := { MemSys.zero with tag := [(engLine 0 1, true)] } }
    EngineReady c 0 ∧ (c.fetching 0 zeroWords).tag (c.sgaLine 0) = true :=
  ⟨⟨by decide, by decide, by decide, by decide, by decide⟩, by decide +kernel⟩
theorem witness_saiga_illegal : let w : SgaWords := { zeroWords with w7 := 1 * 2 ^ 34 }
    ∀ op ∈ [(0x00 : Byte), 0x30], EngineReady (sgaProg op w) 0 ∧ SgaFetches (sgaProg op w) 0 op w ∧ ∀ f, ¬ SgaLegal (sgaProg op w) 0 op w f := by
  intro w op h
  have h' := List.all_eq_true.mp (by decide +kernel : [(0x00 : Byte), 0x30].all (fun o => fetchesB (sgaProg o
      { zeroWords with w7 := 1 * 2 ^ 34 }) o { zeroWords with w7 := 1 * 2 ^ 34 }) = true) op h
  simp only [fetchesB, Bool.and_eq_true, Bool.not_eq_true', beq_iff_eq] at h'
  refine ⟨ready_prog _ _, ⟨h'.1.1, h'.1.2, h'.2⟩, fun f q => ?_⟩
  have h : true = false := q.2.2.symm.trans (show Chip.signalOk _ { zeroWords with w7 := 1 * 2 ^ 34 } = false from rfl)
  exact Bool.noConfusion h
/-- A reserved operation byte in the line, and a line that holds another command than the sender names. -/
theorem witness_saiga_other_line : let c := sgaProg 0x07 zeroWords
    let d := sgaProg 0x01 zeroWords
    EngineReady c 0 ∧ (c.fetching 0 zeroWords).tag (c.sgaLine 0) = false
      ∧ (c.fetching 0 zeroWords).sgaLineReserved 0 (c.engine 0).pc.toNat = true
      ∧ EngineReady d 0 ∧ (d.fetching 0 zeroWords).tag (d.sgaLine 0) = false
      ∧ (d.fetching 0 zeroWords).sgaLineReserved 0 (d.engine 0).pc.toNat = false
      ∧ (d.fetching 0 zeroWords).lineBytes (d.sgaLine 0) ≠ sgaBytes 0x00 zeroWords :=
  ⟨ready_prog _ _, by decide +kernel, by decide +kernel, ready_prog _ _, by decide +kernel⟩
theorem witness_signal : SgaLegal (sgaProg 0x04 signalWords) 0 0x04 signalWords [] ∧ sgaSig signalWords = true := ⟨legal_of (by decide +kernel), by decide⟩

/-! Memory and registers. -/

theorem witness_line : Chip.zero.mem.wf ∧ (flit 7).length = 64 ∧ inRow 0 0 = true ∧ inRow 1 0 = false ∧ (0 : Nat) ≠ 1 :=
  ⟨⟨by decide, by decide, by decide⟩, by decide +kernel, by decide, by decide, by decide⟩

/-- A stack that is up and scrubs at position `p`. -/
def scrubAt (p : Nat) : Chip := { Chip.zero with stks := [(0, { Stack.zero with state := .up, scrub := true, scrubPos := p })] }

theorem witness_port_lost : let up : Chip := { Chip.zero with stks := [(0, { Stack.zero with state := .up })] }
    let training : Chip := { Chip.zero with stks := [(0, { Stack.zero with state := .training })], flt := { Flt.zero with rphase := 4 } }
    up.Canonical ∧ (up.stack 0).state = .up ∧ up.flt.rphase = 0 ∧ training.Canonical ∧ (training.stack 0).state = .training
      ∧ training.flt.rphase = 4 ∧ (Chip.zero.stack 0).state = .none :=
  ⟨canonical_of (by decide), by decide, by decide, canonical_of (by decide), by decide⟩

/-- Band row 0, of context 0 in a state, and row `b` wait to be cleared. -/
def clearing (q : CtxState) (b : Fin 48) : Chip :=
  { ({ Chip.zero with mem := { MemSys.zero with waiting := [0, b], bands := [(0, { Band.zero with valid := true })] } } : Chip) with
    img := { Image.zero with ctxs := [(0, { Ctx.zero with state := q })] } }

theorem witness_scrub : (scrubAt 0).Canonical ∧ (scrubAt (64 * colLines - 1)).Canonical ∧ (scrubAt 0).flt.rphase = 0
    ∧ ¬ 0 + 1 = 64 * colLines ∧ 64 * colLines - 1 + 1 = 64 * colLines :=
  ⟨canonical_of (by decide), canonical_of (by decide), by decide⟩
theorem witness_row_cleared : let c := clearing .loaded 1
    c.Canonical ∧ twf Ctx.zero c.img.ctxs = true ∧ c.mem.waiting.head? = some 0 ∧ c.inFlight (c.band 0).owner = false
      ∧ (c.ctx (c.band 0).owner).state ≠ .tearingDown := ⟨canonical_of (by decide), by decide⟩
theorem witness_rows_left : let c := clearing .tearingDown 1
    c.mem.waiting.head? = some 0 ∧ ∃ w ∈ c.mem.waiting.filter (fun w => w.val ≠ 0), (c.band w.val).owner = (c.band 0).owner :=
  ⟨by decide, 1, by decide, by decide⟩
theorem witness_last_row : let c := clearing .tearingDown 0
    c.mem.waiting.head? = some 0 ∧ (c.ctx (c.band 0).owner).state = .tearingDown
      ∧ (∀ w ∈ c.mem.waiting.filter (fun w => w.val ≠ 0), (c.band w.val).owner ≠ (c.band 0).owner)
      ∧ (withCore { runCore with flights := [flight 0] }).inFlight 0 = true ∧ Chip.zero.mem.waiting.head? ≠ some 0 := by decide

/-- Band row 0 is valid. -/
def rowChip : Chip := { Chip.zero with mem := ownedMem }

theorem witness_bar4_read : let c := hostChip
    let row := hosted rowChip
    let reset := { hostChip with flt := { Flt.zero with rphase := 1 } }
    c.hostUp = true ∧ (2 ^ 36 - 4095 : BitVec 36).toNat + 4096 > c.pkg.bar4Bytes
      ∧ (0 : BitVec 36).toNat + 1 ≤ c.pkg.bar4Bytes ∧ reset.hostUp = true ∧ reset.flt.rphase ≠ 0
      ∧ c.flt.rphase = 0 ∧ c.bar4Ok 0 1 = false ∧ row.hostUp = true ∧ row.flt.rphase = 0 ∧ row.bar4Ok 0 1 = true
      ∧ row.bar4Ok 0 512 = true := by decide
theorem witness_base : hostChip.hostUp = true ∧ (hostChip.commitWBase .normal 0x40000000 0).mem.wBase = hostChip.mem.wBase
    ∧ (({ hostChip with mem := { MemSys.zero with wStage := some 0x30 } } : Chip).commitWBase .normal 0 0).mem.wBase ≠ 0 := by decide

/-- The host reaches the device, or the function is in D3hot, or the endpoint is not enabled. -/
theorem witness_host : hostChip.hostUp = true ∧ hostAccess (.registerWrite { off := 0 } 0) = true ∧ Chip.zero.pkg.pcieUp = false
    ∧ (let c : Chip := { hostChip with pkg := { hostChip.pkg with pcie := { PcieCfg.zero with d3hot := true } } }
       c.pkg.pcieUp = true ∧ c.pkg.pcie.d3hot = true) := by decide
theorem witness_write_forms : ∀ x ∈ [({ off := 1 } : Bar0Access), { off := 0, dws := 2 }, { off := 0, enables := 7 }],
    ¬ (x.dws = 1 ∧ x.enables = 0xF ∧ x.off.toNat % 4 = 0) := by decide
theorem witness_write_unlisted : (0x3000000 : BitVec 28).toNat % 4 = 0 ∧ regAt ((0x3000000 : BitVec 28).toNat % 0x4000000) = none := by decide
theorem witness_write_gone : let c : Chip := { hostChip with fuse := Fuse.of { FuseCopy.default with linkEn := 0 } }
    c.hostUp = true ∧ regAt (0x2A00008 % 0x4000000) = some (.lnk 0, 8) ∧ c.gone (.lnk 0) = true := by decide
theorem witness_write_kinds : hostChip.hostUp = true ∧ hostChip.gone .pkg = false ∧ regAt 0x20 = some (.pkg, 0x20) ∧ RegBlock.pkg.kind 0x20 = .rw
    ∧ regAt 0xF00 = some (.pkg, 0xF00) ∧ RegBlock.pkg.kind 0xF00 = .unlisted ∧ regAt 0x10 = some (.pkg, 0x10) ∧ RegBlock.pkg.kind 0x10 = .ro
    ∧ regAt (0x6D0000C % 0x4000000) = some (.flt, 0xC) ∧ hostChip.gone .flt = false ∧ RegBlock.flt.kind 0xC = .wo
    ∧ aliasOf 0x6D0000C ≠ .normal ∧ regAt 0x24 = some (.pkg, 0x24) ∧ RegBlock.pkg.kind 0x24 = .w1c 7 := by decide
theorem witness_bits : bit (7 : Word) 31 = false ∧ bit (7 : Word) 0 = true ∧ (31 : Nat) < 32 := by decide

theorem witness_read : let c := hostChip
    c.hostUp = true ∧ regAt 0x2C00010 = some (.frm, 0x10) ∧ c.gone .frm = false
      ∧ c.readDword .frm 0x10 = some c.now ∧ regAt 0x2C00014 = some (.frm, 0x14)
      ∧ c.readDword .frm 0x14 = none ∧ c.readDword .frm (0x14 - 4) = some c.now
      ∧ tget 0 c.pkg.shadow (0x2C00014 - 4) = 0 := by decide
theorem witness_parity : Chip.zero.mbx.dstate = .off ∧ Chip.zero.cfgBits (fun w => w != CfgWord.of w.stored) = 0
    ∧ (Chip.zero.frm.slipMap.map (·.1)).Pairwise (· < ·) ∧ (inState .ready).mbx.dstate ≠ .off
    ∧ (inState .ready).rte.id = CfgWord.of (inState .ready).rte.id.stored
    ∧ popCount 33 (2 ^ 32 : BitVec 33).toNat % 2 = 1 ∧ popCount 33 (3 : BitVec 33).toNat % 2 = 0 := by decide +kernel

theorem witness_ring_head : hostChip.hostUp = true ∧ ((3 : BitVec 11) - 2046).toNat ≤ ((3 : BitVec 11) - 2046).toNat
    ∧ ((3 : BitVec 11) - 2046).toNat < ((4 : BitVec 11) - 2046).toNat
    ∧ (rwWord .set 0x7FF ((2046 : BitVec 11).setWidth 32) 1).1.setWidth 11 = (2047 : BitVec 11) := by decide

/-- A word held with another value stored. -/
def heldWord : CfgWord := { stored := 3, good := 1, parity := true, held := true }

/-- Every kind of configuration word is held. -/
def heldChip : Chip :=
  { withLink { upLink with ctl := heldWord } with
    rte := { Rte.zero with id := heldWord, ctl := heldWord }, frm := { Machine.Frm.zero with ctl := heldWord, slipMap := [(0, heldWord)] }
    bru := { Bru.zero with ctl := heldWord }, pkg := { Pkg.zero with pcieUp := true, irqEn := heldWord }, mbx := { Mbx.zero with ctl := heldWord }
    pwr := { Pwr.zero with ctl := heldWord }, flt := { Flt.zero with ctl := heldWord } }

theorem witness_held : let c := heldChip
    c.Canonical ∧ c.hostUp = true ∧ c.rte.id.held = true ∧ (tget (CfgWord.of (slipMapReset 0)) c.frm.slipMap 0).held = true ∧ c.bru.ctl.held = true
      ∧ (c.link 0).ctl.held = true ∧ c.fuse.linkOn 0 = true ∧ (3 : Word) ≠ heldWord.good ∧ bit (3 : Word) 0 = true
      ∧ c.mbx.dstate ≠ .bringup ∧ c.mbx.dstate ≠ .ready ∧ c.pkg.irqEn.held = true ∧ c.mbx.ctl.held = true ∧ c.pwr.ctl.held = true
      ∧ c.frm.ctl.held = true ∧ c.flt.ctl.held = true ∧ c.rte.ctl.held = true := ⟨canonical_of (by decide), by decide⟩

theorem witness_rte_id : (hostIn .bringup).Canonical ∧ (hostIn .bringup).hostUp = true ∧ (hostIn .ready).hostUp = true ∧ ((hostIn .bringup).rte.id.put .normal 0x00FF0F03 0x10000).2 = false
    ∧ (hostIn .ready).mbx.dstate ≠ .bringup ∧ (hostIn .ready).rte.id.held = false
    ∧ ((hostIn .ready).rte.id.put .normal 0x00FF0F03 0x10000).2 = false := ⟨canonical_of (by decide), by decide⟩

/-- Whether a route entry may take a value. -/
def routeTakes (c : Chip) (w : Word × Bool) : Bool :=
  (routeLinks (c.rte.entry 0) ++ routeLinks w.1).all (fun l => (c.link l).isDrained) && c.fuse.routeOk false w.1

theorem witness_route : hostChip.hostUp = true ∧ hostChip.mbx.dstate ≠ .bringup ∧
    (rwWord .normal 0xFFF80000 (hostChip.rte.entry 0) 0x7E000000).2 = false
      ∧ routeTakes hostChip (rwWord .normal 0xFFF80000 (hostChip.rte.entry 0) 0x7E000000) = true
      ∧ (rwWord .normal 0xFFF80000 (hostChip.rte.entry 0) 0x80000000).2 = false
      ∧ routeTakes hostChip (rwWord .normal 0xFFF80000 (hostChip.rte.entry 0) 0x80000000) = false := by decide

theorem witness_control : (hostIn .bringup).hostUp = true ∧ (hostIn .bringup).mbx.dstate = .bringup ∧ ((hostIn .bringup).bru.ctl.put .normal 0xCF 0x4A).2 = false
    ∧ (hostIn .bringup).bru.running = false ∧ 1 ≤ bits (1 : Word) 3 0 ∧ bits (1 : Word) 3 0 ≤ (hostIn .bringup).bru.passed.toNat + 1
    ∧ (hostIn .service).mbx.dstate ≠ .bringup ∧ (hostIn .service).mbx.dstate ≠ .ready
    ∧ (tget (CfgWord.of (slipMapReset 127)) Chip.zero.frm.slipMap 127).held = false ∧ (7 : Word) &&& ~~~ 7 = 0
    ∧ ({ Flt.zero with pkgrst := true } : Flt).pkgrst = true ∧ Chip.zero.flt.pkgrst = false ∧ (0xA5A5 : Word) ≠ 0x5A5A := by decide

/-! The frame clock. -/

/-- A mark word: PRE, LFN, AOFF, and the bits of HOLD, WIDE and SLIP in `more`, its CRC. -/
def markBits (lfn aoff more : Nat) : BitVec 56 :=
  let b : BitVec 56 := BitVec.ofNat 56 (12 * 2 ^ 52 + lfn * 2 ^ 32 + aoff * 2 ^ 20 + more)
  b + BitVec.ofNat 56 (crc8 b 8 44)

/-- The high times of its symbols, in 0.1 ns (Table 6-1). -/
def markHighs (b : BitVec 56) : List Nat := (List.range 56).map (fun i => if bit b (55 - i) then 285 else 115)

/-- A mark received on the grid, in the interval of the last one taken. -/
def markOf (lfn aoff more : Nat) : MarkWord :=
  { highs := markHighs (markBits lfn aoff more), cycles := 2500, intervals := 0, gridError := 0, skewError := 0, measuredSkew := 0 }

/-- One without a slip. -/
def markWord (lfn aoff : Nat) : MarkWord := markOf lfn aoff 0

/-- Table 6-1: the limits of the high times. -/
theorem test_symbol_limits : [79, 80, 150, 151, 159, 160, 240, 241, 249, 250, 320, 321].map refSymbol
    = [none, some .zero, some .zero, none, none, some .unmarked, some .unmarked, none, none, some .one, some .one, none] := by decide

/-- An input with its grid known and a mark of frame 7. -/
def goodIn : RefIn := { RefIn.zero with good := true, edges := true, mark := some { lfn := 7, aoff := 5, slip := 0, hold := false }, agree := 3 }

/-- A frame clock in a state, with input A in use and input B as given. -/
def clock (q : FrmState) (b : RefIn) : Machine.Frm :=
  { Machine.Frm.zero with state := q, inA := goodIn, inB := b, valid := true, model := goodIn.mark }

/-- A package with a frame clock, in bring-up step 9. -/
def clocked (f : Machine.Frm) : Chip :=
  { inState .bringup with frm := f, bru := { Bru.zero with running := true, step := 9 } }

/-- The model expects a mark. -/
def expects (f : Machine.Frm) (v : MarkWord) : Bool := (f.expected v.intervals).any (fun t => t.agrees v.mark)

theorem witness_marks_invalid :
    (clocked (clock .locked RefIn.zero)).mbx.dstate ≠ .off ∧ ({ markWord 7 5 with highs := [] } : MarkWord).symbolsOk = false
      ∧ (let w : MarkWord := { markWord 7 5 with highs := List.replicate 56 200 }
         w.symbolsOk = true ∧ w.binary = false ∧ w.valid true = false)
      ∧ (let w : MarkWord := { markWord 7 5 with cycles := 2502 }
         w.slipOk = true ∧ w.valid true = false)
      ∧ (let w := markOf 7 5 (200 * 2 ^ 11)
         w.symbolsOk = true ∧ w.binary = true ∧ w.slipOk = false) := by decide +kernel
theorem witness_marks : let w := markWord 7 5
    let f := clock .locked RefIn.zero
    w.valid (Machine.Frm.zero.input .a).edges = true ∧ Machine.Frm.zero.state = .unlocked ∧ Machine.Frm.zero.disabled .a = false
      ∧ (Machine.Frm.zero.input .a).mark = none
      ∧ w.valid (f.input .a).edges = true ∧ f.state = .locked ∧ f.src = .a ∧ expects f w = true ∧ w.mark.hold = false
      ∧ (f.input RefInput.a.other).await = none ∧ w.mark.slip = 0 ∧ (markOf 7 5 (24 * 2 ^ 11)).mark.slip = 24
      ∧ (markOf 7 5 (24 * 2 ^ 11)).valid true = true ∧ expects f (markOf 7 5 (24 * 2 ^ 11)) = true
      ∧ (markWord 8 5).valid (f.input .a).edges = true ∧ expects f (markWord 8 5) = false ∧ (markWord 8 5).mark.hold = false := by
  decide +kernel
theorem witness_mark_holds : let w := markOf 7 5 (1 * 2 ^ 51)
    let f := clock .locked goodIn
    w.valid (f.input .a).edges = true ∧ w.mark.hold = true ∧ expects f w = true ∧ (f.input .b).good = true ∧ (f.input .b).hold = false
      ∧ (f.input .b).await = none := by decide +kernel
theorem witness_marks_other : let w := markWord 7 5
    let f := clock .locked RefIn.zero
    w.valid (f.input .b).edges = true ∧ f.src ≠ .b ∧ f.disabled .b = false ∧ ¬ ((201 : Int) ≤ 200) ∧ -200 ≤ w.skewError ∧ w.skewError ≤ 200
      ∧ ({ w with intervals := 1 } : MarkWord).intervals ≠ 0 ∧ w.intervals = 0 ∧ f.model.any (fun p => p.same w.mark) = true
      ∧ (f.input .a).hold = false ∧ f.model.any (fun p => p.same (markWord 8 5).mark) = false := by decide +kernel
theorem witness_marks_holdover : let w := markWord 7 5
    let f := clock .holdover RefIn.zero
    w.valid (f.input .a).edges = true ∧ f.state = .holdover ∧ f.disabled .a = false ∧ expects f w = true ∧ -244 ≤ w.gridError
      ∧ w.gridError ≤ 244 ∧ ¬ ((245 : Int) ≤ 244) ∧ expects f (markWord 8 5) = false ∧ (f.input .a).edges = true
      ∧ (f.input .b).edges = false := by decide +kernel
theorem witness_input_bad : let f := clock .locked goodIn
    f.state = .locked ∧ f.src = .a ∧ (f.input RefInput.a.other).good = true
      ∧ ((clock .locked RefIn.zero).input RefInput.a.other).good = false := by decide

theorem witness_lock : let f := { clock .acquiring RefIn.zero with valid := false }
    f.lockChoice = some .a ∧ (f.input .a).mark = goodIn.mark ∧ f.state = .acquiring ∧ (clocked f).bru.running = true
      ∧ (clocked f).bru.step = 9 ∧ (clock .freerun RefIn.zero).lockChoice = some .a ∧ (clock .freerun RefIn.zero).state = .freerun := by decide
/-- A frame clock that has ended its frame in HOLDOVER, `n` frames after the last. -/
def heldOver (n : Nat) : Machine.Frm := { clock .holdover RefIn.zero with holdFrames := n, elapsed := 4096 }

theorem witness_lock_not_yet : Machine.Frm.zero.lockChoice = none ∧ Chip.zero.bru.running = false := by decide
theorem witness_freerun : (heldOver 49).state = .holdover ∧ 49 ≤ (heldOver 49).holdFrames ∧ (heldOver 49).ended = true
    ∧ (heldOver 48).holdFrames < 49 ∧ ({ heldOver 49 with elapsed := 4095 } : Machine.Frm).ended = false
    ∧ (let c : Chip := { Chip.zero with img := { Image.zero with ctxs := [(0, { Ctx.zero with state := .running, span := 2 })] } }
       twf Ctx.zero c.img.ctxs = true ∧ (c.ctx 0).judged = true ∧ c.hasPeers 0 = true) := by decide
theorem witness_slip : let f := { Machine.Frm.zero with valid := true, debt := 1000, planSlip := some { slip := 24, lfn := 0 }, gridPeriod := 128 }
    f.planSlip = some { slip := 24, lfn := 0 } ∧ f.slipDue = true ∧ (f.debt + 24).natAbs ≤ 1024 ∧ 1024 < (f.debt + 25).natAbs
      ∧ ({ f with gridPeriod := 127 } : Machine.Frm).slipDue = false := by decide

theorem witness_boundary : let f := clock .locked goodIn
    ({ f with elapsed := 4096 } : Machine.Frm).ended = true ∧ ({ f with elapsed := 4096 } : Machine.Frm).freerunDue = false
      ∧ ({ f with elapsed := 4095 } : Machine.Frm).ended = false ∧ f.broken = false
      ∧ ({ f with broken := true, next := some (7, 5) } : Machine.Frm).next = some (7, 5)
      ∧ 4080 ≤ ({ f with tick := 4080 } : Machine.Frm).tick ∧ f.valid = true ∧ f.tick < 4080 := by decide

/-- A package whose context 0 is in digest state `q`, decided or not, with notices. -/
def judging (q : DigState) (decided : Bool) (ns : List Notice) : Chip :=
  { Chip.zero with img := { Image.zero with digs := [(0, { DigCtx.zero with state := q, decided := decided, notices := ns })] } }

theorem witness_verdict : let n : Notice := { lfn := 0, restart := 4, hold := false }
    ((judging .run true []).digCtx 0).decided = true ∧ ((judging .run false []).digCtx 0).decided = false
      ∧ ((judging .run false []).digCtx 0).state ≠ .replay ∧ (judging .run false []).checkOn 0 = false
      ∧ ((judging .run false []).digCtx 0).named 0 = false ∧ ((judging .run false [n]).digCtx 0).named 0 = true
      ∧ ((judging .run false [n]).digCtx 0).named 1 = true ∧ ((judging .run false [n]).digCtx 0).named 2 = false
      ∧ ((judging .replay false []).digCtx 0).state = .replay := by decide

/-- A check table of one REPLICA group of packages 0 and 1. -/
def checks : CheckTable :=
  { check := true, lprot := false, undoRow := 47, groups := [{ group := 9, kind := 0, mask := 3 }], replay := [] }

/-- The own digest of step 1, and the records of package 1. -/
def compared (own : List OwnDigest) (recs : List DigRecord) : Chip :=
  { Chip.zero with img := { Image.zero with
      ctxs := [(0, { Ctx.zero with state := .running, check := some checks })], digs := [(0, { DigCtx.zero with own := own, recs := recs })] } }

/-- The own digest. -/
def ownDigest : OwnDigest := { template := 0, lfn := 0, group := 9, step := 1, digest := [1] }

/-- A record of package 1. -/
def digest (v : List Byte) : DigRecord := { lfn := 0, group := 9, kind := 0, member := 1, arg := 1, value := v }

theorem witness_replica : (compared [] []).checkOn 0 = true ∧ ((compared [] []).digCtx 0).decided = false ∧
    (compared [ownDigest] [digest [1]]).groupOf 0 9 = some { group := 9, kind := 0, mask := 3 }
      ∧ ((compared [ownDigest] [digest [1]]).checkReplica 0 0 (9, 1)).2 = false
      ∧ ((compared [] []).checkReplica 0 0 (9, 1)).2 = true ∧ ((compared [ownDigest] []).checkReplica 0 0 (9, 1)).2 = true
      ∧ ((compared [ownDigest] [digest [2]]).checkReplica 0 0 (9, 1)).2 = true := by decide

/-! Links and packets. -/

/-- A link that is DOWN for LOS and retrains. -/
def downLink : Link := { Link.zero with state := .down, cause := 1 }

/-- A link that trains, with `n` attempts to follow. -/
def tryLink (n : Nat) : Link :=
  { Link.zero with state := .training, attempt := some { cold := true, more := n, retry := true, phase := 1, since := 0 } }

/-- The result of an attempt that finds a neighbour, and 16, or 3, good lanes at the peer. -/
def result (rec peer : BitVec 16) : TrainResult := { trained with neighbour := rec, peerGood := peer }

theorem witness_idle_link : let c := withLink downLink
    c.Canonical ∧ c.fuse.linkOn 0 = true ∧ bit (c.link 0).ctl.val 1 = true ∧ (c.link 0).attempt = none ∧ (c.link 0).state ≠ .up
      ∧ (c.link 0).upNext = false ∧ (c.link 0).retrains = true
      ∧ ({ c with frm := { Machine.Frm.zero with valid := true } } : Chip).frm.frame % 4096 = 0 := ⟨canonical_of (by decide), by decide⟩
theorem witness_attempt : let c := withLink (tryLink 1)
    c.Canonical ∧ ((c.link 0).attempt.map (·.more)) = some 1 ∧ ((withLink (tryLink 0)).link 0).attempt.map (·.more) = some 0
      ∧ (c.link 0).state ≠ .down ∧ (c.link 0).attempt.map (·.phase) = some 1
      ∧ ({ trained with signal := false } : TrainResult).signal = false ∧ (Chip.zero.link 0).attempt = none :=
  ⟨canonical_of (by decide), by decide⟩
theorem witness_trained : let c := withLink (tryLink 0)
    let r := result 0x4012 0xFFFF
    let few := result 0x4012 7
    r.signal = true ∧ r.aligned = true ∧ c.miswired 0 r.neighbour = false
      ∧ widthFor (min (popCount 16 r.good.toNat) (popCount 16 r.peerGood.toNat)) ≠ 0
      ∧ widthFor (min (popCount 16 few.good.toNat) (popCount 16 few.peerGood.toNat)) = 0
      ∧ c.miswired 0 (result 0x4000 0xFFFF).neighbour = true ∧ c.frm.valid = false
      ∧ ({ c with frm := { Machine.Frm.zero with valid := true } } : Chip).frm.valid = true := by decide +kernel
theorem witness_up : let c := withLink upLink
    c.Canonical ∧ (c.link 0).state = .up ∧ (c.link 0).trained = true ∧ (c.link 0).state ≠ .down ∧ (Chip.zero.link 0).trained = false
      ∧ c.miswired 0 0x4012 = false ∧ c.miswired 0 0 = true := ⟨canonical_of (by decide), by decide⟩

theorem witness_lanes : let c := withLink upLink
    let k := { upLink with requal := true }
    c.Canonical ∧ bit (c.link 0).goodSent 15 = true ∧ bit ({ upLink with goodSent := 0x7FFF } : Link).goodSent 15 = false
      ∧ ({ c with frm := { Machine.Frm.zero with valid := true, frame := 1024 } } : Chip).frm.frame % 1024 = 0 ∧ c.frm.valid = false
      ∧ ({ c with frm := { Machine.Frm.zero with valid := true, frame := 1023 } } : Chip).frm.frame % 1024 ≠ 0
      ∧ ([((15 : Fin 16), 2, 19999), (0, 1, 10000)].filter (fun e => decide (e.2.2 < e.2.1 * 10000))).map (·.1.val) = [15]
      ∧ ((withLink k).link 0).requal = true ∧ ((withLink k).link 0).goodSent = 0xFFFF ∧ (Chip.zero.link 0).state ≠ .up :=
  ⟨canonical_of (by decide), by decide⟩
theorem witness_requal : trained.good = 0xFFFF
    ∧ ({ trained with lanes := { goodLane with locked := false } :: List.replicate 15 goodLane } : TrainResult).good ≠ 0xFFFF := by decide +kernel
theorem witness_changes : let ch : LaneChange := { rx := true, good := 0x7FFF, lfn := 0xFFF }
    ({ upLink with changes := [ch] } : Link).changes = [ch] ∧ ch.lfn = (0x1FFF : BitVec 16).setWidth 12 ∧ ch.lfn ≠ (0 : BitVec 16).setWidth 12
      ∧ widthFor (min (popCount 16 ch.good.toNat) (popCount 16 upLink.goodTx.toNat)) ≠ upLink.width := by decide

theorem witness_link_control : let c := hosted (withLink upLink)
    let z := hosted (withLink { Link.zero with ctl := CfgWord.of 0x18 })
    c.hostUp = true ∧ z.hostUp = true ∧ c.Canonical ∧ c.fuse.linkOn 0 = true ∧ (c.link 0).ctl.held = false ∧ (c.link 0).ctl.good = (c.link 0).ctl.stored
      ∧ bit (c.link 0).ctl.val 1 = true ∧ (c.link 0).state = .up ∧ (Chip.zero.link 0).state = .none ∧ bit (Chip.zero.link 0).ctl.val 1 = true
      ∧ bit (z.link 0).ctl.val 1 = false ∧ (z.link 0).attempt = none ∧ (z.link 0).state ≠ .up ∧ (z.link 0).upNext = false
      ∧ (inState .bringup).mbx.dstate = .bringup ∧ c.mbx.dstate ≠ .bringup ∧ bit (c.link 0).ctl.val 0 = false
      ∧ bits (c.link 0).ctl.val 6 5 ≠ (1 : BitVec 2).toNat := ⟨rfl, rfl, canonical_of (by decide), by decide⟩

/-- A link that is UP at 4 lanes. -/
def fourLink : Link := { upLink with width := 4, usedRx := 0xF }

/-- A codeword of idle flits on a lane, with a header KIND and a CSEQ. -/
def codeword (lane : Fin 16) (kind cseq : Nat) : Codeword :=
  { lane := lane, corrected := some 0, header := BitVec.ofNat 20 (kind * 2 ^ 18 + cseq * 2 ^ 10), flits := List.replicate 10 (flit 0) }

/-- A group of 4. -/
def group4 (kind : Nat) : List Codeword := [codeword 0 kind 0, codeword 1 kind 1, codeword 2 kind 2, codeword 3 kind 3]

theorem witness_codewords : (withLink fourLink).Canonical ∧ ((withLink fourLink).link 0).state = .up ∧ (∀ k ∈ [0, 1, 2, 3],
      let used := fourLink.usedGroup ((group4 k).map wholeCodeword)
      used.all (·.isSome) = true ∧ (used.filterMap id).head?.map Codeword.kind = some k)
    ∧ nearControl 0 = true ∧ nearControl 20 = false := ⟨canonical_of (by decide), by decide, by decide +kernel, by decide, by decide⟩
theorem witness_looped : let c : Chip := { withLink { upLink with loopback := true } with mbx := { Mbx.zero with dstate := .bringup } }
    (c.link 0).state = .up ∧ c.looped 0 = true ∧ (withLink fourLink).looped 0 = false := by decide
theorem witness_codeword_lost : let used := fun (g : List Codeword) => fourLink.usedGroup (g.map wholeCodeword)
    let lost : Codeword := { codeword 0 0 0 with corrected := none }
    none ∈ used (group4 1).tail ∧ (used (group4 1).tail).filterMap id ≠ [] ∧ (used [lost]).filterMap id = [] ∧ none ∈ used [lost]
      ∧ (withLink fourLink).rxWindows 0 0 = [] := by decide +kernel
theorem witness_controls_in_order : fourLink.width = (group4 2).length ∧ fourLink.rxSeen = [] ∧ fourLink.rxSeq + 1 = fourLink.rxBase
    ∧ fourLink.nakDue = false ∧ ∀ j w, (group4 2)[j]? = some w → w.cseq = fourLink.rxBase + BitVec.ofNat 8 j :=
  ⟨by decide, by decide, by decide, by decide, fun j w h => by
    match j with
    | 0 => obtain rfl : _ = w := Option.some.inj h; decide
    | 1 => obtain rfl : _ = w := Option.some.inj h; decide
    | 2 => obtain rfl : _ = w := Option.some.inj h; decide
    | 3 => obtain rfl : _ = w := Option.some.inj h; decide
    | n + 4 => simp [group4] at h⟩

/-- A link with one codeword to acknowledge, requested `n` times. -/
def owing (n : Nat) : Link := { upLink with txSeq := 1, held := [{ cseq := 0, asked := n, flits := [] }] }

theorem witness_nak : ((owing 0).txSeq - 1 - 0xFF).toNat = 1 ∧ (∀ h ∈ (owing 0).held, h.asked < 1) ∧ (∃ h ∈ (owing 2).held, 2 ≤ h.asked)
    ∧ (upLink.held.length < (({ upLink with txSeq := 1 } : Link).txSeq - 1 - 0xFF).toNat) := by decide
theorem witness_replay : let c : Chip := { withLink { owing 1 with resend := true } with frm := { Machine.Frm.zero with valid := true, tick := 7 } }
    c.Canonical ∧ (c.link 0).state = .up ∧ (c.link 0).resend = true ∧ c.frm.inWindow = true ∧ Chip.zero.frm.inWindow = false :=
  ⟨canonical_of (by decide), by decide⟩

/-- A package with circuit 5, which ends here for context 0, on link 0 in ticks 0 to 55, with entry bits `w` set. -/
def circuitChip (w : Word) : Chip :=
  { withCore runCore with
    links := [(0, upLink)]
    plan := { Plan.zero with
      circ := [(5, w)]
      active := some { actLfn := 0, entries := [{ link := 0, kind := 0, rx := true, ctx := 0, circuit := 5, len := 56, start := 0 }], circs := [] } } }

/-- A circuit packet for core 0, or for no core with address 0. -/
def circuitPacket (ptype circuit ctx daddr val : Nat) : Packet :=
  Chip.zero.packet { ptype := ptype, dst := 0, srack := 0, drack := 0, ctx := ctx, circuit := circuit, daddr := daddr, val := val, dcore := 4095 * b2n (daddr == 0) } []

/-- The packet with a byte of its PCRC flipped. -/
def badCrc (p : Packet) : Packet := { p with hdr := p.hdr.set 60 (~~~ byteAt p.hdr 60) }

/-- The packet after its buffer is left, as the statement has it. -/
def seen (c : Chip) (p : Packet) : Chip := c.modLink 0 (fun k => { k with rxReady := k.rxReady.erase p })

theorem witness_circuit_drops : let p := circuitPacket 1 5 0 0x10000 0
    ((circuitChip 0xA0000000).link 0).state = .up ∧ wholePacket p = p ∧ (circuitPacket 1 0 0 0 0).circuit = 0
      ∧ circValid ((seen (circuitChip 0) p).circ p.circuit) = false
      ∧ (seen (circuitChip 0) p).circuitFate 0 p = .orphan
      ∧ (seen (circuitChip 0xE0000000) p).circuitFate 0 p = .late ∧ circTomb ((seen (circuitChip 0xE0000000) p).circ p.circuit) = true
      ∧ (seen { circuitChip 0xA0000000 with plan := { Plan.zero with circ := [(5, 0xA0000000)] } } p).circuitFate 0 p = .outside
      ∧ (seen (circuitChip 0x98010000) p).circuitFate 0 p = .forward 1 := by decide +kernel
/-- The circuit's package with a tray context of job 0 that owns band row 0. -/
def trayChip : Chip :=
  { circuitChip 0xA0000000 with
    mem := ownedMem, img := { Image.zero with ctxs := [(0, { Ctx.zero with state := .running, tray := true })] } }

theorem witness_circuit_arrives : let c := circuitChip 0xA0000000
    let p := fun (t : Nat) => circuitPacket t 5 0 0x10000 1
    (∀ t ∈ [1, 2, 3, 4, 5], wholePacket (p t) = p t ∧ (p t).ptype = t ∧ (seen c (p t)).circuitFate 0 (p t) = .arrived ∧ (p t).pcrcOk = true
        ∧ (p t).cx = 0 ∧ (p t).pmask = 0 ∧ (p t).refused = false)
      ∧ (seen c (p 1)).dataOk (p 1) = true ∧ (seen c (circuitPacket 1 5 0 0 1)).dataOk (circuitPacket 1 5 0 0 1) = false
      ∧ (seen c (p 1)).flt.rphase = 0 ∧ (circuitPacket 1 5 1 0 0).cx ≠ 0 ∧ (badCrc (p 1)).pcrcOk = false ∧ (seen c (badCrc (p 1))).circuitFate 0 (badCrc (p 1)) = .arrived
      ∧ (seen { c with flt := { Flt.zero with rphase := 1 } } (p 3)).circuitFate 0 (p 3) = .arrived := by decide +kernel
theorem witness_circuit_refused : let p := fun (t : Nat) => circuitPacket t 5 0 0x10000 1
    (seen trayChip (p 2)).circuitFate 0 (p 2) = .arrived ∧ (seen trayChip (p 2)).remoteAllowed (p 2) 1 = true
      ∧ (seen trayChip (p 4)).remoteAllowed (p 4) 0 = true ∧ (seen (circuitChip 0xA0000000) (p 2)).remoteAllowed (p 2) 1 = false
      ∧ (seen { trayChip with mem := MemSys.zero } (p 4)).remoteAllowed (p 4) 1 = false := by decide +kernel
theorem witness_remote_done : let f := flight 0
    let k : Core := { runCore with flights := [f] }
    k.flights = [f] ∧ f.desc.kind = 0 ∧ f.desc.dctr = 0 ∧ f.desc.laddr ≤ 0x1003F ∧ 0x1003F < f.desc.laddr + 64 * f.desc.len
      ∧ 0 = (0x1003F - f.desc.laddr) / 64 ∧ 0 ∉ f.done := by decide

/-- A message for this package, or another. -/
def message (ptype dst val : Nat) : Packet := Chip.zero.packet { ptype := ptype, dst := dst, srack := 0, drack := 0, val := val } []

theorem witness_messages :
    (∀ q ∈ [(6, 1), (7, 1), (7, 2)], wholePacket (message q.1 0 q.2) = message q.1 0 q.2 ∧ (message q.1 0 q.2).ptype = q.1 ∧ (message q.1 0 q.2).val = q.2
      ∧ (message q.1 0 q.2).dst = Chip.zero.pkgNo ∧ (message q.1 0 q.2).drack = Chip.zero.rack ∧ (message q.1 0 q.2).pcrcOk = true
      ∧ (message q.1 0 q.2).srack = Chip.zero.rack)
      ∧ (message 6 5 0).dst ≠ Chip.zero.pkgNo ∧ (message 15 0 8).ptype = 15 ∧ (3 : LinkId).val < 4 ∧ 4 ≤ (4 : LinkId).val
      ∧ (badCrc (message 6 0 1)).pcrcOk = false ∧ (badCrc (message 15 0 8)).pcrcOk = false ∧ (message 15 0 8).pcrcOk = true
      ∧ (withCore runCore).destServed (message 6 0 1).dcore = true ∧ Chip.zero.destServed (message 6 0 1).dcore = false
      ∧ (1 : Nat) ≠ Chip.zero.rack
      ∧ ({ Mbx.zero with fwRun := true } : Mbx).fwRun = true := by decide +kernel
theorem witness_loss_word : let c := circuitChip 0xA0000000
    circValid (c.circ (bits (5 : Dword) 15 0)) = true ∧ circTomb (c.circ (bits (5 : Dword) 15 0)) = false
      ∧ circRole (c.circ (bits (5 : Dword) 15 0)) ≠ 1 ∧ circValid (c.circ (bits (6 : Dword) 15 0)) = false := by decide
theorem witness_dedup : let d : Dedup := { seen := true, epoch := 0, highest := 0, marks := [0] }
    Dedup.zero.judge 0 0 = .fresh d ∧ d.judge 0 0 = .duplicate ∧ d.judge 0 (2 ^ 23) = .stale := by decide +kernel

/-- A packet in the forwarding buffer of LK0 to link 0. -/
def forwarded (hops : Byte) : Forwarded :=
  { pkt := { hdr := (flit 0).set 6 hops, flits := [] }, out := 0, since := 0 }

/-- A plan of one transmit window. -/
def txPlan : PlanImage :=
  { actLfn := 0, entries := [{ link := 0, kind := 2, rx := false, ctx := 0, circuit := 0, len := 10, start := 8 }], circs := [] }

/-- The forwarding package at tick `t`: its window on link 0 has ticks 8 to 17. -/
def sending (t : Nat) (f : Forwarded) : Chip :=
  { withLink upLink with
    frm := { Machine.Frm.zero with valid := true, tick := t }, rte := { Rte.zero with fwd0 := [f] }
    plan := { Plan.zero with active := some txPlan } }

theorem witness_forward : let c := sending 8 (forwarded 6)
    let f := forwarded 6
    (c.rte.fwd 0)[0]? = some f ∧ c.nextTx 0 f.pkt.circuit 0 = some (8, 17) ∧ c.frm.absTick = 8
      ∧ c.txWindow 0 c.frm.tick = txPlan.entries.head? ∧ (txPlan.entries.all fun e => decide (f.pkt.line.length ≤ c.txRoom 0 e)) = true
      ∧ (sending 7 f).frm.absTick < 8 ∧ 17 < (sending 18 f).frm.absTick
      ∧ (txPlan.entries.all fun e => decide ((sending 17 f).txRoom 0 e < f.pkt.line.length)) = true ∧ (sending 17 f).frm.absTick = 17
      ∧ (c.link 0).state = .up ∧ (c.link 0).short = false ∧ packetHops f.pkt ≠ 0 ∧ packetHops (forwarded 0).pkt = 0
      ∧ ((c.link 0).txPart ++ (decHops f.pkt).line).length < 10 * (c.link 0).width
      ∧ Chip.zero.nextTx 0 0 0 = none ∧ (Chip.zero.rte.fwd 0)[0]? = none := by decide +kernel
theorem witness_window : (sending 7 (forwarded 6)).frm.inWindow = true ∧ (sending 8 (forwarded 6)).frm.inWindow = false := by decide
theorem witness_window_quiet : let c : Chip := { Chip.zero with frm := { Machine.Frm.zero with valid := true }, rte := { Rte.zero with opened := some 0 } }
    c.frm.inWindow = true ∧ c.rte.opened = some c.frm.window
      ∧ ∀ l, (c.link l).transit = [] ∧ (c.link l).freed = 0 ∧ (c.link l).ctlOut = [] ∧ (c.link l).resend = false :=
  ⟨by decide, by decide, fun _ => ⟨rfl, rfl, rfl, rfl⟩⟩

/-- A route to package 5 over link 0. -/
def routed : Chip := { withLink upLink with rte := { Rte.zero with route := [(5, 0x8EA00000)] } }

theorem witness_way : let q : QPacket := { pkt := message 6 5 1, inLink := none }
    routed.way q.pkt.dst q.pkt.drack = .link 0 ∧ q.inLink = none ∧ packetHops q.pkt ≠ 0 ∧ creditsFor none 0 ≤ (routed.link 0).credits
      ∧ q.pkt.line.length ≤ routed.ctlRoom 0 ∧ ({ routed with links := [(0, { upLink with draining := true })] } : Chip).way 5 0 = .hold
      ∧ routed.way 6 0 = .unreach ∧ routed.rack = 0 ∧ routed.pkgNo = 0 := by decide +kernel
theorem witness_credit : (withLink { upLink with freed := 1 }).ctlRoom 0 ≠ 0 ∧ ((withLink { upLink with freed := 1 }).link 0).freed ≠ 0
    ∧ ((withLink { upLink with freed := 1 }).link 0).state = .up ∧ upLink.freed = 0 := by decide +kernel
theorem witness_drain : let k := { upLink with draining := true }
    (withLink k).Canonical ∧ ((withLink k).link 0).isDrained = true ∧ ((withLink upLink).link 0).isDrained = false :=
  ⟨canonical_of (by decide), by decide⟩
theorem witness_tomb : let p : PlanImage := { actLfn := 0, entries := [], circs := [(5, 0xA0000000)] }
    let c : Chip := { circuitChip 0xE0000000 with plan := { Plan.zero with circ := [(5, 0xE0000000)], tombAge := [(5, 4)], active := some p } }
    c.Canonical ∧ circTomb (c.circ 5) = true ∧ 4 ≤ tget 0 c.plan.tombAge 5 ∧ circTomb (Chip.zero.circ 5) = false
      ∧ circBound ((c.plan.active.map (fun a => tget 0 a.circs 5)).getD 0) = true := ⟨canonical_of (by decide), by decide⟩

/-! The mailbox and the Ibex units. -/

/-- A package in SERVICE, context 0 in a state, with a command posted in slot 0, the Ibex units in step or not. -/
def slotChip (q : CtxState) (synced : Bool) (ver op len : Nat) (payload : List Byte) : Chip :=
  { Chip.zero with
    img := { Image.zero with ctxs := [(0, { Ctx.zero with state := q })] }
    mbx := { Mbx.zero with
      dstate := .service, fwRun := true, synced := synced, unitA := { running := true, failed := false }, posted := [(0, 0)]
      store := wrBytes (wrBytes [] 0 ([1, BitVec.ofNat 8 ver] ++ leBytes 2 op ++ leBytes 2 len)) (if ver = 1 then 16 else 32) payload } }

/-- Whether slot 0 is served. -/
def servedB (c : Chip) (ver1 : Bool) (o : Op) : Bool :=
  c.takes && c.nextSlot == some 0 && c.mbx.slotOp 0 == some o && c.mbx.isUci1 0 == ver1 && c.mbx.shedFrames 0 o.isS == none

theorem served_of {c : Chip} {v : Bool} {o : Op} (h : servedB c v o = true) : Served c 0 v o := by
  simp only [servedB, Bool.and_eq_true, beq_iff_eq] at h
  obtain ⟨⟨⟨⟨a, b⟩, d⟩, e⟩, f⟩ := h
  exact ⟨a, b, d, e, f⟩

theorem witness_uci2_served : ∀ p ∈ [(1, Op.getInfo), (2, .getState), (3, .readFaultMap), (4, .readDossier), (5, .readDefects), (6, .attest), (7, .setCap)
    , (8, .computeReset), (9, .fwStage), (10, .fwActivate), (0x100, .stageWrite), (0x101, .stageRead), (0x102, .planLoad), (0x103, .planCancel)
    , (0x104, .planStatus), (0x200, .ctxCreate), (0x201, .ctxTeardown), (0x202, .ctxReset), (0x203, .ctxHold), (0x204, .ctxResume), (0x205, .checkLoad)
    , (0x206, .ctxStatus), (0x207, .stepDefine), (0x208, .stepRun), (0x209, .stepStatus), (0x20A, .progLoad)],
    Served (slotChip .loaded false 2 p.1 0 []) 0 false p.2 := fun p hp => served_of (List.all_eq_true.mp (by decide +kernel :
      List.all _ (fun (p : Nat × Op) => servedB (slotChip .loaded false 2 p.1 0 []) false p.2) = true) p hp)
theorem witness_uci1_served : ∀ p ∈ [(1, Op.getInfo), (2, .stageWrite), (3, .planLoad), (4, .ctxCreate), (5, .ctxTeardown), (6, .ctxReset), (7, .stepRun)
    , (8, .stepStatus), (9, .replay), (10, .readFaultMap)],
    Served (slotChip .loaded false 1 p.1 0 []) 0 true p.2 := fun p hp => served_of (List.all_eq_true.mp (by decide +kernel :
      List.all _ (fun (p : Nat × Op) => servedB (slotChip .loaded false 1 p.1 0 []) true p.2) = true) p hp)

/-- The package when a query is taken from slot 0. -/
def taken (c : Chip) (o : Op) : Chip := c.markTaken 0 o.pages

theorem witness_queries :
    let c := slotChip .loaded false 2 4 12 []
    let b := slotChip .loaded false 2 4 0 []
    let i := slotChip .loaded false 2 1 0 []
    ((taken b .readDossier).checkHeader .readDossier (b.slotRequest 0)).isSome = true
      ∧ (taken c .readDossier).checkHeader .readDossier (c.slotRequest 0) = none
      ∧ ((taken c .readDossier).query .readDossier (c.slotRequest 0)).refusal.isSome = true
      ∧ (taken i .getInfo).checkHeader .getInfo (i.slotRequest 0) = none := by decide +kernel
theorem witness_info : let i := slotChip .loaded false 2 1 0 []
    ((taken i .getInfo).query .getInfo (i.slotRequest 0)).refusal = none := rfl
theorem witness_response : memWf Chip.zero.mbx.store = true ∧ (List.replicate 4064 (1 : Byte)).length ≤ 4064 := ⟨rfl, Nat.le_of_eq List.length_replicate⟩

/-- The check of an S command in slot 0. -/
def checked (c : Chip) (o : Op) : Refused := (c.markTaken 0 o.pages).checkS o (c.slotRequest 0)

theorem witness_state_commands :
    checked (slotChip .loaded false 2 7 8 (leBytes 4 1000)) .setCap = none ∧ checked (slotChip .loaded true 2 7 8 (leBytes 4 1000)) .setCap = none
      ∧ checked (slotChip .loaded false 2 8 4 []) .computeReset = none ∧ checked (slotChip .loaded false 2 0x100 9 [0, 0, 0, 0, 0, 0, 0, 0, 1]) .stageWrite = none
      ∧ checked (slotChip .loaded false 2 0x201 0 []) .ctxTeardown = none ∧ checked (slotChip .loaded false 2 0x202 0 []) .ctxReset = none
      ∧ checked (slotChip .loaded false 2 0x203 0 []) .ctxHold = none ∧ checked (slotChip .held false 2 0x204 4 [4]) .ctxResume = none
      ∧ checked (slotChip .loaded false 1 5 0 []) .ctxTeardown = none ∧ checked (slotChip .loaded false 1 6 0 []) .ctxReset = none
      ∧ checked (slotChip .loaded false 2 0x103 0 []) .planCancel = some (stConflict, 0xFE03) := by decide +kernel

/-- The command of slot 0. -/
def cmd : Cmd := { slot := 0, ver1 := false, opcode := 7, ctx := 0, tag := 1, ctag := 1, notify := false }

/-- An intent. -/
def intent : Intent := { cmd := cmd, payload := [], digest := [], writes := [], refusal := none, frame := 0 }

theorem witness_no_intent : (∀ i, Chip.zero.mbx.waitAck = some i → i.cmd.slot ≠ 0) ∧ intent.cmd.slot ≠ 1 := ⟨fun _ h => (nomatch h), by decide⟩
theorem witness_intent : ({ Chip.zero with mbx := { Mbx.zero with waitAck := some intent } } : Chip).mbx.waitAck = some intent := by decide
/-- What a step of context 0 left for a replay. -/
def keptDig : DigCtx := { DigCtx.zero with first := [ownDigest] }

theorem witness_effects : (inState .service).mbx.dstate.inService = true ∧ Chip.zero.flt.resetDue = false ∧ Chip.zero.flt.rphase = 0
    ∧ ((slotChip .held false 2 1 0 []).ctx 0).state = .held ∧ (slotChip .held false 2 1 0 []).inFlight 0 = false
    ∧ ({ slotChip .held false 2 1 0 [] with cores := [(0, { runCore with flights := [flight 0] })] } : Chip).inFlight 0 = true
    ∧ ((slotChip .loaded false 2 1 0 []).ctx 0).state = .loaded
    ∧ ((slotChip .running false 2 1 0 []).ctx 0).state = .running ∧ ((slotChip .loaded false 2 1 0 []).ctx 0).resetCmds = []
    ∧ ((slotChip .loaded false 2 1 0 []).ctx 0).state ≠ .resetting
    ∧ ((slotChip .loaded false 2 1 0 []).ctx 0).loadCmd = none ∧ Chip.zero.flt.resetPending = false ∧ Chip.zero.flt.rdomain ≠ 5
    ∧ ((slotChip .loaded false 2 0x205 8 [0, 0, 0, 0, 8]).slotRequest 0).u 4 4 ≠ 0
    ∧ keptDig.keptOf (BitVec.ofNat 32 ((slotChip .loaded false 1 9 8 [1]).slotRequest 0 |>.u 0 4)) = some ownDigest
    ∧ (let r := (slotChip .loaded false 2 9 17 [1, 0, 0, 0, 3, 0, 0, 0, 0, 0, 0, 0, 0, 0, 0, 0, 7]).slotRequest 0
       r.u 0 4 ≠ 0 ∧ r.u 0 4 + (r.len - 16) < r.u 4 4)
    ∧ Chip.zero.canActivate = false := by decide +kernel

/-- Whether an image's signature verifies is an opaque constant (log 11): given one that does, it can be activated. -/
theorem witness_activation (i : FwSlot) (hs : i.staged = true) (hv : i.verifies .f 0 = true) :
    ({ inState .ready with nor := { Nor.zero with slot1 := i } } : Chip).canActivate = true
      ∧ ({ inState .ready with nor := { Nor.zero with slot1 := i } } : Chip).fwLegal = true := ⟨by
  simp only [Chip.canActivate, Bool.and_eq_true]
  exact ⟨hs, hv⟩, rfl⟩

/-- A final status. -/
def final : Final := { cmd := cmd, ring := true, boundary := false, frame := 0, status := 0, detail := 0, arg := 0, resp := [] }

/-- A slot state. -/
def slotOf (v : Byte) : Chip := { Chip.zero with mbx := { Mbx.zero with store := wrBytes [] 0 [v] } }

theorem witness_slots : ((slotOf 1).mbx.slotState 0).toNat = 1 ∧ ((slotOf 2).mbx.slotState 0).toNat = 2 ∧ ((slotOf 3).mbx.slotState 0).toNat = 3
    ∧ ((slotOf 0).mbx.slotState 0).toNat = 0 ∧ (byteAt [0] 0).toNat = 0 ∧ (byteAt [1] 0).toNat = 1 ∧ (byteAt [2] 0).toNat = 2
    ∧ (byteAt [3] 0).toNat = 3 ∧ 4095 + [(1 : Byte)].length ≤ 4096 := by decide
/-- A first byte that is written, one without its byte enable, and a longer payload than the function's maximum of 128 bytes. -/
theorem witness_slot_writes : let m := hostChip.pkg.maxPayload
    hostChip.hostUp = true ∧ 1 ≤ ([some 1] : List (Option Byte)).length ∧ ([some 1] : List (Option Byte)).length ≤ m
      ∧ (([some 1] : List (Option Byte)).headD none).map (fun b => b.toNat) = some 1
      ∧ (([none, some 7] : List (Option Byte)).headD none).map (fun b => b.toNat) = none
      ∧ (([some 2] : List (Option Byte)).headD none).map (fun b => b.toNat) = some 2
      ∧ ¬ (List.replicate 129 (none : Option Byte)).length ≤ m ∧ memWf Chip.zero.mbx.store = true := by decide +kernel
theorem witness_slot_space : 512 < (List.replicate 513 (0 : Byte)).length ∧ 1048576 < (0xFFFFF : BitVec 20).toNat + [(0 : Byte), 0].length
    ∧ 0x20000 ≤ (0x20000 : BitVec 20).toNat ∧ (0xFFFFF : BitVec 20).toNat + [(0 : Byte)].length ≤ 1048576 := by decide +kernel
theorem witness_ring : let m : Mbx := { Mbx.zero with fwRun := true }
    ({ Chip.zero with img := { Image.zero with held := [final] } } : Chip).img.held = final :: [] ∧ m.ringFull = false ∧ m.fwRun = true
      ∧ m.failFrame = none ∧ Chip.zero.img.held = [] ∧ ({ Mbx.zero with ringTail := 2047 } : Mbx).ringFull = true
      ∧ Mbx.zero.fwRun = false ∧ ({ Mbx.zero with failFrame := some 1 } : Mbx).failFrame ≠ none := by decide

/-- Both units run and the standby is in step. -/
def pair (synced : Bool) : Chip :=
  { Chip.zero with mbx := { Mbx.zero with
      fwRun := true, dstate := .service, synced := synced, unitA := { running := true, failed := false }, unitB := { running := true, failed := false } } }

/-- The pair in tick `t` of frame `n`. -/
def pairAt (n t : Nat) : Chip := { pair true with frm := { Machine.Frm.zero with valid := true, frame := n, tick := t } }

/-- A copy of frame `n`. -/
def copyOf (n : Nat) (acked : Bool) : Copy := { frame := n, lfn := 0, image := Image.zero, acked := acked }

/-- The seal record of a copy of no page. -/
def noPages : SealRecord := { pages := [], lfn := 0, count := 0, digest := shake24 [] }

theorem witness_beat : (pairAt 1 7).frm.inWindow = true ∧ (pairAt 1 7).mbx.unitA.ok = true ∧ (pairAt 1 7).mbx.unitB.ok = true
    ∧ (pairAt 1 8).frm.inWindow = false := by decide
theorem witness_copy : let m : Mbx := { (pair true).mbx with copy := some (copyOf 0 true) }
    m.copy = some (copyOf 0 true) ∧ (copyOf 0 true).acked = true ∧ (copyOf 0 false).acked = false ∧ (pair true).mbx.copy = none := by decide
theorem witness_verifies : let r := noPages
    ((∀ p ∈ r.pages, p.lfn = (copyOf 0 false).lfn ∧ p.digest = (shake24 p.data).take 16) ∧ r.lfn = (copyOf 0 false).lfn
      ∧ r.count = r.pages.length ∧ r.digest = shake24 (r.pages.flatMap copyHeader)) ∧ ({ r with count := 1 } : SealRecord).count ≠ r.pages.length :=
  ⟨⟨fun _ h => (nomatch h), rfl, rfl, by simp [noPages]⟩, by decide⟩
theorem witness_release : let d : Chip := { Chip.zero with img := { Image.zero with finals := [final] } }
    d.img.finals = [final] ∧ (fun f : Final => !f.boundary && decide (f.frame ≤ 0)) final = true := by decide
theorem witness_resync : let c : Chip := { pair false with
      mbx := { (pair false).mbx with resyncing := true, sealedFrame := some 5 }, frm := { Machine.Frm.zero with valid := true, frame := 6 } }
    c.mbx.resyncing = true ∧ c.mbx.resync = 0 ∧ c.mbx.copy = none ∧ c.mbx.sealedFrame = some (c.frm.frame - 1) ∧ c.mbx.failFrame = none
      ∧ (pair true).mbx.resyncing = false := by decide
theorem witness_swap : let c : Chip := { pairAt 1024 0 with mbx := { (pair true).mbx with swapDue := true, sealedFrame := some 1023 } }
    c.mbx.swapDue = true ∧ c.frm.frame % 1024 = 0 ∧ c.mbx.synced = true ∧ c.mbx.resyncing = false ∧ c.mbx.failFrame = none ∧ c.mbx.copy = none
      ∧ c.mbx.sealedFrame = some (c.frm.frame - 1) ∧ (pair true).mbx.swapDue = false := by decide
theorem witness_handover : let c : Chip := { pairAt 1025 32 with mbx := { (pair true).mbx with swapping := true, swapCopy := some (copyOf 1024 true) } }
    c.mbx.swapCopy = some (copyOf 1024 true) ∧ c.mbx.swapping = true ∧ 32 ≤ c.frm.tick ∧ c.mbx.failFrame = none
      ∧ (copyOf 1024 true).frame < c.frm.frame ∧ (pairAt 1025 31).frm.tick < 32 ∧ (pair true).mbx.swapCopy = none := by decide

theorem witness_missed : let c := { pairAt 2 0 with mbx := { (pair true).mbx with lastBeat := some 126 } }
    c.frm.valid = true ∧ (∃ w, c.mbx.lastBeat = some w ∧ w + 2 ≤ c.frm.window) ∧ (pair true).frm.valid = false
      ∧ (pairAt 2 0).mbx.lastBeat = none := ⟨by decide, ⟨126, by decide, by decide⟩, by decide, by decide⟩
theorem witness_units : let m := (pair true).mbx
    (m.unit m.active).ok = true ∧ (m.unit m.other).ok = true ∧ m.synced = true ∧ (pair false).mbx.synced = false ∧ (pair false).flt.rdomain ≠ 5
      ∧ m.active = .a ∧ m.other = .b ∧ m.waitAck = none ∧ (pair true).img.finals = [] := by decide
theorem witness_deadline : let c : Chip := { pair true with
      mbx := { (pair true).mbx with copy := some (copyOf 0 false) }, frm := { Machine.Frm.zero with valid := true, tick := 2816 } }
    c.mbx.copy.isSome = true ∧ 2816 ≤ c.frm.tick ∧ c.mbx.failFrame = none ∧ c.mbx.synced = true := by decide
theorem witness_takeover : let m : Mbx := { (pair true).mbx with unitA := { running := true, failed := true }, failFrame := some 3 }
    m.failFrame = some 3 ∧ (m.unit m.other).ok = true ∧ m.openIntents = [] ∧ (m.unit m.active).ok = false
      ∧ ({ m with swapping := true } : Mbx).swapping = true := by decide
theorem witness_unit_reset : let m : Mbx := { (pair false).mbx with unitB := { running := true, failed := true } }
    m.failedUnit = some .b ∧ m.failFrame = none ∧ (pair false).flt.resetPending = false ∧ (m.unit .b).ok = false
      ∧ (pair true).mbx.waitAck = none ∧ (pair false).flt.rdomain ≠ 5 ∧ (pair false).flt.resetDue = false ∧ (pair false).flt.rphase = 0
      ∧ ({ Flt.zero with resetDue := true } : Flt).resetDue = true ∧ ({ Flt.zero with resetPending := true } : Flt).resetPending = true := by decide

/-! Faults, recovery, bring-up. -/

/-- A core whose step has passed 64 boundaries, with a move started in frame 0. -/
def hungCore : Core := { runCore with step := some { step := 1, boundaries := 64 }, flights := [flight 0] }

/-- A package with it, two frames on, its context in a state. -/
def hungChip (q : CtxState) : Chip :=
  { withCore hungCore with
    frm := { Machine.Frm.zero with valid := true, frame := 2 }, img := { Image.zero with ctxs := [(0, { Ctx.zero with state := q })] } }

theorem witness_hung : let c := hungChip .running
    c.stepHung (.core 0) = true ∧ c.moverHung 0 = true ∧ Chip.zero.stepHung (.core 0) = false ∧ Chip.zero.moverHung 0 = false
      ∧ c.flt.largerReset = false ∧ c.flt.waiting.length < 8 ∧ c.unitCtx (.core 0) = some 0 ∧ (c.ctx 0).state = .running
      ∧ c.flt.trial ≠ some 0 ∧ bit c.flt.guilty (0 : CtxId).val = false ∧ c.flt.rdomain ≠ 5 ∧ Chip.zero.unitCtx (.core 0) = none
      ∧ ({ Flt.zero with waiting := List.replicate 8 (.core 1, false) } : Flt).waiting.length = 8 := by decide +kernel
theorem witness_engine_reset : let f := { Flt.zero with waiting := [(.core 0, false)] }
    f.waiting = (.core 0, false) :: [] ∧ f.running = none ∧ f.largerReset = false
      ∧ ({ Flt.zero with running := some (.core 0, false) } : Flt).running = some (.core 0, false) := by decide
theorem witness_reset_watchdogs : ((hungChip .resetting).ctx 0).inReset = true ∧ ((hungChip .running).ctx 0).inReset = false ∧ (hungChip .resetting).flt.largerReset = false
    ∧ ({ Flt.zero with rphase := 3, rdomain := 3 } : Flt).rphase ≠ 0 ∧ ({ Flt.zero with rphase := 3, rdomain := 3 } : Flt).rdomain ≠ 5
    ∧ ({ Chip.zero with flt := { Flt.zero with rdomain := 5 } } : Chip).inPackageReset = true
    ∧ ((hungChip .running).unitState (.core 0)).usable = true := by decide

theorem witness_compute_reset : let c : Chip := { inState .service with flt := { Flt.zero with resetDue := true } }
    c.flt.rphase = 0 ∧ c.flt.resetDue = true ∧ c.mbx.dstate.inService = true ∧ c.flt.resetPending = false
      ∧ (∀ k ∈ [1, 2, 3, 4, 5, 6, 7], ({ c.flt with rphase := BitVec.ofNat 4 k } : Flt).rphase.toNat = k) ∧ c.flt.computeCmds = [] := by decide
theorem witness_reset_phases : Chip.zero.undone = true
    ∧ ({ Chip.zero with frm := { Machine.Frm.zero with valid := true, frame := 3 }, flt := { Flt.zero with since := 3 } } : Chip).undone = false
    ∧ (Chip.zero.link 0).requal = false ∧ ((withLink { upLink with requal := true }).link 0).requal = true
    ∧ (∀ q ∈ [StackState.up, .selfRefresh, .training], let c : Chip := { Chip.zero with stks := [(0, { Stack.zero with state := q })] }
        canonicalB c = true ∧ (c.stack 0).state = q) := by decide
theorem witness_trial : let c := hungChip .running
    ({ Flt.zero with trial := some 0, trialLeft := 0 } : Flt).trial = some 0 ∧ Flt.zero.trial = none ∧ (c.ctx 0).runs = []
      ∧ ({ Flt.zero with trial := some 0, trialLeft := 1 } : Flt).trialLeft ≠ 0 := by decide

/-- A beacon with `n` copies to send. -/
def beacon (n : Nat) : Beacon :=
  { code := 0x15, severity := 2, time := 0, unit := 0xFFFF, ctxMask := 0, dossier := 0, suppressed := 0, arg := 0, addr := 0, seq := 0, left := n }

/-- A package with power, Markhor in charge. -/
def powered : Chip := { Chip.zero with pkg := { Pkg.zero with entryIn := true, markhor := true } }

theorem witness_beacons : bit Flt.zero.ctl.val 12 = true ∧ bit ({ Flt.zero with ctl := CfgWord.of 0x40 } : Flt).ctl.val 12 = false ∧ ({ Flt.zero with beacons := [beacon 1] } : Flt).beacons = beacon 1 :: [] ∧ (beacon 1).left = 1 ∧ (beacon 2).left = 2 := by
  decide
theorem witness_package_reset : ({ powered with flt := { Flt.zero with resetPending := true } } : Chip).flt.resetPending = true
    ∧ powered.pkg.entryIn = true ∧ powered.canRelease = true ∧ powered.thm.shutdown = false ∧ powered.flt.quarCause = 0
    ∧ ({ Flt.zero with quarCause := 3 } : Flt).quarCause ≠ 0 ∧ Chip.zero.canRelease = false := by decide

/-- A package in step `k` of bring-up. -/
def inStep (k : Nat) : Chip := { inState .bringup with bru := { Bru.zero with running := true, step := BitVec.ofNat 4 k } }

theorem witness_steps : (∀ k ∈ [1, 2, 3, 4, 5, 6, 7, 8, 9, 10], (inStep k).inStep k = true ∧ (10 : BitVec 16).toNat ≤ bruMax (inStep k).bru.warm k
    ∧ bruMax (inStep k).bru.warm k < (9000 : BitVec 16).toNat ∧ Chip.zero.inStep k = false) := by decide
theorem witness_step_ends : (inStep 10).frm.state ≠ .locked ∧ ({ Machine.Frm.zero with state := .locked } : Machine.Frm).state = .locked
    ∧ (inStep 1).mbx.dstate = .bringup ∧ (inStep 1).bru.running = true ∧ (inStep 1).bru.waitAir = false ∧ bruPass ≠ bruFail
    ∧ bits ({ Bru.zero with ctl := CfgWord.of 1, step := 1 } : Bru).ctl.val 3 0 = ({ Bru.zero with ctl := CfgWord.of 1, step := 1 } : Bru).step.toNat
    ∧ (inStep 1).bru.step ≠ 6 ∧ (inStep 1).bru.step ≠ 2 ∧ (inStep 1).bru.step ≠ 8 ∧ (inStep 1).bru.step ≠ 9
    ∧ tget 0 (inStep 1).bru.fails (inStep 1).bru.step.toNat < 2 ∧ 2 ≤ tget 0 ({ Bru.zero with fails := [(1, 2)] } : Bru).fails 1
    ∧ Chip.zero.bru.running = false := by decide
theorem witness_fuse_nor : Chip.zero.fuse.consistent = true ∧ lostRecords [] = [] ∧ lostRecords [6] = [] ∧ lostRecords [6, 7] ≠ []
    ∧ lostRecords [0] ≠ [] ∧ ({ Bru.zero with rebuild := true } : Bru).rebuild = true ∧ Chip.zero.bru.rebuild = false := by decide +kernel
theorem witness_memory_step : Chip.zero.fuse.stackOn (23 : StackId).val = true ∧ bit (0x800000 : BitVec 24) (23 : StackId).val = true
    ∧ (∀ i : StackId, bit (0 : BitVec 24) i.val = false ∧ (tget [] Chip.zero.nor.retired i.val).length ≤ 256) := by decide +kernel
theorem witness_link_step : let c : Chip := { Chip.zero with links := (List.range 6).map (fun l => (l, upLink)) }
    (∀ l : LinkId, (c.link l).state = .up ∧ 16 ≤ (c.link l).width) ∧ c.fuse.linkOn (5 : LinkId).val = true
      ∧ ((withLink fourLink).link 0).width < 16 := by decide +kernel
theorem witness_firmware : Chip.zero.slotOk Chip.zero.nor.active true = true ∧ Chip.zero.slotOk Chip.zero.nor.active false = false
    ∧ Chip.zero.slotOk Chip.zero.nor.inactive false = false ∧ Chip.zero.bootOk Chip.zero.nor.active true = true
    ∧ Chip.zero.bootOk Chip.zero.nor.inactive false = false := by decide
theorem witness_training_steps : let warm : Chip := { inStep 4 with bru := { (inStep 4).bru with warm := true } }
    warm.inStep 4 = true ∧ warm.bru.warm = true ∧ (inStep 4).bru.warm = false ∧ Chip.zero.linksTried = true
      ∧ (withLink (tryLink 0)).linksTried = false := by decide
theorem witness_ready : (inStep 10).bru.ended bruQuarantine = false
    ∧ ({ Bru.zero with steps := [(6, { result := 2, ms := 0 })] } : Bru).ended bruDegraded = true
    ∧ ({ Bru.zero with steps := [(6, { result := 3, ms := 0 })] } : Bru).ended bruQuarantine = true
    ∧ ({ Bru.zero with steps := [(6, { result := 2, ms := 0 })] } : Bru).ended bruQuarantine = false ∧ (inStep 10).bru.warm = false
    ∧ ({ inStep 10 with frm := { Machine.Frm.zero with state := .locked } } : Chip).frm.state = .locked := by decide
theorem witness_power_on : Chip.zero.pkg.entryIn = false ∧ Chip.zero.pwr.airPin = false ∧ Chip.zero.pwr.storeLow = false := by decide

/-! Power and temperature. -/

theorem witness_samples : let w := powered.pwr
    10000 * w.force < (4800 : BitVec 16).toNat * (4000 : BitVec 16).toNat ∧ w.cut = false
      ∧ 19000000 < (4800 : BitVec 16).toNat * (4000 : BitVec 16).toNat ∧ ¬ 10000 * w.force < (4800 : BitVec 16).toNat * (1000 : BitVec 16).toNat
      ∧ powered.pkg.entryIn = true := by decide
theorem witness_cut_after_alarm : (∃ h, ({ Pwr.zero with hardAt := some 0 } : Pwr).hardAt = some h ∧ h + 40960 ≤ 40960)
    ∧ Chip.zero.pkg.entryIn = false := ⟨⟨0, rfl, by decide⟩, rfl⟩
/-- 2,001 samples over E among the last 10 ms. -/
theorem witness_samples_over : 2000 < (((1, 0) :: List.replicate 2000 (1, 0)).take 10000).countP (fun q : Nat × Nat => decide (10000 * q.2 < q.1)) := by
  decide +kernel
/-- Samples of a full window, `n` = 9,999, of which the mean passes E. -/
theorem witness_mean_over (n : Nat) : let kept := ((1, 0) :: List.replicate n (1, 0) : List (Nat × Nat)).take (n + 1)
    kept.length = n + 1 ∧ 10000 * (kept.map (fun q => q.2)).sum < (kept.map (fun q => q.1)).sum := by simp <;> omega
theorem witness_power_window : powered.pwr.floorNow ≤ window.ownCurrent := by decide
theorem witness_pins : powered.pwr.airPin = false ∧ ({ Pwr.zero with airPin := true } : Pwr).airPin = true ∧ powered.mbx.dstate ≠ .bringup
    ∧ powered.pwr.storeLow = false ∧ ({ Pwr.zero with storeLow := true } : Pwr).storeLow = true ∧ (299 : BitVec 16).toNat < 300 := by decide
theorem witness_regulators : coreRegulator .ld0 = true ∧ coreRegulator .iod = false ∧ powered.flt.regFault = false ∧ powered.flt.resetDue = false
    ∧ powered.flt.rphase = 0 ∧ powered.flt.resetPending = false ∧ powered.flt.rdomain ≠ 5 := by decide

/-- A core with an effective temperature, its limit at 700 MHz, under power. -/
def warm (t : BitVec 16) : Chip :=
  { powered with cores := [(0, { runCore with clock := { Core.zero.clock with limit := 140 }, therm := { Therm.zero with eff := t } })] }

theorem witness_core_sensors : (warm 0).Canonical ∧ ((warm 0).core 0).state.usable = true ∧ ((warm 0).core 0).therm.bad = false
    ∧ pairTemp (100 : BitVec 16).toInt (101 : BitVec 16).toInt = some 100 ∧ pairTemp (0 : BitVec 16).toInt (241 : BitVec 16).toInt = none
    ∧ ((warm 0).core 0).clock.gated = false ∧ ((warm 0).core 0).therm.eff.toInt < 1680 ∧ 1680 ≤ ((warm 1680).core 0).therm.eff.toInt
    ∧ 70 < ((warm 1680).core 0).clock.limit.toNat ∧ 1600 < ((warm 1679).core 0).therm.eff.toInt
    ∧ ((warm 1679).core 0).therm.eff.toInt < 1680 := ⟨canonical_of (by decide), by decide⟩
theorem witness_gate : (1840 : Int) < 2000 ∧ ((warm 0).core 0).clock.gated = false ∧ ((warm 1600).core 0).therm.eff.toInt ≤ 1600
    ∧ ((warm 0).core 1).state.usable = false := by decide
theorem witness_stack_bands : let k : Stack := { Stack.zero with state := .up }
    k.state ≠ .none ∧ k.dramHot = false ∧ (1520 : BitVec 16).toInt = 1520 ∧ (1679 : BitVec 16).toInt < 1680 ∧ (1440 : BitVec 16).toInt ≤ 1440
      ∧ 1440 < (1441 : BitVec 16).toInt ∧ (1519 : BitVec 16).toInt < 1520 ∧ ({ k with dram := 1500 } : Stack).dram.toInt = 1500
      ∧ (Chip.zero.stack 0).state = .none ∧ 1600 < ({ runEngine with temp := 1679 } : Engine).temp.toInt
      ∧ ({ runEngine with temp := 1679 } : Engine).temp.toInt < 1680 := by decide
theorem witness_shutdown : (2000 : BitVec 16).toInt = 2000 ∧ powered.thm.shutdown = false ∧ powered.flt.resetPending = false
    ∧ ({ powered with engines := [(0, { runEngine with temp := 1680 })] } : Chip).engine 0 = { runEngine with temp := 1680 }
    ∧ runEngine.state.usable = true ∧ (1680 : BitVec 16).toInt = 1680 ∧ runEngine.down < 15
    ∧ (({ powered with stks := [(0, { Stack.zero with state := .up })] } : Chip).stack 0).state ≠ .none
    ∧ (1500 : BitVec 16).toInt = 1500 ∧ (1999 : BitVec 16).toInt < 2000 := by decide
theorem witness_still_hot : let c : Chip := { powered with
      cores := [(0, { runCore with clock := { Core.zero.clock with gated := true } })]
      stks := [(0, { Stack.zero with state := .up, dramHot := true })], thm := { Thm.zero with shutdown := true } }
    c.Canonical ∧ c.pkg.entryIn = true ∧ (c.core 0).clock.gated = true ∧ c.thm.shutdown = true ∧ powered.thm.shutdown = false
      ∧ (c.stack 0).state ≠ .none ∧ (c.stack 0).dramHot = true := ⟨canonical_of (by decide), by decide⟩
theorem witness_heat_sink : 1600 ≤ (1600 : BitVec 16).toInt ∧ 1440 ≤ max (1440 : BitVec 16).toInt (1439 : BitVec 16).toInt ∧ powered.thm.hsHigh = false
     ∧ (1360 : BitVec 16).toInt ≤ 1360 ∧ powered.thm.hs0.isSome = true
    ∧ ({ powered with thm := { Thm.zero with shutdown := true } } : Chip).canRelease = true
    ∧ ({ powered with thm := { Thm.zero with shutdown := true } } : Chip).cooled 10 = true ∧ powered.cooled 9 = false
    ∧ powered.flt.quarCause = 0 := by decide

/-! The host and the management side. -/

/-- Vector 0 is unmasked and has an event. -/
def vectorChip : Chip := { powered with pkg := { powered.pkg with pcieUp := true, msixEn := true, pcie := { PcieCfg.zero with command := 4 }, pba := 1, msix := [(3, 0)] } }

theorem witness_vector : bit vectorChip.pkg.pba 0 = true ∧ vectorChip.pkg.canSend 0 = true ∧ vectorChip.vectorBusy 0 = false
    ∧ bit powered.pkg.pba 0 = false ∧ bit powered.pkg.merge 0 = false := by decide

/-- A package whose management port is up and keyed. -/
def keyed : Chip :=
  { powered with
    pkg := { powered.pkg with mgmtUp := true }, nor := { Nor.zero with beacon := { dest1 := 0, dest2 := 0, unicast := 0, hop := 1, key := 1 } } }

/-- A request for an OP, as far as its tag. -/
def requestBody (op : Byte) : List Byte := ascii "GL4B" ++ [1, 3, 0, 1] ++ List.replicate 24 0 ++ [op] ++ List.replicate 15 0

/-- The request with its tag. -/
def request (op : Byte) : List Byte := requestBody op ++ keyed.mgmtTag (requestBody op)

/-- A peer that sends to the link-local address. -/
def peer : Peer := { addr := 1, port := 2, sentTo := linkLocal }

theorem witness_heard : keyed.portUp = true ∧ keyed.ownAddress peer.sentTo = true := ⟨by decide, by simp [peer, Chip.ownAddress]⟩
theorem witness_port_link : ({ up := true } : PortLink).up = true ∧ ({ up := false } : PortLink).up = false ∧ powered.pkg.entryIn = true
    ∧ powered.nor.beacon.unicast = 0 ∧ ({ keyed with nor := { Nor.zero with beacon := { dest1 := 0, dest2 := 0, unicast := 3, hop := 1, key := 1 } } } : Chip).nor.beacon.unicast ≠ 0
    ∧ ({ keyed with pkg := { keyed.pkg with dupLocal := true } } : Chip).portUp = false := by decide
theorem witness_no_request : keyed.portUp = true ∧ keyed.request [] = none ∧ keyed.pkg.served < 256
    ∧ 256 ≤ ({ Pkg.zero with served := 256 } : Pkg).served ∧ Chip.zero.portUp = false :=
  ⟨by decide, by simp [Chip.request], by decide, by decide, by decide⟩
theorem witness_addresses : keyed.ownAddress linkLocal = true ∧ keyed.ownAddress (linkLocal + 1) = false :=
  ⟨by simp [Chip.ownAddress], by simp [Chip.ownAddress, Chip.unicastUsed, keyed]⟩

theorem slice_tail (a b : List Byte) : slice (a ++ b) a.length b.length = b := by
  apply List.ext_getElem
  · simp [slice]
  · intro i _ h
    simp [slice, byteAt, List.getElem?_append_right, h]

theorem witness_request : ∀ op ∈ [(1 : Byte), 2, 3], keyed.request (request op) = some (0, op.toNat, 0, 0) := by
  intro op hop
  have hb : (requestBody op).length = 48 := by simp [requestBody, ascii]
  have hl : (keyed.mgmtTag (requestBody op)).length = 16 := by
    have := List.all_eq_true.mp (by decide +kernel :
      [(1 : Byte), 2, 3].all (fun o => (keyed.mgmtTag (requestBody o)).length == 16) = true) op hop
    exact beq_iff_eq.mp this
  have ht : (request op).take 48 = requestBody op := by rw [request, ← hb, List.take_left]
  have hs : slice (request op) 48 16 = keyed.mgmtTag (requestBody op) := by
    have := slice_tail (requestBody op) (keyed.mgmtTag (requestBody op))
    rw [hb, hl] at this
    exact this
  have hn : (request op).length = 64 := by simp [request, hb, hl]
  generalize hg : keyed.mgmtTag (requestBody op) = tag at *
  simp only [Chip.request, ht, hs, hn, hg, beq_self_eq_true, Bool.and_true]
  simp only [request, requestBody]
  simp only [List.mem_cons, List.not_mem_nil, or_false] at hop
  obtain rfl | rfl | rfl := hop <;> rfl
theorem witness_mctp : (let e : SetEid := { op := 0, eid := 8 }
    e.eid ≠ 0 ∧ e.eid ≠ 0xFF ∧ e.op.toNat < 2) ∧ ¬ ({ op := 2, eid := 8 } : SetEid).op.toNat < 2 ∧ keyed.portUp = true
    ∧ ({ addr := 5 } : Unicast).addr ≠ 0 ∧ ({ addr := 0 } : Unicast).addr = 0 ∧ ({ Pkg.zero with eid := some 8 } : Pkg).eid = some 8
    ∧ (List.replicate 32 (0 : Byte)).length = 32 ∧ (1024 : Word) ≠ 0 ∧ powered.pkg.reportMctp = none := by decide
theorem witness_attest_pages : let nonce : List Byte := List.replicate 32 7
    let b := List.replicate 16 0 ++ nonce
    slice b 16 32 = padTo nonce 32 ∧ (48 : Word).toNat ≤ b.length ∧ b.length < (49 : Word).toNat ∧ (48 : Word) ≠ 0
      ∧ slice b 16 32 ≠ padTo [] 32 ∧ ({ Pkg.zero with reportMctp := some b } : Pkg).reportMctp = some b := by decide +kernel
theorem witness_chunks : 1024 < (List.replicate 1025 (0 : Byte)).length ∧ ([] : List Byte).length ≤ 1024 ∧ powered.stageRefusal true 0 0x100000 0 = none
    ∧ powered.stageRefusal true 1024 0x100000 0 ≠ none := by decide +kernel
theorem witness_mctp_activate : let c : Chip := { powered with mbx := { Mbx.zero with dstate := .ready } }
    c.fwLegal = true ∧ c.canActivate = false ∧ powered.fwLegal = false := by decide
theorem witness_pages : let f := { Flt.zero with dossiers := [{ seq := 1, domain := 5, bytes := [7] }] }
    (f.dossierAt 0).bind (fun d => paged d.bytes 0 1024) = some [7] ∧ (f.dossierAt 5).bind (fun d => paged d.bytes 0 1024) = none := by decide
end Sys2Proof.Tests
end

section
/-! SUPPORT. What a lifted command answers, the bits of a word, folds over the package, and what an event and the device state leave. -/
namespace Sys2Proof.Machine

/-! What a lifted command answers. -/

theorem Gives.of_lift {i : Instr} {s : State} {f : Chip → Chip} {t : Chip} (hi : exec i s = s.lift f) (ht : f s.chip = t) :
    Gives i s t := by
  rw [Gives, hi, State.lift_eq, ht]

theorem Completes.of_lift {i : Instr} {s : State} {f : Chip → Chip} {P : Chip → Prop} (hi : exec i s = s.lift f)
    (hP : P (f s.chip)) : Completes i s P :=
  ⟨f s.chip, hi, hP⟩

theorem Completes.mono {i : Instr} {s : State} {P Q : Chip → Prop} (h : Completes i s P) (hPQ : ∀ t, P t → Q t) :
    Completes i s Q := by
  obtain ⟨t, ht, hP⟩ := h
  exact ⟨t, ht, hPQ t hP⟩

/-! Bits of a word. -/

@[simp] theorem bit_or (v w : Word) (i : Nat) : bit (v ||| w) i = (bit v i || bit w i) := BitVec.getLsbD_or

@[simp] theorem bit_and (v w : Word) (i : Nat) : bit (v &&& w) i = (bit v i && bit w i) := BitVec.getLsbD_and

@[simp] theorem bit_xor (v w : Word) (i : Nat) : bit (v ^^^ w) i = (bit v i ^^ bit w i) := BitVec.getLsbD_xor

theorem bit_not (v : Word) {i : Nat} (hi : i < 32) : bit (~~~v) i = !bit v i := by
  simp [bit, hi]

theorem bit_setBit_same (w : Word) {i : Nat} (hi : i < 32) : bit (setBit w i) i = true := by
  rw [setBit, bit_or, Bool.or_eq_true]
  right
  simp only [bit, BitVec.getLsbD_ofNat, hi, decide_true, Nat.testBit_two_pow_self, Bool.and_true]

/-- Raising a bit clears no other. -/
theorem bit_setBit_of_bit {w : Word} {j : Nat} (h : bit w j = true) (i : Nat) : bit (setBit w i) j = true := by
  rw [setBit, bit_or, h, Bool.true_or]

/-! Folds over the package. -/

/-- What every step of a fold leaves, the fold leaves. -/
theorem Chip.foldl_proj {α β : Type} (p : Chip → β) (g : Chip → α → Chip) (hg : ∀ d x, p (g d x) = p d) (l : List α)
    (c : Chip) : p (l.foldl g c) = p c := by
  induction l generalizing c with
  | nil => rfl
  | cons x l ih => exact (ih (g c x)).trans (hg c x)

/-- A fold whose every step leaves the package as it is does so too. -/
theorem Chip.foldl_fixed {α : Type} {g : Chip → α → Chip} {c : Chip} (hg : ∀ x, g c x = c) (l : List α) : l.foldl g c = c := by
  induction l with
  | nil => rfl
  | cons x l ih => rw [List.foldl_cons, hg x, ih]

/-- A fold that changes links leaves all else. -/
theorem Chip.foldl_modLink_eq (f : LinkId → Link → Link) (l : List LinkId) (c : Chip) :
    ∃ links : Tab Link, l.foldl (fun c x => c.modLink x (f x)) c = { c with links := links } := by
  induction l generalizing c with
  | nil => exact ⟨c.links, rfl⟩
  | cons x l ih =>
    obtain ⟨links, h⟩ := ih (c.modLink x (f x))
    exact ⟨links, h⟩

/-! What an event and the device state that follows the reasons leave. -/

@[simp] theorem Chip.event_frm (c : Chip) (e : Event) : (c.event e).frm = c.frm := (Chip.event_cf (n := 0) e (CFr.refl 0 c)).frm

@[simp] theorem Chip.event_plan (c : Chip) (e : Event) : (c.event e).plan = c.plan := (Chip.event_cf (n := 0) e (CFr.refl 0 c)).plan

@[simp] theorem Chip.refresh_frm (c : Chip) : c.refresh.frm = c.frm := (Chip.refresh_cf (n := 0) (CFr.refl 0 c)).frm

@[simp] theorem Chip.refresh_plan (c : Chip) : c.refresh.plan = c.plan := (Chip.refresh_cf (n := 0) (CFr.refl 0 c)).plan

@[simp] theorem Chip.sendVector_img (c : Chip) (v : Nat) : (c.sendVector v).img = c.img := by
  unfold Chip.sendVector
  split <;> rfl

@[simp] theorem Chip.vectorEvent_img (c : Chip) (v : Nat) : (c.vectorEvent v).img = c.img := by
  unfold Chip.vectorEvent
  split
  · rfl
  · exact c.sendVector_img v

@[simp] theorem Chip.irqCause_img (c : Chip) (b : Nat) : (c.irqCause b).img = c.img := by
  unfold Chip.irqCause
  split
  · exact Chip.vectorEvent_img _ _
  · rfl

@[simp] theorem Chip.fltErr_img (c : Chip) (b : Nat) : (c.fltErr b).img = c.img := by
  unfold Chip.fltErr
  dsimp only
  split
  · rfl
  · exact Chip.irqCause_img _ _

@[simp] theorem Chip.sendBeacon_img (c : Chip) (b : Beacon) (copy : Nat) : (c.sendBeacon b copy).img = c.img := by
  unfold Chip.sendBeacon
  dsimp only
  split <;> rfl

@[simp] theorem Chip.event_img (c : Chip) (e : Event) : (c.event e).img = c.img := by
  unfold Chip.event
  dsimp only
  split
  · exact Chip.fltErr_img _ _
  · split
    · exact Chip.sendBeacon_img _ _ _
    · rfl

@[simp] theorem Chip.setDState_img (c : Chip) (d : DState) : (c.setDState d).img = c.img := by
  unfold Chip.setDState
  split
  · rfl
  · exact (Chip.irqCause_img _ _).trans (Chip.event_img _ _)

@[simp] theorem Chip.refresh_img (c : Chip) : c.refresh.img = c.img := by
  unfold Chip.refresh
  split
  case h_4 => rfl
  all_goals exact Chip.setDState_img _ _

end Sys2Proof.Machine
end

section
/-! SUPPORT. What a host access to BAR0 does (R390, R391, R396, R415, R416, R421, R422, Tables 16-2 and 16-4b), kind of access by
kind of access, and the obligation about it. -/
namespace Sys2Proof.Machine

variable {c : Chip} {b : RegBlock} {r off : Nat} {d : Word}

/-! The gate of a host access (R390, R396). -/

theorem Chip.host_of_hostUp (h : c.hostUp = true) (f : Chip → Chip) : c.host f = f c := by
  rw [Chip.host, if_pos h]

theorem Chip.host_of_endpoint_off (h : c.pkg.pcieUp = false) (f : Chip → Chip) : c.host f = c := by
  simp [Chip.host, Chip.hostUp, h]

theorem Chip.host_of_d3hot (hu : c.pkg.pcieUp = true) (h3 : c.pkg.pcie.d3hot = true) (f : Chip → Chip) :
    c.host f = c.unsupported := by
  simp [Chip.host, Chip.hostUp, hu, h3]

/-- Every access of the host passes the gate of R390 and R396 before it does anything. -/
theorem exec_eq_host_of_hostAccess {i : Instr} (s : State) (h : hostAccess i = true) :
    ∃ f : Chip → Chip, exec i s = .next { s with chip := s.chip.host f } := by
  unfold hostAccess at h
  split at h
  case h_29 => exact absurd h Bool.false_ne_true
  all_goals exact ⟨_, rfl⟩

/-! A write of a register, by its kind of access (R415, R416, R422). -/

theorem oneDw_iff (x : Bar0Access) : oneDw x = true ↔ x.dws = 1 ∧ x.enables = 0xF ∧ x.off.toNat % 4 = 0 := by
  simp only [oneDw, Bool.and_eq_true, beq_iff_eq]
  exact ⟨fun ⟨⟨ha, hd⟩, he⟩ => ⟨hd, he, ha⟩, fun ⟨hd, he, ha⟩ => ⟨⟨ha, hd⟩, he⟩⟩

theorem exec_registerWrite (x : Bar0Access) (d : Word) (s : State) : exec (.registerWrite x d) s =
    s.lift (fun c => c.host (fun c => if oneDw x then c.regWrite x.off.toNat d else c.unsupported)) := rfl

@[simp] theorem Chip.refuse_nil (off : Nat) : c.refuse off [] = c := rfl

theorem Chip.refuse_singleton (off k : Nat) : c.refuse off [k] = { c with pkg := { c.pkg with
    err := setBit c.pkg.err k, regAddr := fld k 28 ||| BitVec.ofNat 32 (off % 2 ^ 28), regTime := c.now
    cntRefused := satInc c.pkg.cntRefused 1 } } := rfl

theorem Chip.regWrite_unmapped (hr : regAt (off % 0x4000000) = none) : c.regWrite off d = c.refuse off [cUnlisted] := by
  simp only [Chip.regWrite, hr]

theorem Chip.regWrite_gone (hr : regAt (off % 0x4000000) = some (b, r)) (hg : c.gone b = true) : c.regWrite off d = c := by
  simp only [Chip.regWrite, hr, hg, if_true]

section
variable (hr : regAt (off % 0x4000000) = some (b, r)) (hg : c.gone b = false)
include hr hg

theorem Chip.regWrite_unlisted (hk : b.kind r = .unlisted) : c.regWrite off d = c.refuse off [cUnlisted] := by
  simp only [Chip.regWrite, hr, hg, hk, Bool.false_eq_true, if_false]

theorem Chip.regWrite_ro (hk : b.kind r = .ro) : c.regWrite off d = c.refuse off [cRo] := by
  simp only [Chip.regWrite, hr, hg, hk, Bool.false_eq_true, if_false]

theorem Chip.regWrite_wo_alias (hk : b.kind r = .wo) (ha : aliasOf off ≠ .normal) : c.regWrite off d = c.refuse off [cWo] := by
  simp only [Chip.regWrite, hr, hg, hk, ha, Bool.false_eq_true, if_false]

theorem Chip.regWrite_rw (hk : b.kind r = .rw) : c.regWrite off d = c.writeRw b r (aliasOf off) d off := by
  simp only [Chip.regWrite, hr, hg, hk, Bool.false_eq_true, if_false]

theorem Chip.regWrite_w1c {m : Word} (hk : b.kind r = .w1c m) : c.regWrite off d = c.writeW1c b r m (aliasOf off) d off := by
  simp only [Chip.regWrite, hr, hg, hk, Bool.false_eq_true, if_false]

end

/-- A write of a W1C register that gives its RV bits zero records nothing. -/
theorem Chip.writeW1c_of_rv_zero {m : Word} (a : RegAlias) (hd : d &&& ~~~m = 0) :
    c.writeW1c b r m a d off = c.modW1c b r (fun v => (w1cWord a m v d).1) := by
  have hz : (d &&& ~~~b.roBits) &&& ~~~m = 0 := by
    rw [BitVec.and_assoc, BitVec.and_comm (~~~b.roBits), ← BitVec.and_assoc, hd]
    exact BitVec.zero_and
  have hq : (w1cWord a m 0 (d &&& ~~~b.roBits)).2 = false := by simp [w1cWord, hz]
  rw [Chip.writeW1c, hq]
  rfl

/-! The aliases of a word, bit by bit (R421, Table 16-2). -/

theorem bit_rwWord (a : RegAlias) (rw old d : Word) {i : Nat} (hi : i < 32) :
    bit (rwWord a rw old d).1 i = if bit rw i then bit (aliasRw a old d) i else bit old i := by
  cases h : bit rw i <;> simp [rwWord, bit_not _ hi, h]

theorem bit_w1cWord (a : RegAlias) (m old d : Word) {i : Nat} (hi : i < 32) :
    bit (w1cWord a m old d).1 i = if bit m i then bit (aliasW1c a old d) i else bit old i := by
  cases h : bit m i <;> simp [w1cWord, bit_not _ hi, h]

theorem rwWord_rv_iff (a : RegAlias) (rw old d : Word) :
    (rwWord a rw old d).2 = true ↔ a = .normal ∧ d &&& ~~~rw ≠ old &&& ~~~rw := by
  simp [rwWord]

/-- Where no access of the host arrives (R396), and where one is an unsupported request (R390, log 129). -/
theorem gives_of_hostAccess_gated {i : Instr} (s : State) (h : hostAccess i = true) :
    (s.chip.pkg.pcieUp = false → Gives i s s.chip)
    ∧ (s.chip.pkg.pcieUp = true → s.chip.pkg.pcie.d3hot = true → Gives i s s.chip.unsupported) := by
  obtain ⟨f, hf⟩ := exec_eq_host_of_hostAccess s h
  refine ⟨fun hu => ?_, fun hu h3 => ?_⟩
  · rw [Gives, hf, Chip.host_of_endpoint_off hu]
  · rw [Gives, hf, Chip.host_of_d3hot hu h3]

theorem gives_registerWrite_of_not_oneDw {x : Bar0Access} {s : State} (hu : s.chip.hostUp = true) (hx : ¬ oneDw x = true) :
    Gives (.registerWrite x d) s s.chip.unsupported :=
  .of_lift (exec_registerWrite x d s) (by rw [Chip.host_of_hostUp hu, if_neg hx])

theorem gives_registerWrite_of_oneDw {x : Bar0Access} {s : State} {t : Chip} (hu : s.chip.hostUp = true) (hx : oneDw x = true)
    (ht : s.chip.regWrite x.off.toNat d = t) : Gives (.registerWrite x d) s t :=
  .of_lift (exec_registerWrite x d s) (by rw [Chip.host_of_hostUp hu, if_pos hx, ht])

/-- Settles O31: the gate of host accesses, a register write by kind of access, and the aliases bit by bit. -/
theorem registerAccessAndAliases : Obligations.RegisterAccessAndAliases := by
  refine ⟨fun i s h => gives_of_hostAccess_gated s h, fun x d s hu => ?_, fun rw old d i hi => ?_⟩
  · intro c o one w refused
    have hone : one ↔ oneDw x = true := (oneDw_iff x).symm
    have hoff : o % 2 ^ 28 = o := Nat.mod_eq_of_lt x.off.isLt
    have hwrite : ∀ {t : Chip}, one → c.regWrite o d = t → Gives w s t := fun h1 ht =>
      gives_registerWrite_of_oneDw hu (hone.mp h1) ht
    have hrefused : ∀ k, one → c.regWrite o d = c.refuse o [k] → refused k := fun k h1 ht =>
      hwrite h1 (ht.trans (by rw [Chip.refuse_singleton, hoff]))
    refine ⟨fun h1 => gives_registerWrite_of_not_oneDw hu (mt hone.mpr h1),
      fun h1 hr => hrefused _ h1 (Chip.regWrite_unmapped hr), fun b r h1 hr => ⟨?_, ?_, ?_, ?_, ?_, ?_⟩⟩
    · exact fun hg => hwrite h1 (Chip.regWrite_gone hr hg)
    · exact fun hg hk => hrefused _ h1 (Chip.regWrite_unlisted hr hg hk)
    · exact fun hg hk => hrefused _ h1 (Chip.regWrite_ro hr hg hk)
    · exact fun hg hk ha => hrefused _ h1 (Chip.regWrite_wo_alias hr hg hk ha)
    · exact fun hg hk => hwrite h1 (Chip.regWrite_rw hr hg hk)
    · exact fun m hg hk hd => hwrite h1 ((Chip.regWrite_w1c hr hg hk).trans (Chip.writeW1c_of_rv_zero _ hd))
  · intro r x
    refine ⟨fun h a => ?_, fun h => ?_, fun a => rwWord_rv_iff a rw old d⟩
    · simp only [r, x, bit_rwWord _ _ _ _ hi, bit_w1cWord _ _ _ _ hi, h, Bool.false_eq_true, if_false, and_self]
    · simp [r, x, bit_rwWord _ _ _ _ hi, bit_w1cWord _ _ _ _ hi, h, aliasRw, aliasW1c, bit_not _ hi]

end Sys2Proof.Machine
end

section
/-! SUPPORT. The tick period that an empty queue leaves to time (log 13), and the state after manufacture. -/
namespace Sys2Proof.Machine

variable {c : Chip} {l : LinkId}

theorem step_of_pending_nil {s : State} (h : s.pending = []) : step s = .next { s with chip := s.chip.idle } := by
  unfold step
  rw [h]

/-! A tick period on a link that has nothing to do. -/

theorem Chip.flushTx_of_txPart_nil (h : (c.link l).txPart = []) : c.flushTx l = c := by
  simp [Chip.flushTx, h]

theorem Chip.sendDue_of_dataQ_nil (h : (c.link l).dataQ = []) : c.sendDue l = c := by
  unfold Chip.sendDue
  dsimp only
  split
  · rfl
  · simp [h, fitting]

theorem Chip.trainTick_of_attempt_none (h : (c.link l).attempt = none) : c.trainTick l = c := by
  simp only [Chip.trainTick, h]

theorem Chip.loopTick_of_not_looped (h : (c.link l).loop = []) (hb : (c.link l).loopback = false) : c.loopTick l = c := by
  simp only [Chip.loopTick, h, Chip.looped, hb, Bool.false_and, Bool.false_eq_true, if_false]

/-- A link that does not train, send or loop back. -/
structure Link.Still (k : Link) : Prop where
  txPart : k.txPart = []
  dataQ : k.dataQ = []
  attempt : k.attempt = none
  loop : k.loop = []
  loopback : k.loopback = false

theorem Chip.linkTick_of_still (h : (c.link l).Still) : ((c.sendDue l).trainTick l).loopTick l = c := by
  rw [Chip.sendDue_of_dataQ_nil h.dataQ, Chip.trainTick_of_attempt_none h.attempt, Chip.loopTick_of_not_looped h.loop h.loopback]

/-! The tick period itself: what passTick leaves. -/

theorem Chip.idle_of_ended (h : c.frm.ended = true) : c.idle = c := by
  rw [Chip.idle, if_pos h]

theorem Chip.countFrame_eq (c : Chip) : ∃ flt : Flt, c.countFrame = { c with flt := flt } := by
  unfold Chip.countFrame
  split <;> exact ⟨_, rfl⟩

theorem Chip.newSecond_eq (c : Chip) : ∃ (flt : Flt) (pkg : Pkg), c.newSecond = { c with flt := flt, pkg := pkg } := ⟨_, _, rfl⟩

theorem Chip.passTick_eq (c : Chip) : ∃ (flt : Flt) (pkg : Pkg),
    c.passTick = { c with uptime := c.uptime + 1, frm := c.frm.tickPeriod, flt := flt, pkg := pkg } := by
  unfold Chip.passTick
  extract_lets c1 c2
  obtain ⟨flt, hflt⟩ : ∃ flt : Flt, c2 = { c1 with flt := flt } := by
    show ∃ flt : Flt, (if c1.uptime % 4096 = 0 then c1.countFrame else c1) = _
    split
    · exact c1.countFrame_eq
    · exact ⟨_, rfl⟩
  rw [hflt]
  split
  · exact Chip.newSecond_eq _
  · exact ⟨_, _, rfl⟩

/-- While every link is still and no slip is due, nothing but time passes. -/
theorem Chip.idle_of_still (he : c.frm.ended = false) (hs : c.frm.slipDue = false) (hl : ∀ l : LinkId, (c.link l).Still) :
    c.idle = c.passTick := by
  obtain ⟨flt, pkg, ht⟩ := c.passTick_eq
  have hstill : ∀ l : LinkId, (c.passTick.link l).Still := fun l => by
    rw [ht]
    exact hl l
  simp only [Chip.idle, he, hs, Bool.false_eq_true, if_false]
  rw [Chip.foldl_fixed (fun l => Chip.flushTx_of_txPart_nil (hl l).txPart),
    Chip.foldl_fixed (fun l => Chip.linkTick_of_still (hstill l))]

/-- Settles O2: the idle step is the tick period, and with every link still that is all it is. -/
theorem idleStepPassesOneTickPeriod : Obligations.IdleStepPassesOneTickPeriod := by
  intro s hp c t
  refine ⟨step_of_pending_nil hp, fun he => Chip.idle_of_ended he, fun he hs hl => ?_⟩
  have hstill : ∀ l : LinkId, (c.link l).Still := fun l => by
    obtain ⟨htx, hq, ha, hloop, hback⟩ := hl l
    exact ⟨htx, hq, ha, hloop, hback⟩
  have ht : t = c.passTick := Chip.idle_of_still he hs hstill
  obtain ⟨flt, pkg, hpass⟩ := c.passTick_eq
  rw [ht, hpass]
  exact ⟨rfl, rfl, rfl, rfl, rfl, rfl, rfl, rfl, rfl, rfl, rfl⟩

theorem Chip.zero_canonical : Chip.zero.Canonical where
  cores := rfl
  engines := rfl
  stks := rfl
  links := rfl
  mem := ⟨rfl, rfl, rfl⟩

/-- Settles O4: State.reset lists no unit and no memory, and its device state is OFF. -/
theorem resetIsCanonicalAndOff : Obligations.ResetIsCanonicalAndOff :=
  ⟨rfl, Chip.zero_canonical, rfl, rfl, rfl, rfl⟩

end Sys2Proof.Machine
end

section
/-! SUPPORT. The frame clock's lock, FREERUN and slip (R6, R167, R170, R171, R182, R184). -/
namespace Sys2Proof.Machine

variable {c : Chip}

/-! The frame clock as operations leave it. -/

/-- A realignment (R184): what becomes of the frame clock. -/
theorem Chip.realign_frm (c : Chip) (next : BitVec 16 × Nat) : (c.realign next).frm = { c.frm.raise 8 with
    broken := true, debt := 0, carry := 0, next := some (next.1, next.2 % 4096), endIn := next.2 - c.frm.gridPeriod
    cntRealign := satInc c.frm.cntRealign 1 } := by
  unfold Chip.realign
  rw [Chip.event_frm, Chip.foldl_proj Chip.frm]
  · rfl
  · intro d x
    split <;> rfl

/-- An input that is not in use becomes bad: nothing but the inputs and FRM_ERR changes. -/
theorem Chip.inputBad_frm_of_unused {o : RefInput} (ho : c.frm.src ≠ o) :
    ∃ (a b : RefIn) (e : Word), (c.inputBad o).frm = { c.frm with inA := a, inB := b, err := e } := by
  have hsrc : ∀ r : RefIn, (c.frm.setInput o r).src = c.frm.src := fun r => by cases o <;> rfl
  unfold Chip.inputBad
  extract_lets f r f0 f1
  have h1 : f1.src = c.frm.src := by
    simp only [f1]
    split <;> exact hsrc _
  rw [if_neg (fun h => ho (h1.symm.trans h.2))]
  simp only [f1]
  split <;> cases o <;> exact ⟨_, _, _, rfl⟩

theorem Chip.lockCompare_frm {o : RefInput} (ho : c.frm.src ≠ o) (m : Mark) :
    ∃ (a b : RefIn) (e : Word), (c.lockCompare o m).frm = { c.frm with inA := a, inB := b, err := e } := by
  unfold Chip.lockCompare
  dsimp only
  split
  · obtain ⟨a, b, e, h⟩ := Chip.inputBad_frm_of_unused (c := { c with frm := c.frm.raise 4 }) ho
    exact ⟨a, b, e, h⟩
  · exact ⟨_, _, _, rfl⟩

theorem refInput_ne_other (i : RefInput) : i ≠ i.other := by
  cases i <;> exact RefInput.noConfusion

@[simp] theorem Frm.lockTo_src (f : Frm) (i : RefInput) (m : Mark) : (f.lockTo i m).src = i := by
  cases i <;> rfl

/-! FRAME_LOCK. -/

/-- The frame clock where lock begins frame 0 (R6, R167). -/
def Frm.firstLock (f : Frm) (i : RefInput) (m : Mark) : Frm :=
  let g := { f.lockTo i m with
    valid := true, frame := 0, tick := 0, second := false, elapsed := 0, gridPeriod := m.aoff.toNat % 4096
    lfn := m.lfn, lfn0 := m.lfn, broken := false, planSlip := m.slipLater, debt := m.slipNow + (f.input i).extra }
  { g with slipNow := g.absorb }

/-- The package where lock from FREERUN breaks the frame in progress (R171, R184), before the inputs are compared. -/
def Chip.relock (c : Chip) (i : RefInput) (m : Mark) : Chip :=
  let f := c.frm
  let d := { c with frm := { f.lockTo i m with aoff := f.aoff, gridPeriod := f.relockPeriod m } }.realign (m.lfn, m.aoff.toNat)
  { d with frm := { d.frm with planSlip := m.slipLater, carry := m.slipNow + (f.input i).extra, endIn := 0 } }

section
variable {i : RefInput} {m : Mark} (hc : c.frm.lockChoice = some i) (hm : (c.frm.input i).mark = some m)
include hc hm

theorem frameLockEffect_bringup (hs : c.frm.state = .unlocked ∨ c.frm.state = .acquiring) (hr : c.bru.running = true)
    (h9 : c.bru.step = 9) : frameLockEffect c = { c with frm := c.frm.firstLock i m }.lockCompare i.other m := by
  have hf : c.frm.state ≠ .freerun := by
    rcases hs with h | h <;> rw [h] <;> decide
  simp only [frameLockEffect, hc, hm, if_neg hf, hs, hr, h9, and_self, if_true]
  rfl

theorem frameLockEffect_freerun (hs : c.frm.state = .freerun) :
    frameLockEffect c = ((c.relock i m).lockCompare i.other m).refresh := by
  unfold frameLockEffect Chip.relock
  simp only [hc, hm, hs, if_true]

end

theorem frameLockEffect_no_choice (h : c.frm.lockChoice = none) : frameLockEffect c = c := by
  simp only [frameLockEffect, h]

/-- Outside FREERUN and step 9 of bring-up there is nothing to lock. -/
theorem frameLockEffect_not_due (hf : c.frm.state ≠ .freerun)
    (hb : ¬ ((c.frm.state = .unlocked ∨ c.frm.state = .acquiring) ∧ c.bru.running = true ∧ c.bru.step = 9)) :
    frameLockEffect c = c := by
  unfold frameLockEffect
  dsimp only
  split
  · rfl
  · split
    · rfl
    · rw [if_neg hf, if_neg hb]

theorem Frm.firstLock_src (f : Frm) (i : RefInput) (m : Mark) : (f.firstLock i m).src = i := by
  cases i <;> rfl

/-- The frame clock where lock from FREERUN breaks the frame in progress (R171, R184). -/
def Frm.relock (f : Frm) (i : RefInput) (m : Mark) : Frm :=
  { (f.lockTo i m).raise 8 with
    aoff := f.aoff, gridPeriod := f.relockPeriod m, broken := true, next := some (m.lfn, m.aoff.toNat % 4096), endIn := 0
    cntRealign := satInc f.cntRealign 1, planSlip := m.slipLater, carry := m.slipNow + (f.input i).extra }

theorem Chip.relock_frm (c : Chip) (i : RefInput) (m : Mark) : (c.relock i m).frm = c.frm.relock i m := by
  simp only [Chip.relock, Chip.realign_frm]
  rfl

theorem Frm.relock_src (f : Frm) (i : RefInput) (m : Mark) : (f.relock i m).src = i := by
  cases i <;> rfl

/-! FREERUN_ENTRY. -/

/-- Only the links lose queued packets. -/
theorem Chip.dropQueued_eq (c : Chip) (test : Packet → Bool) : ∃ links : Tab Link, c.dropQueued test = { c with links := links } := by
  unfold Chip.dropQueued
  exact Chip.foldl_modLink_eq (fun _ k => { k with dataQ := k.dataQ.filter (fun p => !test p) }) allLinks c

/-- The frame clock that enters FREERUN (R170). -/
def Frm.enterFreerun (f : Frm) : Frm :=
  { f.raise 10 with
    state := .freerun, holdFrames := 50, cntHoldover := satInc f.cntHoldover 1
    inA := { f.inA with agree := 0 }, inB := { f.inB with agree := 0 } }

/-- The package that enters FREERUN, before its contexts stop: the plan stops, and nothing waits at the links (R170). -/
def Chip.freerunClock (c : Chip) : Chip :=
  { c with frm := c.frm.enterFreerun, plan := { c.plan with stopped := true } }.dropQueued (fun _ => true)

theorem Chip.freerunClock_eq (c : Chip) : ∃ links : Tab Link,
    c.freerunClock = { c with links := links, frm := c.frm.enterFreerun, plan := { c.plan with stopped := true } } :=
  Chip.dropQueued_eq _ _

/-- What FREERUN entry does to a context (R170). -/
def Chip.freerunCtx (c : Chip) (x : CtxId) : Chip :=
  if (c.ctx x).judged && c.hasPeers x then (c.chargeStop x).modCtx x (fun k => { k with holdNext := k.holdNext ||| holdBit 1 })
  else c.holdCreating x (c.hasPeers x) (holdBit 1)

theorem freerunEffect_due (h : c.frm.freerunDue = true) :
    freerunEffect c = ((allCtxs.foldl Chip.freerunCtx c.freerunClock).event { code := 0x30, severity := 2 }).refresh := by
  simp only [freerunEffect, if_pos h]
  rfl

theorem freerunEffect_not_due (h : c.frm.freerunDue = false) : freerunEffect c = c := by
  simp [freerunEffect, h]

theorem Frm.freerunDue_iff (f : Frm) : f.freerunDue = true ↔ f.state = .holdover ∧ 49 ≤ f.holdFrames ∧ f.ended = true := by
  simp [Frm.freerunDue, and_assoc]

/-- A step of FREERUN entry writes at most the holds of its context, and otherwise commit states. -/
theorem Chip.freerunCtx_eq (c : Chip) (x : CtxId) : c.freerunCtx x = c ∨ ∃ (digs : Tab DigCtx) (k : Ctx),
    c.freerunCtx x = { c with img := { c.img with digs := digs, ctxs := tset Ctx.zero c.img.ctxs x.val k } } := by
  unfold Chip.freerunCtx Chip.holdCreating
  split
  · exact .inr ⟨_, _, rfl⟩
  · split
    · exact .inr ⟨c.img.digs, _, rfl⟩
    · exact .inl rfl

theorem Chip.freerunCtx_frm (c : Chip) (x : CtxId) : (c.freerunCtx x).frm = c.frm := by
  obtain h | ⟨digs, k, h⟩ := c.freerunCtx_eq x <;> rw [h]

theorem Chip.freerunCtx_plan (c : Chip) (x : CtxId) : (c.freerunCtx x).plan = c.plan := by
  obtain h | ⟨digs, k, h⟩ := c.freerunCtx_eq x <;> rw [h]

theorem Chip.freerunCtx_rte (c : Chip) (x : CtxId) : (c.freerunCtx x).rte = c.rte := by
  obtain h | ⟨digs, k, h⟩ := c.freerunCtx_eq x <;> rw [h]

theorem Chip.freerunCtx_twf (x : CtxId) (hw : twf Ctx.zero c.img.ctxs = true) :
    twf Ctx.zero (c.freerunCtx x).img.ctxs = true := by
  obtain h | ⟨digs, k, h⟩ := c.freerunCtx_eq x <;> rw [h]
  · exact hw
  · exact twf_tset hw _ _

theorem Chip.ctx_freerunCtx_other (hw : twf Ctx.zero c.img.ctxs = true) {x y : CtxId} (hy : y ≠ x) :
    (c.freerunCtx x).ctx y = c.ctx y := by
  obtain h | ⟨digs, k, h⟩ := c.freerunCtx_eq x <;> rw [h]
  exact tget_tset_other hw (fun e => hy (Fin.ext e))

/-- A judged context with peers stops at the boundary. -/
theorem Chip.ctx_freerunCtx_same (hw : twf Ctx.zero c.img.ctxs = true) {x : CtxId} (hj : (c.ctx x).judged = true)
    (hp : c.hasPeers x = true) : (c.freerunCtx x).ctx x = { c.ctx x with holdNext := (c.ctx x).holdNext ||| holdBit 1 } := by
  rw [Chip.freerunCtx, if_pos (by rw [hj, hp]; rfl)]
  exact tget_tset_same hw _ _

theorem Chip.hasPeers_congr {d : Chip} {x : CtxId} (hr : d.rte = c.rte) (hx : d.ctx x = c.ctx x) : d.hasPeers x = c.hasPeers x := by
  simp only [Chip.hasPeers, Chip.jobOthers, Chip.allGroups, Chip.pkgNo, hr, hx]

/-- A context that FREERUN entry does not come to stays. -/
theorem Chip.ctx_foldl_freerunCtx_of_not_mem {l : List CtxId} {x : CtxId} (hx : x ∉ l) (hw : twf Ctx.zero c.img.ctxs = true) :
    (l.foldl Chip.freerunCtx c).ctx x = c.ctx x := by
  induction l generalizing c with
  | nil => rfl
  | cons y l ih =>
    obtain ⟨hxy, hxl⟩ := List.ne_and_not_mem_of_not_mem_cons hx
    exact (ih hxl (Chip.freerunCtx_twf y hw)).trans (Chip.ctx_freerunCtx_other hw hxy)

theorem allCtxs_nodup : allCtxs.Nodup := List.nodup_finRange 16

theorem mem_allCtxs (x : CtxId) : x ∈ allCtxs := List.mem_finRange x

/-- FREERUN entry comes to every context once: a judged one with peers stops. -/
theorem Chip.ctx_foldl_freerunCtx {l : List CtxId} (hl : l.Nodup) {x : CtxId} (hx : x ∈ l) (hw : twf Ctx.zero c.img.ctxs = true)
    (hj : (c.ctx x).judged = true) (hp : c.hasPeers x = true) :
    (l.foldl Chip.freerunCtx c).ctx x = { c.ctx x with holdNext := (c.ctx x).holdNext ||| holdBit 1 } := by
  induction l generalizing c with
  | nil => exact absurd hx List.not_mem_nil
  | cons y l ih =>
    obtain ⟨hyl, hl⟩ := List.nodup_cons.mp hl
    have hw' := Chip.freerunCtx_twf y hw
    by_cases hxy : x = y
    · subst hxy
      exact (Chip.ctx_foldl_freerunCtx_of_not_mem hyl hw').trans (Chip.ctx_freerunCtx_same hw hj hp)
    · have hsame := Chip.ctx_freerunCtx_other hw hxy
      have hpeers := Chip.hasPeers_congr (c.freerunCtx_rte y) hsame
      rw [List.foldl_cons, ih hl (List.mem_of_ne_of_mem hxy hx) hw' (hsame ▸ hj) (hpeers ▸ hp), hsame]

theorem Chip.ctx_freerun_of_hasPeers (hw : twf Ctx.zero c.img.ctxs = true) {x : CtxId} (hj : (c.ctx x).judged = true)
    (hp : c.hasPeers x = true) : (allCtxs.foldl Chip.freerunCtx c.freerunClock).ctx x =
      { c.ctx x with holdNext := (c.ctx x).holdNext ||| holdBit 1 } := by
  obtain ⟨links, h⟩ := c.freerunClock_eq
  rw [h]
  exact Chip.ctx_foldl_freerunCtx allCtxs_nodup (mem_allCtxs x) hw hj hp

/-! SLIP_APPLY. -/

theorem slipApplyEffect_not_due (h : c.frm.slipDue = false) : slipApplyEffect c = c := by
  unfold slipApplyEffect
  split
  · rfl
  · simp [h]

section
variable {p : PendingSlip} (hp : c.frm.planSlip = some p) (hd : c.frm.slipDue = true)
include hp hd

theorem slipApplyEffect_joins (hn : (c.frm.debt + p.slip).natAbs ≤ 1024) :
    slipApplyEffect c = { c with frm := { c.frm with planSlip := none, debt := c.frm.debt + p.slip } } := by
  simp only [slipApplyEffect, hp, if_pos hd, if_neg (Nat.not_lt.mpr hn)]

theorem slipApplyEffect_realigns (hn : 1024 < (c.frm.debt + p.slip).natAbs) : ∃ next : BitVec 16 × Nat,
    (slipApplyEffect c).frm = { ({ c.frm with planSlip := none }.raise 6).raise 8 with
      broken := true, debt := 0, carry := p.slip, next := some (next.1, next.2 % 4096), endIn := next.2 - c.frm.gridPeriod
      cntRealign := satInc c.frm.cntRealign 1 } := by
  simp only [slipApplyEffect, hp, if_pos hd, if_pos hn, Chip.realign_frm]
  exact ⟨_, rfl⟩

end

theorem Frm.slipDue_iff (f : Frm) : f.slipDue = true ↔
    f.valid = true ∧ f.planSlip.isSome = true ∧ f.gridPeriod = 128 ∧ f.ended = false := by
  simp [Frm.slipDue, and_assoc]

/-! The clauses of O38. -/

theorem completes_frameLock_bringup {i : RefInput} {m : Mark} {s : State} (hc : s.chip.frm.lockChoice = some i)
    (hm : (s.chip.frm.input i).mark = some m) (hs : s.chip.frm.state = .unlocked ∨ s.chip.frm.state = .acquiring)
    (hr : s.chip.bru.running = true) (h9 : s.chip.bru.step = 9) :
    Completes .frameLock s (fun t => ∃ (a b : RefIn) (e : Word),
      t.frm = { s.chip.frm.firstLock i m with inA := a, inB := b, err := e }) := by
  refine .of_lift (f := frameLockEffect) rfl ?_
  rw [frameLockEffect_bringup hc hm hs hr h9]
  exact Chip.lockCompare_frm (by rw [Frm.firstLock_src]; exact refInput_ne_other i) m

theorem completes_frameLock_freerun {i : RefInput} {m : Mark} {s : State} (hc : s.chip.frm.lockChoice = some i)
    (hm : (s.chip.frm.input i).mark = some m) (hs : s.chip.frm.state = .freerun) :
    Completes .frameLock s (fun t => ∃ (a b : RefIn) (e : Word),
      t.frm = { s.chip.frm.relock i m with inA := a, inB := b, err := e }) := by
  refine .of_lift (f := frameLockEffect) rfl ?_
  rw [frameLockEffect_freerun hc hm hs, Chip.refresh_frm]
  rw [← Chip.relock_frm]
  exact Chip.lockCompare_frm (by rw [Chip.relock_frm, Frm.relock_src]; exact refInput_ne_other i) m

theorem gives_frameLock_none {s : State} (h : s.chip.frm.lockChoice = none ∨ s.chip.frm.state = .locked ∨ s.chip.frm.state = .holdover
    ∨ ((s.chip.frm.state = .unlocked ∨ s.chip.frm.state = .acquiring) ∧ ¬ (s.chip.bru.running = true ∧ s.chip.bru.step = 9))) :
    Gives .frameLock s s.chip := by
  refine .of_lift (f := frameLockEffect) rfl ?_
  rcases h with h | h | h | ⟨h, hb⟩
  · exact frameLockEffect_no_choice h
  · exact frameLockEffect_not_due (by simp [h]) (by simp [h])
  · exact frameLockEffect_not_due (by simp [h]) (by simp [h])
  · exact frameLockEffect_not_due (by rcases h with h | h <;> simp [h]) (fun hq => hb hq.2)

theorem completes_freerunEntry {s : State} (h : s.chip.frm.freerunDue = true) : Completes .freerunEntry s (fun t =>
    t.frm = s.chip.frm.enterFreerun ∧ t.plan = { s.chip.plan with stopped := true }
    ∧ ∀ x, t.ctx x = (allCtxs.foldl Chip.freerunCtx s.chip.freerunClock).ctx x) := by
  refine .of_lift (f := freerunEffect) rfl ?_
  obtain ⟨links, hclock⟩ := s.chip.freerunClock_eq
  rw [freerunEffect_due h, Chip.refresh_frm, Chip.event_frm, Chip.refresh_plan, Chip.event_plan,
    Chip.foldl_proj Chip.frm _ Chip.freerunCtx_frm, Chip.foldl_proj Chip.plan _ Chip.freerunCtx_plan, hclock]
  refine ⟨rfl, rfl, fun x => ?_⟩
  rw [Chip.ctx, Chip.refresh_img, Chip.event_img]
  rfl

/-- Settles O38: lock, FREERUN entry and the slip, case by case. -/
theorem frameClockLockAndSlip : Obligations.FrameClockLockAndSlip := by
  intro i m p s c f first chosen
  refine ⟨fun ⟨hc, hm⟩ hs hr h9 => ?_, fun ⟨hc, hm⟩ hs => ?_, gives_frameLock_none, fun hs h49 he => ?_, fun h => ?_,
    fun hp hd hn => .of_lift (f := slipApplyEffect) rfl (slipApplyEffect_joins hp hd hn),
    fun hp hd hn => .of_lift (f := slipApplyEffect) rfl ?_,
    fun h => .of_lift (f := slipApplyEffect) rfl (slipApplyEffect_not_due h), f.slipDue_iff⟩
  · refine (completes_frameLock_bringup hc hm hs hr h9).mono ?_
    rintro t ⟨a, b, e, hfrm⟩
    rw [hfrm]
    exact ⟨rfl, f.firstLock_src i m, rfl, rfl, rfl, rfl, rfl, rfl, rfl, rfl, rfl⟩
  · refine (completes_frameLock_freerun hc hm hs).mono ?_
    rintro t ⟨a, b, e, hfrm⟩
    rw [hfrm]
    exact ⟨rfl, f.relock_src i m, rfl, rfl, rfl, rfl, rfl, rfl⟩
  · refine (completes_freerunEntry (f.freerunDue_iff.mpr ⟨hs, h49, he⟩)).mono ?_
    rintro t ⟨hfrm, hplan, hctx⟩
    rw [hfrm, hplan]
    refine ⟨rfl, bit_setBit_same _ (by decide), rfl, rfl, fun hw x hj hp => ?_⟩
    rw [hctx, Chip.ctx_freerun_of_hasPeers hw hj hp]
  · refine .of_lift (f := freerunEffect) rfl (freerunEffect_not_due ?_)
    rw [Bool.eq_false_iff, ne_eq, Frm.freerunDue_iff]
    rintro ⟨hs, h49, he⟩
    rcases h with h | h | h
    · exact h hs
    · exact absurd h49 (Nat.not_le.mpr h)
    · exact absurd (h.symm.trans he) Bool.false_ne_true
  · obtain ⟨next, hfrm⟩ := slipApplyEffect_realigns hp hd hn
    rw [hfrm]
    exact ⟨rfl, rfl, rfl, bit_setBit_of_bit (bit_setBit_same _ (by decide)) 8, bit_setBit_same _ (by decide), rfl⟩

end Sys2Proof.Machine
end

section
/-! SUPPORT. What a command answers when a ready core carries out its instruction: it settles, passes or stops (R66, R99). -/
namespace Sys2Proof.Machine

section
variable {i : Instr} {s : State} {n : CoreId} {f : Core → CoreOut} (hr : CoreReady s.chip n)
  (hi : exec i s = .next { s with chip := s.chip.coreStep n i f })
include hr hi

theorem Settles.of_effect {o : CoreOut} (hf : f (s.chip.core n) = o) (hs : o.stop = none) : Settles i s n o := by
  intro hF
  rw [Gives, hi, Chip.coreStep_ready hr hF, hf, hs]

theorem Passes.of_effect {k : Core} (hf : f (s.chip.core n) = .ok k) : Passes i s n k := by
  intro hF
  rw [Gives, hi, Chip.coreStep_ok hr hF hf]

theorem StopsWith.of_effect {b : Nat} (hf : f (s.chip.core n) = .fail (s.chip.core n) b) : StopsWith i s n b := by
  intro hF
  rw [Gives, hi, Chip.coreStep_fail hr hF hf, Chip.stopping]

end

theorem CoreReady.sramErr_nil {c : Chip} {n : CoreId} (h : CoreReady c n) : (c.core n).sramErr = [] := h.2.1

@[simp] theorem Core.raiseSat_none (k : Core) : k.raiseSat 0 = k := rfl

@[simp] theorem Chip.ledgerCondition_cores (c : Chip) (u : UnitId) : (c.ledgerCondition u).cores = c.cores := by
  unfold Chip.ledgerCondition
  split <;> rfl

/-- Reports other than of poison and of ledger faults change no core: only those quarantine (R241). -/
theorem Chip.coreReports_cores {c : Chip} {n : CoreId} {o : CoreOut} (hp : o.poison = []) (hq : o.raised.parity = false)
    (hr : o.raised.residue = false) : (c.coreReports n o).cores = c.cores := by
  simp only [Chip.coreReports, hp, hq, hr, List.foldl_nil, Bool.or_false, Bool.false_eq_true, if_false]
  split
  · exact c.ledgerCondition_cores _
  · rfl

/-- An instruction that settles without poison or a ledger fault leaves its core settled and memory as it was. -/
theorem Settles.completes {i : Instr} {s : State} {n : CoreId} {o : CoreOut} (h : Settles i s n o) (hF : Fetches s.chip n i)
    (hc : s.chip.Canonical) (hp : o.poison = []) (hq : o.raised.parity = false) (hr : o.raised.residue = false) :
    Completes i s (fun t => t.core n = o.settle ∧ t.mem = s.chip.mem) := by
  refine ⟨_, h hF, ?_, (Chip.coreReports_cf o (Chip.setCore_cf _ (CFr.refl n s.chip))).mem⟩
  rw [Chip.core, Chip.coreReports_cores hp hq hr, ← Chip.core, Chip.core_setCore hc]

end Sys2Proof.Machine
end

section
/-! SUPPORT. The ledgers of a core, and what one group of products makes of a ledger (R42 to R47). -/
namespace Sys2Proof.Machine

section
variable {k : Core} (h : twf Ledger.zero k.ledgers = true)
include h

theorem Core.ledgers_setLedger_canonical (i : Nat) (l : Ledger) : twf Ledger.zero (k.setLedger i l).ledgers = true := twf_tset h i l

theorem Core.ledger_setLedger_same (i : Nat) (l : Ledger) : (k.setLedger i l).ledger i = l := tget_tset_same h i l

theorem Core.ledger_setLedger_other {i j : Nat} (hj : j ≠ i) (l : Ledger) : (k.setLedger i l).ledger j = k.ledger j :=
  tget_tset_other h hj

end

/-- What a product adds to a ledger in whose window it lies, truncated to the ledger's unit (R42). -/
def Ledger.shifted (l : Ledger) : Prod → Int
  | .val neg sig pe =>
    let sh := pe - l.g.toInt
    let mag : Nat := if 0 ≤ sh then sig * 2 ^ sh.toNat else sig / 2 ^ (-sh).toNat
    if neg then -(mag : Int) else mag
  | _ => 0

/-- A product lies above the window of mode `m` (R45). -/
def Ledger.Above (l : Ledger) (m : BitVec 3) (q : Prod) : Prop :=
  ∃ neg sig pe, q = .val neg sig pe ∧ smax m < pe - l.g.toInt

variable {l : Ledger} {p : Bool} {m : BitVec 3} {q : Prod} {ps : List Prod}

theorem Ledger.addend_in_window (hm : m = l.mode) (hd : modeDefined m = true) (hq : q ≠ .nar) (ha : ¬ l.Above m q) :
    ∃ low, l.addend m q = { add := some (l.shifted q), low := low } := by
  subst hm
  cases q with
  | nar => exact absurd rfl hq
  | zero => exact ⟨false, by simp [Ledger.addend, Ledger.shifted, hd]⟩
  | val neg sig pe =>
    have hs : ¬ smax l.mode < pe - l.g.toInt := fun hs => ha ⟨neg, sig, pe, rfl, hs⟩
    exact ⟨decide (pe - l.g.toInt < 0), by simp [Ledger.addend, Ledger.shifted, hd, hs]⟩

theorem Ledger.addend_mode (hm : m ≠ l.mode) (q : Prod) : (l.addend m q).mode = true := by
  have ho : (m != l.mode || !modeDefined l.mode) = true := by simp [hm]
  cases q with
  | nar => exact ho
  | zero => exact ho
  | val neg sig pe =>
    simp only [Ledger.addend]
    split <;> exact ho

theorem Ledger.addend_range (hd : modeDefined l.mode = true) (ha : l.Above l.mode q) : (l.addend m q).range = true := by
  obtain ⟨neg, sig, pe, rfl, hs⟩ := ha
  simp [Ledger.addend, hd, hs]

theorem Ledger.foldl_addend (h : ∀ q ∈ ps, (l.addend m q).add = some (l.shifted q)) (x : Int) :
    (ps.map (l.addend m)).foldl (fun x a => x + a.add.getD 0) x = x + (ps.map l.shifted).sum := by
  induction ps generalizing x with
  | nil => simp
  | cons q ps ih =>
    obtain ⟨hq, hps⟩ := List.forall_mem_cons.mp h
    simp only [List.map_cons, List.foldl_cons, List.sum_cons, hq, Option.getD_some, ih hps, Int.add_assoc]

/-- Every product in the window: their exact truncated sum reaches L and their number the count (R43). -/
theorem Ledger.group_adds (hr : l.read p = (l, {})) (hn : l.nar = false) (hm : m = l.mode) (hd : modeDefined m = true)
    (hq : ∀ q ∈ ps, q ≠ .nar ∧ ¬ l.Above m q) (hc : l.count.toNat + ps.length ≤ 2 ^ 48)
    (hlo : -(2 ^ 95 : Int) ≤ l.acc.toInt + (ps.map l.shifted).sum) (hhi : l.acc.toInt + (ps.map l.shifted).sum < 2 ^ 95) :
    (l.group p m ps).1.acc.toInt = l.acc.toInt + (ps.map l.shifted).sum ∧ (l.group p m ps).1.nar = false
    ∧ (l.group p m ps).1.count.toNat = l.count.toNat + ps.length ∧ (l.group p m ps).2 = {} := by
  have hadd : ∀ q ∈ ps, ∃ low, l.addend m q = { add := some (l.shifted q), low := low } :=
    fun q hmem => Ledger.addend_in_window hm hd (hq q hmem).1 (hq q hmem).2
  have hany (g : Addend → Bool) (hg : ∀ a low, g { add := a, low := low } = false) : (ps.map (l.addend m)).any g = false := by
    rw [List.any_map, List.any_eq_false]
    intro q hmem
    obtain ⟨low, hlow⟩ := hadd q hmem
    rw [Function.comp_apply, hlow, hg]
    exact Bool.false_ne_true
  have hsum := Ledger.foldl_addend (fun q hmem => by obtain ⟨low, hlow⟩ := hadd q hmem; rw [hlow]) l.acc.toInt
  have hcount : ¬ 2 ^ 48 < l.count.toNat + ps.length := by omega
  simp only [Ledger.group, hr, hn, hsum, hany (·.range) (fun _ _ => rfl), hany (·.mode) (fun _ _ => rfl),
    hany (·.nar) (fun _ _ => rfl), hcount, Int.not_lt.mpr hlo, Int.not_le.mpr hhi, decide_false, Bool.or_false, Bool.and_false,
    Bool.false_eq_true, if_false, Ledger.seal]
  refine ⟨?_, trivial, ?_, rfl⟩
  · rw [BitVec.toInt_ofInt, Int.bmod_eq_of_le] <;> omega
  · rw [BitVec.toNat_ofNat, Nat.mod_eq_of_lt]
    omega

/-- A NaR ledger, a NaR product, another format or a product above the window: L stays and the ledger is NaR (R44, R45, R47). -/
theorem Ledger.group_keeps (hr : l.read p = (l, {})) (h : l.nar = true ∨ ∃ q ∈ ps,
      (l.addend m q).nar = true ∨ (l.addend m q).mode = true ∨ (l.addend m q).range = true) :
    (l.group p m ps).1.nar = true ∧ (l.group p m ps).1.acc = l.acc := by
  have hkeep (beyond ovf : Bool) : (l.nar || (beyond || (ps.map (l.addend m)).any (·.range) || (ps.map (l.addend m)).any (·.mode)
      || (ps.map (l.addend m)).any (·.nar)) || ovf) = true := by
    rcases h with h | ⟨q, hmem, h⟩
    · simp [h]
    · have hany (g : Addend → Bool) (hg : g (l.addend m q) = true) : (ps.map (l.addend m)).any g = true :=
        List.any_eq_true.mpr ⟨_, List.mem_map_of_mem hmem, hg⟩
      rcases h with h | h | h
      · simp only [hany (·.nar) h, Bool.or_true, Bool.true_or]
      · simp only [hany (·.mode) h, Bool.or_true, Bool.true_or]
      · simp only [hany (·.range) h, Bool.or_true, Bool.true_or]
  simp only [Ledger.group, hr, hkeep, if_true, Ledger.seal, and_self]

end Sys2Proof.Machine
end

section
/-! SUPPORT. MMA: its stops, and the ledgers it leaves row by row (R69, R70). -/
namespace Sys2Proof.Machine

/-- Ledger LB + j when the first `b` blocks have reached it: their groups of row `j`, one after the other. -/
def MmaOp.rowLedger (o : MmaOp) (p : Bool) (k : Core) (j b : Nat) : Ledger :=
  (List.range b).foldl (fun l i => (l.group p o.wf.mode (o.group k i j)).1) (k.ledger (o.lb + j))

variable {o : MmaOp} {p : Bool} {k : Core}

theorem MmaOp.rowLedger_succ (j b : Nat) :
    o.rowLedger p k j (b + 1) = ((o.rowLedger p k j b).group p o.wf.mode (o.group k b j)).1 := by
  simp only [MmaOp.rowLedger, List.range_succ, List.foldl_append, List.foldl_cons, List.foldl_nil]

/-- Core `r` is what an MMA makes of `k` by its first `i` blocks and the first `m` rows of block `i`. -/
structure MmaOp.Reached (o : MmaOp) (p : Bool) (k : Core) (i m : Nat) (r : Core) : Prop where
  canonical : twf Ledger.zero r.ledgers = true
  row : ∀ j, j < o.rows → r.ledger (o.lb + j) = o.rowLedger p k j (if j < m then i + 1 else i)
  others : ∀ q, q < o.lb ∨ o.lb + o.rows ≤ q → r.ledger q = k.ledger q
  frame : { r with ledgers := k.ledgers } = k

theorem MmaOp.Reached.start (hw : twf Ledger.zero k.ledgers = true) : o.Reached p k 0 0 k where
  canonical := hw
  row _ _ := rfl
  others _ _ := rfl
  frame := rfl

/-- The operands lie in SRAM, so that what the ledgers hold does not bear on a group. -/
theorem MmaOp.Reached.group_eq {i m : Nat} {r : Core} (h : o.Reached p k i m r) (b j : Nat) : o.group r b j = o.group k b j := by
  have hl : o.group r b j = o.group { r with ledgers := k.ledgers } b j := rfl
  rw [hl, h.frame]

theorem MmaOp.Reached.sram_eq {i m : Nat} {r : Core} (h : o.Reached p k i m r) : r.sram = k.sram := by
  have hs := congrArg Core.sram h.frame
  exact hs

theorem MmaOp.Reached.next_row {i m : Nat} {s : Core × Raised} (h : o.Reached p k i m s.1) (hm : m < o.rows) :
    o.Reached p k i (m + 1) (o.row p i s m).1 where
  canonical := Core.ledgers_setLedger_canonical h.canonical _ _
  row j hj := by
    by_cases hjm : j = m
    · subst hjm
      rw [if_pos (Nat.lt_succ_self j), MmaOp.rowLedger_succ]
      simp only [MmaOp.row, Core.ledger_setLedger_same h.canonical, h.row j hj, h.group_eq, Nat.lt_irrefl, if_false]
    · have hlt : j < m + 1 ↔ j < m := by omega
      simp only [MmaOp.row, Core.ledger_setLedger_other h.canonical (by omega : o.lb + j ≠ o.lb + m), h.row j hj, hlt]
  others q hq := by
    simp only [MmaOp.row, Core.ledger_setLedger_other h.canonical (by omega : q ≠ o.lb + m), h.others q hq]
  frame := h.frame

theorem MmaOp.Reached.rows {i m : Nat} {s : Core × Raised} (h : o.Reached p k i 0 s.1) (hm : m ≤ o.rows) :
    o.Reached p k i m ((List.range m).foldl (o.row p i) s).1 := by
  induction m with
  | zero => exact h
  | succ m ih =>
    rw [List.range_succ, List.foldl_append]
    exact (ih (by omega)).next_row hm

theorem MmaOp.Reached.next_block {i : Nat} {r : Core} (h : o.Reached p k i o.rows r) : o.Reached p k (i + 1) 0 r :=
  { h with row := fun j hj => by rw [h.row j hj, if_pos hj, if_neg (Nat.not_lt_zero j)] }

theorem MmaOp.Reached.blocks (hw : twf Ledger.zero k.ledgers = true) (b : Nat) : o.Reached p k b 0
    ((List.range b).foldl (fun s i => (List.range o.rows).foldl (o.row p i) s) (k, Raised.none)).1 := by
  induction b with
  | zero => exact .start hw
  | succ b ih =>
    rw [List.range_succ, List.foldl_append]
    exact (ih.rows (Nat.le_refl _)).next_block

/-- What the whole multiply makes of the core: every row's ledger has taken its group of every block. -/
theorem MmaOp.reached_run (hw : twf Ledger.zero k.ledgers = true) : o.Reached p k o.nblk 0 (o.run p k).1 := .blocks hw o.nblk

theorem MmaOp.run_ledger (hw : twf Ledger.zero k.ledgers = true) {j : Nat} (hj : j < o.rows) :
    (o.run p k).1.ledger (o.lb + j) = o.rowLedger p k j o.nblk :=
  (MmaOp.reached_run hw).row j hj

/-- The operands of an MMA that OPERAND_RANGE stops. -/
def MmaOp.OutOfRange (o : MmaOp) : Prop := 64 < o.lb + o.rows ∨ o.w % 64 ≠ 0 ∨ o.x % 64 ≠ 0

/-- Both operands of an MMA lie in the context area. -/
def MmaOp.Inside (o : MmaOp) : Prop := inCtxArea o.w o.wBytes = true ∧ inCtxArea o.x o.xBytes = true

/-- What an MMA that nothing stops makes of a core with no SRAM error pending. -/
def MmaOp.out (o : MmaOp) (p : Bool) (k : Core) : CoreOut :=
  { core := (o.run p k).1, raised := (o.run p k).2
    poison := (k.poisonedIn o.w o.wBytes ++ k.poisonedIn o.x o.xBytes).eraseDups }

section
variable {w : BitVec 54}

theorem coreMma_formats (hf : mmaFormats (bits w 5 3) (bits w 2 0) = false) : coreMma w p k = .fail k 0 := by
  simp only [coreMma, hf, Bool.not_false, if_true]

variable (hf : mmaFormats (bits w 5 3) (bits w 2 0) = true)
include hf

theorem coreMma_outOfRange (hr : (mmaOp w k).OutOfRange) : coreMma w p k = .fail k 1 := by
  unfold MmaOp.OutOfRange at hr
  simp only [coreMma, hf, Bool.not_true, Bool.false_eq_true, if_false, if_pos hr]

theorem coreMma_outside (hr : ¬ (mmaOp w k).OutOfRange) (hin : ¬ (mmaOp w k).Inside) : coreMma w p k = .fail k 2 := by
  have hout : (!inCtxArea (mmaOp w k).w (mmaOp w k).wBytes || !inCtxArea (mmaOp w k).x (mmaOp w k).xBytes) = true := by
    simpa [MmaOp.Inside, Decidable.imp_iff_not_or] using hin
  unfold MmaOp.OutOfRange at hr
  simp only [coreMma, hf, Bool.not_true, Bool.false_eq_true, if_false, if_neg hr, hout, if_true]

theorem coreMma_runs (hr : ¬ (mmaOp w k).OutOfRange) (hin : (mmaOp w k).Inside) (he : k.sramErr = []) :
    coreMma w p k = (mmaOp w k).out p k := by
  unfold MmaOp.OutOfRange at hr
  simp only [coreMma, hf, Bool.not_true, Bool.false_eq_true, if_false, if_neg hr, hin.1, hin.2, Bool.or_self, Core.touch_clean he,
    MmaOp.out]

end

/-- The core after an MMA that meets no poison: each row in its ledger, SRAM as it was. -/
theorem MmaOp.settle_out (hw : twf Ledger.zero k.ledgers = true) (hp : (o.out p k).poison = []) :
    (o.out p k).settle = ((o.run p k).1.raiseLedger (o.run p k).2).pass ∧ (o.out p k).settle.sram = k.sram
    ∧ ∀ j, j < o.rows → (o.out p k).settle.ledger (o.lb + j) = o.rowLedger p k j o.nblk := by
  have hset : (o.out p k).settle = ((o.run p k).1.raiseLedger (o.run p k).2).pass := by
    rw [CoreOut.settle, hp]
    rfl
  rw [hset]
  exact ⟨rfl, (MmaOp.reached_run hw).sram_eq, fun j hj => MmaOp.run_ledger hw hj⟩

/-- Settles O16: the stops and the run of MMA, its ledgers row by row, and the group rule of a ledger. -/
theorem matrixMultiply : Obligations.MatrixMultiply := by
  refine ⟨fun n w s hready => ?_, fun o p k hw => ?_, fun l p m ps hread => ⟨?_, ?_⟩⟩
  · have hset (hf : mmaFormats (bits w 5 3) (bits w 2 0) = true) (hr : ¬ (mmaOp w (s.chip.core n)).OutOfRange)
        (hin : (mmaOp w (s.chip.core n)).Inside) :
        Settles (.mma n w) s n ((mmaOp w (s.chip.core n)).out (s.chip.lprot (s.chip.core n).ctx) (s.chip.core n)) :=
      .of_effect hready rfl (coreMma_runs hf hr hin hready.sramErr_nil) rfl
    refine ⟨hset, fun hf hr hin hc hw hp hpar hres hF => ?_,
      fun hf => .of_effect hready rfl (coreMma_formats hf), fun hf hr => .of_effect hready rfl (coreMma_outOfRange hf hr),
      fun hf hr hin => .of_effect hready rfl (coreMma_outside hf hr hin)⟩
    obtain ⟨hout, hsram, hrows⟩ := MmaOp.settle_out hw hp
    refine ((hset hf hr hin).completes hF hc hp hpar hres).mono fun t ⟨hcore, hmem⟩ => ?_
    rw [hcore]
    exact ⟨hout, hmem, hsram, hrows⟩
  · have hrun := MmaOp.reached_run (o := o) (p := p) hw
    exact ⟨fun j => MmaOp.run_ledger hw, hrun.others, hrun.frame⟩
  · intro hn hm hd hq hc hlo hhi
    exact Ledger.group_adds hread hn hm hd hq hc hlo hhi
  · rintro (hn | hq | ⟨hps, hm⟩ | ⟨hm, hd, q, hq, ha⟩)
    · exact Ledger.group_keeps hread (.inl hn)
    · exact Ledger.group_keeps hread (.inr ⟨_, hq, .inl rfl⟩)
    · obtain ⟨q, hq⟩ := List.exists_mem_of_ne_nil ps hps
      exact Ledger.group_keeps hread (.inr ⟨q, hq, .inr (.inl (Ledger.addend_mode hm q))⟩)
    · subst hm
      exact Ledger.group_keeps hread (.inr ⟨q, hq, .inr (.inr (Ledger.addend_range hd ha))⟩)

end Sys2Proof.Machine
end

section
/-! SUPPORT. VLD and VST: their stops, and what they make of a core (R63, R65, R77, R78). -/
namespace Sys2Proof.Machine

/-- The block operand of a VEC instruction on elements of format `f` (R65, R68). -/
def vecBlock (w : BitVec 54) (f : Fmt) (k : Core) : BlockRef := blockRef f (k.opAddr (bits w 33 30) (bits w 29 18)) (bits w 13 6)

/-- The block exponent that a load of the block sees; FP32 has none. -/
def BlockRef.exponent (b : BlockRef) (k : Core) : Byte :=
  match b.hd with
  | some h => k.expAt h
  | none => 0

theorem BlockRef.touch_clean {k : Core} (he : k.sramErr = []) (b : BlockRef) : b.touch k = k := by
  unfold BlockRef.touch
  split <;> simp only [Core.touch_clean he]

/-- The lanes that a VLD of the block writes, each with whether its conversion saturated. -/
def vldLanes (w : BitVec 54) (f : Fmt) (k : Core) : List (Word × Bool) :=
  (k.blockAt f.width (vecBlock w f k).el).map (fun e => vldLane (bits w 17 14) f e ((vecBlock w f k).exponent k))

/-- What a VLD that nothing stops makes of a core with no SRAM error pending. -/
def vldOut (w : BitVec 54) (f : Fmt) (k : Core) : CoreOut :=
  { core := (k.setV (bits w 53 49) ((vldLanes w f k).map (·.1))).raiseSat ((vldLanes w f k).countP (·.2))
    poison := (vecBlock w f k).poison k }

section
variable {w : BitVec 54} {f : Fmt} {k : Core} (hf : vecFmt (bits w 17 14) = some f)
include hf

theorem coreVld_unaligned (hb : (vecBlock w f k).base % 64 ≠ 0) : coreVld w k = .fail k 1 := by
  unfold vecBlock at hb
  simp only [coreVld, vecOp, hf, ne_eq, hb, not_false_eq_true, if_true]

theorem coreVld_outside (hb : (vecBlock w f k).base % 64 = 0) (hin : (vecBlock w f k).inArea = false) : coreVld w k = .fail k 2 := by
  unfold vecBlock at hb hin
  simp only [coreVld, vecOp, hf, hb, hin, ne_eq, not_true_eq_false, if_false, Bool.not_false, if_true]

theorem coreVld_loads (hb : (vecBlock w f k).base % 64 = 0) (hin : (vecBlock w f k).inArea = true) (he : k.sramErr = []) :
    coreVld w k = vldOut w f k := by
  unfold vecBlock at hb hin
  simp only [coreVld, vecOp, hf, hb, hin, ne_eq, not_true_eq_false, Bool.not_true, Bool.false_eq_true, if_false,
    BlockRef.touch_clean he]
  rfl

end

/-- The lanes that a VST writes. -/
def vstLanes (w : BitVec 54) (k : Core) : List Word := k.vreg (bits w 48 44)

/-- The block exponent that a VST asks for. -/
def vstBo (w : BitVec 54) : Byte := BitVec.ofNat 8 (bits w 43 36)

/-- The exponent of the first raw lane, which all are to share (R78). -/
def vstExp (w : BitVec 54) (k : Core) : Nat := bits ((vstLanes w k).getD 0 0) 23 16

section
variable {w : BitVec 54} {f : Fmt} {k : Core} (hf : vecFmt (bits w 17 14) = some f)
include hf

theorem coreVst_unaligned (hb : (vecBlock w f k).base % 64 ≠ 0) : coreVst w k = .fail k 1 := by
  unfold vecBlock at hb
  simp only [coreVst, vecOp, hf, ne_eq, hb, not_false_eq_true, true_or, if_true]

/-- BO = 0x80 without AUTO writes nothing (R77). -/
theorem coreVst_nar_exponent {o : OFmt} (ho : f = .oct o) (hraw : rawOf (bits w 17 14) = none) (ha : bit w 0 = false)
    (hbo : vstBo w = 0x80) : coreVst w k = .fail k 1 := by
  subst ho
  unfold vstBo at hbo
  simp [coreVst, vecOp, hf, hraw, ha, hbo]

section
variable (hb : (vecBlock w f k).base % 64 = 0) (hin : (vecBlock w f k).inArea = true)
include hb hin

theorem coreVst_raw (hraw : rawOf (bits w 17 14) ≠ none) (hall : (vstLanes w k).all (fun l => bits l 23 16 == vstExp w k) = true) :
    coreVst w k = .ok ((vecBlock w f k).write k f.width
      { head := BitVec.ofNat 8 (vstExp w k), codes := (vstLanes w k).map (fun l => l.toNat % 2 ^ f.width), sat := 0 }) := by
  have hsome := Option.isSome_iff_ne_none.mpr hraw
  unfold vecBlock at hb hin
  unfold vstLanes vstExp vstLanes at hall
  simp only [coreVst, vecOp, hf, hb, hin, hsome, hall, ne_eq, not_true_eq_false, Bool.not_true, Bool.false_eq_true, and_false,
    false_and, or_self, if_false, if_true, Core.raiseSat_none]
  rfl

theorem coreVst_words (hw : f = .conv .fp32) (hraw : rawOf (bits w 17 14) = none) :
    coreVst w k = .ok ((vecBlock w f k).write k f.width { head := 0, codes := (vstLanes w k).map (·.toNat), sat := 0 }) := by
  subst hw
  unfold vecBlock at hb hin
  simp only [coreVst, vecOp, hf, hb, hin, hraw, ne_eq, not_true_eq_false, Bool.not_true, Bool.false_eq_true,
    Option.isSome_none, false_and, or_self, if_false, if_true, Core.raiseSat_none]
  rfl

theorem coreVst_converted (hw : f ≠ .conv .fp32) (hraw : rawOf (bits w 17 14) = none) (hbo : bit w 0 = true ∨ vstBo w ≠ 0x80) :
    coreVst w k = .ok (((vecBlock w f k).write k f.width (convBlock f (bit w 0) (vstBo w) ((vstLanes w k).map ofFp32))).raiseSat
      (convBlock f (bit w 0) (vstBo w) ((vstLanes w k).map ofFp32)).sat) := by
  have hexp : ¬ (¬ bit w 0 = true ∧ vstBo w = 0x80) := fun ⟨ha, h⟩ => hbo.elim ha (fun hne => hne h)
  unfold vecBlock at hb hin
  unfold vstBo at hexp
  simp only [coreVst, vecOp, hf, hb, hin, hraw, hexp, hw, ne_eq, not_true_eq_false, Bool.not_true, Bool.false_eq_true,
    Option.isSome_none, false_and, and_false, or_self, if_false]
  rfl

end
end

/-- Settles O15: VLD and VST, stop by stop and form by form. -/
theorem vectorLoadAndStore : Obligations.VectorLoadAndStore := by
  refine ⟨fun n w s f hready hf => ⟨fun hb hin => ?_, fun hb => ?_, fun hb hin => ?_⟩,
    fun n w s f hready hf => ⟨fun hb hin => ⟨fun hw hraw => ?_, fun hraw hall => ?_, fun hw hraw hbo => ?_⟩, fun hb => ?_,
      fun o ho hraw ha hbo => ?_⟩⟩
  · exact .of_effect hready rfl (coreVld_loads hf hb hin hready.sramErr_nil) rfl
  · exact .of_effect hready rfl (coreVld_unaligned hf hb)
  · exact .of_effect hready rfl (coreVld_outside hf hb hin)
  · exact .of_effect hready rfl (coreVst_words hf hb hin hw hraw)
  · exact .of_effect hready rfl (coreVst_raw hf hb hin hraw hall)
  · exact .of_effect hready rfl (coreVst_converted hf hb hin hw hraw hbo)
  · exact .of_effect hready rfl (coreVst_unaligned hf hb)
  · exact .of_effect hready rfl (coreVst_nar_exponent hf ho hraw ha hbo)

end Sys2Proof.Machine
end

section
/-! SUPPORT. The LEDG instructions: their stops, and what they make of a core (R41, R71, R72, R242). -/
namespace Sys2Proof.Machine

@[simp] theorem Raised.or_none (r : Raised) : r.or Raised.none = r := by
  simp [Raised.or, Raised.none]

theorem ledgRangeOk_iff {w : BitVec 54} : ledgRangeOk w = true ↔ bits w 53 48 + bits w 47 42 ≤ 63 := by
  simp [ledgRangeOk]

theorem ledgRangeOk_eq_false_iff {w : BitVec 54} : ledgRangeOk w = false ↔ 63 < bits w 53 48 + bits w 47 42 := by
  simp [ledgRangeOk]

theorem ledgImgLegal_iff {w : BitVec 54} : ledgImgLegal w = true ↔ bits w 41 38 = 0 ∧ bits w 35 0 = 0 := by
  simp [ledgImgLegal]

/-- A list made ledger by ledger, over the numbers from 0. -/
theorem ledgRange_flatMap {α : Type} (w : BitVec 54) (g : Nat → List α) :
    (ledgRange w).flatMap g = (List.range (bits w 47 42 + 1)).flatMap (fun i => g (bits w 53 48 + i)) := by
  simp [ledgRange, List.flatMap_map]

variable {w : BitVec 54} {p : Bool} {k : Core}

/-! Ranges beyond ledger 63. -/

section
variable (hr : 63 < bits w 53 48 + bits w 47 42)
include hr

theorem coreLedgClr_range (h : bits w 27 0 = 0) : coreLedgClr w k = .fail k 1 := by
  simp [coreLedgClr, h, ledgRangeOk_eq_false_iff.mpr hr]

theorem coreLedgSave_range (h : bits w 41 38 = 0 ∧ bits w 35 0 = 0) : coreLedgSave w p k = .fail k 1 := by
  simp [coreLedgSave, ledgImgLegal_iff.mpr h, ledgRangeOk_eq_false_iff.mpr hr]

theorem coreLedgLoad_range (h : bits w 41 38 = 0 ∧ bits w 35 0 = 0) : coreLedgLoad w p k = .fail k 1 := by
  simp [coreLedgLoad, ledgImgLegal_iff.mpr h, ledgRangeOk_eq_false_iff.mpr hr]

theorem coreLedgDig_range (h : bits w 41 0 = 0) : coreLedgDig w p k = .fail k 1 := by
  simp [coreLedgDig, h, ledgRangeOk_eq_false_iff.mpr hr]

end

/-! The instructions on a range that exists. -/

section
variable (hr : bits w 53 48 + bits w 47 42 ≤ 63)
include hr

theorem coreLedgClr_clears (h : bits w 27 0 = 0) : coreLedgClr w k =
    let fresh := Ledger.clear (BitVec.ofNat 3 (bits w 41 39)) (BitVec.ofNat 11 (bits w 38 28))
    let r := onLedgers w (fun i k => (k.setLedger i fresh.1, fresh.2)) k
    { core := r.1, raised := r.2 } := by
  simp [coreLedgClr, h, ledgRangeOk_iff.mpr hr]

theorem coreLedgSave_saves (h : bits w 41 38 = 0 ∧ bits w 35 0 = 0) : coreLedgSave w p k =
    let r := onLedgers w (fun i k => k.readLedger p i) k
    let image := (List.range (bits w 47 42 + 1)).flatMap (fun i => (r.1.ledger (bits w 53 48 + i)).image)
    { core := r.1.storeImage (saveAddr w (bits w 53 48)) image, raised := r.2 } := by
  simp [coreLedgSave, ledgImgLegal_iff.mpr h, ledgRangeOk_iff.mpr hr, ledgRange_flatMap]

theorem coreLedgLoad_loads (h : bits w 41 38 = 0 ∧ bits w 35 0 = 0) (he : k.sramErr = []) : coreLedgLoad w p k =
    let r := onLedgers w (fun i q =>
      let l := k.savedLedger p (saveAddr w i)
      (q.setLedger i l.1, l.2)) k
    { core := r.1, raised := r.2 } := by
  simp [coreLedgLoad, ledgImgLegal_iff.mpr h, ledgRangeOk_iff.mpr hr, Core.touch_clean he]

theorem coreLedgDig_absorbs (h : bits w 41 0 = 0) : coreLedgDig w p k =
    let r := onLedgers w (fun i k =>
      let r := k.readLedger p i
      ({ r.1 with lane := r.1.lane.absorb ((r.1.ledger i).record i) }, r.2)) k
    { core := r.1, raised := r.2 } := by
  simp [coreLedgDig, h, ledgRangeOk_iff.mpr hr]

end

theorem coreLedgFlg_reads (hn : bits w 47 42 = 0) (h : bits w 37 0 = 0) : coreLedgFlg w p k =
    let r := k.readLedger p (bits w 53 48)
    { core := r.1.setA (bits w 41 38) (r.1.ledger (bits w 53 48)).flagWord, raised := r.2 } := by
  simp [coreLedgFlg, hn, h]

/-! LEDG.CVT. -/

/-- The address of the block vector that a LEDG.CVT writes (R68). -/
def cvtAddr (w : BitVec 54) (k : Core) : Nat := k.opAddr (bits w 41 38) (bits w 37 26)

/-- The blocks that a LEDG.CVT writes. -/
def cvtRefs (w : BitVec 54) (f : Fmt) (k : Core) : List BlockRef :=
  (List.range (bits w 47 42 / 32 + 1)).map (fun i => blockRef f (cvtAddr w k) (bits w 11 4 + i))

/-- The ledgers of the range read for a conversion. -/
def cvtRead (w : BitVec 54) (p : Bool) (k : Core) : Core × Raised := onLedgers w (fun i k => k.convLedger p i) k

/-- What a LEDG.CVT writes to its blocks. -/
def cvtOuts (w : BitVec 54) (f : Fmt) (p : Bool) (k : Core) : List BlockOut :=
  (valBlocks (cvtRefs w f k).length ((ledgRange w).map (fun i => ((cvtRead w p k).1.ledger i).value))).map (fun b =>
    padBlock (convBlock f (bit w 21) (BitVec.ofNat 8 (bits w 20 13)) b))

/-- The core when a LEDG.CVT has written its blocks. -/
def cvtStored (w : BitVec 54) (f : Fmt) (p : Bool) (k : Core) : Core :=
  (cvtRead w p k).1.storeAll (blockWrites f.width ((cvtRefs w f k).zip (cvtOuts w f p k)))

/-- The ledgers of the range cleared, their modes and units kept (R71). -/
def clearRange (w : BitVec 54) (k : Core) : Core × Raised :=
  onLedgers w (fun i k => let l := Ledger.clear (k.ledger i).mode (k.ledger i).g; (k.setLedger i l.1, l.2)) k

/-- The core when a LEDG.CVT has written its blocks and, with CLR = 1, cleared the ledgers. -/
def cvtFinal (w : BitVec 54) (k : Core) : Core × Raised := if bit w 12 then clearRange w k else (k, Raised.none)

/-- What a LEDG.CVT that nothing stops makes of a core. -/
def cvtOut (w : BitVec 54) (f : Fmt) (p : Bool) (k : Core) : CoreOut :=
  { core := (cvtFinal w (cvtStored w f p k)).1.raiseSat ((cvtOuts w f p k).map (·.sat)).sum
    raised := (cvtRead w p k).2.or (cvtFinal w (cvtStored w f p k)).2 }

theorem cvtOut_keeps {f : Fmt} (hc : bit w 12 = false) : cvtOut w f p k =
    { core := (cvtStored w f p k).raiseSat ((cvtOuts w f p k).map (·.sat)).sum, raised := (cvtRead w p k).2 } := by
  simp only [cvtOut, cvtFinal, hc, Bool.false_eq_true, if_false, Raised.or_none]

theorem cvtOut_clears {f : Fmt} (hc : bit w 12 = true) : cvtOut w f p k =
    { core := (clearRange w (cvtStored w f p k)).1.raiseSat ((cvtOuts w f p k).map (·.sat)).sum
      raised := (cvtRead w p k).2.or (clearRange w (cvtStored w f p k)).2 } := by
  simp only [cvtOut, cvtFinal, hc, if_true]

/-- The operands of a LEDG.CVT that OPERAND_RANGE stops. -/
def CvtBad (w : BitVec 54) (k : Core) : Prop :=
  63 < bits w 53 48 + bits w 47 42 ∨ (bits w 25 22 < 3 ∧ bit w 21 = false ∧ (BitVec.ofNat 8 (bits w 20 13) : Byte) = 0x80)
    ∨ cvtAddr w k % 64 ≠ 0

/-- The test of the model for a LEDG.CVT that OPERAND_RANGE stops. -/
theorem cvtBad_iff : (!ledgRangeOk w || (decide (bits w 25 22 < 3) && !bit w 21 && (BitVec.ofNat 8 (bits w 20 13) : Byte) == 0x80)
    || cvtAddr w k % 64 != 0) = true ↔ CvtBad w k := by
  simp [CvtBad, ledgRangeOk_eq_false_iff, or_assoc, and_assoc]

section
variable {f : Fmt} (hf : fmtOf (bits w 25 22) = some f)
include hf

theorem coreLedgCvt_illegal (hl : cvtLegal w = false) : coreLedgCvt w p k = .fail k 0 := by
  simp only [coreLedgCvt, hf, hl, Bool.not_false, if_true]

variable (hl : cvtLegal w = true)
include hl

theorem coreLedgCvt_bad (hb : CvtBad w k) : coreLedgCvt w p k = .fail k 1 := by
  have hb := cvtBad_iff.mpr hb
  unfold cvtAddr at hb
  simp only [coreLedgCvt, hf, hl, hb, Bool.not_true, Bool.false_eq_true, if_false, if_true]

variable (hb : ¬ CvtBad w k)
include hb

theorem coreLedgCvt_outside (hin : (cvtRefs w f k).all (·.inArea) = false) : coreLedgCvt w p k = .fail k 2 := by
  have hb := mt cvtBad_iff.mp hb
  unfold cvtAddr at hb
  unfold cvtRefs cvtAddr at hin
  simp only [coreLedgCvt, hf, hl, hb, hin, Bool.not_true, Bool.not_false, Bool.false_eq_true, if_false, if_true]

theorem coreLedgCvt_converts (hin : (cvtRefs w f k).all (·.inArea) = true) : coreLedgCvt w p k = cvtOut w f p k := by
  have hb := mt cvtBad_iff.mp hb
  unfold cvtAddr at hb
  unfold cvtRefs cvtAddr at hin
  simp only [coreLedgCvt, hf, hl, hb, hin, Bool.not_true, Bool.false_eq_true, if_false]
  rfl

end

/-- Settles O17: the ledger instructions on a range that exists and beyond it, and the conversion of ledgers to blocks. -/
theorem ledgerAddReadAndConvert : Obligations.LedgerAddReadAndConvert := by
  refine ⟨fun n w s hready => ⟨fun hr => ⟨fun h => ?_, fun h => ?_, fun h => ?_, fun h => ?_⟩, fun hn h => ?_,
      fun hr => ⟨fun h => ?_, fun h => ?_, fun h => ?_, fun h => ?_⟩⟩,
    fun n w s f hready hf => ⟨fun hl hb hin => ⟨fun hc => ?_, fun hc => ?_⟩, fun hl => ?_, fun hl hb => ?_, fun hl hb hin => ?_⟩⟩
  · exact .of_effect hready rfl (coreLedgClr_clears hr h) rfl
  · exact .of_effect hready rfl (coreLedgSave_saves hr h) rfl
  · exact .of_effect hready rfl (coreLedgLoad_loads hr h hready.sramErr_nil) rfl
  · exact .of_effect hready rfl (coreLedgDig_absorbs hr h) rfl
  · exact .of_effect hready rfl (coreLedgFlg_reads hn h) rfl
  · exact .of_effect hready rfl (coreLedgClr_range hr h)
  · exact .of_effect hready rfl (coreLedgSave_range hr h)
  · exact .of_effect hready rfl (coreLedgLoad_range hr h)
  · exact .of_effect hready rfl (coreLedgDig_range hr h)
  · exact .of_effect hready rfl ((coreLedgCvt_converts hf hl hb hin).trans (cvtOut_keeps hc)) rfl
  · exact .of_effect hready rfl ((coreLedgCvt_converts hf hl hb hin).trans (cvtOut_clears hc)) rfl
  · exact .of_effect hready rfl (coreLedgCvt_illegal hf hl)
  · exact .of_effect hready rfl (coreLedgCvt_bad hf hl hb)
  · exact .of_effect hready rfl (coreLedgCvt_outside hf hl hb hin)

end Sys2Proof.Machine
end

section
/-! SUPPORT. How a Saiga engine fetches its next command, and what it makes of it (R105 to R112, R125, R128). -/
namespace Sys2Proof.Machine

/-- A read after a write of anything but the default gives what was written, be the table canonical or not. -/
theorem tget_tset_of_ne_default {α : Type} [DecidableEq α] {d v : α} (hv : v ≠ d) (t : Tab α) (i : Nat) :
    tget d (tset d t i v) i = v := by
  induction t with
  | nil => rw [tset, if_neg hv, tget, if_pos rfl]
  | cons p t ih =>
    obtain ⟨k, x⟩ := p
    unfold tset
    split
    · rw [tget, if_neg (by omega), if_neg (by omega), ih]
    · split <;> rw [tget, if_pos rfl]

variable {c : Chip} {e : EngineId} {op : Byte} {w : SgaWords}

/-! The fetch. -/

@[simp] theorem Chip.putLine_engines (l : Nat) (bs : List Byte) (poison : Bool) : (c.putLine l bs poison).engines = c.engines := by
  rw [Chip.putLine]

@[simp] theorem Chip.reportLine_engines (l : Nat) : (c.reportLine l).engines = c.engines := by
  rw [Chip.reportLine]

@[simp] theorem Chip.freeLine_engines : c.freeLine.2.engines = c.engines := by
  rw [Chip.freeLine]

@[simp] theorem Chip.freeBit_engines : c.freeBit.2.engines = c.engines := by
  rw [Chip.freeBit]

@[simp] theorem Chip.uncorrectable_engines (l : Nat) (consumed : Bool) : (c.uncorrectable l consumed).engines = c.engines := by
  unfold Chip.uncorrectable
  dsimp only
  split
  · simp
  · rw [(Chip.event_cf (n := 0) _ (CFr.refl 0 _)).engines, (Chip.fltErr_cf (n := 0) _ (CFr.refl 0 _)).engines]
    simp

/-- The decoder changes no engine. -/
@[simp] theorem Chip.decodeLine_engines (l n : Nat) (consumed : Bool) : (c.decodeLine l n consumed).engines = c.engines := by
  unfold Chip.decodeLine
  dsimp only
  split
  · rfl
  · split
    · exact Chip.modStack_engines _ _ _
    · split
      · exact Chip.uncorrectable_engines l consumed
      · split <;> simp

/-- An engine that has taken a command differs from itself by the operation alone. -/
theorem Chip.engine_taking (hr : (c.engine e).state = .run) : (c.taking e op w).engine e = { c.engine e with op := op } := by
  have he : (c.fetching e w).engine e = c.engine e := congrArg (tget Engine.zero · e.val) (Chip.decodeLine_engines _ _ _)
  have hne : { c.engine e with op := op } ≠ Engine.zero := fun h => by
    have hs := congrArg Engine.state h
    rw [hr] at hs
    exact absurd hs (by decide)
  unfold Chip.taking Chip.modEngine
  rw [he]
  exact tget_tset_of_ne_default hne _ _

/-- The operation stands in the top byte of word 0 (R105). -/
theorem sgaBytes_op (op : Byte) (w : SgaWords) : (sgaBytes op w).getD 7 0 = op := rfl

/-- An engine that carries out nothing: it does not run, waits, holds a signal or is gated. -/
def Engine.Stalled (k : Engine) : Prop := k.state ≠ .run ∨ k.wait ≠ .none ∨ k.held.isSome = true ∨ k.gated = true

theorem EngineReady.not_stalled (hr : EngineReady c e) : ¬ (c.engine e).Stalled := by
  obtain ⟨hstate, hwait, hheld, hgated, -⟩ := hr
  simp [Engine.Stalled, hstate, hwait, hheld, hgated]

theorem EngineReady.reach (hr : EngineReady c e) : c.engineReach e (c.engine e).pc.toNat ((c.engine e).pc.toNat + 1) = true :=
  hr.2.2.2.2

/-! The step of an engine, case by case. -/

section
variable {fields : List Dword} {f : Chip → SgaOut}

theorem Chip.sgaStep_stalled (h : (c.engine e).Stalled) : c.sgaStep e op w fields f = c := by
  unfold Engine.Stalled at h
  rw [Chip.sgaStep]
  exact if_pos h

theorem Chip.sgaStep_outside (hs : ¬ (c.engine e).Stalled)
    (ho : c.engineReach e (c.engine e).pc.toNat ((c.engine e).pc.toNat + 1) = false) :
    c.sgaStep e op w fields f = c.sgaStop e 2 false := by
  unfold Engine.Stalled at hs
  simp only [Chip.sgaStep, if_neg hs, ho, Bool.not_false, if_true]

section
variable (hr : EngineReady c e)
include hr

/-- What an engine does that can carry out its next command: it looks at the line, and runs the command where it is this one. -/
theorem Chip.sgaStep_ready : c.sgaStep e op w fields f =
    if (c.fetching e w).tag (c.sgaLine e) then (c.fetching e w).sgaFetchPoison e (c.sgaLine e)
    else
      let c2 := (c.fetching e w).modEngine e (fun k => { k with op := ((c.fetching e w).lineBytes (c.sgaLine e)).getD 7 0 })
      if (c.fetching e w).sgaLineReserved e (c.engine e).pc.toNat then c2.sgaStop e 0 false
      else if (c.fetching e w).lineBytes (c.sgaLine e) ≠ sgaBytes op w then c
      else c2.sgaRun e w fields f := by
  have hs := hr.not_stalled
  unfold Engine.Stalled at hs
  simp only [Chip.sgaStep, if_neg hs, hr.reach, Bool.not_true, Bool.false_eq_true, if_false]
  rfl

theorem Chip.sgaStep_poisoned (ht : (c.fetching e w).tag (c.sgaLine e) = true) :
    c.sgaStep e op w fields f = (c.fetching e w).sgaFetchPoison e (c.sgaLine e) := by
  rw [Chip.sgaStep_ready hr, if_pos ht]

theorem Chip.sgaStep_reserved (ht : (c.fetching e w).tag (c.sgaLine e) = false)
    (ho : (c.fetching e w).sgaLineReserved e (c.engine e).pc.toNat = true) : c.sgaStep e op w fields f =
      ((c.fetching e w).modEngine e (fun k => { k with op := ((c.fetching e w).lineBytes (c.sgaLine e)).getD 7 0 })).sgaStop e 0 false := by
  simp only [Chip.sgaStep_ready hr, ht, ho, Bool.false_eq_true, if_false, if_true]

/-- A command whose words do not stand at the program counter has no effect (log 33). -/
theorem Chip.sgaStep_other (ht : (c.fetching e w).tag (c.sgaLine e) = false)
    (ho : (c.fetching e w).sgaLineReserved e (c.engine e).pc.toNat = false)
    (hb : (c.fetching e w).lineBytes (c.sgaLine e) ≠ sgaBytes op w) : c.sgaStep e op w fields f = c := by
  simp only [Chip.sgaStep_ready hr, ht, ho, Bool.false_eq_true, if_false, if_pos hb]

theorem Chip.sgaStep_fetched (hf : SgaFetches c e op w) :
    c.sgaStep e op w fields f = (c.taking e op w).sgaRun e w fields f := by
  obtain ⟨ht, ho, hb⟩ := hf
  simp only [Chip.sgaStep_ready hr, ht, ho, hb, sgaBytes_op, ne_eq, not_true_eq_false, Bool.false_eq_true, if_false]
  rfl

theorem Chip.sgaStep_illegal (hf : SgaFetches c e op w) (hl : ¬ SgaLegal c e op w fields) :
    c.sgaStep e op w fields f = (c.taking e op w).sgaStop e 0 false := by
  have hbad : (!reservedZero w fields || !(c.taking e op w).signalOk w) = true := by
    simpa [SgaLegal, hf, Decidable.imp_iff_not_or] using hl
  rw [Chip.sgaStep_fetched hr hf, Chip.sgaRun, if_pos hbad]

section
variable (hl : SgaLegal c e op w fields)
include hl

/-- A legal command whose effect stops the program. -/
theorem Chip.sgaStep_stop {o : SgaOut} {b : Nat} (ho : f (c.taking e op w) = o) (hb : o.stop = some b) :
    c.sgaStep e op w fields f = o.chip.sgaStop e b o.faulted := by
  obtain ⟨hf, hz, hg⟩ := hl
  simp only [Chip.sgaStep_fetched hr hf, Chip.sgaRun, hz, hg, ho, hb, Bool.not_true, Bool.or_self, Bool.false_eq_true, if_false]

/-- A legal command that changes the package to `d`, and completes (R106, R112). -/
theorem Chip.sgaStep_ok {d : Chip} (ho : f (c.taking e op w) = .ok d) :
    c.sgaStep e op w fields f = d.sgaFinish e (sgaAsks w) ((c.engine e).pc + 1) false := by
  obtain ⟨hf, hz, hg⟩ := hl
  simp only [Chip.sgaStep_fetched hr hf, Chip.sgaRun, hz, hg, ho, SgaOut.ok, Bool.not_true, Bool.or_self, Bool.false_eq_true,
    if_false, Chip.engine_taking hr.1]
  rfl

end
end
end

/-! The same of a command that is the step of an engine. -/

/-- Command `i` is a step of engine `e`: the command of operation `op` with the words `w` and these fields, of effect `f`. -/
def SgaCommand (i : Instr) (e : EngineId) (op : Byte) (w : SgaWords) (fields : List Dword) (f : Chip → SgaOut) : Prop :=
  ∀ s, exec i s = s.lift (fun c => c.sgaStep e op w fields f)

section
variable {i : Instr} {fields : List Dword} {f : Chip → SgaOut} {s : State} (hi : SgaCommand i e op w fields f)
include hi

theorem SgaCommand.gives {t : Chip} (ht : s.chip.sgaStep e op w fields f = t) : Gives i s t := .of_lift (hi s) ht

variable (hr : EngineReady s.chip e) (hl : SgaLegal s.chip e op w fields)
include hr hl

theorem SgaCommand.completes {d : Chip} (ho : f (s.chip.taking e op w) = .ok d) :
    Gives i s (d.sgaFinish e (sgaAsks w) ((s.chip.engine e).pc + 1) false) :=
  hi.gives (Chip.sgaStep_ok hr hl ho)

theorem SgaCommand.fails {b : Nat} (ho : f (s.chip.taking e op w) = .fail (s.chip.taking e op w) b) :
    Gives i s ((s.chip.taking e op w).sgaStop e b false) :=
  hi.gives (Chip.sgaStep_stop hr hl ho rfl)

end

/-! The stop of a program (R128). -/

/-- A stop reported to its step changes contexts only. -/
theorem Chip.stepStopped_eq (c : Chip) (u : UnitId) (err : Word) : ∃ img : Image, c.stepStopped u err = { c with img := img } := by
  unfold Chip.stepStopped
  split <;> exact ⟨_, rfl⟩

theorem Chip.programStop_eq (c : Chip) (u : UnitId) (err : Word) : ∃ img : Image, c.programStop u err = { c with img := img } := by
  obtain ⟨img, h⟩ := c.stepStopped_eq u err
  unfold Chip.programStop
  split
  · rw [h]
    exact ⟨_, rfl⟩
  · exact ⟨_, rfl⟩

/-- What becomes of an engine whose program stops with bit `b` of SGA_ERR. -/
def Engine.stopped (k : Engine) (b : Nat) (faulted : Bool) : Engine :=
  { k.raise b with
    state := .stopped, wait := .none, sig := none, held := none
    frec := { k.frec with stopped := true, statuses := k.frec.statuses ++ [if faulted then 2 else 1], laterNotDone := true } }

/-- The stop of an engine's program changes that engine, and contexts. -/
theorem Chip.sgaStop_eq (c : Chip) (e : EngineId) (b : Nat) (faulted : Bool) : ∃ img : Image,
    c.sgaStop e b faulted = { c.setEngine e ((c.engine e).stopped b faulted) with img := img } := by
  unfold Chip.sgaStop
  dsimp only
  split
  · exact ⟨_, rfl⟩
  · exact Chip.programStop_eq _ _ _

end Sys2Proof.Machine
end

section
/-! SUPPORT. The commands of a Saiga engine (Table 4-2), and what stops those that name fields and ranges (R108, R109). -/
namespace Sys2Proof.Machine

variable {c : Chip} {e : EngineId} {w : SgaWords}

/-! The commands that an engine steps by. -/

theorem attn_sgaCommand (ups : Upsets) : SgaCommand (.attn e w ups) e 0x11 w attnFields (attnOut e w ups) := fun _ => rfl

theorem reduce_sgaCommand (ups : Upsets) : SgaCommand (.reduce e w ups) e 0x20 w (rowFields false) (reduceOut e w ups) := fun _ => rfl

theorem scan_sgaCommand (ups : Upsets) : SgaCommand (.scan e w ups) e 0x21 w (rowFields true) (scanOut e w ups) := fun _ => rfl

/-- The bits of the fields of GATHER in words 0 to 6. -/
def gatherFields : List Dword := [maskOf 31 0, maskOf 24 0 ||| maskOf 40 32, maskOf 24 0 ||| maskOf 56 32, maskOf 31 0]

theorem gather_sgaCommand (ups : Upsets) : SgaCommand (.gather e w ups) e 0x30 w gatherFields (gatherOut e w ups) := fun _ => rfl

/-- The commands of Table 4-2 with the words `w`, their operations and the bits of their fields. -/
def sgaForms (e : EngineId) (w : SgaWords) (ups : Upsets) : List (Instr × Byte × List Dword) :=
  [(.sgaNop e w, 0x00, []), (.sgaEnd e w, 0x01, []), (.sgaWait e w, 0x02, [maskOf 51 40, maskOf 31 0]),
   (.sgaTick e w, 0x03, [maskOf 12 0]), (.signal e w, 0x04, []), (.sgaSetc e w, 0x05, [maskOf 51 48, maskOf 31 0]),
   (.jump e w, 0x06, [0, maskOf 24 0]), (.attn e w ups, 0x11, attnFields), (.reduce e w ups, 0x20, rowFields false),
   (.scan e w ups, 0x21, rowFields true), (.gather e w ups, 0x30, gatherFields)]

theorem exists_sgaCommand_of_mem_sgaForms (ups : Upsets) :
    ∀ q ∈ sgaForms e w ups, ∃ f, SgaCommand q.1 e q.2.1 w q.2.2 f := by
  simp only [sgaForms, List.forall_mem_cons]
  exact ⟨⟨_, fun _ => rfl⟩, ⟨_, fun _ => rfl⟩, ⟨_, fun _ => rfl⟩, ⟨_, fun _ => rfl⟩, ⟨_, fun _ => rfl⟩, ⟨_, fun _ => rfl⟩,
    ⟨_, fun _ => rfl⟩, ⟨_, attn_sgaCommand ups⟩, ⟨_, reduce_sgaCommand ups⟩, ⟨_, scan_sgaCommand ups⟩, ⟨_, gather_sgaCommand ups⟩,
    fun _ h => absurd h List.not_mem_nil⟩

/-! What stops a command of its own fields and ranges (R108, R109). -/

section
variable {ups : Upsets}

theorem attnOut_illegal (hl : (attnOp w).legal w = false) : attnOut e w ups c = .fail c 0 := by
  simp only [attnOut, hl, Bool.not_false, if_true]

theorem attnOut_outside (hl : (attnOp w).legal w = true) (hc : c.covers e (attnOp w).ranges = false) :
    attnOut e w ups c = .fail c 2 := by
  simp only [attnOut, hl, hc, Bool.not_true, Bool.not_false, Bool.false_eq_true, if_false, if_true]

theorem reduceOut_illegal (hl : (rowOp w).reduceLegal w = false) : reduceOut e w ups c = .fail c 0 := by
  simp only [reduceOut, hl, Bool.not_false, if_true]

theorem reduceOut_outside (hl : (rowOp w).reduceLegal w = true) (hc : c.covers e (rowOp w).reduceRanges = false) :
    reduceOut e w ups c = .fail c 2 := by
  simp only [reduceOut, hl, hc, Bool.not_true, Bool.not_false, Bool.false_eq_true, if_false, if_true]

theorem scanOut_illegal (hl : (rowOp w).scanLegal w = false) : scanOut e w ups c = .fail c 0 := by
  simp only [scanOut, hl, Bool.not_false, if_true]

theorem scanOut_outside (hl : (rowOp w).scanLegal w = true) (hc : c.covers e (rowOp w).scanRanges = false) :
    scanOut e w ups c = .fail c 2 := by
  simp only [scanOut, hl, hc, Bool.not_true, Bool.not_false, Bool.false_eq_true, if_false, if_true]

theorem gatherOut_illegal (hl : (gatherOp w).rs = 0 ∨ 256 < (gatherOp w).rs ∨ (gatherOp w).nrows = 0) :
    gatherOut e w ups c = .fail c 0 := if_pos hl

theorem gatherOut_outside (h1 : 1 ≤ (gatherOp w).rs) (h256 : (gatherOp w).rs ≤ 256) (hn : (gatherOp w).nrows ≠ 0)
    (hc : c.covers e (gatherOp w).ranges = false) : gatherOut e w ups c = .fail c 2 := by
  have hl : ¬ ((gatherOp w).rs = 0 ∨ 256 < (gatherOp w).rs ∨ (gatherOp w).nrows = 0) := by omega
  simp only [gatherOut, if_neg hl, hc, Bool.not_false, if_true]

end

/-- Settles O26: the step of an engine case by case, the fields and ranges of the four arithmetic commands, and the engine
that a stop leaves. -/
theorem saigaIllegalCommandsStop : Obligations.SaigaIllegalCommandsStop := by
  refine ⟨fun e w ups s => ⟨fun q hq => ?_, fun hr hl => ?_, fun hr hl => ?_, fun hr hl => ?_, fun hr hl => ?_⟩,
    fun c e b faulted hc => ?_⟩
  · obtain ⟨f, hi⟩ := exists_sgaCommand_of_mem_sgaForms ups q hq
    exact ⟨fun hs => hi.gives (Chip.sgaStep_stalled hs), fun hs ho => hi.gives (Chip.sgaStep_outside hs ho),
      fun hr ht => hi.gives (Chip.sgaStep_poisoned hr ht), fun hr ht ho => hi.gives (Chip.sgaStep_reserved hr ht ho),
      fun hr ht ho hb => hi.gives (Chip.sgaStep_other hr ht ho hb), fun hr hf hl => hi.gives (Chip.sgaStep_illegal hr hf hl)⟩
  · have hi := attn_sgaCommand (e := e) (w := w) ups
    exact ⟨fun h => hi.fails hr hl (attnOut_illegal h), fun h hc => hi.fails hr hl (attnOut_outside h hc)⟩
  · have hi := reduce_sgaCommand (e := e) (w := w) ups
    exact ⟨fun h => hi.fails hr hl (reduceOut_illegal h), fun h hc => hi.fails hr hl (reduceOut_outside h hc)⟩
  · have hi := scan_sgaCommand (e := e) (w := w) ups
    exact ⟨fun h => hi.fails hr hl (scanOut_illegal h), fun h hc => hi.fails hr hl (scanOut_outside h hc)⟩
  · have hi := gather_sgaCommand (e := e) (w := w) ups
    exact ⟨fun h => hi.fails hr hl (gatherOut_illegal h), fun h1 h256 hn hc => hi.fails hr hl (gatherOut_outside h1 h256 hn hc)⟩
  · obtain ⟨img, ht⟩ := c.sgaStop_eq e b faulted
    rw [ht]
    exact ⟨Chip.engine_setEngine hc e _, rfl, rfl⟩

end Sys2Proof.Machine
end

section
/-! SUPPORT. ATTN, REDUCE, SCAN and GATHER: what each makes of the package (R112 to R122). -/
namespace Sys2Proof.Machine

variable {c : Chip} {e : EngineId} {w : SgaWords} {ups : Upsets}

/-! ATTN. -/

/-- The package and the trace when ATTN has gone through its segments. -/
def attnSegments (e : EngineId) (w : SgaWords) (ups : Upsets) (c : Chip) : Chip × SgaTrace :=
  (List.range (attnOp w).nseg).foldl (attnSegment e (attnOp w) ups) (c, {})

theorem attnOut_ok (hl : (attnOp w).legal w = true) (hc : c.covers e (attnOp w).ranges = true) :
    attnOut e w ups c = .ok ((attnSegments e w ups c).1.engReport e (attnSegments e w ups c).2) := by
  simp only [attnOut, hl, hc, Bool.not_true, Bool.false_eq_true, if_false]
  rfl

/-- With P0 at or beyond P1 there is no segment (R114). -/
theorem attnSegments_none (h : (attnOp w).p1 ≤ (attnOp w).p0) : attnSegments e w ups c = (c, {}) := by
  have hn : (attnOp w).nseg = 0 := if_neg (Nat.not_lt.mpr h)
  rw [attnSegments, hn, List.range_zero, List.foldl_nil]

/-- Counting whether some element has a property. -/
theorem decide_countP_pos {α : Type} (q : α → Bool) (l : List α) : decide (0 < l.countP q) = l.any q := by
  rw [Bool.eq_iff_iff, decide_eq_true_eq, List.countP_pos_iff, List.any_eq_true]

theorem any_or {α : Type} (q t : α → Bool) (l : List α) : l.any (fun x => q x || t x) = (l.any q || l.any t) := by
  rw [Bool.eq_iff_iff]
  simp only [Bool.or_eq_true, List.any_eq_true, and_or_left, exists_or]

theorem mul_b2n (n : Nat) (b : Bool) : n * b2n b = if b then n else 0 := by
  cases b
  · exact Nat.mul_zero n
  · exact Nat.mul_one n

section
variable {o : AttnOp} {r : Reader} {p : Bool} {j h : Nat}

/-- The greatest score of a head in a segment. -/
def AttnOp.top (o : AttnOp) (r : Reader) (p : Bool) (j h : Nat) : Word := fMaxAll ((o.scores r p j h).map (·.sigma))

/-- The weights of a head in a segment, with their positions. -/
def AttnOp.weights (o : AttnOp) (r : Reader) (p : Bool) (j h : Nat) : List (Nat × Nat) :=
  (o.scores r p j h).map (fun x => (x.pos, o.weight (o.top r p j h) x))

/-- D of a head in a segment: the sum of its weights (R115). -/
def AttnOp.denom (o : AttnOp) (r : Reader) (p : Bool) (j h : Nat) : Conv16 :=
  conv16 p r.disagree (Fmt.oct o.vf).mode o.gv o.dbo (vBlocks (o.weights r p j h) o.weightProd)

/-- N of a head in a segment: the sums of its weighted values (R115). -/
def AttnOp.numers (o : AttnOp) (r : Reader) (p : Bool) (j h : Nat) : List Conv16 :=
  (List.range o.dv).map (fun i => conv16 p r.disagree (Fmt.oct o.vf).mode o.gv o.nbo (vBlocks (o.weights r p j h) (o.valueProd r j i)))

/-- D and N of a head in a segment. -/
def AttnOp.sums (o : AttnOp) (r : Reader) (p : Bool) (j h : Nat) : List Conv16 := o.denom r p j h :: o.numers r p j h

/-- The flags of a record whose head has finite scores (Table 4-5). -/
def AttnOp.flags (o : AttnOp) (r : Reader) (p : Bool) (j h : Nat) (nar : Bool) : Nat :=
  b2n nar + (if (o.sums r p j h).any (·.sat) then 2 else 0)
    + (if (o.scores r p j h).any (·.ledger.low) = true ∨ (o.sums r p j h).any (·.ledger.low) = true then 4 else 0)

theorem AttnOp.head_no_position (hv : o.valid j = []) (hs : o.sco = false) :
    (o.head r p j h).1 = o.record 0xFF800000 0 0 0 (List.replicate o.dv 0) := by
  simp only [AttnOp.head, hv, hs, List.isEmpty_nil, Bool.not_false, Bool.and_self, if_true]

section
variable (hs : o.sco = false) (hv : o.valid j ≠ [])
include hs hv

theorem AttnOp.head_not_finite (hf : (o.scores r p j h).any (fun x => notFinite x.sigma) = true) : (o.head r p j h).1 =
    o.record 0x7FC00001 0x8000 (o.valid j).length (1 + 4 * b2n ((o.scores r p j h).any (·.ledger.low))) (List.replicate o.dv 0x8000) := by
  simp only [AttnOp.head, hs, List.isEmpty_eq_false_iff.mpr hv, hf, Bool.false_and, Bool.false_eq_true, if_false, if_true]

/-- The record of a head whose scores are finite: the sums, or NaR where one of them is NaR or saturated (R115). -/
theorem AttnOp.head_finite (hf : (o.scores r p j h).any (fun x => notFinite x.sigma) = false) : (o.head r p j h).1 =
    let bad := (o.sums r p j h).any (fun x => x.ledger.nar || x.sat)
    if bad then o.record 0x7FC00001 0x8000 (o.valid j).length (o.flags r p j h bad) (List.replicate o.dv 0x8000)
    else o.record (o.top r p j h) (o.denom r p j h).code (o.valid j).length (o.flags r p j h bad) ((o.numers r p j h).map (·.code)) := by
  simp only [AttnOp.head, hs, List.isEmpty_eq_false_iff.mpr hv, hf, Bool.false_and, Bool.false_eq_true, if_false,
    decide_countP_pos, ← any_or, mul_b2n, Bool.or_eq_true, apply_ite Prod.fst]
  rfl

theorem AttnOp.head_sums (hf : (o.scores r p j h).any (fun x => notFinite x.sigma) = false)
    (hg : (o.sums r p j h).any (fun x => x.ledger.nar || x.sat) = false) : (o.head r p j h).1 =
    o.record (o.top r p j h) (o.denom r p j h).code (o.valid j).length (if (o.scores r p j h).any (·.ledger.low) = true
      ∨ (o.sums r p j h).any (·.ledger.low) = true then 4 else 0) ((o.numers r p j h).map (·.code)) := by
  have hsat := (Bool.or_eq_false_iff.mp ((any_or _ _ _).symm.trans hg)).2
  simp only [AttnOp.head_finite hs hv hf, hg, AttnOp.flags, hsat, Bool.false_eq_true, if_false, b2n, Nat.zero_add]

theorem AttnOp.head_nar (hf : (o.scores r p j h).any (fun x => notFinite x.sigma) = false)
    (hb : (o.sums r p j h).any (fun x => x.ledger.nar || x.sat) = true) : (o.head r p j h).1 =
    o.record 0x7FC00001 0x8000 (o.valid j).length (1 + (if (o.sums r p j h).any (·.sat) then 2 else 0)
      + (if (o.scores r p j h).any (·.ledger.low) = true ∨ (o.sums r p j h).any (·.ledger.low) = true then 4 else 0))
      (List.replicate o.dv 0x8000) := by
  simp only [AttnOp.head_finite hs hv hf, hb, AttnOp.flags, if_true, b2n]

end
end

/-! REDUCE. -/

/-- The sum of row `j` with what its ledger raised, and its conversion (R120). -/
def RowOp.rowSum (o : RowOp) (r : Reader) (p : Bool) (j : Nat) : (Ledger × Raised) × Nat × Bool × Ledger × Raised :=
  let l := sumLedger p o.f.mode o.g (o.prods r j)
  (l, ledgerTo p r.disagree o.fo o.bo l.1)

/-- The byte ranges that REDUCE reads. -/
def RowOp.reduceReads (o : RowOp) : List (Nat × Nat) :=
  o.tileReads ++ if o.func = 2 then [(64 * o.y, 64 * vecGranules o.yFmt.width o.nblk)] else []

theorem reduceOut_select (hl : (rowOp w).reduceLegal w = true) (hc : c.covers e (rowOp w).reduceRanges = true)
    (h3 : 3 ≤ (rowOp w).func) : reduceOut e w ups c =
      let read := c.engRead e (rowOp w).reduceReads ups
      .ok (read.engWrite e ups (64 * (rowOp w).a2)
        ((List.range (rowOp w).rows).flatMap ((rowOp w).select (read.reader e) ((rowOp w).func == 3)))) := by
  simp only [reduceOut, hl, hc, if_pos h3, Bool.not_true, Bool.false_eq_true, if_false]
  rfl

theorem reduceOut_sums (hl : (rowOp w).reduceLegal w = true) (hc : c.covers e (rowOp w).reduceRanges = true)
    (h3 : (rowOp w).func < 3) : reduceOut e w ups c =
      let o := rowOp w
      let read := c.engRead e o.reduceReads ups
      let sums := (List.range o.rows).map (o.rowSum (read.reader e) (c.lprot (c.engine e).ctx))
      .ok (((o.writeReduce read e ups (sums.map (·.2.1))).modEngine e (fun k => { k with
          ledgers := (sums.zip (List.range o.rows)).foldl (fun t q => tset Ledger.zero t q.2 q.1.2.2.2.1) k.ledgers })).engReport e
        { raised := sums.foldl (fun x q => x.or (q.1.2.or q.2.2.2.2)) Raised.none, sat := sums.countP (·.2.2.1)
          recs := (sums.zip (List.range o.rows)).map (fun q => q.1.2.2.2.1.record q.2) }) := by
  simp only [reduceOut, hl, hc, if_neg (Nat.not_le.mpr h3), Bool.not_true, Bool.false_eq_true, if_false]
  simp only [List.zip_map_left, List.foldl_map, List.map_map, List.countP_map]
  rfl

/-! SCAN. -/

theorem scanOut_ok (hl : (rowOp w).scanLegal w = true) (hc : c.covers e (rowOp w).scanRanges = true) : scanOut e w ups c =
    let o := rowOp w
    let read := c.engRead e (o.tileReads ++ if o.b57 then [] else [(64 * o.a2, 1), (64 * o.a2 + 64, o.rows * o.f.width / 8)]) ups
    let rs := (List.range o.rows).map (o.scanRow (read.reader e) (c.lprot (c.engine e).ctx))
    let written := ((o.writeScan read e ups rs).engWrite e ups (64 * o.cout) [o.cbo]).engWrite e ups (64 * o.cout + 64)
      (packBlock o.f.width (rs.map (·.carry) ++ List.replicate (32 - o.rows) 0))
    .ok ((written.modEngine e (fun k => { k with
        ledgers := (rs.zip (List.range o.rows)).foldl (fun t q => tset Ledger.zero t q.2 q.1.ledger) k.ledgers })).engReport e
      { raised := rs.foldl (fun x a => x.or a.raised) Raised.none, sat := (rs.map (·.sat)).sum, recs := o.scanRecs rs }) := by
  simp only [scanOut, hl, hc, Bool.not_true, Bool.false_eq_true, if_false]

section
variable (o : RowOp) (r : Reader) (p : Bool) (j : Nat)

/-- The carry-in of row `j` reaches a ledger (R121). -/
def RowOp.scanCarryIn : Ledger × Raised :=
  (freshLedger o.f.mode o.g).group p o.f.mode
    [elemProd o.f o.f (r.elem o.f.width (64 * o.a2 + 64) j) (r.exp (64 * o.a2)) (some (oneCode o.f)) 0]

/-- The ledger of row `j` before its first element: clear with NOCIN (R121). -/
def RowOp.scanStart : Ledger := if o.b57 then freshLedger o.f.mode o.g else (o.scanCarryIn r p j).1

/-- A ledger of row `j` that takes element `q` (R121). -/
def RowOp.scanAdd (l : Ledger) (q : Nat) : Ledger :=
  (l.group p o.f.mode [elemProd o.f o.f (o.elem r j q).1 (o.elem r j q).2 (some (oneCode o.f)) 0]).1

/-- The ledger of row `j` when `n` elements have been scanned, each sum so far converted. -/
def RowOp.scanAfter (n : Nat) : Ledger :=
  (List.range n).foldl (fun l q => ((o.scanAdd r p j l q).conv p r.disagree).1) (o.scanStart r p j)

/-- The output code of row `j` at element `q`: the sum so far (R121). -/
def RowOp.scanCode (q : Nat) : Nat :=
  (o.fo.encode (bexp o.bo) ((o.scanAdd r p j (o.scanAfter r p j q) q).conv p r.disagree).1.value).1

/-- What the scan of a row makes of element `q`. -/
def RowOp.scanStep (a : RowScan) (q : Nat) : RowScan :=
  let el := o.elem r j q
  let g := a.ledger.group p o.f.mode [elemProd o.f o.f el.1 el.2 (some (oneCode o.f)) 0]
  let v := ledgerTo p r.disagree o.fo o.bo g.1
  { a with codes := a.codes ++ [v.1], ledger := v.2.2.1, raised := (a.raised.or g.2).or v.2.2.2
           sat := a.sat + b2n v.2.1, recs := a.recs ++ [v.2.2.1.record j] }

/-- The scan of row `j` when `n` elements have been scanned. -/
def RowOp.scanned (n : Nat) : RowScan :=
  let s0 : Ledger × Raised := if o.b57 then (freshLedger o.f.mode o.g, Raised.none) else o.scanCarryIn r p j
  (List.range n).foldl (o.scanStep r p j) { codes := [], carry := 0, ledger := s0.1, raised := s0.2, sat := 0, recs := [] }

theorem RowOp.scanned_succ (n : Nat) : o.scanned r p j (n + 1) = o.scanStep r p j (o.scanned r p j n) n := by
  rw [RowOp.scanned, List.range_succ, List.foldl_append]
  rfl

theorem RowOp.scanAfter_succ (n : Nat) :
    o.scanAfter r p j (n + 1) = ((o.scanAdd r p j (o.scanAfter r p j n) n).conv p r.disagree).1 := by
  rw [RowOp.scanAfter, List.range_succ, List.foldl_append]
  rfl

theorem RowOp.scanStep_ledger (a : RowScan) (q : Nat) :
    (o.scanStep r p j a q).ledger = ((o.scanAdd r p j a.ledger q).conv p r.disagree).1 := by
  simp only [RowOp.scanStep, RowOp.scanAdd, ledgerTo]

theorem RowOp.scanStep_codes (a : RowScan) (q : Nat) : (o.scanStep r p j a q).codes =
    a.codes ++ [(o.fo.encode (bexp o.bo) ((o.scanAdd r p j a.ledger q).conv p r.disagree).1.value).1] := by
  simp only [RowOp.scanStep, RowOp.scanAdd, ledgerTo]

/-- The invariant of the scan of a row: its ledger, and the codes so far. -/
theorem RowOp.scanned_spec (n : Nat) :
    (o.scanned r p j n).ledger = o.scanAfter r p j n ∧ (o.scanned r p j n).codes = (List.range n).map (o.scanCode r p j) := by
  induction n with
  | zero => exact ⟨apply_ite Prod.fst _ _ _, rfl⟩
  | succ n ih =>
    obtain ⟨hledger, hcodes⟩ := ih
    rw [RowOp.scanned_succ, RowOp.scanStep_ledger, RowOp.scanStep_codes, hledger, hcodes, RowOp.scanAfter_succ, List.range_succ,
      List.map_append]
    exact ⟨rfl, rfl⟩

theorem RowOp.scanRow_codes : (o.scanRow r p j).codes = (List.range (32 * o.nblk)).map (o.scanCode r p j) :=
  (o.scanned_spec r p j _).2

theorem RowOp.scanRow_carry : (o.scanRow r p j).carry =
    (carryOf o.f o.cbo ((o.scanAfter r p j (32 * o.nblk)).conv p r.disagree).1.value).1 := by
  rw [← (o.scanned_spec r p j _).1]
  rfl

end

/-! GATHER. -/

/-- The package when GATHER has gone through its indices, and whether one of them ended the copying. -/
def gatherRows (e : EngineId) (w : SgaWords) (ups : Upsets) (c : Chip) : Chip × Bool :=
  (List.range (gatherOp w).n).foldl (gatherStep e (gatherOp w) ups) (c, false)

section
variable (h1 : 1 ≤ (gatherOp w).rs) (h256 : (gatherOp w).rs ≤ 256) (hn : (gatherOp w).nrows ≠ 0)
  (hc : c.covers e (gatherOp w).ranges = true)
include h1 h256 hn hc

theorem gatherOut_rows : gatherOut e w ups c = if (gatherRows e w ups c).2
    then { chip := (gatherRows e w ups c).1, stop := some 4, faulted := true } else .ok (gatherRows e w ups c).1 := by
  have hl : ¬ ((gatherOp w).rs = 0 ∨ 256 < (gatherOp w).rs ∨ (gatherOp w).nrows = 0) := by omega
  simp only [gatherOut, if_neg hl, hc, Bool.not_true, Bool.false_eq_true, if_false]
  rfl

theorem gatherOut_ok (hr : (gatherRows e w ups c).2 = false) : gatherOut e w ups c = .ok (gatherRows e w ups c).1 := by
  rw [gatherOut_rows h1 h256 hn hc, hr]
  rfl

theorem gatherOut_index (hr : (gatherRows e w ups c).2 = true) :
    gatherOut e w ups c = { chip := (gatherRows e w ups c).1, stop := some 4, faulted := true } := by
  rw [gatherOut_rows h1 h256 hn hc, if_pos hr]

end

/-! What a report of consumed poison leaves. -/

@[simp] theorem Chip.fltErr_mem (b : Nat) : (c.fltErr b).mem = c.mem := (Chip.fltErr_cf (n := 0) b (CFr.refl 0 c)).mem

@[simp] theorem Chip.event_mem (x : Event) : (c.event x).mem = c.mem := (Chip.event_cf (n := 0) x (CFr.refl 0 c)).mem

@[simp] theorem Chip.orderCompute_mem (reason : Nat) : (c.orderCompute reason).mem = c.mem :=
  (Chip.orderCompute_cf (n := 0) reason (CFr.refl 0 c)).mem

@[simp] theorem Chip.faultHold_mem (x : CtxId) : (c.faultHold x).mem = c.mem := rfl

@[simp] theorem Chip.stepStopped_mem (u : UnitId) (err : Word) : (c.stepStopped u err).mem = c.mem := by
  obtain ⟨img, h⟩ := c.stepStopped_eq u err
  rw [h]

/-- Consumption of poison is reported, and changes no memory (R317). -/
theorem Chip.consume_mem (u : UnitId) (stack addr : Nat) (err : Word) : (c.consume u stack addr err).mem = c.mem := by
  unfold Chip.consume
  split
  · exact Chip.fltErr_mem _
  · simp only [apply_ite Chip.mem, Chip.fltErr_mem, Chip.event_mem, Chip.orderCompute_mem, Chip.modCtx_mem, Chip.modDig_mem,
      Chip.stepStopped_mem, Chip.faultHold_mem, ite_self]

/-! One index of GATHER (R122). -/

section
variable (e : EngineId) (o : GatherOp) (ups : Upsets) (c : Chip) (i : Nat)

/-- The line that holds index `i`. -/
def GatherOp.indexLine : Nat := engLine e (o.iaddr + i / 16)

/-- The package when the line of index `i` has passed the decoder. -/
def GatherOp.indexRead : Chip := c.decodeLine (o.indexLine e i) (errsOf ups (o.indexLine e i)) true

/-- Index `i`, as its line reads. -/
def GatherOp.index : Nat := unle (rdBytes (o.indexRead e ups c i).mem.dram (engBase e + 64 * o.iaddr + 4 * i) 4)

theorem gatherStep_ended : gatherStep e o ups (c, true) i = (c, true) := rfl

variable {e o ups c i}

theorem gatherStep_copies (ht : (o.indexRead e ups c i).tag (o.indexLine e i) = false) (hi : o.index e ups c i < o.nrows) :
    gatherStep e o ups (c, false) i = ((List.range o.rs).foldl (fun d k =>
      d.copyLine e ups (o.src + o.index e ups c i * o.rs + k) (o.out + i * o.rs + k)) (o.indexRead e ups c i), false) := by
  unfold GatherOp.indexRead GatherOp.indexLine at ht
  simp only [gatherStep, ht, Bool.false_eq_true, if_false]
  exact if_neg (Nat.not_le.mpr hi)

theorem gatherStep_index (ht : (o.indexRead e ups c i).tag (o.indexLine e i) = false) (hi : o.nrows ≤ o.index e ups c i) :
    gatherStep e o ups (c, false) i = (o.indexRead e ups c i, true) := by
  unfold GatherOp.indexRead GatherOp.indexLine at ht
  simp only [gatherStep, ht, Bool.false_eq_true, if_false]
  exact if_pos hi

theorem gatherStep_poisoned (ht : (o.indexRead e ups c i).tag (o.indexLine e i) = true) :
    (gatherStep e o ups (c, false) i).2 = true
      ∧ (gatherStep e o ups (c, false) i).1.mem.dram = (o.indexRead e ups c i).mem.dram := by
  unfold GatherOp.indexRead GatherOp.indexLine at ht
  simp only [gatherStep, ht, Bool.false_eq_true, if_false, if_true, Chip.consume_mem, Chip.modEngine_mem, true_and]
  rfl

end

/-- Settles O25: the effect of each command that nothing stops, the record of ATTN, the scan of a row, and the copying of GATHER. -/
theorem saigaArithmeticCommands : Obligations.SaigaArithmeticCommands := by
  refine ⟨fun e w ups s hr => ?_, fun o r p j h hs => ?_, fun o r p j => ?_, fun e o ups c i => ?_⟩
  · refine ⟨fun hl h hc => ⟨?_, fun hp => ?_⟩, fun hl h hc => ⟨fun h3 => ?_, fun h3 => ?_⟩, fun hl h hc => ?_,
      fun hl h1 h256 hn hc => ⟨fun hrows => ?_, fun hrows => ?_⟩⟩
    · exact (attn_sgaCommand ups).completes hr hl (attnOut_ok h hc)
    · have ho := attnOut_ok (ups := ups) h hc
      rw [attnSegments_none hp] at ho
      exact (attn_sgaCommand ups).completes hr hl ho
    · exact (reduce_sgaCommand ups).completes hr hl (reduceOut_select h hc h3)
    · exact (reduce_sgaCommand ups).completes hr hl (reduceOut_sums h hc h3)
    · exact (scan_sgaCommand ups).completes hr hl (scanOut_ok h hc)
    · exact (gather_sgaCommand ups).completes hr hl (gatherOut_ok h1 h256 hn hc hrows)
    · exact (gather_sgaCommand ups).gives (Chip.sgaStep_stop hr hl (gatherOut_index h1 h256 hn hc hrows) rfl)
  · exact ⟨fun hv => AttnOp.head_no_position hv hs, fun hv hf => AttnOp.head_not_finite hs hv hf,
      fun hv hf hg => AttnOp.head_sums hs hv hf hg, fun hv hf hb => AttnOp.head_nar hs hv hf hb⟩
  · exact ⟨o.scanRow_codes r p j, o.scanRow_carry r p j⟩
  · exact ⟨gatherStep_ended e o ups c i, gatherStep_copies, gatherStep_index, gatherStep_poisoned⟩

end Sys2Proof.Machine
end

section
/-! SUPPORT. Every command, and every step, keeps what Chip.Follows says: the canonical form of the tables with it. -/
namespace Sys2Proof.Machine

/-- Every command keeps the fuses, the anti-rollback counter and the canonical form: one arm per arm of the dispatch. -/
theorem exec_follows {s s' : State} : ∀ {i : Instr}, exec i s = .next s' → s.chip.Follows s'.chip
  | .nop .., h => execNop_follows _ _ h
  | .halt .., h => execHalt_follows _ _ h
  | .seta .., h => execSeta_follows _ _ h
  | .adda .., h => execAdda_follows _ _ h
  | .loop .., h => execLoop_follows _ _ h
  | .br .., h => execBr_follows _ _ h
  | .bnz .., h => execBnz_follows _ _ h
  | .ifence .., h => execIfence_follows _ _ h
  | .moveQ .., h => execMoveQ_follows _ _ h
  | .moveF .., h => execMoveF_follows _ _ h
  | .moveFResume .., h => execMoveFResume_follows _ h
  | .mma .., h => execMma_follows _ _ h
  | .vld .., h => execVld_follows _ _ h
  | .vst .., h => execVst_follows _ _ h
  | .vadd .., h => execVadd_follows _ _ h
  | .vsub .., h => execVsub_follows _ _ h
  | .vmul .., h => execVmul_follows _ _ h
  | .vfma .., h => execVfma_follows _ _ h
  | .vmax .., h => execVmax_follows _ _ h
  | .vmin .., h => execVmin_follows _ _ h
  | .vexp2 .., h => execVexp2_follows _ _ h
  | .vlog2 .., h => execVlog2_follows _ _ h
  | .vrcp .., h => execVrcp_follows _ _ h
  | .vrsq .., h => execVrsq_follows _ _ h
  | .vcmp .., h => execVcmp_follows _ _ h
  | .vsel .., h => execVsel_follows _ _ h
  | .vsum .., h => execVsum_follows _ _ h
  | .vmaxr .., h => execVmaxr_follows _ _ h
  | .vomul .., h => execVomul_follows _ _ h
  | .vmova .., h => execVmova_follows _ _ h
  | .ledgClr .., h => execLedgClr_follows _ _ h
  | .ledgCvt .., h => execLedgCvt_follows _ _ h
  | .ledgFlg .., h => execLedgFlg_follows _ _ h
  | .ledgSave .., h => execLedgSave_follows _ _ h
  | .ledgLoad .., h => execLedgLoad_follows _ _ h
  | .ledgDig .., h => execLedgDig_follows _ _ h
  | .setc .., h => execSetc_follows _ _ h
  | .addc .., h => execAddc_follows _ _ h
  | .subc .., h => execSubc_follows _ _ h
  | .syncWait .., h => execSyncWait_follows _ _ h
  | .syncWaitResume .., h => execSyncWaitResume_follows _ h
  | .syncTimeout .., h => execSyncTimeout_follows _ h
  | .arrive .., h => execArrive_follows _ _ h
  | .rdc .., h => execRdc_follows _ _ h
  | .tickWait .., h => execTickWait_follows _ _ h
  | .tickNext .., h => execTickNext_follows _ _ h
  | .tickResume .., h => execTickResume_follows _ h
  | .tickRd .., h => execTickRd_follows _ _ h
  | .moveStart .., h => execMoveStart_follows _ h
  | .ldGranuleArrival .., h => execLdGranuleArrival_follows _ _ _ _ h
  | .stAck .., h => execStAck_follows _ _ _ h
  | .cpGranuleArrival .., h => execCpGranuleArrival_follows _ _ _ h
  | .arriveDelivery .., h => execArriveDelivery_follows _ h
  | .wakeTokenGrant .., h => execWakeTokenGrant_follows _ h
  | .coreIdle .., h => execCoreIdle_follows _ h
  | .sgaNop .., h => execSgaNop_follows _ _ h
  | .sgaEnd .., h => execSgaEnd_follows _ _ h
  | .sgaWait .., h => execSgaWait_follows _ _ h
  | .sgaWaitResume .., h => execSgaWaitResume_follows _ h
  | .sgaTick .., h => execSgaTick_follows _ _ h
  | .signal .., h => execSignal_follows _ _ h
  | .sgaSetc .., h => execSgaSetc_follows _ _ h
  | .jump .., h => execJump_follows _ _ h
  | .attn .., h => execAttn_follows _ _ _ h
  | .reduce .., h => execReduce_follows _ _ _ h
  | .scan .., h => execScan_follows _ _ _ h
  | .gather .., h => execGather_follows _ _ _ h
  | .patrolScrub .., h => execPatrolScrub_follows _ _ h
  | .bandClearDone .., h => execBandClearDone_follows _ h
  | .bar4Read .., h => execBar4Read_follows _ _ _ h
  | .bar4Write .., h => execBar4Write_follows _ _ _ h
  | .bar4Resize .., h => execBar4Resize_follows _ h
  | .stkWBaseHighWrite .., h => execStkWBaseHighWrite_follows _ _ h
  | .stkWBaseLowWrite .., h => execStkWBaseLowWrite_follows _ _ h
  | .markReceived .., h => execMarkReceived_follows _ _ h
  | .refEdgeLoss .., h => execRefEdgeLoss_follows _ h
  | .frameLock, h => execFrameLock_follows h
  | .freerunEntry, h => execFreerunEntry_follows h
  | .slipApply, h => execSlipApply_follows h
  | .frameBoundary .., h => execFrameBoundary_follows _ h
  | .verdict, h => execVerdict_follows h
  | .frmCtlDis .., h => execFrmCtlDis_follows _ _ h
  | .frmSlipmapWrite .., h => execFrmSlipmapWrite_follows _ _ _ h
  | .codewordReceive .., h => execCodewordReceive_follows _ _ h
  | .controlReplay .., h => execControlReplay_follows _ h
  | .linkTraining .., h => execLinkTraining_follows _ _ h
  | .linkTrainComplete .., h => execLinkTrainComplete_follows _ _ h
  | .autoRetrain .., h => execAutoRetrain_follows _ h
  | .linkSignalDetect .., h => execLinkSignalDetect_follows _ h
  | .laneCdrLoss .., h => execLaneCdrLoss_follows _ _ h
  | .laneBerCheck .., h => execLaneBerCheck_follows _ _ h
  | .laneDrop .., h => execLaneDrop_follows _ _ _ h
  | .laneAdd .., h => execLaneAdd_follows _ _ _ h
  | .goodbye .., h => execGoodbye_follows _ h
  | .neighbour .., h => execNeighbour_follows _ _ h
  | .linkLos .., h => execLinkLos_follows _ h
  | .linkDisable .., h => execLinkDisable_follows _ h
  | .linkEnable .., h => execLinkEnable_follows _ h
  | .requal .., h => execRequal_follows _ h
  | .requalDone .., h => execRequalDone_follows _ _ h
  | .loopback .., h => execLoopback_follows _ _ h
  | .planWidth .., h => execPlanWidth_follows _ _ h
  | .data .., h => execData_follows _ _ h
  | .rdReq .., h => execRdReq_follows _ _ _ h
  | .rdResp .., h => execRdResp_follows _ _ h
  | .wr .., h => execWr_follows _ _ h
  | .wrAck .., h => execWrAck_follows _ _ h
  | .arrivePacket .., h => execArrivePacket_follows _ _ h
  | .digest .., h => execDigest_follows _ _ h
  | .loss .., h => execLoss_follows _ _ h
  | .credit .., h => execCredit_follows _ _ h
  | .forwardSend .., h => execForwardSend_follows _ _ h
  | .controlWindowOpen, h => execControlWindowOpen_follows h
  | .rteDrainSet .., h => execRteDrainSet_follows _ h
  | .rteDrainClear .., h => execRteDrainClear_follows _ h
  | .linkDrained .., h => execLinkDrained_follows _ h
  | .rteRouteWrite .., h => execRteRouteWrite_follows _ _ _ h
  | .rteIdWrite .., h => execRteIdWrite_follows _ _ h
  | .tombExpire .., h => execTombExpire_follows _ h
  | .heartbeat, h => execHeartbeat_follows h
  | .heartbeatMiss .., h => execHeartbeatMiss_follows _ h
  | .intentAck .., h => execIntentAck_follows _ h
  | .sealRecord .., h => execSealRecord_follows _ h
  | .copySeal, h => execCopySeal_follows h
  | .copyDeadline, h => execCopyDeadline_follows h
  | .ibexTakeover, h => execIbexTakeover_follows h
  | .ibexUnitReset, h => execIbexUnitReset_follows h
  | .resyncDone, h => execResyncDone_follows h
  | .roleSwap, h => execRoleSwap_follows h
  | .swapHandover, h => execSwapHandover_follows h
  | .ibexMemUe, h => execIbexMemUe_follows h
  | .ibexWatchdog .., h => execIbexWatchdog_follows _ h
  | .slotPost .., h => execSlotPost_follows _ _ h
  | .getInfo .., h => execGetInfo_follows _ h
  | .getState .., h => execGetState_follows _ h
  | .readFaultMap .., h => execReadFaultMap_follows _ h
  | .readDossier .., h => execReadDossier_follows _ h
  | .readDefects .., h => execReadDefects_follows _ h
  | .attest .., h => execAttest_follows _ h
  | .setCap .., h => execSetCap_follows _ h
  | .computeReset .., h => execComputeReset_follows _ h
  | .fwStage .., h => execFwStage_follows _ h
  | .fwActivate .., h => execFwActivate_follows _ h
  | .stageWrite .., h => execStageWrite_follows _ h
  | .stageRead .., h => execStageRead_follows _ h
  | .planLoad .., h => execPlanLoad_follows _ h
  | .planCancel .., h => execPlanCancel_follows _ h
  | .planStatus .., h => execPlanStatus_follows _ h
  | .ctxCreate .., h => execCtxCreate_follows _ h
  | .ctxTeardown .., h => execCtxTeardown_follows _ h
  | .ctxReset .., h => execCtxReset_follows _ h
  | .ctxHold .., h => execCtxHold_follows _ h
  | .ctxResume .., h => execCtxResume_follows _ h
  | .checkLoad .., h => execCheckLoad_follows _ h
  | .ctxStatus .., h => execCtxStatus_follows _ h
  | .stepDefine .., h => execStepDefine_follows _ h
  | .stepRun .., h => execStepRun_follows _ h
  | .stepStatus .., h => execStepStatus_follows _ h
  | .progLoad .., h => execProgLoad_follows _ h
  | .uci1Info .., h => execUci1Info_follows _ h
  | .uci1Stage .., h => execUci1Stage_follows _ h
  | .uci1Plan .., h => execUci1Plan_follows _ h
  | .openJob .., h => execOpenJob_follows _ h
  | .closeJob .., h => execCloseJob_follows _ h
  | .resetJob .., h => execResetJob_follows _ h
  | .uci1Run .., h => execUci1Run_follows _ h
  | .stepState .., h => execStepState_follows _ h
  | .uci1Replay .., h => execUci1Replay_follows _ h
  | .faults .., h => execFaults_follows _ h
  | .ringWrite, h => execRingWrite_follows h
  | .mbxRingHeadWrite .., h => execMbxRingHeadWrite_follows _ _ h
  | .stepWatchdog .., h => execStepWatchdog_follows _ h
  | .moverWatchdog .., h => execMoverWatchdog_follows _ h
  | .contextResetWatchdog .., h => execContextResetWatchdog_follows _ h
  | .engineResetWatchdog, h => execEngineResetWatchdog_follows h
  | .computeResetWatchdog, h => execComputeResetWatchdog_follows h
  | .packageResetWatchdog, h => execPackageResetWatchdog_follows h
  | .engineReset, h => execEngineReset_follows h
  | .engineResetComplete, h => execEngineResetComplete_follows h
  | .computeDomainReset .., h => execComputeDomainReset_follows _ h
  | .recoveryEnd .., h => execRecoveryEnd_follows _ h
  | .packageReset, h => execPackageReset_follows h
  | .fltPkgrstWrite .., h => execFltPkgrstWrite_follows _ _ h
  | .pkgrstSeqTimeout, h => execPkgrstSeqTimeout_follows h
  | .trialEnd, h => execTrialEnd_follows h
  | .unitQuarantine .., h => execUnitQuarantine_follows _ h
  | .beaconRepeat, h => execBeaconRepeat_follows h
  | .markhorResetRelease, h => execMarkhorResetRelease_follows h
  | .runTo .., h => execRunTo_follows _ _ h
  | .bruRestart .., h => execBruRestart_follows _ _ h
  | .bruRails .., h => execBruRails_follows _ _ h
  | .bruClockLock .., h => execBruClockLock_follows _ _ h
  | .bruFuseNor .., h => execBruFuseNor_follows _ _ _ h
  | .bruD2dTraining .., h => execBruD2dTraining_follows _ _ h
  | .bruMemoryTraining .., h => execBruMemoryTraining_follows _ _ h
  | .bruDefectTest .., h => execBruDefectTest_follows _ _ _ _ _ _ h
  | .bruFirmwareLoad .., h => execBruFirmwareLoad_follows _ _ _ _ _ _ h
  | .bruLinkTraining .., h => execBruLinkTraining_follows _ h
  | .bruFrameLock .., h => execBruFrameLock_follows _ h
  | .bruReady .., h => execBruReady_follows _ h
  | .bruStepTimeout, h => execBruStepTimeout_follows h
  | .powerOn .., h => execPowerOn_follows _ _ h
  | .powerLoss, h => execPowerLoss_follows h
  | .powerSample .., h => execPowerSample_follows _ _ h
  | .powerWindow .., h => execPowerWindow_follows _ h
  | .sensorRead .., h => execSensorRead_follows _ h
  | .throttleStep .., h => execThrottleStep_follows _ h
  | .shutdownRelease .., h => execShutdownRelease_follows _ h
  | .hsThermistorRead .., h => execHsThermistorRead_follows _ _ h
  | .inletStale, h => execInletStale_follows h
  | .thetaUpdate .., h => execThetaUpdate_follows _ h
  | .airflowFailAssert, h => execAirflowFailAssert_follows h
  | .airflowFailRelease, h => execAirflowFailRelease_follows h
  | .pwrStoreLowAssert, h => execPwrStoreLowAssert_follows h
  | .pwrStoreLowRelease, h => execPwrStoreLowRelease_follows h
  | .pwrHardcapWrite .., h => execPwrHardcapWrite_follows _ _ h
  | .pwrTheta0Write .., h => execPwrTheta0Write_follows _ _ h
  | .parity .., h => execParity_follows _ h
  | .ballastEn .., h => execBallastEn_follows _ h
  | .derateEn .., h => execDerateEn_follows _ h
  | .regFault .., h => execRegFault_follows _ h
  | .pcieLinkLoss, h => execPcieLinkLoss_follows h
  | .msixMessage .., h => execMsixMessage_follows _ h
  | .pkgIrqStatusClear .., h => execPkgIrqStatusClear_follows _ _ h
  | .dossierRead .., h => execDossierRead_follows _ _ h
  | .stateRead .., h => execStateRead_follows _ _ h
  | .mgmtDatagramDrop .., h => execMgmtDatagramDrop_follows _ _ h
  | .neighborSolicitation .., h => execNeighborSolicitation_follows _ h
  | .echoRequest .., h => execEchoRequest_follows _ _ h
  | .entdaa .., h => execEntdaa_follows _ h
  | .setEndpointId .., h => execSetEndpointId_follows _ h
  | .getEndpointId, h => execGetEndpointId_follows h
  | .getMctpVersionSupport, h => execGetMctpVersionSupport_follows h
  | .getMessageTypeSupport, h => execGetMessageTypeSupport_follows h
  | .telemetry .., h => execTelemetry_follows _ h
  | .inlet .., h => execInlet_follows _ _ _ h
  | .mctpAttest .., h => execMctpAttest_follows _ _ _ h
  | .mctpFwStage .., h => execMctpFwStage_follows _ _ _ _ h
  | .mctpFwActivate .., h => execMctpFwActivate_follows _ h
  | .mctpDossierRead .., h => execMctpDossierRead_follows _ _ _ h
  | .beaconCfg .., h => execBeaconCfg_follows _ _ _ _ _ _ h
  | .reg64LowRead .., h => execReg64LowRead_follows _ h
  | .registerWrite .., h => execRegisterWrite_follows _ _ h
  | .cfgParitySweep .., h => execCfgParitySweep_follows _ h
  | .missingMark .., h => execMissingMark_follows _ h
  | .portTrainingLost .., h => execPortTrainingLost_follows _ h
  | .mgmtPortLink .., h => execMgmtPortLink_follows _ h

theorem step_follows {s s' : State} (h : step s = .next s') : s.chip.Follows s'.chip := by
  unfold step at h
  split at h
  case h_1 =>
    cases h
    exact Chip.idle_follows (.refl s.chip)
  case h_2 i rest _ => exact exec_follows (s := { s with pending := rest }) h

/-- Settles O5: every step keeps Chip.Follows, whose third part is the canonical form. -/
theorem stepKeepsCanonicalForm : Obligations.StepKeepsCanonicalForm :=
  fun _ _ hc hstep => (step_follows hstep).canonical hc

end Sys2Proof.Machine
end

section
/-! SUPPORT. Memory byte for byte: what writing a line and clearing a band row make of bytes and tags (R130, R135, R145, R149). -/
namespace Sys2Proof.Machine

/-! Reading a table of which keys have been removed. -/

theorem tget_filterAbove {α : Type} [DecidableEq α] {d : α} {b : Nat} {t : Tab α} (h : twfAbove d b t = true) (q : Nat → Bool)
    (i : Nat) : tget d (t.filter (fun p => q p.1)) i = if q i then tget d t i else d := by
  induction t generalizing b with
  | nil => simp [tget]
  | cons p t ih =>
    obtain ⟨k, x⟩ := p
    simp only [twfAbove, Bool.and_eq_true, decide_eq_true_eq] at h
    obtain ⟨-, -, ht⟩ := h
    have hbelow : i < k → tget d t i = d := fun hi => tget_below ht (by omega)
    rw [List.filter_cons]
    by_cases hk : q k = true
    · rw [if_pos hk]
      simp only [tget]
      rw [ih ht]
      by_cases hki : k = i
      · rw [if_pos hki, if_pos hki, ← hki, if_pos hk]
      · rw [if_neg hki, if_neg hki]
        split <;> simp
    · rw [if_neg hk, ih ht]
      simp only [tget]
      by_cases hki : k = i
      · rw [← hki, if_neg hk, if_neg hk]
      · rw [if_neg hki]
        by_cases hi : i < k
        · rw [if_pos hi, hbelow hi]
        · rw [if_neg hi]

/-- A read after keys have been removed: those read the default, the others as before. -/
theorem tget_filter {α : Type} [DecidableEq α] {d : α} {t : Tab α} (h : twf d t = true) (q : Nat → Bool) (i : Nat) :
    tget d (t.filter (fun p => q p.1)) i = if q i then tget d t i else d := tget_filterAbove h q i

theorem padTo_of_length {bs : List Byte} {n : Nat} (h : bs.length = n) : padTo bs n = bs := by
  refine List.ext_getElem (by simp [padTo, slice, h]) fun i _ hi => ?_
  simp [padTo, slice, byteAt, hi]

variable {c : Chip} {l x : Nat} {bs : List Byte} {poison : Bool}

/-! A line written. -/

theorem MemSys.wf.dram {m : MemSys} (h : m.wf) : memWf m.dram = true := h.1

theorem MemSys.wf.tag {m : MemSys} (h : m.wf) : twf false m.tag = true := h.2.1

theorem MemSys.wf.bands {m : MemSys} (h : m.wf) : twf Band.zero m.bands = true := h.2.2

theorem Chip.putLine_dram (hb : bs.length = 64) : (c.putLine l bs poison).mem.dram = wrBytes c.mem.dram (64 * l) bs := by
  rw [Chip.putLine, padTo_of_length hb]

theorem Chip.rdByte_putLine_in (h : c.mem.wf) (hb : bs.length = 64) {i : Nat} (hi : i < 64) :
    rdByte (c.putLine l bs poison).mem.dram (64 * l + i) = bs.getD i 0 := by
  rw [Chip.putLine_dram hb, rdByte_wrBytes_in h.dram bs (hb.symm ▸ hi)]

theorem Chip.rdByte_putLine_out (h : c.mem.wf) (hb : bs.length = 64) (hx : x < 64 * l ∨ 64 * l + 64 ≤ x) :
    rdByte (c.putLine l bs poison).mem.dram x = rdByte c.mem.dram x := by
  rw [Chip.putLine_dram hb, rdByte_wrBytes_out h.dram bs (hb.symm ▸ hx)]

@[simp] theorem Chip.putLine_stks (l : Nat) (bs : List Byte) (poison : Bool) : (c.putLine l bs poison).stks = c.stks := by
  rw [Chip.putLine]

@[simp] theorem Chip.putLine_retired (l' : Nat) : (c.putLine l bs poison).retired l' = c.retired l' := by
  rw [Chip.retired, Chip.stack, Chip.putLine_stks, Chip.retired, Chip.stack]

theorem Chip.tag_putLine_same (h : c.mem.wf) : (c.putLine l bs poison).tag l = (poison || c.retired l) := by
  rw [Chip.tag, Chip.putLine_retired, Chip.putLine, tget_tset_same h.tag, Bool.or_assoc, Bool.or_self]

theorem Chip.tag_putLine_other (h : c.mem.wf) {l' : Nat} (hl : l' ≠ l) : (c.putLine l bs poison).tag l' = c.tag l' := by
  rw [Chip.tag, Chip.putLine_retired, Chip.putLine, tget_tset_other h.tag hl, Chip.tag]

/-! A band row cleared. -/

theorem Chip.rdByte_clearRow (h : c.mem.wf) (b x : Nat) :
    rdByte (c.clearRow b).mem.dram x = if inRow b x then 0 else rdByte c.mem.dram x := by
  refine (tget_filter h.dram (fun a => !inRow b a) x).trans ?_
  cases inRow b x <;> rfl

theorem Chip.band_clearRow_same (h : c.mem.wf) (b : Nat) : (c.clearRow b).band b = Band.zero := tget_tset_same h.bands b _

theorem Chip.band_clearRow_other (h : c.mem.wf) {b i : Nat} (hi : i ≠ b) : (c.clearRow b).band i = c.band i :=
  tget_tset_other h.bands hi

/-- Settles O27: the bytes and tags of a line written, and the bytes of a row cleared. -/
theorem linesAndClearedRows : Obligations.LinesAndClearedRows := by
  refine ⟨fun c l bs poison h hb => ?_, fun c b x h => ?_⟩
  · exact ⟨fun i => Chip.rdByte_putLine_in h hb, fun x => Chip.rdByte_putLine_out h hb, Chip.tag_putLine_same h,
      fun l' => Chip.tag_putLine_other h⟩
  · rw [Chip.rdByte_clearRow h]
    exact ⟨fun hx => if_pos hx, fun hx => if_neg (hx ▸ Bool.false_ne_true)⟩

end Sys2Proof.Machine
end

section
/-! SUPPORT. A register written through one of its aliases, and the two words of STK_W_BASE (R155, R156, R415, R420). -/
namespace Sys2Proof.Machine

/-! A register written through one of its aliases (R415). -/

theorem aliasOffset_mod (a : RegAlias) {o : Nat} (ho : o < 0x4000000) : aliasOffset a o % 0x4000000 = o := by
  rw [aliasOffset]
  omega

theorem aliasOf_aliasOffset (a : RegAlias) {o : Nat} (ho : o < 0x4000000) : aliasOf (aliasOffset a o) = a := by
  have hq : aliasOffset a o / 0x4000000 = aliasCode a := by
    rw [aliasOffset]
    omega
  rw [aliasOf, hq]
  cases a <;> rfl

variable {c : Chip} {a : RegAlias} {d : Word}

/-- A write of an RW register through one of its aliases, where the block is there. -/
theorem Chip.aliasWrite_rw {b : RegBlock} {o r : Nat} (hu : c.hostUp = true) (ho : o < 0x4000000) (hr : regAt o = some (b, r))
    (hg : c.gone b = false) (hk : b.kind r = .rw) : c.aliasWrite a o d = c.writeRw b r a d (aliasOffset a o) := by
  rw [Chip.aliasWrite, Chip.host_of_hostUp hu, Chip.regWrite_rw (by rw [aliasOffset_mod a ho, hr]) hg hk, aliasOf_aliasOffset a ho]

/-- The set, clear and toggle aliases act on the RW bits alone (R421). -/
theorem rwWord_set (rw old d : Word) : (rwWord .set rw old d).1 = old ||| (d &&& rw) := by
  ext i
  simp only [rwWord, aliasRw, BitVec.getElem_or, BitVec.getElem_and, BitVec.getElem_not]
  cases old[i] <;> cases rw[i] <;> simp

theorem rwWord_clear (rw old d : Word) : (rwWord .clear rw old d).1 = old &&& ~~~ (d &&& rw) := by
  ext i
  simp only [rwWord, aliasRw, BitVec.getElem_or, BitVec.getElem_and, BitVec.getElem_not]
  cases old[i] <;> cases rw[i] <;> simp

theorem rwWord_toggle (rw old d : Word) : (rwWord .toggle rw old d).1 = old ^^^ (d &&& rw) := by
  ext i
  simp only [rwWord, aliasRw, BitVec.getElem_or, BitVec.getElem_xor, BitVec.getElem_and, BitVec.getElem_not]
  cases old[i] <;> cases rw[i] <;> simp

/-! A refused write (R422). -/

theorem bit_foldl_setBit {l : List Nat} {k : Nat} (hk : k < 32) (w : Word) (h : k ∈ l ∨ bit w k = true) :
    bit (l.foldl setBit w) k = true := by
  induction l generalizing w with
  | nil => simpa using h
  | cons j l ih =>
    refine ih _ ?_
    obtain h | h := h
    · obtain rfl | h := List.mem_cons.mp h
      · exact .inr (bit_setBit_same w hk)
      · exact .inl h
    · exact .inr (bit_setBit_of_bit h j)

theorem Chip.refuse_eq (c : Chip) (off : Nat) (causes : List Nat) : ∃ pkg : Pkg, c.refuse off causes = { c with pkg := pkg } := by
  cases causes with
  | nil => exact ⟨c.pkg, rfl⟩
  | cons => exact ⟨_, rfl⟩

/-- A write refused for a cause records that cause and is counted once. -/
theorem Chip.refuse_records {off k : Nat} {causes : List Nat} (hk : k < 32) (h : k ∈ causes) :
    bit (c.refuse off causes).pkg.err k = true ∧ (c.refuse off causes).pkg.cntRefused = satInc c.pkg.cntRefused 1 := by
  cases causes with
  | nil => exact absurd h List.not_mem_nil
  | cons => exact ⟨bit_foldl_setBit hk _ (.inl h), rfl⟩

theorem mem_causeIf_append {k j : Nat} (p : Bool) {q : Bool} (hq : q = true) : k ∈ causeIf p j ++ causeIf q k := by
  simp [causeIf, hq]

/-! STK_W_BASE. -/

theorem exec_stkWBaseHighWrite (a : RegAlias) (d : Word) (s : State) :
    exec (.stkWBaseHighWrite a d) s = s.lift (fun c => c.aliasWrite a 0x29F000C d) := rfl

theorem exec_stkWBaseLowWrite (a : RegAlias) (d : Word) (s : State) :
    exec (.stkWBaseLowWrite a d) s = s.lift (fun c => c.aliasWrite a 0x29F0008 d) := rfl

theorem exec_bar4Resize (size : Fin 7) (s : State) :
    exec (.bar4Resize size) s = s.lift (fun c => if c.pkg.pcieUp then c.setBar4Size size else c) := rfl

theorem wBaseWord_aliases (rw old d : Word) : wBaseWord .normal (~~~ rw) old d = d
    ∧ wBaseWord .set (~~~ rw) old d = old ||| (d &&& rw) ∧ wBaseWord .clear (~~~ rw) old d = old &&& ~~~ (d &&& rw)
    ∧ wBaseWord .toggle (~~~ rw) old d = old ^^^ (d &&& rw) := by
  simp only [wBaseWord, BitVec.not_not, rwWord_set, rwWord_clear, rwWord_toggle, reduceCtorEq, if_true, if_false, and_self]

/-- The base that a write of the low word commits: the staged high word with the low word written, RV bits as they were (R420). -/
def Chip.wBaseCommitted (c : Chip) (a : RegAlias) (d : Word) : Dword :=
  let hi0 : Word := c.mem.wBase.extractLsb' 32 32
  let lo0 : Word := c.mem.wBase.setWidth 32
  ((c.mem.wStage.getD hi0 &&& ~~~ wBaseRvHi) ||| (hi0 &&& wBaseRvHi))
    ++ ((wBaseWord a wBaseRvLo lo0 d &&& ~~~ wBaseRvLo) ||| (lo0 &&& wBaseRvLo))

theorem Chip.commitWBase_eq (c : Chip) (a : RegAlias) (d : Word) (off : Nat) :
    let ok := (c.wBaseCommitted a d).toNat % c.pkg.bar4Bytes == 0
    ∃ rv : Bool, c.commitWBase a d off = ({ c with mem :=
      if ok then { c.mem with wStage := none, wBase := c.wBaseCommitted a d, woff := false }
      else { c.mem with wStage := none, wbaseErr := true } }).refuse off (causeIf rv cRv ++ causeIf (!ok) cValue) := ⟨_, rfl⟩

theorem Chip.commitWBase_accepts (h : (c.wBaseCommitted a d).toNat % c.pkg.bar4Bytes = 0) (off : Nat) : ∃ pkg : Pkg,
    c.commitWBase a d off = { c with
      mem := { c.mem with wStage := none, wBase := c.wBaseCommitted a d, woff := false }, pkg := pkg } := by
  have hok : ((c.wBaseCommitted a d).toNat % c.pkg.bar4Bytes == 0) = true := beq_iff_eq.mpr h
  obtain ⟨rv, hc⟩ := c.commitWBase_eq a d off
  rw [hc, hok]
  exact Chip.refuse_eq _ _ _

theorem Chip.commitWBase_refuses (h : (c.wBaseCommitted a d).toNat % c.pkg.bar4Bytes ≠ 0) (off : Nat) : ∃ rv : Bool,
    c.commitWBase a d off = ({ c with mem := { c.mem with wStage := none, wbaseErr := true } }).refuse off
      (causeIf rv cRv ++ causeIf true cValue) := by
  have hok : ((c.wBaseCommitted a d).toNat % c.pkg.bar4Bytes == 0) = false := beq_eq_false_iff_ne.mpr h
  obtain ⟨rv, hc⟩ := c.commitWBase_eq a d off
  rw [hc, hok]
  exact ⟨rv, rfl⟩

/-- Settles O30: the stage, the commit of a base that fits and of one that does not, and the resize. -/
theorem windowBaseStagedAndCommitted : Obligations.WindowBaseStagedAndCommitted := by
  intro a d size s c m hi0 lo0 put hi lo base
  have hput : ∀ rw old, wBaseWord a (~~~ rw) old d = put rw old := fun rw old => by
    obtain ⟨hn, hs, hc, ht⟩ := wBaseWord_aliases rw old d
    cases a
    case normal => exact hn
    case set => exact hs
    case clear => exact hc
    case toggle => exact ht
  have hbase : c.wBaseCommitted a d = base := by
    show (_ ++ ((wBaseWord a (~~~ 0xC0000000) lo0 d &&& 0xC0000000) ||| _) : Dword) = _
    rw [hput]
    rfl
  have hwrite : c.hostUp = true → c.aliasWrite a 0x29F0008 d = c.commitWBase a d (aliasOffset a 0x29F0008) := fun hu =>
    Chip.aliasWrite_rw (o := 0x29F0008) hu (by decide) rfl rfl rfl
  refine ⟨fun hu => .of_lift (exec_stkWBaseHighWrite a d s) ?_, fun hu => .of_lift (exec_stkWBaseLowWrite a d s) (hwrite hu),
    fun hb hu => ?_, fun hb hu => ?_, fun hp => ?_, fun hp => ?_⟩
  · rw [Chip.aliasWrite_rw (o := 0x29F000C) hu (by decide) rfl rfl rfl, ← hput]
    rfl
  · obtain ⟨pkg, hc⟩ := Chip.commitWBase_accepts (hbase ▸ hb) (aliasOffset a 0x29F0008)
    refine .of_lift (exec_stkWBaseLowWrite a d s) ?_
    rw [hwrite hu, hc, hbase]
    exact ⟨rfl, rfl, rfl, rfl⟩
  · obtain ⟨rv, hc⟩ := Chip.commitWBase_refuses (hbase ▸ hb) (aliasOffset a 0x29F0008)
    obtain ⟨pkg, hm⟩ := Chip.refuse_eq { c with mem := { m with wStage := none, wbaseErr := true } } (aliasOffset a 0x29F0008)
      (causeIf rv cRv ++ causeIf true cValue)
    refine .of_lift (exec_stkWBaseLowWrite a d s) ?_
    rw [hwrite hu, hc]
    exact ⟨by rw [hm], Chip.refuse_records (by decide) (mem_causeIf_append rv rfl)⟩
  · exact .of_lift (exec_bar4Resize size s) (by rw [hp]; rfl)
  · exact .of_lift (exec_bar4Resize size s) (by rw [hp]; rfl)

end Sys2Proof.Machine
end

section
/-! SUPPORT. What sending a circuit packet leaves of the package (R21, R179), and what a link does with a circuit packet that it
receives, check by check (R154, R217, R221, R222, R230, R237). -/
namespace Sys2Proof.Machine

/-! Sending. -/

/-- Package `t` is package `c` after something has been sent on its links: links, transfer sums and the list of what went out apart,
all is as before. -/
def Chip.Sends (c t : Chip) : Prop := ∃ links img out, t = { c with links := links, img := img, out := out }

theorem Chip.Sends.refl (c : Chip) : c.Sends c := ⟨_, _, _, rfl⟩

theorem Chip.Sends.trans {c d t : Chip} (h : c.Sends d) (hd : d.Sends t) : c.Sends t := by
  obtain ⟨_, _, _, rfl⟩ := h
  obtain ⟨_, _, _, rfl⟩ := hd
  exact ⟨_, _, _, rfl⟩

theorem Chip.Sends.foldl {α : Type} {g : Chip → α → Chip} (hg : ∀ (d : Chip) x, d.Sends (g d x)) (xs : List α) (c : Chip) :
    c.Sends (xs.foldl g c) := by
  induction xs generalizing c with
  | nil => exact .refl c
  | cons x xs ih => exact (hg c x).trans (ih (g c x))

theorem Chip.modLink_sends (c : Chip) (l : LinkId) (f : Link → Link) : c.Sends (c.modLink l f) := ⟨_, _, _, rfl⟩

theorem Chip.sendGroup_sends (c : Chip) (l : LinkId) (kind : Nat) (cseq : Byte) (flits : List (List Byte)) :
    c.Sends (c.sendGroup l kind cseq flits) := ⟨_, _, _, rfl⟩

theorem Chip.countOut_sends (c : Chip) (p : Packet) : c.Sends (c.countOut p) := by
  unfold Chip.countOut
  split
  · exact ⟨_, _, _, rfl⟩
  · exact .refl c

theorem Chip.sendPackets_sends (c : Chip) (l : LinkId) (e : PlanEntry) (ps : List Packet) : c.Sends (c.sendPackets l e ps) := by
  unfold Chip.sendPackets
  extract_lets slots fs n c1 c2
  have h1 : c.Sends c1 := .foldl (fun d p => ⟨_, _, _, rfl⟩) ps c
  exact (h1.trans (c1.modLink_sends l _)).trans (.foldl (fun d g => d.sendGroup_sends l 1 0 g) _ c2)

theorem Chip.sendDue_sends (c : Chip) (l : LinkId) : c.Sends (c.sendDue l) := by
  unfold Chip.sendDue
  extract_lets k
  split
  · exact .refl c
  · extract_lets live go
    split
    · exact .refl c
    · exact ((c.modLink_sends l _).trans (.foldl Chip.countOut_sends go _)).trans (Chip.sendPackets_sends _ l _ _)

theorem Chip.sendCircuit_sends (c : Chip) (l : LinkId) (p : Packet) : c.Sends (c.sendCircuit l p) := by
  unfold Chip.sendCircuit
  split
  · exact .refl c
  · exact (c.modLink_sends l _).trans (Chip.sendDue_sends _ l)

/-- A response takes the next SEQ of its circuit, and changes neither memory nor any core (R219, R230). -/
theorem Chip.respond_frame (c : Chip) (p : Packet) (ptype val pmask : Nat) (flits : List (List Byte)) (refused : Bool) :
    (c.respond p ptype val pmask flits refused).rte.respSeq = tset 0 c.rte.respSeq p.circuit (tget 0 c.rte.respSeq p.circuit + 1)
    ∧ (c.respond p ptype val pmask flits refused).mem = c.mem ∧ (c.respond p ptype val pmask flits refused).cores = c.cores := by
  obtain ⟨links, img, out, ht⟩ := Chip.sendCircuit_sends _ _ _
  rw [Chip.respond, ht]
  exact ⟨rfl, rfl, rfl⟩

variable {c : Chip} {l : LinkId} {p : Packet} {ups : Upsets}

/-! The checks of R221, in their order. -/

theorem Chip.circuitFate_of_no_entry (h : p.circuit = 0 ∨ circValid (c.circ p.circuit) = false) : c.circuitFate l p = .orphan := by
  rw [Chip.circuitFate, if_pos]
  obtain h | h := h
  · exact .inl h
  · exact .inr (.inl (by rw [h]; rfl))

theorem Chip.circuitFate_of_tombstone (ho : c.circuitFate l p ≠ .orphan) (ht : circTomb (c.circ p.circuit) = true) :
    c.circuitFate l p = .late := by
  unfold Chip.circuitFate at ho ⊢
  extract_lets at ho ⊢
  split at ho
  · exact absurd rfl ho
  · rw [if_neg ‹_›, if_pos ht]

theorem Chip.circRole_of_forward {o : LinkId} (h : c.circuitFate l p = .forward o) : circRole (c.circ p.circuit) = 1 := by
  refine Decidable.byContradiction fun hr => ?_
  simp only [Chip.circuitFate, hr, if_false] at h
  split at h
  · cases h
  · split at h
    · cases h
    · split at h <;> cases h

/-! Where a packet goes by its fate. -/

theorem Chip.circuitPacket_orphan (h : c.circuitFate l p = .orphan) : c.circuitPacket l p ups = c.modRte (fun r => r.orphan p) := by
  rw [Chip.circuitPacket, h]

theorem Chip.circuitPacket_late (h : c.circuitFate l p = .late) : c.circuitPacket l p ups = c.modRte (fun r => r.late 0 p) := by
  rw [Chip.circuitPacket, h]

theorem Chip.circuitPacket_outside (h : c.circuitFate l p = .outside) : c.circuitPacket l p ups = c.modRte (fun r => r.outside p) := by
  rw [Chip.circuitPacket, h]

theorem Chip.circuitPacket_forward {o : LinkId} (h : c.circuitFate l p = .forward o) : c.circuitPacket l p ups = c.forward p o := by
  rw [Chip.circuitPacket, h]

theorem Chip.circuitPacket_arrived (h : c.circuitFate l p = .arrived) : c.circuitPacket l p ups = c.arrived l p ups := by
  rw [Chip.circuitPacket, h]

/-! What ends here (R217, R221 checks 4 and 5). -/

theorem Chip.arrived_wrong_pcrc (h : p.pcrcOk = false) : c.arrived l p ups =
    ((c.modRte Rte.pcrcDrop).modLink l (fun k => k.raise 1)).charge (Fin.ofNat 16 (circCtx (c.circ p.circuit))) c.resultFrame 4 := by
  rw [Chip.arrived, h]
  rfl

section
variable (hp : p.pcrcOk = true)
include hp

theorem Chip.arrived_wrong_ctx (hx : p.cx ≠ Fin.ofNat 16 (circCtx (c.circ p.circuit))) : c.arrived l p ups = c.modRte (fun r => r.orphan p) := by
  rw [Chip.arrived, hp]
  exact if_pos hx

variable (hx : p.cx = Fin.ofNat 16 (circCtx (c.circ p.circuit)))
include hx

theorem Chip.arrived_data (ht : p.ptype = 1) : c.arrived l p ups =
    if !c.dataOk p then c.modRte (fun r => r.orphan p)
    else if c.flt.rphase != 0 then c.modRte Rte.resetDrop else c.deliverData (Fin.ofNat 16 (circCtx (c.circ p.circuit))) p := by
  rw [Chip.arrived, if_neg (by simp [hp]), if_neg (not_not_intro hx), ht]
  rfl

theorem Chip.arrived_readRequest (ht : p.ptype = 2) : c.arrived l p ups = c.serveRead p ups := by
  rw [Chip.arrived, if_neg (by simp [hp]), if_neg (not_not_intro hx), ht]
  rfl

theorem Chip.arrived_readResponse (ht : p.ptype = 3) : c.arrived l p ups =
    if c.flt.rphase != 0 then c.modRte Rte.resetDrop else c.readBack p := by
  rw [Chip.arrived, if_neg (by simp [hp]), if_neg (not_not_intro hx), ht]
  rfl

theorem Chip.arrived_write (ht : p.ptype = 4) : c.arrived l p ups = c.serveWrite p := by
  rw [Chip.arrived, if_neg (by simp [hp]), if_neg (not_not_intro hx), ht]
  rfl

theorem Chip.arrived_writeAck (ht : p.ptype = 5) : c.arrived l p ups =
    if c.flt.rphase != 0 then c.modRte Rte.resetDrop else c.writeBack p := by
  rw [Chip.arrived, if_neg (by simp [hp]), if_neg (not_not_intro hx), ht]
  rfl

end

/-! Requests at their target (R154). -/

/-- One granule of free bytes for each line of a read that is refused (log 22). -/
theorem Chip.foldl_freeLine {α : Type} (xs : List α) (acc : List (List Byte)) (c : Chip) : ∃ free : List (List Byte),
    free.length = xs.length ∧ xs.foldl (fun (s : List (List Byte) × Chip) _ => (s.1 ++ [s.2.freeLine.1], s.2.freeLine.2)) (acc, c)
      = (acc ++ free, { c with freeCount := c.freeCount + 64 * xs.length }) := by
  induction xs generalizing acc c with
  | nil => exact ⟨[], rfl, by simp⟩
  | cons x xs ih =>
    obtain ⟨free, hlen, hfold⟩ := ih (acc ++ [c.freeLine.1]) c.freeLine.2
    refine ⟨c.freeLine.1 :: free, by simp [hlen], ?_⟩
    rw [List.foldl_cons, hfold]
    simp only [Chip.freeLine, List.append_assoc, List.singleton_append, List.length_cons, Nat.mul_succ, Nat.add_assoc,
      Nat.add_comm 64]

theorem Chip.serveRead_refused (h : c.remoteAllowed p (requestLines p (min 16 p.val)).length = false) : ∃ free : List (List Byte),
    free.length = (requestLines p (min 16 p.val)).length ∧ c.serveRead p ups =
      ({ c.countRefused p with freeCount := c.freeCount + 64 * (requestLines p (min 16 p.val)).length }).respond p 3 0
        (2 ^ (requestLines p (min 16 p.val)).length - 1) free true := by
  obtain ⟨free, hlen, hfold⟩ := Chip.foldl_freeLine (requestLines p (min 16 p.val)) [] (c.countRefused p)
  refine ⟨free, hlen, ?_⟩
  rw [Chip.serveRead, if_neg (by simp [h])]
  dsimp only
  rw [hfold]
  rfl

theorem Chip.serveRead_allowed (h : c.remoteAllowed p (requestLines p (min 16 p.val)).length = true) :
    let read := (requestLines p (min 16 p.val)).foldl (fun (r : List Granule × Chip) a =>
      (r.1 ++ [(r.2.readLine (c.lineAt a) ups false).1], (r.2.readLine (c.lineAt a) ups false).2)) ([], c)
    c.serveRead p ups = read.2.respond p 3 0 (pmaskOf read.1) (read.1.map (·.data)) := if_pos h

theorem Chip.serveWrite_allowed (h : c.remoteAllowed p p.flits.length = true) : c.serveWrite p =
    (((requestLines p p.flits.length).zip p.granules).foldl (fun t q =>
      t.writeLine (some p.cx) (c.lineAt q.1) q.2.data q.2.poison) c).respond p 5 p.flits.length 0 [] := if_pos h

theorem Chip.serveWrite_refused (h : c.remoteAllowed p p.flits.length = false) : c.serveWrite p =
    (c.countRefused p).respond p 5 p.flits.length (2 ^ p.flits.length - 1) [] := if_neg (h ▸ Bool.false_ne_true)

/-! Responses at their origin (R230). -/

theorem Chip.readBack_served (h : p.refused = false) : c.readBack p =
    (p.granules.zip (List.range p.flits.length)).foldl (fun c g =>
      (c.modCore (respCore p) (fun k => k.remoteDone 0 p.dctr (p.daddr + 64 * g.2))).granuleAt (respCore p) (some p.cx) p.gen
        (p.daddr + 64 * g.2) p.dctr g.1) (c.readsCircuit (respCore p) p.cx) := if_neg (h ▸ Bool.false_ne_true)

theorem Chip.writeBack_served (h : p.pmask = 0) : c.writeBack p =
    ((List.range p.val).foldl (fun c i => c.modCore (respCore p) (fun k => k.remoteDone 1 p.dctr (p.daddr + 64 * i))) c).ackAt
      (respCore p) (some p.cx) p.gen p.dctr p.val := if_neg (not_not_intro h)

/-- A response finds the one move in flight that waits for its granule. -/
theorem Core.remoteDone_of_single {k : Core} {kind ctr addr : Nat} {f : Flight} (hf : k.flights = [f]) (hk : f.desc.kind = kind)
    (hc : f.desc.dctr = ctr) (hlo : f.desc.laddr ≤ addr) (hhi : addr < f.desc.laddr + 64 * f.desc.len)
    (hd : (addr - f.desc.laddr) / 64 ∉ f.done) : k.remoteDone kind ctr addr = k.flightDone 0 ((addr - f.desc.laddr) / 64) := by
  have hfind : k.remoteFlight kind ctr addr = some 0 := by
    simp [Core.remoteFlight, hf, hk, hc, hlo, hhi, hd]
  simp [Core.remoteDone, hfind, hf]

/-! The commands that bring a circuit packet. -/

/-- Link `l` has taken packet `p` out of its queue of packets received. -/
def Chip.taken (c : Chip) (l : LinkId) (p : Packet) : Chip :=
  c.modLink l (fun k => { k with rxReady := k.rxReady.erase { p with refused := false } })

theorem packetEffect_not_up (h : (c.link l).state ≠ .up) : packetEffect l p ups c = c := if_pos (bne_iff_ne.mpr h)

theorem packetEffect_circuit (h : (c.link l).state = .up) (ht : p.ptype ∈ [1, 2, 3, 4, 5]) :
    packetEffect l p ups c = (c.taken l p).circuitPacket l p ups := by
  rw [packetEffect, if_neg (by simp [h])]
  simp only [List.mem_cons, List.not_mem_nil, or_false] at ht
  obtain ht | ht | ht | ht | ht := ht <;> rw [ht] <;> rfl

/-- Each command that brings packet `p0` of a circuit, by its type, has exactly the effect `t`. -/
def CircuitGives (l : LinkId) (p0 : Packet) (ups : Upsets) (s : State) (t : Chip) : Prop :=
  ((wholePacket p0).ptype = 1 → Gives (.data l p0) s t) ∧ ((wholePacket p0).ptype = 2 → Gives (.rdReq l p0 ups) s t)
    ∧ ((wholePacket p0).ptype = 3 → Gives (.rdResp l p0) s t) ∧ ((wholePacket p0).ptype = 4 → Gives (.wr l p0) s t)
    ∧ ((wholePacket p0).ptype = 5 → Gives (.wrAck l p0) s t)

theorem CircuitGives.of_effect {p0 : Packet} {s : State} {t : Chip}
    (h : (wholePacket p0).ptype ∈ [1, 2, 3, 4, 5] → ∀ u, packetEffect l (wholePacket p0) u s.chip = t) : CircuitGives l p0 ups s t :=
  ⟨fun ht => .of_lift rfl (h (by simp [ht]) []), fun ht => .of_lift rfl (h (by simp [ht]) ups),
    fun ht => .of_lift rfl (h (by simp [ht]) []), fun ht => .of_lift rfl (h (by simp [ht]) []),
    fun ht => .of_lift rfl (h (by simp [ht]) [])⟩

/-- Packet `p`, received on link `l`, passes every check and ends here. -/
structure ArrivesHere (s : State) (l : LinkId) (p : Packet) : Prop where
  up : (s.chip.link l).state = .up
  fate : (s.chip.taken l p).circuitFate l p = .arrived
  pcrc : p.pcrcOk = true
  ctx : p.cx = Fin.ofNat 16 (circCtx ((s.chip.taken l p).circ p.circuit))

theorem ArrivesHere.packetEffect_eq {s : State} (h : ArrivesHere s l p) (ht : p.ptype ∈ [1, 2, 3, 4, 5]) (ups : Upsets) :
    packetEffect l p ups s.chip = (s.chip.taken l p).arrived l p ups :=
  (packetEffect_circuit h.up ht).trans (Chip.circuitPacket_arrived h.fate)

section
variable {p0 : Packet} {s : State} {t : Chip} (h : ArrivesHere s l (wholePacket p0))
include h

theorem ArrivesHere.gives_data (ht : (wholePacket p0).ptype = 1) :
    let p := wholePacket p0
    let c := s.chip.taken l p
    (c.dataOk p = true → c.flt.rphase = 0 → Gives (.data l p0) s (c.deliverData (Fin.ofNat 16 (circCtx (c.circ p.circuit))) p))
    ∧ (c.dataOk p = true → c.flt.rphase ≠ 0 → Gives (.data l p0) s (c.modRte Rte.resetDrop))
    ∧ (c.dataOk p = false → Gives (.data l p0) s (c.modRte (fun r => r.orphan p))) := by
  intro p c
  have heq : packetEffect l p [] s.chip = _ :=
    (h.packetEffect_eq (by simp [ht]) []).trans (Chip.arrived_data h.pcrc h.ctx ht)
  refine ⟨fun hd hr => .of_lift rfl (heq.trans ?_), fun hd hr => .of_lift rfl (heq.trans ?_), fun hd => .of_lift rfl (heq.trans ?_)⟩
  · rw [if_neg (by simp [c, p, hd]), if_neg (by simp [c, p, hr])]
  · rw [if_neg (by simp [c, p, hd]), if_pos (by simpa using hr)]
  · rw [if_pos (by simp [c, p, hd])]

theorem ArrivesHere.gives_rdReq (ht : (wholePacket p0).ptype = 2)
    (hs : (s.chip.taken l (wholePacket p0)).serveRead (wholePacket p0) ups = t) :
    Gives (.rdReq l p0 ups) s t :=
  .of_lift rfl (((h.packetEffect_eq (by simp [ht]) ups).trans (Chip.arrived_readRequest h.pcrc h.ctx ht)).trans hs)

theorem ArrivesHere.gives_wr (ht : (wholePacket p0).ptype = 4)
    (hs : (s.chip.taken l (wholePacket p0)).serveWrite (wholePacket p0) = t) :
    Gives (.wr l p0) s t :=
  .of_lift rfl (((h.packetEffect_eq (by simp [ht]) []).trans (Chip.arrived_write h.pcrc h.ctx ht)).trans hs)

theorem ArrivesHere.gives_rdResp (ht : (wholePacket p0).ptype = 3) :
    let p := wholePacket p0
    let c := s.chip.taken l p
    (c.flt.rphase = 0 → p.refused = false → Gives (.rdResp l p0) s
      ((p.granules.zip (List.range p.flits.length)).foldl (fun c g =>
        (c.modCore (respCore p) (fun k => k.remoteDone 0 p.dctr (p.daddr + 64 * g.2))).granuleAt (respCore p) (some p.cx) p.gen
          (p.daddr + 64 * g.2) p.dctr g.1) (c.readsCircuit (respCore p) p.cx)))
    ∧ (c.flt.rphase ≠ 0 → Gives (.rdResp l p0) s (c.modRte Rte.resetDrop)) := by
  intro p c
  have heq : packetEffect l p [] s.chip = _ :=
    (h.packetEffect_eq (by simp [ht]) []).trans (Chip.arrived_readResponse h.pcrc h.ctx ht)
  refine ⟨fun hr hf => .of_lift rfl (heq.trans ?_), fun hr => .of_lift rfl (heq.trans ?_)⟩
  · rw [if_neg (by simp [c, p, hr]), Chip.readBack_served hf]
  · rw [if_pos (by simpa using hr)]

theorem ArrivesHere.gives_wrAck (ht : (wholePacket p0).ptype = 5) :
    let p := wholePacket p0
    let c := s.chip.taken l p
    (c.flt.rphase = 0 → p.pmask = 0 → Gives (.wrAck l p0) s
      (((List.range p.val).foldl (fun c i => c.modCore (respCore p) (fun k => k.remoteDone 1 p.dctr (p.daddr + 64 * i))) c).ackAt
        (respCore p) (some p.cx) p.gen p.dctr p.val))
    ∧ (c.flt.rphase ≠ 0 → Gives (.wrAck l p0) s (c.modRte Rte.resetDrop)) := by
  intro p c
  have heq : packetEffect l p [] s.chip = _ :=
    (h.packetEffect_eq (by simp [ht]) []).trans (Chip.arrived_writeAck h.pcrc h.ctx ht)
  refine ⟨fun hr hf => .of_lift rfl (heq.trans ?_), fun hr => .of_lift rfl (heq.trans ?_)⟩
  · rw [if_neg (by simp [c, p, hr]), Chip.writeBack_served hf]
  · rw [if_pos (by simpa using hr)]

end

/-- Settles O44: a circuit packet check by check, what its kinds do where it ends, the response, and the move a response completes. -/
theorem circuitPackets : Obligations.CircuitPackets := by
  refine ⟨fun l p0 ups s => ?_, fun c p t v m fl r => c.respond_frame p t v m fl r,
    fun k kind ctr addr i f hf hk hc hlo hhi hi hd => ?_⟩
  · intro p c e x fate all up here lines read n core
    have hby : ∀ {t}, up → (∀ u, c.circuitPacket l p u = t) → all t := fun hu ht =>
      CircuitGives.of_effect fun hp u => (packetEffect_circuit hu hp).trans (ht u)
    have harr : here → ArrivesHere s l p := fun ⟨hu, hf, hp, hx⟩ => ⟨hu, hf, hp, hx⟩
    refine ⟨fun hu => CircuitGives.of_effect fun _ u => packetEffect_not_up hu, Chip.circuitFate_of_no_entry, ?orphan, ?late, ?outside,
      ?forward, ?pcrc, ?ctx, fun h ht => (harr h).gives_data ht, ?rdReq, ?wr, fun h ht => (harr h).gives_rdResp ht,
      fun h ht => (harr h).gives_wrAck ht⟩
    case orphan => exact fun hu hf => hby hu fun u => Chip.circuitPacket_orphan hf
    case late =>
      intro hu hf ht
      have hl : fate = .late := Chip.circuitFate_of_tombstone hf ht
      exact ⟨hl, hby hu fun u => Chip.circuitPacket_late hl⟩
    case outside => exact fun hu hf => hby hu fun u => Chip.circuitPacket_outside hf
    case forward => exact fun o hu hf => ⟨Chip.circRole_of_forward hf, hby hu fun u => Chip.circuitPacket_forward hf⟩
    case pcrc => exact fun hu hf hp => hby hu fun u => (Chip.circuitPacket_arrived hf).trans (Chip.arrived_wrong_pcrc hp)
    case ctx => exact fun hu hf hp hx => hby hu fun u => (Chip.circuitPacket_arrived hf).trans (Chip.arrived_wrong_ctx hp hx)
    case rdReq =>
      refine fun h ht => ⟨fun ha => (harr h).gives_rdReq ht (Chip.serveRead_allowed ha), fun ha => ?_⟩
      obtain ⟨free, hlen, hs⟩ := Chip.serveRead_refused (ups := ups) ha
      exact ⟨free, hlen, (harr h).gives_rdReq ht hs⟩
    case wr =>
      exact fun h ht => ⟨fun ha => (harr h).gives_wr ht (Chip.serveWrite_allowed ha),
        fun ha => (harr h).gives_wr ht (Chip.serveWrite_refused ha)⟩
  · subst hi
    exact Core.remoteDone_of_single hf hk hc hlo hhi hd

end Sys2Proof.Machine
end

section
/-! SUPPORT. What reporting leaves of the package: events, interrupts, the device state that follows the reasons, and final statuses
(R286, R288, R338, R394). -/
namespace Sys2Proof.Machine

/-- Package `t` is package `c` after something has been reported: the mailbox, the statuses that wait, the fault unit's record, the
package registers and what went out apart, all is as before. -/
def Chip.Tells (c t : Chip) : Prop := ∃ mbx finals held flt pkg out,
  t = { c with mbx := mbx, img := { c.img with finals := finals, held := held }, flt := flt, pkg := pkg, out := out }

variable {c d t : Chip}

theorem Chip.Tells.refl (c : Chip) : c.Tells c := ⟨_, _, _, _, _, _, rfl⟩

theorem Chip.Tells.trans (h : c.Tells d) (hd : d.Tells t) : c.Tells t := by
  obtain ⟨_, _, _, _, _, _, rfl⟩ := h
  obtain ⟨_, _, _, _, _, _, rfl⟩ := hd
  exact ⟨_, _, _, _, _, _, rfl⟩

theorem Chip.Tells.foldl {α : Type} {g : Chip → α → Chip} (hg : ∀ (d : Chip) x, d.Tells (g d x)) (xs : List α) (c : Chip) :
    c.Tells (xs.foldl g c) := by
  induction xs generalizing c with
  | nil => exact .refl c
  | cons x xs ih => exact (hg c x).trans (ih (g c x))

section
variable (h : c.Tells t)
include h

theorem Chip.Tells.mem : t.mem = c.mem := by
  obtain ⟨_, _, _, _, _, _, rfl⟩ := h
  rfl

theorem Chip.Tells.stks : t.stks = c.stks := by
  obtain ⟨_, _, _, _, _, _, rfl⟩ := h
  rfl

theorem Chip.Tells.cores : t.cores = c.cores := by
  obtain ⟨_, _, _, _, _, _, rfl⟩ := h
  rfl

theorem Chip.Tells.engines : t.engines = c.engines := by
  obtain ⟨_, _, _, _, _, _, rfl⟩ := h
  rfl

theorem Chip.Tells.ctxs : t.img.ctxs = c.img.ctxs := by
  obtain ⟨_, _, _, _, _, _, rfl⟩ := h
  rfl

theorem Chip.Tells.now : t.now = c.now := by
  obtain ⟨_, _, _, _, _, _, rfl⟩ := h
  rfl

end

theorem Chip.sendVector_tells (c : Chip) (v : Nat) : c.Tells (c.sendVector v) := by
  unfold Chip.sendVector
  split <;> exact ⟨_, _, _, _, _, _, rfl⟩

theorem Chip.vectorEvent_tells (c : Chip) (v : Nat) : c.Tells (c.vectorEvent v) := by
  unfold Chip.vectorEvent
  split
  · exact ⟨_, _, _, _, _, _, rfl⟩
  · exact c.sendVector_tells v

theorem Chip.irqCause_tells (c : Chip) (b : Nat) : c.Tells (c.irqCause b) := by
  unfold Chip.irqCause
  split
  · exact .trans ⟨_, _, _, _, _, _, rfl⟩ (Chip.vectorEvent_tells _ _)
  · exact .refl c

theorem Chip.fltErr_tells (c : Chip) (b : Nat) : c.Tells (c.fltErr b) := by
  unfold Chip.fltErr
  dsimp only
  split
  · exact ⟨_, _, _, _, _, _, rfl⟩
  · exact .trans ⟨_, _, _, _, _, _, rfl⟩ (Chip.irqCause_tells _ _)

theorem Chip.mbxErr_tells (c : Chip) (b : Nat) : c.Tells (c.mbxErr b) := by
  unfold Chip.mbxErr
  dsimp only
  split
  · exact ⟨_, _, _, _, _, _, rfl⟩
  · exact .trans ⟨_, _, _, _, _, _, rfl⟩ (Chip.irqCause_tells _ _)

theorem Chip.sendBeacon_tells (c : Chip) (b : Beacon) (copy : Nat) : c.Tells (c.sendBeacon b copy) := by
  unfold Chip.sendBeacon
  dsimp only
  split
  · exact .refl c
  · exact ⟨_, _, _, _, _, _, rfl⟩

theorem Chip.event_tells (c : Chip) (e : Event) : c.Tells (c.event e) := by
  unfold Chip.event
  dsimp only
  split
  · exact .trans ⟨_, _, _, _, _, _, rfl⟩ (Chip.fltErr_tells _ _)
  · split
    · exact .trans ⟨_, _, _, _, _, _, rfl⟩ (Chip.sendBeacon_tells _ _ _)
    · exact ⟨_, _, _, _, _, _, rfl⟩

theorem Chip.setDState_tells (c : Chip) (s : DState) : c.Tells (c.setDState s) := by
  unfold Chip.setDState
  split
  · exact .refl c
  · exact (Chip.Tells.trans ⟨_, _, _, _, _, _, rfl⟩ (Chip.event_tells _ _)).trans (Chip.irqCause_tells _ _)

theorem Chip.refresh_tells (c : Chip) : c.Tells c.refresh := by
  unfold Chip.refresh
  split
  case h_4 => exact .refl c
  all_goals exact c.setDState_tells c.serviceState

/-! Final statuses. -/

theorem Chip.ringPut_tells (c : Chip) (f : Final) : c.Tells (c.ringPut f) := by
  unfold Chip.ringPut
  dsimp only
  split
  · exact .trans ⟨_, _, _, _, _, _, rfl⟩ (Chip.vectorEvent_tells _ _)
  · exact ⟨_, _, _, _, _, _, rfl⟩

theorem Chip.ringPush_tells (c : Chip) (f : Final) : c.Tells (c.ringPush f) := by
  unfold Chip.ringPush
  split
  · exact .trans ⟨_, _, _, _, _, _, rfl⟩ (Chip.mbxErr_tells _ _)
  · exact c.ringPut_tells f

theorem Chip.slotDone_tells (c : Chip) (cmd : Cmd) (status : BitVec 16) (detail arg ctag : Word) (resp : List Byte) :
    c.Tells (c.slotDone cmd status detail arg ctag resp) := by
  unfold Chip.slotDone
  dsimp only
  split
  · exact .trans ⟨_, _, _, _, _, _, rfl⟩ (Chip.vectorEvent_tells _ _)
  · exact ⟨_, _, _, _, _, _, rfl⟩

theorem Chip.finish_tells (c : Chip) (cmd : Cmd) (ring : Bool) (status : BitVec 16) (detail arg : Word) (resp : List Byte)
    (boundary : Bool) : c.Tells (c.finish cmd ring status detail arg resp boundary) := by
  unfold Chip.finish
  dsimp only
  split
  · exact ⟨_, _, _, _, _, _, rfl⟩
  · unfold Chip.putFinal
    split
    · exact c.ringPush_tells _
    · exact Chip.slotDone_tells _ _ _ _ _ _ _

theorem Chip.finishAll_tells (c : Chip) (cmds : List Cmd) : c.Tells (c.finishAll cmds) :=
  .foldl (fun d cmd => d.finish_tells cmd true stOk 0 0 [] false) cmds c

/-- The statuses that a context owes are written, or nothing of it changes. -/
theorem Chip.payUnpaid_tells (c : Chip) (x : CtxId) :
    c.Tells (c.payUnpaid x) ∨ (c.modCtx x (fun k => { k with unpaid := [] })).Tells (c.payUnpaid x) := by
  unfold Chip.payUnpaid
  split
  · exact .inl (.refl c)
  · exact .inr (.foldl (fun d f => d.finish_tells _ _ _ _ _ _ _) _ _)

end Sys2Proof.Machine
end

section
/-! SUPPORT. The line decoder, the patrol scrub, a lost port and the clearing of band rows (R135, R142 to R146, R150, R309). -/
namespace Sys2Proof.Machine

variable {c : Chip} {l n : Nat} {consumed : Bool} {st : StackId}

/-! A stack changed. -/

theorem Chip.stack_setStack_other (h : c.Canonical) {i : StackId} (k : Stack) (hi : i ≠ st) : (c.setStack st k).stack i = c.stack i :=
  tget_tset_other h.stks (fun e => hi (Fin.ext e))

/-- What a change of a stack leaves of it, it leaves of every stack. -/
theorem Chip.stack_modStack_proj {β : Type} (p : Stack → β) {f : Stack → Stack} (hf : ∀ k, p (f k) = p k) (h : c.Canonical)
    (st i : StackId) : p ((c.modStack st f).stack i) = p (c.stack i) := by
  rw [Chip.modStack]
  by_cases hi : i = st
  · rw [hi, Chip.stack_setStack h, hf]
  · rw [Chip.stack_setStack_other h _ hi]

theorem Chip.stack_of_stks {d : Chip} (h : d.stks = c.stks) (i : StackId) : d.stack i = c.stack i := by
  rw [Chip.stack, Chip.stack, h]

theorem Chip.modStack_stks_of_stks {d : Chip} (h : d.stks = c.stks) (st : StackId) (f : Stack → Stack) :
    (d.modStack st f).stks = (c.modStack st f).stks := by
  simp only [Chip.modStack, Chip.setStack, Chip.stack, h]

theorem Chip.retired_modStack {f : Stack → Stack} (hf : ∀ k, (f k).retired = k.retired) (h : c.Canonical) (st : StackId) (l : Nat) :
    (c.modStack st f).retired l = c.retired l := by
  rw [Chip.retired, Chip.stack_modStack_proj Stack.retired hf h, Chip.retired]

/-! An uncorrectable line (R143, R144). -/

/-- What finding line `l` of package `c` uncorrectable makes of the stack that holds it. -/
def Chip.foundUe (c : Chip) (l : Nat) (k : Stack) : Stack :=
  (({ k with cntUe := satInc k.cntUe 1, err := setBit k.err 2 }).addPending (rowKey l)).logPoison c.now (BitVec.ofNat 42 (c.localOf l))

/-- The package when the uncorrectable line `l` has been written back poisoned, counted, logged and reported. -/
def Chip.markUe (c : Chip) (l : Nat) : Chip :=
  ((c.freeLine.2.reportLine l).putLine l c.freeLine.1 true).modStack (stackId (lineStack l)) (c.foundUe l)

theorem Chip.uncorrectable_tells (c : Chip) (l : Nat) (consumed : Bool) : (c.markUe l).Tells (c.uncorrectable l consumed) := by
  rw [Chip.uncorrectable]
  split
  · exact .refl _
  · exact (Chip.fltErr_tells _ _).trans (Chip.event_tells _ _)

theorem Stack.addPending_retired (k : Stack) (row : Nat) : (k.addPending row).retired = k.retired := by
  unfold Stack.addPending
  split <;> rfl

theorem Stack.addPending_scrubPos (k : Stack) (row : Nat) : (k.addPending row).scrubPos = k.scrubPos := by
  unfold Stack.addPending
  split <;> rfl

theorem Chip.foundUe_retired (l : Nat) (k : Stack) : (c.foundUe l k).retired = k.retired :=
  Stack.addPending_retired _ _

theorem Chip.foundUe_scrubPos (l : Nat) (k : Stack) : (c.foundUe l k).scrubPos = k.scrubPos :=
  Stack.addPending_scrubPos _ _

theorem Stack.corrected_scrubPos (k : Stack) (row : Nat) : (k.corrected row).scrubPos = k.scrubPos := by
  unfold Stack.corrected
  dsimp only
  split
  · exact Stack.addPending_scrubPos _ _
  · rfl

theorem Chip.uncorrectable_stks : (c.uncorrectable l consumed).stks = (c.modStack (stackId (lineStack l)) (c.foundUe l)).stks := by
  rw [(c.uncorrectable_tells l consumed).stks]
  exact Chip.modStack_stks_of_stks (by rw [Chip.putLine_stks]; rfl) _ _

theorem Chip.uncorrectable_mem : (c.uncorrectable l consumed).mem =
    ((c.freeLine.2.reportLine l).putLine l c.freeLine.1 true).mem := by
  rw [(c.uncorrectable_tells l consumed).mem, Chip.markUe, Chip.modStack_mem]

theorem Chip.uncorrectable_report : (c.uncorrectable l consumed).mem.report =
    some { time := c.now, stack := stackId (lineStack l), addr := BitVec.ofNat 42 (c.localOf l), column := lineCol l
           die := lineDie l, bank := lineDieBank l, row := lineRow l } := by
  rw [Chip.uncorrectable_mem, Chip.putLine, Chip.reportLine, Chip.freeLine]
  rfl

theorem Chip.freeLine_length (c : Chip) : c.freeLine.1.length = 64 := by
  simp [Chip.freeLine]

theorem Chip.freeLine_getD (c : Chip) {i : Nat} (hi : i < 64) : c.freeLine.1.getD i 0 = Config.freeByte (c.freeCount + i) := by
  simp [Chip.freeLine, hi]

theorem Chip.reportLine_wf (h : c.mem.wf) (l : Nat) : (c.freeLine.2.reportLine l).mem.wf := h

section
variable (h : c.Canonical)
include h

theorem Chip.rdByte_uncorrectable_in {i : Nat} (hi : i < 64) :
    rdByte (c.uncorrectable l consumed).mem.dram (64 * l + i) = Config.freeByte (c.freeCount + i) := by
  rw [Chip.uncorrectable_mem, Chip.rdByte_putLine_in (c.reportLine_wf h.mem l) c.freeLine_length hi, c.freeLine_getD hi]

theorem Chip.rdByte_uncorrectable_out {x : Nat} (hx : x < 64 * l ∨ 64 * l + 64 ≤ x) :
    rdByte (c.uncorrectable l consumed).mem.dram x = rdByte c.mem.dram x := by
  rw [Chip.uncorrectable_mem, Chip.rdByte_putLine_out (c.reportLine_wf h.mem l) c.freeLine_length hx]
  rfl

theorem Chip.retired_uncorrectable (l' : Nat) : (c.uncorrectable l consumed).retired l' = c.retired l' := by
  rw [Chip.retired, Chip.stack_of_stks Chip.uncorrectable_stks,
    Chip.stack_modStack_proj Stack.retired (Chip.foundUe_retired l) h, Chip.retired]

theorem Chip.tag_uncorrectable (l' : Nat) : (c.uncorrectable l consumed).tag l' =
    ((c.freeLine.2.reportLine l).putLine l c.freeLine.1 true).tag l' := by
  rw [Chip.tag, Chip.uncorrectable_mem, Chip.retired_uncorrectable h, Chip.tag, Chip.putLine_retired]
  rfl

theorem Chip.tag_uncorrectable_same : (c.uncorrectable l consumed).tag l = true := by
  rw [Chip.tag_uncorrectable h, Chip.tag_putLine_same (c.reportLine_wf h.mem l), Bool.true_or]

theorem Chip.tag_uncorrectable_other {l' : Nat} (hl : l' ≠ l) : (c.uncorrectable l consumed).tag l' = c.tag l' := by
  rw [Chip.tag_uncorrectable h, Chip.tag_putLine_other (c.reportLine_wf h.mem l) hl]
  rfl

end

/-! The decoder, by the number of symbols in error (R142, R143). -/

theorem Chip.decodeLine_clean : c.decodeLine l 0 consumed = c := rfl

theorem Chip.decodeLine_corrected (h1 : 1 ≤ n) (h2 : n ≤ 2) :
    c.decodeLine l n consumed = c.modStack (stackId (lineStack l)) (fun k => k.corrected (rowKey l)) := by
  rw [Chip.decodeLine, if_neg (by omega), if_pos h2]

theorem Chip.decodeLine_uncorrectable (h3 : 3 ≤ n) (h6 : n ≤ 6) : c.decodeLine l n consumed = c.uncorrectable l consumed := by
  rw [Chip.decodeLine, if_neg (by omega), if_neg (by omega), if_pos h6]

theorem Chip.decodeLine_found (h7 : 7 ≤ n) (hf : Config.freeBit c.freeCount = true) :
    c.decodeLine l n consumed = ({ c with freeCount := c.freeCount + 1 } : Chip).uncorrectable l consumed := by
  rw [Chip.decodeLine, if_neg (by omega), if_neg (by omega), if_neg (by omega)]
  exact if_pos hf

theorem Chip.decodeLine_miscorrected (h7 : 7 ≤ n) (hf : Config.freeBit c.freeCount = false) : c.decodeLine l n consumed =
    (c.freeBit.2.freeLine.2.putLine l c.freeBit.2.freeLine.1 (c.tag l)).modStack (stackId (lineStack l))
      (fun k => k.corrected (rowKey l)) := by
  rw [Chip.decodeLine, if_neg (by omega), if_neg (by omega), if_neg (by omega)]
  exact if_neg (by simp [Chip.freeBit, hf])

/-- Whatever the decoder finds, it changes one stack, and of that one no scrub position. -/
theorem Chip.decodeLine_stks (c : Chip) (l n : Nat) (consumed : Bool) : (c.decodeLine l n consumed).stks = c.stks ∨
    ∃ f : Stack → Stack, (∀ k, (f k).scrubPos = k.scrubPos)
      ∧ (c.decodeLine l n consumed).stks = (c.modStack (stackId (lineStack l)) f).stks := by
  obtain rfl | ⟨h1, h2⟩ | ⟨h3, h6⟩ | h7 : n = 0 ∨ (1 ≤ n ∧ n ≤ 2) ∨ (3 ≤ n ∧ n ≤ 6) ∨ 7 ≤ n := by omega
  · exact .inl rfl
  · exact .inr ⟨_, fun k => k.corrected_scrubPos (rowKey l), by rw [Chip.decodeLine_corrected h1 h2]⟩
  · exact .inr ⟨_, Chip.foundUe_scrubPos (c := c) l, by rw [Chip.decodeLine_uncorrectable h3 h6, Chip.uncorrectable_stks]⟩
  · cases hf : Config.freeBit c.freeCount
    · refine .inr ⟨_, fun k => k.corrected_scrubPos (rowKey l), ?_⟩
      rw [Chip.decodeLine_miscorrected h7 hf]
      exact Chip.modStack_stks_of_stks (by rw [Chip.putLine_stks]; rfl) _ _
    · refine .inr ⟨_, Chip.foundUe_scrubPos (c := { c with freeCount := c.freeCount + 1 }) l, ?_⟩
      rw [Chip.decodeLine_found h7 hf, Chip.uncorrectable_stks]
      rfl

theorem Chip.decodeLine_scrubPos (h : c.Canonical) (l n : Nat) (consumed : Bool) (i : StackId) :
    ((c.decodeLine l n consumed).stack i).scrubPos = (c.stack i).scrubPos := by
  obtain hs | ⟨f, hf, hs⟩ := c.decodeLine_stks l n consumed
  · rw [Chip.stack_of_stks hs]
  · rw [Chip.stack_of_stks hs, Chip.stack_modStack_proj Stack.scrubPos hf h]

/-! The patrol scrub and a lost port (R146, R150). -/

theorem Chip.modStack_congr {f g : Stack → Stack} (h : f (c.stack st) = g (c.stack st)) : c.modStack st f = c.modStack st g := by
  rw [Chip.modStack, h, Chip.modStack]

theorem patrolScrubEffect_idle (h : ¬ ((c.stack st).state = .up ∧ (c.stack st).scrub = true)) : patrolScrubEffect st n c = c :=
  if_neg h

/-- The scrub goes on from the position at which it stood, whatever the decoder found there. -/
theorem patrolScrubEffect_working (hc : c.Canonical) (h : (c.stack st).state = .up ∧ (c.stack st).scrub = true) :
    patrolScrubEffect st n c = (c.decodeLine (lineOf st.val 0 0 + (c.stack st).scrubPos) n false).modStack st (fun q =>
      if (c.stack st).scrubPos + 1 = 64 * colLines then { q with scrubPos := 0, cntScrub := satInc q.cntScrub 1 }
      else { q with scrubPos := (c.stack st).scrubPos + 1 }) := by
  rw [patrolScrubEffect, if_pos h]
  exact Chip.modStack_congr (by simp only [Chip.decodeLine_scrubPos hc])

theorem portTrainingLostEffect_up (h : (c.stack st).state = .up ∧ c.flt.rphase = 0) :
    portTrainingLostEffect st c = c.setStack st { c.stack st with err := setBit (c.stack st).err 0 } := if_pos h

theorem portTrainingLostEffect_training (hs : (c.stack st).state = .training) (hr : c.flt.rphase = 4) :
    portTrainingLostEffect st c = (c.setStack st { c.stack st with state := .failed, scrub := false }).quarantinePackage 1 := by
  rw [portTrainingLostEffect, if_neg (by simp [hs]), if_pos ⟨hs, hr⟩]
  rfl

theorem portTrainingLostEffect_else (hu : ¬ ((c.stack st).state = .up ∧ c.flt.rphase = 0))
    (ht : ¬ ((c.stack st).state = .training ∧ c.flt.rphase = 4)) : portTrainingLostEffect st c = c := by
  rw [portTrainingLostEffect, if_neg hu, if_neg ht]

/-! The clearing of rows (R135, R309). -/

variable {b : Fin 48}

/-- The statuses that a context owes change no memory, no core, no engine and no time. -/
theorem Chip.payUnpaid_frame (c : Chip) (x : CtxId) : (c.payUnpaid x).mem = c.mem ∧ (c.payUnpaid x).cores = c.cores
    ∧ (c.payUnpaid x).engines = c.engines ∧ (c.payUnpaid x).now = c.now := by
  obtain h | h := c.payUnpaid_tells x <;> exact ⟨h.mem, h.cores, h.engines, h.now⟩

theorem Chip.payUnpaid_ctx (h : twf Ctx.zero c.img.ctxs = true) (x : CtxId) :
    twf Ctx.zero (c.payUnpaid x).img.ctxs = true ∧ ((c.payUnpaid x).ctx x).energy = (c.ctx x).energy := by
  obtain ht | ht := c.payUnpaid_tells x
  · rw [Chip.ctx, ht.ctxs]
    exact ⟨h, rfl⟩
  · rw [Chip.ctx, ht.ctxs]
    refine ⟨twf_tset h _ _, ?_⟩
    rw [Chip.modCtx, tget_tset_same h]

/-- The package when the contents of context `x` are gone, before the teardown's statuses are written. -/
def Chip.ctxEmptied (c : Chip) (x : CtxId) : Chip :=
  let d := c.payUnpaid x
  ((d.modCtx x (fun k => { Ctx.zero with energy := k.energy, tchange := d.now })).modDig x (fun _ => DigCtx.zero)).recordRmem x

theorem Chip.ctxGone_tells (c : Chip) (x : CtxId) : (c.ctxEmptied x).Tells (c.ctxGone x) :=
  (Chip.finishAll_tells _ _).trans (Chip.refresh_tells _)

theorem Chip.ctxGone_frame (c : Chip) (x : CtxId) :
    (c.ctxGone x).mem = c.mem ∧ (c.ctxGone x).cores = c.cores ∧ (c.ctxGone x).engines = c.engines := by
  obtain ⟨hm, hc, he, -⟩ := c.payUnpaid_frame x
  have ht := c.ctxGone_tells x
  rw [ht.mem, ht.cores, ht.engines, Chip.ctxEmptied, Chip.recordRmem]
  simp only [Chip.modRte_mem, Chip.modDig_mem, Chip.modCtx_mem, Chip.modRte_cores, Chip.modDig_cores, Chip.modCtx_cores,
    Chip.modRte_engines, Chip.modDig_engines, Chip.modCtx_engines]
  exact ⟨hm, hc, he⟩

/-- What is left of a context with its last row: its energy counter. -/
theorem Chip.ctx_ctxGone (h : twf Ctx.zero c.img.ctxs = true) (x : CtxId) :
    (c.ctxGone x).ctx x = { Ctx.zero with energy := (c.ctx x).energy, tchange := c.now } := by
  obtain ⟨hw, he⟩ := Chip.payUnpaid_ctx h x
  obtain ⟨-, -, -, hn⟩ := c.payUnpaid_frame x
  rw [Chip.ctx, (c.ctxGone_tells x).ctxs, ← he, ← hn]
  exact tget_tset_same hw _ _

/-- Band row `b` is the last row of a context that is being torn down. -/
def Chip.lastRow (c : Chip) (b : Fin 48) : Prop :=
  (c.ctx (c.band b.val).owner).state = .tearingDown
    ∧ ∀ w ∈ c.mem.waiting.filter (fun w => w.val ≠ b.val), (c.band w.val).owner ≠ (c.band b.val).owner

theorem Chip.clearRow_waiting (c : Chip) (b : Fin 48) :
    (c.clearRow b.val).mem.waiting = c.mem.waiting.filter (fun w => w.val ≠ b.val) :=
  List.filter_congr fun w _ => by rw [Bool.eq_iff_iff, bne_iff_ne, decide_eq_true_iff]

theorem Chip.lastRow_iff (h : c.mem.wf) (b : Fin 48) : c.lastRow b ↔ (c.ctx (c.band b.val).owner).state = .tearingDown
    ∧ (!(c.clearRow b.val).mem.waiting.any (fun w => ((c.clearRow b.val).band w.val).owner == (c.band b.val).owner)) = true := by
  rw [Chip.lastRow, c.clearRow_waiting, Bool.not_eq_true', List.any_eq_false]
  refine and_congr_right fun _ => forall₂_congr fun w hw => ?_
  have hwb : w.val ≠ b.val := by simpa using (List.mem_filter.mp hw).2
  rw [Chip.band_clearRow_other h hwb, beq_iff_eq]

section
variable (hh : c.mem.waiting.head? = some b) (hf : c.inFlight (c.band b.val).owner = false)
include hh hf

theorem bandClearEffect_row (hw : c.mem.wf) (hl : ¬ c.lastRow b) : bandClearEffect b c = c.clearRow b.val := by
  rw [bandClearEffect, if_pos ⟨hh, hf ▸ Bool.false_ne_true⟩]
  exact if_neg (mt (Chip.lastRow_iff hw b).mpr hl)

theorem bandClearEffect_last (hw : c.mem.wf) (hl : c.lastRow b) :
    bandClearEffect b c = (c.clearRow b.val).ctxGone (c.band b.val).owner := by
  rw [bandClearEffect, if_pos ⟨hh, hf ▸ Bool.false_ne_true⟩]
  exact if_pos ((Chip.lastRow_iff hw b).mp hl)

/-- Last row of its context or not, memory is that of the row cleared, and the units stay. -/
theorem bandClearEffect_frame (hw : c.mem.wf) : (bandClearEffect b c).mem = (c.clearRow b.val).mem
    ∧ (bandClearEffect b c).cores = c.cores ∧ (bandClearEffect b c).engines = c.engines := by
  by_cases hl : c.lastRow b
  · rw [bandClearEffect_last hh hf hw hl]
    exact Chip.ctxGone_frame _ _
  · rw [bandClearEffect_row hh hf hw hl]
    exact ⟨rfl, rfl, rfl⟩

end

theorem bandClearEffect_waits (h : c.mem.waiting.head? ≠ some b ∨ c.inFlight (c.band b.val).owner = true) :
    bandClearEffect b c = c :=
  if_neg fun ⟨hh, hf⟩ => h.elim (fun hn => hn hh) hf

/-- Settles O28: the decoder by symbols in error, the patrol scrub and the lost port case by case, and the row that is cleared. -/
theorem lineDecoderAndStackWork : Obligations.LineDecoderAndStackWork := by
  refine ⟨fun c l n consumed => ?_, fun st n s => ?_, fun b s hc hw => ?_⟩
  · intro st found t
    refine ⟨fun h0 => ?_, fun h1 h2 => Chip.decodeLine_corrected h1 h2, fun h3 h6 => ?_, fun h7 hf => Chip.decodeLine_found h7 hf⟩
    · subst h0
      rfl
    · have ht : t = c.uncorrectable l consumed := Chip.decodeLine_uncorrectable h3 h6
      refine ⟨ht, ?_, ?_, fun hc => ⟨?_, fun l' hl => ?_, fun i hi => ?_, fun x hx => ?_⟩⟩ <;> rw [ht]
      · exact Chip.uncorrectable_stks
      · exact Chip.uncorrectable_report
      · exact Chip.tag_uncorrectable_same hc
      · exact Chip.tag_uncorrectable_other hc hl
      · exact Chip.rdByte_uncorrectable_in hc hi
      · exact Chip.rdByte_uncorrectable_out hc hx
  · intro k line on working
    refine ⟨fun hc hk => .of_lift rfl (patrolScrubEffect_working hc hk), fun hc hk h0 => .of_lift rfl ?_,
      fun hk => .of_lift rfl (patrolScrubEffect_idle hk), fun hs hr => .of_lift rfl (portTrainingLostEffect_up ⟨hs, hr⟩),
      fun hs hr => .of_lift rfl (portTrainingLostEffect_training hs hr), fun hu ht => .of_lift rfl (portTrainingLostEffect_else hu ht)⟩
    rw [patrolScrubEffect_working hc hk, h0, Chip.decodeLine_clean]
    rfl
  · intro x m rest clear last
    refine ⟨fun hh hf => ⟨fun hl => .of_lift rfl (bandClearEffect_row hh hf hc.mem hl), .of_lift rfl ?_, fun hl => .of_lift rfl ?_⟩,
      fun h => .of_lift rfl (bandClearEffect_waits h)⟩
    · obtain ⟨hm, hcores, hengines⟩ := bandClearEffect_frame hh hf hc.mem
      refine ⟨⟨fun a => ?_, ?_, fun i hi => ?_, ?_⟩, hcores, hengines⟩
      · rw [hm, Chip.rdByte_clearRow hc.mem]
      · rw [Chip.band, hm]
        exact Chip.band_clearRow_same hc.mem b.val
      · rw [Chip.band, hm]
        exact Chip.band_clearRow_other hc.mem hi
      · rw [hm, s.chip.clearRow_waiting]
    · rw [bandClearEffect_last hh hf hc.mem hl]
      exact Chip.ctx_ctxGone (c := s.chip.clearRow b.val) hw x

end Sys2Proof.Machine
end

section
/-! SUPPORT. The routing registers: RTE_ID, the route entries and RTE_CTL as the host writes them (R228, R235, R238, R422). -/
namespace Sys2Proof.Machine

variable {c : Chip} {a : RegAlias} {d : Word}

/-! A change that comes to links one by one. -/

theorem Chip.link_modLink_same (hw : twf Link.zero c.links = true) (l : LinkId) (f : Link → Link) :
    (c.modLink l f).link l = f (c.link l) :=
  tget_tset_same hw l.val _

theorem Chip.link_modLink_other (hw : twf Link.zero c.links = true) {l m : LinkId} (hm : m ≠ l) (f : Link → Link) :
    (c.modLink l f).link m = c.link m :=
  tget_tset_other hw (fun e => hm (Fin.ext e))

theorem Chip.link_foldl_modLink_of_not_mem (f : LinkId → Link → Link) {ls : List LinkId} {l : LinkId} (hl : l ∉ ls)
    (hw : twf Link.zero c.links = true) : (ls.foldl (fun c x => c.modLink x (f x)) c).link l = c.link l := by
  induction ls generalizing c with
  | nil => rfl
  | cons x ls ih =>
    obtain ⟨hlx, hls⟩ := List.ne_and_not_mem_of_not_mem_cons hl
    exact (ih hls (twf_tset hw _ _)).trans (Chip.link_modLink_other hw hlx _)

/-- A fold that comes to a link once changes it once. -/
theorem Chip.link_foldl_modLink (f : LinkId → Link → Link) {ls : List LinkId} (hn : ls.Nodup) {l : LinkId} (hl : l ∈ ls)
    (hw : twf Link.zero c.links = true) : (ls.foldl (fun c x => c.modLink x (f x)) c).link l = f l (c.link l) := by
  induction ls generalizing c with
  | nil => exact absurd hl List.not_mem_nil
  | cons x ls ih =>
    obtain ⟨hx, hn⟩ := List.nodup_cons.mp hn
    have hw' : twf Link.zero (c.modLink x (f x)).links = true := twf_tset hw _ _
    by_cases hlx : l = x
    · subst hlx
      exact (Chip.link_foldl_modLink_of_not_mem f hx hw').trans (Chip.link_modLink_same hw l _)
    · rw [List.foldl_cons, ih hn (List.mem_of_ne_of_mem hlx hl) hw', Chip.link_modLink_other hw hlx]

theorem allLinks_nodup : allLinks.Nodup := List.nodup_finRange 6

theorem mem_allLinks (l : LinkId) : l ∈ allLinks := List.mem_finRange l

/-! RTE_CTL (R235). -/

/-- What a write of RTE_CTL makes of a link: one whose bit is clear returns to routing (R235). -/
def Link.routedBy (w : Word) (l : LinkId) (k : Link) : Link :=
  if bit w l.val then k else { k with draining := false, drained := false }

theorem Chip.writeRteCtl_rte (c : Chip) (w : Word) : (c.writeRteCtl w).rte = { c.rte with ctl := CfgWord.of w } :=
  Chip.foldl_proj (·.rte) (fun c l => c.modLink l (Link.routedBy w l)) (fun _ _ => rfl) allLinks _

theorem Chip.link_writeRteCtl (hw : twf Link.zero c.links = true) (w : Word) (l : LinkId) :
    (c.writeRteCtl w).link l = (c.link l).routedBy w l :=
  Chip.link_foldl_modLink (Link.routedBy w) allLinks_nodup (mem_allLinks l) hw

/-! RTE_ID (R238). -/

theorem Chip.aliasWrite_rteId (hu : c.hostUp = true) :
    c.aliasWrite a 0x2F00000 d = c.hostRteId a d (aliasOffset a 0x2F00000) :=
  Chip.aliasWrite_rw (o := 0x2F00000) hu (by decide) rfl rfl rfl

theorem Chip.hostRteId_bringup (hb : c.mbx.dstate = .bringup) (hv : (c.rte.id.put a 0x00FF0F03 d).2 = false) (off : Nat) :
    c.hostRteId a d off = c.writeRteId (c.rte.id.put a 0x00FF0F03 d).1 := by
  simp only [Chip.hostRteId, hb, hv, beq_self_eq_true, Bool.true_or, if_true]
  rfl

theorem Chip.hostRteId_refused (hb : c.mbx.dstate ≠ .bringup) (hh : c.rte.id.held = false)
    (hv : (c.rte.id.put a 0x00FF0F03 d).2 = false) (off : Nat) : c.hostRteId a d off = c.refuse off [cState] := by
  simp only [Chip.hostRteId, CfgWord.endsHold, beq_eq_false_iff_ne.mpr hb, hh, hv, Bool.false_and, Bool.or_false,
    Bool.false_eq_true, if_false]
  rfl

/-! The route entries (R228). -/

/-- Words 0x100 to 0x1C0 of the routing block are the 49 route entries, all of them RW. -/
theorem rteKind_route (p : Fin 49) : RegBlock.rte.kind (0x100 + 4 * p.val) = .rw := by
  revert p
  decide

theorem regAt_route (p : Fin 49) : regAt (0x2F00100 + 4 * p.val) = some (.rte, 0x100 + 4 * p.val) := by
  revert p
  decide

theorem Chip.aliasWrite_route (hu : c.hostUp = true) (p : Fin 49) :
    c.aliasWrite a (0x2F00100 + 4 * p.val) d = c.hostRoute p.val a d (aliasOffset a (0x2F00100 + 4 * p.val)) := by
  have hp : (0x100 + 4 * p.val - 0x100) / 4 = p.val := by omega
  rw [Chip.aliasWrite_rw hu (by omega) (regAt_route p) rfl (rteKind_route p), Chip.writeRw, if_neg (by omega), if_neg (by omega), hp]

theorem Chip.hostRoute_of_rv_kept {i : Nat} (hv : (rwWord a 0xFFF80000 (c.rte.entry i) d).2 = false) (off : Nat) :
    c.hostRoute i a d off = c.writeRoute i (rwWord a 0xFFF80000 (c.rte.entry i) d).1 := by
  simp only [Chip.hostRoute, hv]
  rfl

/-- Outside BRINGUP a route entry takes a value where the links of the old and of the new one are drained and the new one is
well formed (R228). -/
def Chip.routeOpen (c : Chip) (i : Nat) (w : Word) : Bool :=
  (routeLinks (c.rte.entry i) ++ routeLinks w).all (fun l => (c.link l).isDrained) && c.fuse.routeOk (i == 48) w

theorem Chip.writeRoute_takes {i : Nat} {w : Word} (h : c.mbx.dstate = .bringup ∨ c.routeOpen i w = true) :
    c.writeRoute i w = { c with rte := { c.rte with route := tset routeReset c.rte.route i (w &&& 0xFFF80000) } } :=
  if_pos (Bool.or_eq_true_iff.mpr (h.imp_left beq_iff_eq.mpr))

theorem Chip.writeRoute_refused {i : Nat} {w : Word} (hb : c.mbx.dstate ≠ .bringup) (h : c.routeOpen i w = false) :
    c.writeRoute i w = { c with rte := { c.rte with err := setBit c.rte.err 10 } } :=
  if_neg (Bool.eq_false_iff.mp (Bool.or_eq_false_iff.mpr ⟨beq_eq_false_iff_ne.mpr hb, h⟩))

/-! The rows that write these registers, where the access reaches the device. -/

theorem HostGives.of_eq {i : Instr} {s : State} {t t' : Chip} (h : HostGives i s t) (ht : t = t') :
    HostGives i s t' :=
  ht ▸ h

theorem hostGives_rteIdWrite (a : RegAlias) (d : Word) (s : State) :
    HostGives (.rteIdWrite a d) s (s.chip.hostRteId a d (aliasOffset a 0x2F00000)) := fun hu =>
  .of_lift (f := fun c => c.aliasWrite a 0x2F00000 d) rfl (Chip.aliasWrite_rteId hu)

theorem hostGives_rteRouteWrite (p : Fin 49) {a : RegAlias} {d : Word} {s : State}
    (hv : (rwWord a 0xFFF80000 (s.chip.rte.entry p.val) d).2 = false) :
    HostGives (.rteRouteWrite p a d) s (s.chip.writeRoute p.val (rwWord a 0xFFF80000 (s.chip.rte.entry p.val) d).1) := fun hu =>
  .of_lift (f := fun c => c.aliasWrite a (0x2F00100 + 4 * p.val) d) rfl
    ((Chip.aliasWrite_route hu p).trans (Chip.hostRoute_of_rv_kept hv _))

theorem hostGives_rteDrainSet (m : BitVec 6) (s : State) :
    HostGives (.rteDrainSet m) s (s.chip.writeRteCtl (s.chip.rte.ctl.stored ||| m.setWidth 32)) := fun hu =>
  .of_lift (f := fun c => c.host (fun c => c.writeRteCtl (c.rte.ctl.stored ||| m.setWidth 32))) rfl (Chip.host_of_hostUp hu _)

theorem hostGives_rteDrainClear (m : BitVec 6) (s : State) :
    HostGives (.rteDrainClear m) s (s.chip.writeRteCtl (s.chip.rte.ctl.stored &&& ~~~ m.setWidth 32)) := fun hu =>
  .of_lift (f := fun c => c.host (fun c => c.writeRteCtl (c.rte.ctl.stored &&& ~~~ m.setWidth 32))) rfl (Chip.host_of_hostUp hu _)

/-- Settles O35: RTE_ID and a route entry where they take a value and where they do not, and the two drain rows. -/
theorem routingRegisterWrites : Obligations.RoutingRegisterWrites := by
  intro a d p m s hc c id old w ok drains
  have hdrains : ∀ v : Word, drains (c.writeRteCtl v) v := fun v => ⟨c.writeRteCtl_rte v, Chip.link_writeRteCtl hc.links v⟩
  refine ⟨fun hb hv => ?_, fun hb hh hv => ?_, fun hv h => ?_, fun hv hb h => ?_, fun hu => ?_, fun hu => ?_⟩
  · exact (hostGives_rteIdWrite a d s).of_eq (Chip.hostRteId_bringup hb hv _)
  · exact (hostGives_rteIdWrite a d s).of_eq (Chip.hostRteId_refused hb hh hv _)
  · exact (hostGives_rteRouteWrite p hv).of_eq (Chip.writeRoute_takes h)
  · exact (hostGives_rteRouteWrite p hv).of_eq (Chip.writeRoute_refused hb h)
  · exact ⟨_, hostGives_rteDrainSet m s hu, hdrains _⟩
  · exact ⟨_, hostGives_rteDrainClear m s hu, hdrains _⟩

end Sys2Proof.Machine
end

section
/-! SUPPORT. What reporting leaves of the mailbox and of the statuses that wait (R286, R338, R394), and a memory read back in bytes. -/
namespace Sys2Proof.Machine

variable {c : Chip}

/-- A branch on the same condition in other words. -/
theorem ite_congr_iff {α : Sort _} {p q : Prop} [Decidable p] [Decidable q] (h : p ↔ q) {a b : α} :
    (if p then a else b) = if q then a else b :=
  ite_congr (propext h) (fun _ => rfl) (fun _ => rfl)

/-! The mailbox. -/

@[simp] theorem Chip.sendVector_mbx (c : Chip) (v : Nat) : (c.sendVector v).mbx = c.mbx := by
  unfold Chip.sendVector
  split <;> rfl

@[simp] theorem Chip.vectorEvent_mbx (c : Chip) (v : Nat) : (c.vectorEvent v).mbx = c.mbx := by
  unfold Chip.vectorEvent
  split
  · rfl
  · exact c.sendVector_mbx v

@[simp] theorem Chip.irqCause_mbx (c : Chip) (b : Nat) : (c.irqCause b).mbx = c.mbx := by
  unfold Chip.irqCause
  split
  · exact Chip.vectorEvent_mbx _ _
  · rfl

@[simp] theorem Chip.fltErr_mbx (c : Chip) (b : Nat) : (c.fltErr b).mbx = c.mbx := by
  unfold Chip.fltErr
  dsimp only
  split
  · rfl
  · exact Chip.irqCause_mbx _ _

@[simp] theorem Chip.sendBeacon_mbx (c : Chip) (b : Beacon) (copy : Nat) : (c.sendBeacon b copy).mbx = c.mbx := by
  unfold Chip.sendBeacon
  dsimp only
  split <;> rfl

@[simp] theorem Chip.event_mbx (c : Chip) (e : Event) : (c.event e).mbx = c.mbx := by
  unfold Chip.event
  dsimp only
  split
  · exact Chip.fltErr_mbx _ _
  · split
    · exact Chip.sendBeacon_mbx _ _ _
    · rfl

@[simp] theorem Chip.mbxErr_mbx (c : Chip) (b : Nat) : (c.mbxErr b).mbx = { c.mbx with err := setBit c.mbx.err b } := by
  unfold Chip.mbxErr
  dsimp only
  split
  · rfl
  · exact Chip.irqCause_mbx _ _

@[simp] theorem Chip.setDState_mbx (c : Chip) (d : DState) : (c.setDState d).mbx = { c.mbx with dstate := d } := by
  unfold Chip.setDState
  split
  case isTrue h => rw [← h]
  case isFalse => exact (Chip.irqCause_mbx _ _).trans (Chip.event_mbx _ _)

/-- The device state apart, the mailbox stays when the device state follows the reasons. -/
theorem Chip.refresh_mbx (c : Chip) : ∃ d : DState, c.refresh.mbx = { c.mbx with dstate := d } := by
  unfold Chip.refresh
  split
  case h_4 => exact ⟨_, rfl⟩
  all_goals exact ⟨_, Chip.setDState_mbx _ _⟩

/-! The image. -/

@[simp] theorem Chip.mbxErr_img (c : Chip) (b : Nat) : (c.mbxErr b).img = c.img := by
  unfold Chip.mbxErr
  dsimp only
  split
  · rfl
  · exact Chip.irqCause_img _ _

theorem Chip.ringPut_img (c : Chip) (f : Final) : (c.ringPut f).img = c.img := by
  unfold Chip.ringPut
  dsimp only
  split
  · exact Chip.vectorEvent_img _ _
  · rfl

theorem Chip.slotDone_img (c : Chip) (cmd : Cmd) (status : BitVec 16) (detail arg ctag : Word) (resp : List Byte) :
    (c.slotDone cmd status detail arg ctag resp).img = c.img := by
  unfold Chip.slotDone
  dsimp only
  split
  · exact Chip.vectorEvent_img _ _
  · rfl

/-- Writing one final status drops none that waits. -/
theorem Chip.putFinal_finals (c : Chip) (f : Final) : (c.putFinal f).img.finals = c.img.finals := by
  unfold Chip.putFinal Chip.ringPush
  split
  · split
    · rw [Chip.mbxErr_img]
    · rw [Chip.ringPut_img]
  · rw [Chip.slotDone_img]

/-! Bytes read back from a memory. -/

theorem memWf_wrByte {m : Mem} (h : memWf m = true) (a : Nat) (b : Byte) : memWf (wrByte m a b) = true := memWf_wrBytes h a [b]

theorem rdByte_wrByte {m : Mem} (h : memWf m = true) (a x : Nat) (b : Byte) :
    rdByte (wrByte m a b) x = if x = a then b else rdByte m x := by
  split
  case isTrue hx =>
    rw [hx]
    exact tget_tset_same h a b
  case isFalse hx => exact tget_tset_other h hx

@[simp] theorem rdBytes_length (m : Mem) (a n : Nat) : (rdBytes m a n).length = n := by
  induction n generalizing a with
  | zero => rfl
  | succ n ih => rw [rdBytes, List.length_cons, ih]

theorem rdBytes_congr {m m' : Mem} {a n : Nat} (h : ∀ x, a ≤ x → x < a + n → rdByte m x = rdByte m' x) :
    rdBytes m a n = rdBytes m' a n := by
  induction n generalizing a with
  | zero => rfl
  | succ n ih => rw [rdBytes, rdBytes, h a (Nat.le_refl a) (by omega), ih (fun x hx hn => h x (by omega) (by omega))]

/-- Bytes outside those written read as before. -/
theorem rdBytes_wrBytes_out {m : Mem} (h : memWf m = true) {a x n : Nat} (bs : List Byte) (hx : x + n ≤ a ∨ a + bs.length ≤ x) :
    rdBytes (wrBytes m a bs) x n = rdBytes m x n :=
  rdBytes_congr fun y _ _ => rdByte_wrBytes_out h bs (by omega)

/-- Bytes written read back. -/
theorem rdBytes_wrBytes_same {m : Mem} (h : memWf m = true) (a : Nat) (bs : List Byte) : rdBytes (wrBytes m a bs) a bs.length = bs := by
  induction bs generalizing m a with
  | nil => rfl
  | cons b bs ih =>
    rw [wrBytes, List.length_cons, rdBytes, ih (memWf_wrByte h a b), rdByte_wrBytes_out (memWf_wrByte h a b) bs (by omega),
      rdByte_wrByte h, if_pos rfl]

theorem rdBytes_eq_map (m : Mem) (a n : Nat) : rdBytes m a n = (List.range n).map (fun i => rdByte m (a + i)) := by
  induction n generalizing a with
  | zero => rfl
  | succ n ih =>
    rw [rdBytes, ih, List.range_succ_eq_map, List.map_cons, List.map_map, Nat.add_zero]
    congr 1
    exact List.map_congr_left fun i _ => by rw [Function.comp_apply, Nat.add_assoc, Nat.add_comm 1 i]

/-- A part of what was written reads back. -/
theorem rdBytes_wrBytes_slice {m : Mem} (h : memWf m = true) {a i n : Nat} {bs : List Byte} (hi : i + n ≤ bs.length) :
    rdBytes (wrBytes m a bs) (a + i) n = slice bs i n := by
  rw [rdBytes_eq_map, slice]
  refine List.map_congr_left fun k hk => ?_
  have hk' : k < n := List.mem_range.mp hk
  rw [Nat.add_assoc, rdByte_wrBytes_in h bs (by omega), byteAt]

@[simp] theorem leBytes_length (n v : Nat) : (leBytes n v).length = n := by
  induction n generalizing v with
  | zero => rfl
  | succ n ih => rw [leBytes, List.length_cons, ih]

end Sys2Proof.Machine
end

section
/-! SUPPORT. A step takes the command at the front (log 1). -/
namespace Sys2Proof.Machine

/-- Settles O1: the front command is matched and the rest of the queue is the queue that exec finds. -/
theorem stepRunsFrontCommand : Obligations.StepRunsFrontCommand := fun _ _ => rfl

end Sys2Proof.Machine
end

section
/-! SUPPORT. A slot that becomes DONE (R281, R292, Tables 10-4, 10-10), and the queries (R270, R282, R291, Table 10-5). -/
namespace Sys2Proof.Machine

variable {c : Chip} {n : SlotId} {v : Bool} {o : Op} {cmd : Cmd} {r : Req}

/-! What a slot that becomes DONE holds. -/

/-- BAR2's memory once a UCI-1 slot is DONE: STATUS, RESULT, the response, and STATE last. -/
def Cmd.uci1Store (cmd : Cmd) (m : Mem) (status : BitVec 16) (detail arg : Word) (resp : List Byte) : Mem :=
  let b := slotBase cmd.slot
  let q := uci1Status status detail.toNat arg.toNat
  wrBytes (wrBytes (wrBytes (wrBytes m (b + 6) (leBytes 2 q.1)) (b + 12) (leBytes 4 q.2)) (b + 16) (resp.take 4080)) b [3]

/-- STATUS, RLEN, DETAIL, CTAG and TIME of a UCI-2 slot (Table 10-4). -/
def uci2Header (status : BitVec 16) (len : Nat) (detail ctag : Word) (now : Dword) : List Byte :=
  leBytes 2 status.toNat ++ leBytes 2 len ++ leBytes 4 detail.toNat ++ leBytes 4 ctag.toNat ++ leBytes 8 now.toNat

/-- BAR2's memory once a UCI-2 slot is DONE: its header from byte 12, the response, and STATE last. -/
def Cmd.uci2Store (cmd : Cmd) (m : Mem) (status : BitVec 16) (detail ctag : Word) (resp : List Byte) (now : Dword) : Mem :=
  let b := slotBase cmd.slot
  wrBytes (wrBytes (wrBytes m (b + 12) (uci2Header status (resp.take 4064).length detail ctag now)) (b + 32) (resp.take 4064)) b [3]

theorem Chip.slotDone_store_uci1 (hv : cmd.ver1 = true) (status : BitVec 16) (detail arg ctag : Word) (resp : List Byte) :
    (c.slotDone cmd status detail arg ctag resp).mbx.store = cmd.uci1Store c.mbx.store status detail arg resp := by
  simp only [Chip.slotDone, hv, if_true]
  split
  · rw [Chip.vectorEvent_mbx]
    rfl
  · rfl

theorem Chip.slotDone_store_uci2 (hv : cmd.ver1 = false) (status : BitVec 16) (detail arg ctag : Word) (resp : List Byte) :
    (c.slotDone cmd status detail arg ctag resp).mbx.store = cmd.uci2Store c.mbx.store status detail ctag resp c.now := by
  simp only [Chip.slotDone, hv, Bool.false_eq_true, if_false]
  split
  · rw [Chip.vectorEvent_mbx]
    rfl
  · rfl

section
variable {m : Mem} (hm : memWf m = true) (cmd : Cmd) (status : BitVec 16) (detail arg ctag : Word) (resp : List Byte) (now : Dword)
include hm

theorem Cmd.uci1Store_state : rdBytes (cmd.uci1Store m status detail arg resp) (slotBase cmd.slot) 1 = [3] :=
  rdBytes_wrBytes_same (memWf_wrBytes (memWf_wrBytes (memWf_wrBytes hm _ _) _ _) _ _) _ [3]

theorem Cmd.uci2Store_state : rdBytes (cmd.uci2Store m status detail ctag resp now) (slotBase cmd.slot) 1 = [3] :=
  rdBytes_wrBytes_same (memWf_wrBytes (memWf_wrBytes hm _ _) _ _) _ [3]

theorem Cmd.uci1Store_outside {x : Nat} (hx : x < slotBase cmd.slot ∨ slotBase cmd.slot + 4096 ≤ x) :
    rdByte (cmd.uci1Store m status detail arg resp) x = rdByte m x := by
  have h6 := memWf_wrBytes hm (slotBase cmd.slot + 6) (leBytes 2 (uci1Status status detail.toNat arg.toNat).1)
  have h12 := memWf_wrBytes h6 (slotBase cmd.slot + 12) (leBytes 4 (uci1Status status detail.toNat arg.toNat).2)
  have hlen : (resp.take 4080).length ≤ 4080 := List.length_take_le 4080 resp
  rw [Cmd.uci1Store, rdByte_wrBytes_out (memWf_wrBytes h12 _ _) [3] (by rw [List.length_singleton]; omega),
    rdByte_wrBytes_out h12 _ (by omega), rdByte_wrBytes_out h6 _ (by rw [leBytes_length]; omega),
    rdByte_wrBytes_out hm _ (by rw [leBytes_length]; omega)]

theorem Cmd.uci2Store_outside {x : Nat} (hx : x < slotBase cmd.slot ∨ slotBase cmd.slot + 4096 ≤ x) :
    rdByte (cmd.uci2Store m status detail ctag resp now) x = rdByte m x := by
  have h12 := memWf_wrBytes hm (slotBase cmd.slot + 12) (uci2Header status (resp.take 4064).length detail ctag now)
  have hlen : (resp.take 4064).length ≤ 4064 := List.length_take_le 4064 resp
  rw [Cmd.uci2Store, rdByte_wrBytes_out (memWf_wrBytes h12 _ _) [3] (by rw [List.length_singleton]; omega),
    rdByte_wrBytes_out h12 _ (by omega), rdByte_wrBytes_out hm _ (by show _ ∨ _ + 20 ≤ _; omega)]

/-- The bytes of the header of a UCI-2 slot. -/
theorem Cmd.uci2Store_header {i k : Nat} (hi : i + k ≤ 20) :
    rdBytes (cmd.uci2Store m status detail ctag resp now) (slotBase cmd.slot + 12 + i) k
      = slice (uci2Header status (resp.take 4064).length detail ctag now) i k := by
  have h12 := memWf_wrBytes hm (slotBase cmd.slot + 12) (uci2Header status (resp.take 4064).length detail ctag now)
  rw [Cmd.uci2Store, rdBytes_wrBytes_out (memWf_wrBytes h12 _ _) [3] (by rw [List.length_singleton]; omega),
    rdBytes_wrBytes_out h12 _ (by omega), rdBytes_wrBytes_slice hm hi]

/-- The response of a UCI-2 slot. -/
theorem Cmd.uci2Store_response :
    rdBytes (cmd.uci2Store m status detail ctag resp now) (slotBase cmd.slot + 32) (resp.take 4064).length = resp.take 4064 := by
  have h12 := memWf_wrBytes hm (slotBase cmd.slot + 12) (uci2Header status (resp.take 4064).length detail ctag now)
  rw [Cmd.uci2Store, rdBytes_wrBytes_out (memWf_wrBytes h12 _ _) [3] (by rw [List.length_singleton]; omega),
    rdBytes_wrBytes_same h12]

end

/-! A slot that becomes DONE, as the host reads it. -/

section
variable (hm : memWf c.mbx.store = true) (status : BitVec 16) (detail arg ctag : Word) (resp : List Byte)
include hm

theorem Chip.slotDone_state (cmd : Cmd) :
    rdBytes (c.slotDone cmd status detail arg ctag resp).mbx.store (slotBase cmd.slot) 1 = [3] := by
  cases hv : cmd.ver1 with
  | true => rw [Chip.slotDone_store_uci1 hv, Cmd.uci1Store_state hm]
  | false => rw [Chip.slotDone_store_uci2 hv, Cmd.uci2Store_state hm]

theorem Chip.slotDone_outside (cmd : Cmd) {x : Nat} (hx : x < slotBase cmd.slot ∨ slotBase cmd.slot + 4096 ≤ x) :
    rdByte (c.slotDone cmd status detail arg ctag resp).mbx.store x = rdByte c.mbx.store x := by
  cases hv : cmd.ver1 with
  | true => rw [Chip.slotDone_store_uci1 hv, Cmd.uci1Store_outside hm _ _ _ _ _ hx]
  | false => rw [Chip.slotDone_store_uci2 hv, Cmd.uci2Store_outside hm _ _ _ _ _ _ hx]

/-- The fields of a UCI-2 slot that is DONE, and its response where that fits. -/
theorem Chip.slotDone_uci2_fields (hv : cmd.ver1 = false) (hr : resp.length ≤ 4064) :
    let at_ := fun (o n : Nat) => rdBytes (c.slotDone cmd status detail arg ctag resp).mbx.store (slotBase cmd.slot + o) n
    at_ 12 2 = leBytes 2 status.toNat ∧ at_ 14 2 = leBytes 2 resp.length ∧ at_ 16 4 = leBytes 4 detail.toNat
      ∧ at_ 20 4 = leBytes 4 ctag.toNat ∧ at_ 32 resp.length = resp := by
  intro at_
  have htake : resp.take 4064 = resp := List.take_of_length_le hr
  have hheader : ∀ i k, i + k ≤ 20 → at_ (12 + i) k = slice (uci2Header status resp.length detail ctag c.now) i k := fun i k hi => by
    simp only [at_]
    rw [Chip.slotDone_store_uci2 hv, ← Nat.add_assoc, Cmd.uci2Store_header hm _ _ _ _ _ _ hi, htake]
  refine ⟨hheader 0 2 (by omega), hheader 2 2 (by omega), hheader 4 4 (by omega), hheader 8 4 (by omega), ?_⟩
  have h := Cmd.uci2Store_response hm cmd status detail ctag resp c.now
  rwa [htake, ← Chip.slotDone_store_uci2 (arg := arg) hv] at h

end

/-! Taking the command of a slot. -/

@[simp] theorem Mbx.slotCmd_slot (m : Mbx) (s : SlotId) (ctag : Word) : (m.slotCmd s ctag).slot = s := by
  unfold Mbx.slotCmd
  split <;> rfl

@[simp] theorem Mbx.slotCmd_ver1 (m : Mbx) (s : SlotId) (ctag : Word) : (m.slotCmd s ctag).ver1 = m.isUci1 s := by
  unfold Mbx.slotCmd
  split
  case isTrue h => exact h.symm
  case isFalse h => exact (Bool.eq_false_iff.mpr h).symm

/-- The command that is served is the one taken. -/
theorem Served.takeSlot (h : Served c n v o) : c.takeSlot n v o = (c.markTaken n o.pages).serve o (c.slotRequest n) := by
  have hver : (c.slotRequest n).cmd.ver1 = v := (c.mbx.slotCmd_ver1 n c.img.nextCtag).trans h.speaks
  rw [Chip.takeSlot, if_pos (by rw [h.takes, h.next, beq_self_eq_true]; rfl)]
  dsimp only
  rw [h.asks]
  exact if_pos ⟨rfl, hver⟩

/-- What is served is not shed. -/
theorem Served.markTaken_shedFrames (h : Served c n v o) :
    (c.markTaken n o.pages).mbx.shedFrames ((c.slotRequest n).cmd.slot.val / 8) o.isS = none := by
  rw [show (c.slotRequest n).cmd.slot = n from c.mbx.slotCmd_slot n c.img.nextCtag]
  exact h.calm

/-! Queries. -/

theorem Chip.serve_query (hq : o.isS = false) (hs : c.mbx.shedFrames (r.cmd.slot.val / 8) o.isS = none) : c.serve o r = c.answer o r := by
  rw [hq] at hs
  simp only [Chip.serve, hq, hs, Option.isSome_none, Bool.false_eq_true, if_false]

theorem Chip.answer_of_checkHeader {q : BitVec 16 × Nat} (h : c.checkHeader o r = some q) :
    c.answer o r = c.slotDone r.cmd q.1 (BitVec.ofNat 32 q.2) 0 0 [] := by
  simp only [Chip.answer, h]

theorem Chip.answer_of_refusal {q : BitVec 16 × Nat} (h : c.checkHeader o r = none) (ha : (c.query o r).refusal = some q) :
    c.answer o r = { c with pkg := { c.pkg with reportBox := (c.query o r).report } }.slotDone r.cmd q.1 (BitVec.ofNat 32 q.2) 0 0 [] := by
  simp only [Chip.answer, h, ha]
  rfl

theorem Chip.answer_of_resp (h : c.checkHeader o r = none) (ha : (c.query o r).refusal = none) :
    c.answer o r = { c with pkg := { c.pkg with reportBox := (c.query o r).report } }.slotDone r.cmd stOk 0 0 0 (c.query o r).resp := by
  simp only [Chip.answer, h, ha]
  rfl

/-- A query that is served is answered with its slot TAKEN. -/
theorem Served.gives_answer {i : Instr} {s : State} (h : Served s.chip n v o)
    (hi : exec i s = s.lift (fun c => c.takeSlot n v o)) (hq : o.isS = false) {t : Chip}
    (ht : (s.chip.markTaken n o.pages).answer o (s.chip.slotRequest n) = t) : Gives i s t :=
  .of_lift hi (by rw [h.takeSlot, Chip.serve_query hq h.markTaken_shedFrames, ht])

/-- Settles O47: each query by the three ends of its answer, then the bytes of a slot that is DONE. -/
theorem queriesAnswerAtOnce : Obligations.QueriesAnswerAtOnce := by
  refine ⟨fun n s => ?_, fun c cmd status detail arg ctag resp hm => ?_⟩
  · intro c r answers
    have key : ∀ (i : Instr) (v : Bool) (o : Op), exec i s = s.lift (fun c => c.takeSlot n v o) → o.isS = false → answers i v o :=
      fun i v o hi hq h => ⟨fun q hh => h.gives_answer hi hq (Chip.answer_of_checkHeader hh),
        fun q hh ha => h.gives_answer hi hq (Chip.answer_of_refusal hh ha),
        fun hh ha => h.gives_answer hi hq (Chip.answer_of_resp hh ha)⟩
    exact ⟨key _ _ _ rfl rfl, key _ _ _ rfl rfl, key _ _ _ rfl rfl, key _ _ _ rfl rfl, key _ _ _ rfl rfl, key _ _ _ rfl rfl,
      key _ _ _ rfl rfl, key _ _ _ rfl rfl, key _ _ _ rfl rfl, key _ _ _ rfl rfl, key _ _ _ rfl rfl, key _ _ _ rfl rfl,
      key _ _ _ rfl rfl⟩
  · exact ⟨Chip.slotDone_state hm status detail arg ctag resp cmd,
      fun hv hr => Chip.slotDone_uci2_fields hm status detail arg ctag resp hv hr,
      fun x hx => Chip.slotDone_outside hm status detail arg ctag resp cmd hx⟩

end Sys2Proof.Machine
end

section
/-! SUPPORT. The S commands: what is taken, what waits as an intent, and what is carried out (R269, R270, R285, R294). -/
namespace Sys2Proof.Machine

variable {c : Chip} {n : SlotId} {v : Bool} {o : Op} {r : Req} {i : Intent} {q : BitVec 16 × Nat}

/-! The command and the request of a slot. -/

theorem unle_lt (l : List Byte) : unle l < 256 ^ l.length := by
  induction l with
  | nil => exact Nat.one_pos
  | cons b l ih =>
    have hb : b.toNat < 256 := b.isLt
    rw [unle, List.length_cons, Nat.pow_succ]
    omega

/-- The opcode of a slot is at most two bytes long, and its command keeps it whole. -/
theorem Mbx.slotNum_toNat (m : Mbx) (s : SlotId) (a : Nat) {k : Nat} (hk : k ≤ 2) :
    (BitVec.ofNat 16 (m.slotNum s a k)).toNat = m.slotNum s a k := by
  have h : m.slotNum s a k < 256 ^ k := by
    have := unle_lt (rdBytes m.store (slotBase s + a) k)
    rwa [rdBytes_length] at this
  exact Nat.mod_eq_of_lt (Nat.lt_of_lt_of_le h (Nat.pow_le_pow_right (by decide) hk))

/-- The command of a slot is of the operation that the slot asks for. -/
theorem Mbx.slotCmd_op {m : Mbx} (h : m.slotOp n = some o) (ctag : Word) : (m.slotCmd n ctag).op = some o := by
  unfold Mbx.slotOp at h
  split at h
  case isTrue h1 =>
    have hu : m.isUci1 n = true := beq_iff_eq.mpr h1
    simp only [Mbx.slotCmd, hu, if_true, Cmd.op, m.slotNum_toNat n 2 (show 1 ≤ 2 by decide), h]
  case isFalse h1 =>
    split at h
    case isTrue h2 =>
      have hu : m.isUci1 n = false := beq_eq_false_iff_ne.mpr h1
      simp only [Mbx.slotCmd, hu, Bool.false_eq_true, if_false, Cmd.op, m.slotNum_toNat n 2 (Nat.le_refl 2), h]
    case isFalse => exact absurd h (by simp)

/-- A slot whose LEN is in range holds a payload of that length. -/
theorem Chip.slotRequest_payload_length (h : (c.slotRequest n).len ≤ maxPayload (c.slotRequest n).cmd.ver1) :
    (c.slotRequest n).payload.length = (c.slotRequest n).len := by
  rw [show (c.slotRequest n).cmd.ver1 = c.mbx.isUci1 n from c.mbx.slotCmd_ver1 n c.img.nextCtag] at h
  exact (rdBytes_length _ _ _).trans (Nat.min_eq_left h)

theorem Chip.checkHeader_len (h : c.checkHeader o r = none) : r.len ≤ maxPayload r.cmd.ver1 := by
  refine Nat.not_lt.mp fun hlen => ?_
  rw [Chip.checkHeader, if_pos (.inl hlen)] at h
  exact Option.some_ne_none _ h

theorem Chip.checkS_checkHeader (h : c.checkS o r = none) : c.checkHeader o r = none := by
  unfold Chip.checkS at h
  split at h
  case h_1 => exact absurd h (by simp)
  case h_2 hh => exact hh

/-! Carrying a command out. -/

/-- Where no standby keeps a copy a final status goes to its slot at once (R270). -/
theorem Chip.finish_slot_of_not_synced (hs : c.mbx.synced = false) (cmd : Cmd) (status : BitVec 16) (detail arg : Word)
    (resp : List Byte) : c.finish cmd false status detail arg resp = c.slotDone cmd status detail arg 0 resp := by
  simp only [Chip.finish, hs, Bool.or_false, Bool.false_eq_true, if_false, Chip.putFinal, Bool.false_and]

theorem Chip.carryOut_of_refusal (h : i.refusal = some q) (hs : c.mbx.synced = false) :
    c.carryOut i = c.slotDone i.cmd q.1 (BitVec.ofNat 32 q.2) 0 0 [] := by
  simp only [Chip.carryOut, h]
  exact c.finish_slot_of_not_synced hs _ _ _ _ _

/-- An intent without a refusal is accepted where the table says so, and put into effect as the request that it was made from. -/
theorem Chip.carryOut_of_request (h : i.refusal = none) (ho : i.cmd.op = some o) (hc : i.cmd = r.cmd) (hp : i.payload = r.payload)
    (hl : r.payload.length = r.len) :
    c.carryOut i = (if o.accepts && !c.heldAlready o r then c.accept r.cmd else c).doOp o r := by
  obtain ⟨cmd, len, payload⟩ := r
  obtain rfl : i.cmd = cmd := hc
  obtain rfl : i.payload = payload := hp
  obtain rfl : i.payload.length = len := hl
  simp only [Chip.carryOut, h, ho]

/-! Taking an S command. -/

/-- The intent of a request (R269). -/
def Chip.intentFor (c : Chip) (o : Op) (r : Req) : Intent :=
  { cmd := r.cmd, payload := r.payload, digest := shake24 r.payload, writes := if (c.checkS o r).isSome then [] else o.writes
    refusal := c.checkS o r, frame := c.frm.frame }

/-- The package when an S command has been checked: its tag is used, and a refused creation has drawn its RETRY_AFTER. -/
def Chip.drewFor (c : Chip) (o : Op) (r : Req) : Chip :=
  { c with freeCount := c.freeCount + b2n (o == Op.ctxCreate && (c.checkS o r).any (fun (q : BitVec 16 × Nat) => q.1 == stRetry))
           img := { c.img with nextCtag := nextTag c.img.nextCtag } }

theorem Chip.serve_isS (ho : o.isS = true) (hs : c.mbx.shedFrames (r.cmd.slot.val / 8) o.isS = none) :
    c.serve o r = (c.drewFor o r).submit (c.intentFor o r) := by
  rw [ho] at hs
  simp only [Chip.serve, ho, hs, Option.isSome_none, Bool.false_eq_true, if_false, if_true, Option.isNone_none, Bool.true_and]
  rfl

theorem Chip.submit_of_synced (h : c.mbx.synced = true) (i : Intent) : c.submit i = { c with mbx := { c.mbx with waitAck := some i } } := by
  rw [Chip.submit, if_pos h]

theorem Chip.submit_of_not_synced (h : c.mbx.synced = false) (i : Intent) : c.submit i = c.carryOut i := by
  simp only [Chip.submit, h, Bool.false_eq_true, if_false]

@[simp] theorem Chip.markTaken_synced (c : Chip) (n : SlotId) (p : Nat) : (c.markTaken n p).mbx.synced = c.mbx.synced := rfl

@[simp] theorem Chip.drewFor_mbx (c : Chip) (o : Op) (r : Req) : (c.drewFor o r).mbx = c.mbx := rfl

/-- The package when the S command of slot `n` has been taken and checked. -/
def Chip.checkedS (c : Chip) (n : SlotId) (o : Op) : Chip := (c.markTaken n o.pages).drewFor o (c.slotRequest n)

theorem Chip.checkedS_synced (c : Chip) (n : SlotId) (o : Op) : (c.checkedS n o).mbx.synced = c.mbx.synced := by
  rw [Chip.checkedS, Chip.drewFor_mbx, Chip.markTaken_synced]

/-- The intent of the S command of slot `n`. -/
def Chip.intentOfSlot (c : Chip) (n : SlotId) (o : Op) : Intent := (c.markTaken n o.pages).intentFor o (c.slotRequest n)

theorem Chip.intentOfSlot_refusal (c : Chip) (n : SlotId) (o : Op) :
    (c.intentOfSlot n o).refusal = (c.markTaken n o.pages).checkS o (c.slotRequest n) := rfl

/-- An S command that is served is taken, checked and submitted. -/
theorem Served.takeSlot_isS (h : Served c n v o) (ho : o.isS = true) :
    c.takeSlot n v o = (c.checkedS n o).submit (c.intentOfSlot n o) :=
  h.takeSlot.trans (Chip.serve_isS ho h.markTaken_shedFrames)

/-- With a standby in step the intent waits for its acknowledgement. -/
theorem Served.takeSlot_of_synced (h : Served c n v o) (ho : o.isS = true) (hs : c.mbx.synced = true) : c.takeSlot n v o
    = { c.checkedS n o with mbx := { (c.checkedS n o).mbx with waitAck := some (c.intentOfSlot n o) } } := by
  rw [h.takeSlot_isS ho, Chip.submit_of_synced ((c.checkedS_synced n o).trans hs)]

/-- With none, a command that passes its checks is carried out. -/
theorem Served.takeSlot_of_checked (h : Served c n v o) (ho : o.isS = true) (hs : c.mbx.synced = false)
    (hq : (c.markTaken n o.pages).checkS o (c.slotRequest n) = none) : c.takeSlot n v o
    = (if o.accepts && !(c.checkedS n o).heldAlready o (c.slotRequest n) then (c.checkedS n o).accept (c.slotRequest n).cmd
        else c.checkedS n o).doOp o (c.slotRequest n) := by
  rw [h.takeSlot_isS ho, Chip.submit_of_not_synced ((c.checkedS_synced n o).trans hs)]
  exact Chip.carryOut_of_request ((c.intentOfSlot_refusal n o).trans hq) (Mbx.slotCmd_op h.asks _) rfl rfl
    (Chip.slotRequest_payload_length (Chip.checkHeader_len (Chip.checkS_checkHeader hq)))

/-- With none, a command that fails its checks gets its refusal. -/
theorem Served.takeSlot_of_refused (h : Served c n v o) (ho : o.isS = true) (hs : c.mbx.synced = false)
    (hq : (c.markTaken n o.pages).checkS o (c.slotRequest n) = some q) :
    c.takeSlot n v o = (c.checkedS n o).slotDone (c.slotRequest n).cmd q.1 (BitVec.ofNat 32 q.2) 0 0 [] := by
  have hsynced : (c.checkedS n o).mbx.synced = false := (c.checkedS_synced n o).trans hs
  rw [h.takeSlot_isS ho, Chip.submit_of_not_synced hsynced]
  exact Chip.carryOut_of_refusal ((c.intentOfSlot_refusal n o).trans hq) hsynced

/-! The acknowledgement of an intent. -/

theorem intentAckEffect_of_waitAck (h : c.mbx.waitAck = some i) :
    intentAckEffect i.cmd.slot c = { c with mbx := { c.mbx with
      waitAck := none, intents := c.mbx.intents ++ [{ i with frame := c.frm.frame }] } }.carryOut { i with frame := c.frm.frame } := by
  simp only [intentAckEffect, h, if_true]

theorem intentAckEffect_of_other_slot (h : ∀ i, c.mbx.waitAck = some i → i.cmd.slot ≠ n) : intentAckEffect n c = c := by
  unfold intentAckEffect
  split
  case h_1 => rfl
  case h_2 i hi => exact if_neg (h i hi)

/-- Settles O48: each S command with a standby in step, without one, and refused; then the acknowledgement. -/
theorem stateCommandsWaitForTheirIntent : Obligations.StateCommandsWaitForTheirIntent := by
  refine ⟨fun n s => ?_, fun n s h => .of_lift rfl (intentAckEffect_of_other_slot h),
    fun i s h => .of_lift rfl (intentAckEffect_of_waitAck h)⟩
  intro c r submits
  have key : ∀ (i : Instr) (v : Bool) (o : Op), exec i s = s.lift (fun c => c.takeSlot n v o) → o.isS = true → submits i v o :=
    fun i v o hi ho h => ⟨fun hs => .of_lift hi (h.takeSlot_of_synced ho hs), fun hq hs => .of_lift hi (h.takeSlot_of_checked ho hs hq),
      fun q hq hs => .of_lift hi (h.takeSlot_of_refused ho hs hq)⟩
  exact ⟨key _ _ _ rfl rfl, key _ _ _ rfl rfl, key _ _ _ rfl rfl, key _ _ _ rfl rfl, key _ _ _ rfl rfl, key _ _ _ rfl rfl,
    key _ _ _ rfl rfl, key _ _ _ rfl rfl, key _ _ _ rfl rfl, key _ _ _ rfl rfl, key _ _ _ rfl rfl, key _ _ _ rfl rfl,
    key _ _ _ rfl rfl, key _ _ _ rfl rfl, key _ _ _ rfl rfl, key _ _ _ rfl rfl, key _ _ _ rfl rfl, key _ _ _ rfl rfl,
    key _ _ _ rfl rfl, key _ _ _ rfl rfl, key _ _ _ rfl rfl, key _ _ _ rfl rfl, key _ _ _ rfl rfl⟩

end Sys2Proof.Machine
end

section
/-! SUPPORT. Host writes of BAR2 (R279 to R281, R390, R391), and the completion ring (R286). -/
namespace Sys2Proof.Machine

variable {c : Chip} {n : SlotId} {w off : Nat} {bs : List (Option Byte)} {f : Final}

/-! One slot written. -/

/-- The STATE that a write from offset `w` of a slot brings: byte 0, where the write reaches it with its byte enable (R280). -/
def stateBrought (w : Nat) (bs : List (Option Byte)) : Option Nat := if w = 0 then (bs.headD none).map (fun b => b.toNat) else none

theorem Chip.writeSlot_of_owned (h : (c.mbx.slotState n).toNat = 1 ∨ (c.mbx.slotState n).toNat = 2) :
    c.writeSlot n w bs = { c with mbx := { c.mbx with cntOwned := satInc c.mbx.cntOwned 1 } }.mbxErr 0 := by
  rw [Chip.writeSlot, if_pos h]

theorem head_bind_eq_headD (bs : List (Option Byte)) : bs.head?.bind id = bs.headD none := by
  cases bs <;> rfl

section
variable (h : ¬ ((c.mbx.slotState n).toNat = 1 ∨ (c.mbx.slotState n).toNat = 2))
include h

/-- A STATE that the host may not write discards the whole write (log 66). -/
theorem Chip.writeSlot_of_discarded {b : Nat} (hv : stateBrought w bs = some b)
    (hb : b ≠ 0 ∧ b ≠ 1 ∧ ¬ (b = 3 ∧ (c.mbx.slotState n).toNat = 3)) : c.writeSlot n w bs = c := by
  rw [stateBrought, ← head_bind_eq_headD] at hv
  simp only [Chip.writeSlot, if_neg h, hv, Option.any_some, decide_eq_true hb, if_true]

/-- Any other write of a slot that the host owns puts its bytes there, and STATE 1 posts the slot. -/
theorem Chip.writeSlot_of_stored
    (hb : ∀ b, stateBrought w bs = some b → b = 0 ∨ b = 1 ∨ (b = 3 ∧ (c.mbx.slotState n).toNat = 3)) :
    c.writeSlot n w bs = { c with mbx := { c.mbx with
      store := wrEnabled c.mbx.store (slotBase n + w) bs
      posted := if stateBrought w bs = some 1 then c.mbx.posted ++ [(n, c.frm.frame)] else c.mbx.posted } } := by
  have hkeeps : (stateBrought w bs).any (fun v => decide (v ≠ 0 ∧ v ≠ 1 ∧ ¬ (v = 3 ∧ (c.mbx.slotState n).toNat = 3))) = false := by
    rw [Option.any_eq_false]
    intro b hv
    have := hb b hv
    rw [decide_eq_false_iff_not]
    exact fun ⟨h0, h1, h3⟩ => this.elim h0 (fun h => h.elim h1 h3)
  unfold stateBrought at hkeeps ⊢
  rw [← head_bind_eq_headD] at hkeeps ⊢
  simp only [Chip.writeSlot, if_neg h, hkeeps, Bool.false_eq_true, if_false]

end

/-! A write of BAR2. -/

theorem spans_of_same {size a len : Nat} (hl : len ≠ 0) (h : (a + len - 1) / size = a / size) : spans size a len = [a / size] := by
  rw [spans, if_neg hl, h, Nat.add_sub_cancel_left]
  rfl

theorem le_of_mem_spans {size a len k : Nat} (h : k ∈ spans size a len) : a / size ≤ k := by
  unfold spans at h
  split at h
  · exact absurd h List.not_mem_nil
  · obtain ⟨i, -, rfl⟩ := List.mem_map.mp h
    exact Nat.le_add_right _ _

theorem slotPostEffect_of_no_room (h : ¬ (bs.length ≤ c.pkg.maxPayload ∧ off + bs.length ≤ 1048576)) :
    slotPostEffect off bs c = c.unsupported := by
  rw [slotPostEffect, if_pos (by omega)]

/-- The ring and the reserved space lie past the slots and take no write (log 54). -/
theorem slotPostEffect_past_slots (hr : bs.length ≤ c.pkg.maxPayload ∧ off + bs.length ≤ 1048576) (h : 0x20000 ≤ off) :
    slotPostEffect off bs c = c := by
  rw [slotPostEffect, if_neg (by omega)]
  have hk : ∀ k ∈ spans 4096 off bs.length, 32 ≤ k := fun k hk =>
    Nat.le_trans (by omega : 32 ≤ off / 4096) (le_of_mem_spans hk)
  generalize spans 4096 off bs.length = l at hk ⊢
  induction l with
  | nil => rfl
  | cons k l ih =>
    rw [List.foldl_cons, dif_neg (Nat.not_lt.mpr (hk k List.mem_cons_self))]
    exact ih fun j hj => hk j (List.mem_cons_of_mem k hj)

/-- A write within one slot is a write of that slot. -/
theorem slotPostEffect_of_slot (hp : bs.length ≤ c.pkg.maxPayload) (hn : 1 ≤ bs.length) (hw : w + bs.length ≤ 4096) :
    slotPostEffect (slotBase n + w) bs c = c.writeSlot n w bs := by
  have hslot : n.val < 32 := n.isLt
  have hbase : slotBase n = 4096 * n.val := rfl
  have hspan : spans 4096 (slotBase n + w) bs.length = [n.val] := by
    rw [spans_of_same (by omega) (by omega)]
    congr 1
    omega
  rw [slotPostEffect, if_neg (by omega), hspan, List.foldl_cons, List.foldl_nil, dif_pos hslot]
  have hlo : max (slotBase n + w) (4096 * n.val) = slotBase n + w := by omega
  have hhi : min (slotBase n + w + bs.length) (4096 * n.val + 4096) = slotBase n + w + bs.length := by omega
  simp only [hlo, hhi, Nat.sub_self, List.drop_zero, Nat.add_sub_cancel_left, List.take_length]
  rw [hbase, Nat.add_sub_cancel_left]

theorem hostGives_slotPost {o : BitVec 20} {s : State} {t : Chip} (ht : slotPostEffect o.toNat bs s.chip = t) :
    HostGives (.slotPost o bs) s t := fun hu =>
  .of_lift (f := fun c => c.host (slotPostEffect o.toNat bs)) rfl ((Chip.host_of_hostUp hu _).trans ht)

/-- The bytes of a memory after a write with byte enables (R391). -/
theorem rdByte_wrEnabled {m : Mem} (h : memWf m = true) (a x : Nat) (bs : List (Option Byte)) : rdByte (wrEnabled m a bs) x
    = if a ≤ x ∧ x < a + bs.length then (bs.getD (x - a) none).getD (rdByte m x) else rdByte m x := by
  induction bs generalizing m a with
  | nil => rw [wrEnabled, if_neg (by rw [List.length_nil]; omega)]
  | cons b bs ih =>
    have htail : ∀ {m' : Mem}, memWf m' = true → (x ≠ a → rdByte m' x = rdByte m x) → rdByte m' a = b.getD (rdByte m a) →
        rdByte (wrEnabled m' (a + 1) bs) x
          = if a ≤ x ∧ x < a + (b :: bs).length then ((b :: bs).getD (x - a) none).getD (rdByte m x) else rdByte m x := by
      intro m' hm' hother hsame
      rw [ih hm', List.length_cons]
      rcases Nat.lt_trichotomy x a with hx | rfl | hx
      · rw [if_neg (by omega), if_neg (by omega), hother (by omega)]
      · rw [if_neg (by omega), if_pos (by omega), hsame, Nat.sub_self]
        rfl
      · obtain ⟨k, rfl⟩ : ∃ k, x = a + 1 + k := ⟨x - (a + 1), by omega⟩
        rw [hother (by omega), show a + 1 + k - a = k + 1 by omega, Nat.add_sub_cancel_left, List.getD_cons_succ]
        exact ite_congr_iff (by omega)
    cases b with
    | none => exact htail h (fun _ => rfl) rfl
    | some b => exact htail (memWf_wrByte h a b) (fun hx => by rw [rdByte_wrByte h, if_neg hx]) (by rw [rdByte_wrByte h, if_pos rfl]; rfl)

/-! The ring (R286). -/

theorem Chip.ringPut_mbx (c : Chip) (f : Final) : (c.ringPut f).mbx = { c.mbx with
    store := wrBytes c.mbx.store (0x20000 + 32 * c.mbx.ringTail.toNat) (f.entry c.mbx.phase c.now)
    ringTail := c.mbx.ringTail + 1, phase := if c.mbx.ringTail + 1 = 0 then !c.mbx.phase else c.mbx.phase } := by
  unfold Chip.ringPut
  dsimp only
  split
  · exact Chip.vectorEvent_mbx _ _
  · rfl

/-- The phase turns over with the ring. -/
theorem Chip.ringPut_phase (c : Chip) (f : Final) :
    (c.ringPut f).mbx.phase = if c.mbx.ringTail = 2047 then !c.mbx.phase else c.mbx.phase := by
  rw [Chip.ringPut_mbx]
  exact ite_congr_iff (by bv_omega)

theorem ringWriteEffect_of_room {fs : List Final} (h : c.img.held = f :: fs) (hf : c.mbx.ringFull = false) (hr : c.mbx.fwRun = true)
    (hn : c.mbx.failFrame = none) : ringWriteEffect c = { c with img := { c.img with held := fs } }.ringPut f := by
  simp only [ringWriteEffect, h, hf, hr, hn, Bool.not_true, Bool.or_false, Option.isSome_none, Bool.false_eq_true, if_false]

theorem ringWriteEffect_of_stuck (h : c.img.held = [] ∨ c.mbx.ringFull = true ∨ c.mbx.fwRun = false ∨ c.mbx.failFrame ≠ none) :
    ringWriteEffect c = c := by
  unfold ringWriteEffect
  split
  case h_1 => rfl
  case h_2 f fs hh =>
    rw [if_pos]
    rcases h with h | h | h | h
    · exact absurd (hh.symm.trans h) (List.cons_ne_nil f fs)
    · rw [h, Bool.true_or, Bool.true_or]
    · rw [h, Bool.not_false, Bool.or_true, Bool.true_or]
    · rw [Option.isSome_iff_ne_none.mpr h, Bool.or_true]

/-- Settles O50: the four outcomes of a write in one slot, the bytes of a write with byte enables, writes outside the slots, and the
ring. -/
theorem slotPostsAndTheRing : Obligations.SlotPostsAndTheRing := by
  refine ⟨fun n w data s hl hp hw => ?_, fun m a x data hm => rdByte_wrEnabled hm a x data, fun off data s => ?_, fun f fs s => ?_⟩
  · intro c st off v m stored post
    have hoff : off.toNat = slotBase n + w := Nat.mod_eq_of_lt (by
      have hn : n.val < 32 := n.isLt
      have hbase : slotBase n = 4096 * n.val := rfl
      omega)
    have hpost : ∀ {t : Chip}, c.writeSlot n w data = t → HostGives post s t := fun ht =>
      hostGives_slotPost (by rw [hoff, slotPostEffect_of_slot hp hl hw, ht])
    have hstored : ∀ {t : Chip}, st ≠ 1 → st ≠ 2 → (∀ b, v = some b → b = 0 ∨ b = 1 ∨ (b = 3 ∧ st = 3)) →
        { c with mbx := { stored with posted := if v = some 1 then m.posted ++ [(n, c.frm.frame)] else m.posted } } = t →
        HostGives post s t := fun h1 h2 hb ht =>
      hpost ((Chip.writeSlot_of_stored (not_or.mpr ⟨h1, h2⟩) hb).trans ht)
    refine ⟨fun h => hpost (Chip.writeSlot_of_owned h), fun h1 h2 hv => hstored h1 h2 (fun b hb => ?_) ?_,
      fun h1 h2 hv => hstored h1 h2 (fun b hb => ?_) ?_,
      fun b h1 h2 hv h0 hb1 h3 => hpost (Chip.writeSlot_of_discarded (not_or.mpr ⟨h1, h2⟩) hv ⟨h0, hb1, h3⟩)⟩
    · exact .inr (.inl (Option.some.inj (hb.symm.trans hv)))
    · rw [if_pos hv]
    · rcases hv with hv | hv | ⟨hv, h3⟩
      · exact absurd (hb.symm.trans hv) (by simp)
      · exact .inl (Option.some.inj (hb.symm.trans hv))
      · exact .inr (.inr ⟨Option.some.inj (hb.symm.trans hv), h3⟩)
    · rw [if_neg (by rcases hv with hv | hv | ⟨hv, -⟩ <;> rw [hv] <;> simp)]
  · exact ⟨fun h => hostGives_slotPost (slotPostEffect_of_no_room h), fun h hr => hostGives_slotPost (slotPostEffect_past_slots hr h)⟩
  · intro c m
    have hput := c.ringPut_mbx f
    exact ⟨fun h hf hr hn => ⟨.of_lift rfl (ringWriteEffect_of_room h hf hr hn), by rw [hput], by rw [hput], c.ringPut_phase f⟩,
      fun h => .of_lift rfl (ringWriteEffect_of_stuck h), beq_iff_eq⟩

end Sys2Proof.Machine
end

section
/-! SUPPORT. Heartbeats, the frame-end copy, resynchronisation and the role swap (R264 to R267, R269 to R271, R274 to R278). -/
namespace Sys2Proof.Machine

variable {c : Chip} {k : Copy} {r : SealRecord}

/-! Heartbeats (R267, R271). -/

/-- Both units run in a control-class window. -/
theorem beats_iff : (c.frm.inWindow && c.mbx.unitA.ok && c.mbx.unitB.ok) = true
    ↔ c.frm.inWindow = true ∧ c.mbx.unitA.ok = true ∧ c.mbx.unitB.ok = true := by
  rw [Bool.and_eq_true, Bool.and_eq_true, and_assoc]

/-! The copy (R266). -/

theorem copyPageOk_iff (lfn : BitVec 16) (p : CopyPage) :
    copyPageOk lfn p = true ↔ p.lfn = lfn ∧ p.digest = (shake24 p.data).take 16 := by
  simp only [copyPageOk, Bool.and_eq_true, beq_iff_eq]

theorem sealOk_iff (lfn : BitVec 16) (r : SealRecord) : sealOk lfn r = true ↔
    (∀ p ∈ r.pages, p.lfn = lfn ∧ p.digest = (shake24 p.data).take 16) ∧ r.lfn = lfn ∧ r.count = r.pages.length
      ∧ r.digest = shake24 (r.pages.flatMap copyHeader) := by
  simp only [sealOk, Bool.and_eq_true, beq_iff_eq, List.all_eq_true, copyPageOk_iff, and_assoc]

theorem sealRecordEffect_of_no_copy (h : c.mbx.copy = none) : sealRecordEffect r c = c := by
  simp only [sealRecordEffect, h]

theorem sealRecordEffect_of_copy (h : c.mbx.copy = some k) : sealRecordEffect r c =
    if sealOk k.lfn r then { c with mbx := { c.mbx with copy := some { k with acked := true } } } else c := by
  simp only [sealRecordEffect, h]
  rfl

theorem copySealEffect_of_no_copy (h : c.mbx.copy = none) : copySealEffect c = c := by
  simp only [copySealEffect, h]

theorem copySealEffect_of_copy (h : c.mbx.copy = some k) : copySealEffect c = if k.acked then c.sealCopy k else c := by
  simp only [copySealEffect, h]

/-! Final statuses that are released (R270). -/

theorem Chip.finals_release_ (c : Chip) (p : Final → Bool) : (c.release_ p).img.finals = c.img.finals.filter (fun f => !p f) :=
  Chip.foldl_proj (fun d => d.img.finals) Chip.putFinal Chip.putFinal_finals _ _

theorem Chip.release_eq_putFinal {f : Final} {p : Final → Bool} (h : c.img.finals = [f]) (hp : p f = true) :
    c.release_ p = { c with img := { c.img with finals := [] } }.putFinal f := by
  simp only [Chip.release_, h, List.filter_cons, List.filter_nil, hp, Bool.not_true, Bool.false_eq_true, if_false, if_true,
    List.foldl_cons, List.foldl_nil]

/-! Resynchronisation and the role swap (R274 to R278). -/

/-- The package when a resynchronised standby is in step again, with bit 5 of MBX_ERR (R274). -/
def Chip.resynced (c : Chip) : Chip := ((c.modMbx (fun m => { m with synced := true, resyncing := false })).mbxErr 5).refresh

theorem resyncDoneEffect_eq (c : Chip) : resyncDoneEffect c =
    if c.mbx.resyncing = true ∧ c.mbx.resync = 0 ∧ c.mbx.copy = none ∧ c.mbx.sealedFrame = some (c.frm.frame - 1)
      ∧ c.mbx.failFrame = none then c.resynced else c :=
  ite_congr_iff (by simp only [Bool.and_eq_true, beq_iff_eq, Option.isNone_iff_eq_none, and_assoc])

theorem Chip.resynced_mbx (c : Chip) : ∃ d : DState, c.resynced.mbx
    = { c.mbx with synced := true, resyncing := false, err := setBit c.mbx.err 5, dstate := d } := by
  obtain ⟨d, hd⟩ := ((c.modMbx (fun m => { m with synced := true, resyncing := false })).mbxErr 5).refresh_mbx
  exact ⟨d, by rw [Chip.resynced, hd, Chip.mbxErr_mbx]; rfl⟩

theorem roleSwapEffect_eq (c : Chip) : roleSwapEffect c =
    if c.mbx.swapDue = true ∧ c.frm.frame % 1024 = 0 ∧ c.mbx.synced = true ∧ c.mbx.resyncing = false ∧ c.mbx.failFrame = none
      ∧ c.mbx.copy = none ∧ c.mbx.sealedFrame = some (c.frm.frame - 1)
    then { c with mbx := { c.mbx with swapping := true, swapDue := false } } else c :=
  ite_congr_iff (by simp only [Bool.and_eq_true, beq_iff_eq, decide_eq_true_eq, Bool.not_eq_true', Option.isNone_iff_eq_none, and_assoc])

theorem handoverEffect_of_no_swapCopy (h : c.mbx.swapCopy = none) : handoverEffect c = c := by
  simp only [handoverEffect, h]

theorem handoverEffect_of_swapCopy (h : c.mbx.swapCopy = some k) : handoverEffect c =
    if c.mbx.swapping = true ∧ 32 ≤ c.frm.tick ∧ c.mbx.failFrame = none ∧ k.frame < c.frm.frame
    then (c.modMbx (fun m => { m with activeB := !m.activeB, swapping := false, swapCopy := none })).sealCopy k else c := by
  simp only [handoverEffect, h]
  exact ite_congr_iff (by simp only [Bool.and_eq_true, decide_eq_true_eq, Option.isNone_iff_eq_none, and_assoc])

/-- Settles O51: each command of the two units where its condition holds and where it does not. -/
theorem ibexCopyAndSwap : Obligations.IbexCopyAndSwap := by
  intro k r s c m sealed_ seals beats verifies resynced swaps hands
  refine ⟨?beat, ?noBeat, ?noCopy, ?verified, ?unverified, ?unacked, ?sealed, ?release, ?resynced, ?notResynced, ?swap, ?noSwap,
    ?handover, ?noHandover, ?noSwapCopy⟩
  case beat => exact fun h => .of_lift rfl (if_pos (beats_iff.mpr h))
  case noBeat => exact fun h => .of_lift rfl (if_neg (mt beats_iff.mp h))
  case noCopy => exact fun h => ⟨.of_lift rfl (sealRecordEffect_of_no_copy h), .of_lift rfl (copySealEffect_of_no_copy h)⟩
  case verified => exact fun h hv => .of_lift rfl ((sealRecordEffect_of_copy h).trans (if_pos ((sealOk_iff _ _).mpr hv)))
  case unverified => exact fun h hv => .of_lift rfl ((sealRecordEffect_of_copy h).trans (if_neg (mt (sealOk_iff _ _).mp hv)))
  case unacked => exact fun h ha => .of_lift rfl ((copySealEffect_of_copy h).trans (if_neg (Bool.eq_false_iff.mp ha)))
  case sealed => exact fun h ha => .of_lift rfl ((copySealEffect_of_copy h).trans (if_pos ha))
  case release => exact fun d p => ⟨d.finals_release_ p, fun f h hp => Chip.release_eq_putFinal h hp⟩
  case resynced =>
    intro h
    refine .of_lift rfl ?_
    rw [resyncDoneEffect_eq, if_pos h]
    obtain ⟨d, hd⟩ := c.resynced_mbx
    rw [hd]
    exact ⟨rfl, rfl, bit_setBit_same _ (by decide), rfl⟩
  case notResynced => exact fun h => .of_lift rfl ((resyncDoneEffect_eq c).trans (if_neg h))
  case swap => exact fun h => .of_lift rfl ((roleSwapEffect_eq c).trans (if_pos h))
  case noSwap => exact fun h => .of_lift rfl ((roleSwapEffect_eq c).trans (if_neg h))
  case handover => exact fun h hh => .of_lift rfl ((handoverEffect_of_swapCopy h).trans (if_pos hh))
  case noHandover => exact fun h hh => .of_lift rfl ((handoverEffect_of_swapCopy h).trans (if_neg hh))
  case noSwapCopy => exact fun h => .of_lift rfl (handoverEffect_of_no_swapCopy h)

end Sys2Proof.Machine
end

section
/-! SUPPORT. The fuse map and the anti-rollback counter under every step (R346, R406). -/
namespace Sys2Proof.Machine

/-- Settles O6: the first two parts of what Chip.Follows says of a step. -/
theorem stepKeepsFusesAndCounter : Obligations.StepKeepsFusesAndCounter :=
  fun _ _ hstep => ⟨(step_follows hstep).fuse, (step_follows hstep).rollback⟩

end Sys2Proof.Machine
end

section
/-! SUPPORT. A step of the bring-up sequence in progress, and its end (R341, R342, R344). -/
namespace Sys2Proof.Machine

variable {c : Chip} {s : State}

/-! A step in progress. -/

/-- A command that carries out step `k` by `f`: outside the step, past its maximum time, and within it. -/
theorem Gives.runStep {i : Instr} {k : Nat} {ms : BitVec 16} {f : Chip → Chip × Nat} {r : Chip × Nat}
    (hi : Gives i s (s.chip.runStep k ms f)) (hr : f s.chip = r) :
    ((s.chip.inStep k = false → Gives i s s.chip)
      ∧ (s.chip.inStep k = true → bruMax s.chip.bru.warm k < ms.toNat →
        Gives i s ((s.chip.bruErr 13).endStep bruFail (bruMax s.chip.bru.warm k))))
    ∧ (s.chip.inStep k = true ∧ ms.toNat ≤ bruMax s.chip.bru.warm k → Gives i s (r.1.endStep r.2 ms.toNat)) := by
  subst hr
  refine ⟨⟨fun hk => ?outside, fun hk hms => ?late⟩, fun ⟨hk, hms⟩ => ?inTime⟩
  all_goals rw [Chip.runStep, hk] at hi
  case outside => exact hi
  case late => rwa [if_neg (by decide), if_pos hms] at hi
  case inTime => rwa [if_neg (by decide), if_neg (Nat.not_lt.mpr hms)] at hi

theorem bruTimeoutEffect_running (hb : c.mbx.dstate = .bringup) (hr : c.bru.running = true) (hw : c.bru.waitAir = false) :
    bruTimeoutEffect c = (c.bruErr 13).endStep bruFail (bruMax c.bru.warm c.bru.step.toNat) := by
  simp only [bruTimeoutEffect, hb, hr, hw, beq_self_eq_true, Bool.not_false, Bool.and_self, if_true]

theorem bruTimeoutEffect_idle (h : c.mbx.dstate ≠ .bringup ∨ c.bru.running = false ∨ c.bru.waitAir = true) :
    bruTimeoutEffect c = c := by
  refine if_neg (fun hc => ?_)
  simp only [Bool.and_eq_true, beq_iff_eq, Bool.not_eq_true'] at hc
  obtain ⟨⟨hb, hr⟩, hw⟩ := hc
  simp [hb, hr, hw] at h

/-! The end of a step. -/

/-- The step in progress closed with its result, before the sequence goes on. -/
def Chip.closeStep (c : Chip) (result ms : Nat) : Chip :=
  c.modBru (fun b => { (b.putStep b.step.toNat { result := BitVec.ofNat 3 result, ms := BitVec.ofNat 16 ms }) with
    running := false, waitAir := false, endedAt := c.micros, total := b.total + BitVec.ofNat 32 (b.gap + ms), gap := 0, rteId := none })

theorem Chip.endStep_fail (c : Chip) (ms : Nat) : c.endStep bruFail ms = (c.closeStep bruFail ms).failStep c.bru.step.toNat := rfl

theorem Chip.endStep_of_ne_fail {result : Nat} (h : result ≠ bruFail) (ms : Nat) :
    c.endStep result ms = (c.closeStep result ms).passStep c.bru.step.toNat := if_neg h

/-- The sequence goes no further than RUN_TO. -/
theorem Chip.bruNext_of_reached (h : c.mbx.dstate = .bringup → bits c.bru.ctl.val 3 0 ≤ c.bru.passed.toNat) : c.bruNext = c := by
  refine if_neg (fun hc => ?_)
  simp only [Bool.and_eq_true, beq_iff_eq, decide_eq_true_eq] at hc
  obtain ⟨⟨⟨hb, -⟩, hk⟩, -⟩ := hc
  exact absurd (h hb) (by omega)

theorem Chip.passStep_of_reached {k : Nat} (h6 : k ≠ 6) (hk : k < 16) (h : c.mbx.dstate = .bringup → bits c.bru.ctl.val 3 0 = k) :
    c.passStep k = c.modBru (fun b => { b with passed := BitVec.ofNat 4 k }) := by
  rw [Chip.passStep, if_neg h6]
  refine Chip.bruNext_of_reached (fun hb => ?_)
  change bits c.bru.ctl.val 3 0 ≤ (BitVec.ofNat 4 k).toNat
  have hpassed : (BitVec.ofNat 4 k).toNat = k := (BitVec.toNat_ofNat k 4).trans (Nat.mod_eq_of_lt hk)
  exact Nat.le_of_eq ((h hb).trans hpassed.symm)

theorem Chip.endStep_passes {result : Nat} (hr : result ≠ bruFail) (h6 : c.bru.step ≠ 6)
    (h : c.mbx.dstate = .bringup → bits c.bru.ctl.val 3 0 = c.bru.step.toNat) (ms : Nat) :
    (c.endStep result ms).bru.passed = c.bru.step ∧ (c.endStep result ms).bru.running = false := by
  have h6' : c.bru.step.toNat ≠ 6 := fun e => h6 (BitVec.eq_of_toNat_eq e)
  rw [Chip.endStep_of_ne_fail hr, Chip.passStep_of_reached (c := c.closeStep result ms) h6' c.bru.step.isLt h]
  exact ⟨BitVec.ofNat_toNat _ _, rfl⟩

/-- The failure of step `k` counted. -/
def Chip.countFail (c : Chip) (k : Nat) : Chip :=
  c.modBru (fun b => { b with fails := tset 0 b.fails k (min 3 (tget 0 b.fails k + 1)) })

theorem Chip.failStep_of_lt {k : Nat} (h : tget 0 c.bru.fails k < 2) : c.failStep k = c.countFail k :=
  if_neg (fun hc => by have := hc.1; omega)

theorem Chip.failStep_third {k : Nat} (h : 2 ≤ tget 0 c.bru.fails k) (h2 : k ≠ 2) (h8 : k ≠ 8) (h9 : k ≠ 9) :
    c.failStep k = (c.countFail k).quarantinePackage (failCause k) :=
  if_pos ⟨by omega, h2, h8, h9⟩

theorem Chip.Tells.nor {t : Chip} (h : c.Tells t) : t.nor = c.nor := by
  obtain ⟨_, _, _, _, _, _, rfl⟩ := h
  rfl

/-- The caps set anew: the power manager apart, the package is as the change has left it. -/
theorem Chip.liftTerm_eq (c : Chip) (f : Chip → Chip) : ∃ pwr : Pwr, c.liftTerm f = { f c with pwr := pwr } := by
  unfold Chip.liftTerm
  dsimp only
  split <;> exact ⟨_, rfl⟩

theorem Chip.quarantinePackage_dstate (c : Chip) (cause : Nat) : (c.quarantinePackage cause).mbx.dstate = .quarantined := by
  obtain ⟨_, hp⟩ := ({ c with nor := { c.nor with warm := none } }).liftTerm_eq (fun c => c.setDState .quarantined)
  rw [Chip.quarantinePackage, Chip.event_mbx, hp]
  exact congrArg Mbx.dstate (Chip.setDState_mbx _ _)

theorem Chip.quarantinePackage_warm (c : Chip) (cause : Nat) : (c.quarantinePackage cause).nor.warm = none := by
  obtain ⟨_, hp⟩ := ({ c with nor := { c.nor with warm := none } }).liftTerm_eq (fun c => c.setDState .quarantined)
  rw [Chip.quarantinePackage, (Chip.event_tells _ _).nor, hp]
  exact congrArg Nor.warm (Chip.setDState_tells _ _).nor

theorem Chip.endStep_fails (h : tget 0 c.bru.fails c.bru.step.toNat < 2) (ms : Nat) :
    (c.endStep bruFail ms).bru.passed = c.bru.passed ∧ (c.endStep bruFail ms).bru.running = false
      ∧ (c.endStep bruFail ms).mbx.dstate = c.mbx.dstate := by
  rw [Chip.endStep_fail, Chip.failStep_of_lt (c := c.closeStep bruFail ms) h]
  exact ⟨rfl, rfl, rfl⟩

/-- The third failure of a step other than 2, 8 and 9 quarantines the package (R344). -/
theorem Chip.endStep_fails_third (h2 : c.bru.step ≠ 2) (h8 : c.bru.step ≠ 8) (h9 : c.bru.step ≠ 9)
    (h : 2 ≤ tget 0 c.bru.fails c.bru.step.toNat) (ms : Nat) :
    (c.endStep bruFail ms).mbx.dstate = .quarantined ∧ (c.endStep bruFail ms).nor.warm = none := by
  have hne : ∀ {k : BitVec 4}, c.bru.step ≠ k → c.bru.step.toNat ≠ k.toNat := fun hk e => hk (BitVec.eq_of_toNat_eq e)
  rw [Chip.endStep_fail, Chip.failStep_third (c := c.closeStep bruFail ms) h (hne h2) (hne h8) (hne h9)]
  exact ⟨Chip.quarantinePackage_dstate _ _, Chip.quarantinePackage_warm _ _⟩

end Sys2Proof.Machine
end

section
/-! SUPPORT. What the steps of bring-up make of the package, and the sequence step by step (R150, R346, R349, R354, R357, R359). -/
namespace Sys2Proof.Machine

variable {c : Chip}

/-! Step 3: the fuses and the NOR records (R346, R354). -/

/-- The package with the error bits of step 3. -/
def Chip.fuseNorErrors (c : Chip) (majority : Bool) (bad : List (Fin 8)) : Chip :=
  let c1 := if majority && c.fuse.consistent then c else c.bruErr 3
  if (lostRecords bad).isEmpty then c1 else c1.bruErr 4

theorem Chip.fuseNorErrors_nor (c : Chip) (majority : Bool) (bad : List (Fin 8)) : (c.fuseNorErrors majority bad).nor = c.nor := by
  have h1 : (if majority && c.fuse.consistent then c else c.bruErr 3).nor = c.nor := by split <;> rfl
  unfold Chip.fuseNorErrors
  dsimp only
  split <;> exact h1

section
variable {majority : Bool} {bad : List (Fin 8)}

theorem fuseNorStep_passes (hm : majority = true) (hf : c.fuse.consistent = true)
    (hl : lostRecords bad = [] ∨ c.bru.rebuild = true) :
    (fuseNorStep majority bad c).2 = bruPass ∧ (fuseNorStep majority bad c).1.bru.fuseRead = true := by
  have hc : (!(majority && c.fuse.consistent) || (!(lostRecords bad).isEmpty && !c.bru.rebuild)) = false := by
    rcases hl with hl | hl <;> simp [hm, hf, hl]
  simp only [fuseNorStep, hc, Bool.false_eq_true, if_false, Chip.modBru_bru, and_self]

theorem fuseNorStep_fails (h : majority = false ∨ c.fuse.consistent = false ∨ (lostRecords bad ≠ [] ∧ c.bru.rebuild = false)) :
    fuseNorStep majority bad c = ({ c.fuseNorErrors majority bad with
      nor := { c.nor with warmBad := c.nor.warmBad || (lostRecords bad).contains 5 } }, bruFail) := by
  have hc : (!(majority && c.fuse.consistent) || (!(lostRecords bad).isEmpty && !c.bru.rebuild)) = true := by
    rcases h with h | h | ⟨hl, hb⟩
    · simp [h]
    · simp [h]
    · simp [hl, hb]
  rw [← c.fuseNorErrors_nor majority bad]
  exact if_pos hc

end

/-! Step 4: the die-to-die links (R359). -/

theorem d2dStep_eq (ok : Bool) (c : Chip) : d2dStep ok c = if ok = false then (c.bruErr 5, bruFail)
    else if c.bru.warm then (c.modBru (fun b => { b with d2d := c.nor.d2d }), bruPass)
    else (({ c with freeCount := c.freeCount + 1 } : Chip).modBru (fun b => { b with d2d := some (Config.freeWord c.freeCount) }), bruPass) := by
  cases ok <;> rfl

/-! Step 5: the memory stacks (R148, R150, R349, R359). -/

/-- A fold over stacks that makes stack `i` such that `P`, and leaves it otherwise, as long as `J`. -/
theorem Chip.stack_foldl {J : Chip → Prop} {P : Stack → Prop} {g : Chip → StackId → Chip} {i : StackId} {l : List StackId}
    (hJ : ∀ d x, J d → J (g d x)) (hset : ∀ d, J d → P ((g d i).stack i))
    (hkeep : ∀ d x, J d → i ≠ x → (g d x).stack i = d.stack i) (hc : J c) (hl : i ∈ l ∨ P (c.stack i)) :
    P ((l.foldl g c).stack i) := by
  induction l generalizing c with
  | nil => exact hl.resolve_left List.not_mem_nil
  | cons x l ih =>
    refine ih (hJ c x hc) ?_
    by_cases hx : i = x
    · exact .inr (hx ▸ hset c hc)
    · rw [hkeep c x hc hx]
      exact hl.imp_left (List.mem_of_ne_of_mem hx)

/-- One enabled stack brought up: trained, UP, scrubbed, its repair table loaded. -/
def Chip.bringUpStack (c : Chip) (i : StackId) : Chip :=
  ((c.trainStack i).modStack i (fun k => { k with state := .up, scrub := true })).loadRepair i

/-- A stack that has been brought up, with the retired rows that the NOR lists for it. -/
def Stack.BroughtUp (n : Nor) (i : StackId) (k : Stack) : Prop :=
  k.state = .up ∧ k.scrub = true ∧ k.retired = tget [] n.retired i.val

theorem Chip.trainStack_stks (c : Chip) (i : StackId) : (c.trainStack i).stks = c.stks := by
  unfold Chip.trainStack
  split <;> rfl

theorem Chip.trainStack_nor (c : Chip) (i : StackId) : (c.trainStack i).nor = c.nor := by
  unfold Chip.trainStack
  split <;> rfl

theorem Chip.trainStack_canonical (h : c.Canonical) (i : StackId) : (c.trainStack i).Canonical :=
  (Chip.trainStack_follows i (.refl c)).canonical h

theorem Chip.modStack_canonical (h : c.Canonical) (i : StackId) (f : Stack → Stack) : (c.modStack i f).Canonical :=
  (Chip.modStack_follows i f (.refl c)).canonical h

theorem Chip.bringUpStack_follows {c0 : Chip} (h : c0.Follows c) (i : StackId) : c0.Follows (c.bringUpStack i) :=
  Chip.loadRepair_follows i (Chip.modStack_follows i _ (Chip.trainStack_follows i h))

theorem Chip.bringUpStack_canonical (h : c.Canonical) (i : StackId) : (c.bringUpStack i).Canonical :=
  (Chip.bringUpStack_follows (.refl c) i).canonical h

theorem Chip.bringUpStack_nor (c : Chip) (i : StackId) : (c.bringUpStack i).nor = c.nor := c.trainStack_nor i

theorem Chip.stack_bringUpStack_same (h : c.Canonical) (i : StackId) : ((c.bringUpStack i).stack i).BroughtUp c.nor i := by
  have ht := Chip.trainStack_canonical h i
  rw [Chip.bringUpStack, Chip.loadRepair, Chip.modStack, Chip.stack_setStack (Chip.modStack_canonical ht i _), Chip.modStack,
    Chip.stack_setStack ht]
  exact ⟨rfl, rfl, by rw [Chip.setStack_nor, Chip.trainStack_nor]⟩

theorem Chip.stack_bringUpStack_other (h : c.Canonical) {i x : StackId} (hx : i ≠ x) : (c.bringUpStack x).stack i = c.stack i := by
  have ht := Chip.trainStack_canonical h x
  rw [Chip.bringUpStack, Chip.loadRepair, Chip.modStack, Chip.stack_setStack_other (Chip.modStack_canonical ht x _) _ hx, Chip.modStack,
    Chip.stack_setStack_other ht _ hx, Chip.stack_of_stks (c.trainStack_stks x)]

/-- The package when step 5 has brought up the stacks that the fuses enable. -/
def Chip.bringUpStacks (c : Chip) : Chip := c.fuse.stackList.foldl Chip.bringUpStack c

/-- The stacks that step 5 fails. -/
def Chip.failedStacks (c : Chip) (failed : BitVec 24) : List StackId :=
  c.fuse.stackList.filter (fun i => bit failed i.val || c.bringUpStacks.tooRetired i)

theorem memoryStep_eq (failed : BitVec 24) (c : Chip) : memoryStep failed c = c.bringUpStacks.failStacks (c.failedStacks failed) := rfl

theorem Fuse.mem_stackList {f : Fuse} {i : StackId} : i ∈ f.stackList ↔ f.stackOn i.val = true := by
  simp [Fuse.stackList, allStacks]

theorem Chip.bringUpStacks_canonical (h : c.Canonical) : c.bringUpStacks.Canonical :=
  (Chip.foldl_follows _ _ (fun _ i hd => Chip.bringUpStack_follows hd i) (.refl c)).canonical h

theorem Chip.stack_bringUpStacks (h : c.Canonical) {i : StackId} (hi : c.fuse.stackOn i.val = true) :
    (c.bringUpStacks.stack i).BroughtUp c.nor i :=
  Chip.stack_foldl (J := fun d => d.Canonical ∧ d.nor = c.nor)
    (fun d x hd => ⟨Chip.bringUpStack_canonical hd.1 x, (d.bringUpStack_nor x).trans hd.2⟩)
    (fun _ hd => hd.2 ▸ Chip.stack_bringUpStack_same hd.1 i)
    (fun _ _ hd hx => Chip.stack_bringUpStack_other hd.1 hx) ⟨h, rfl⟩ (.inl (Fuse.mem_stackList.mpr hi))

/-- One stack failed. -/
def Chip.failStack (c : Chip) (i : StackId) : Chip := c.modStack i (fun k => { k with state := .failed, scrub := false })

theorem Chip.failStacks_of_ne_nil {bad : List StackId} (h : bad ≠ []) :
    c.failStacks bad = ((bad.foldl Chip.failStack c).bruErr 6, bruQuarantine) :=
  if_neg (by simpa using h)

theorem Chip.stack_foldl_failStack (h : c.Canonical) {bad : List StackId} {i : StackId} (hi : i ∈ bad) :
    ((bad.foldl Chip.failStack c).stack i).state = .failed :=
  Chip.stack_foldl (J := Chip.Canonical) (P := fun k => k.state = .failed) (fun _ x hd => Chip.modStack_canonical hd x _)
    (fun _ hd => congrArg Stack.state (Chip.stack_setStack hd i _))
    (fun _ _ hd hx => Chip.stack_setStack_other hd _ hx) h (.inl hi)

section
variable {failed : BitVec 24}

theorem Chip.failedStacks_eq_nil (h : c.Canonical)
    (hs : ∀ i : StackId, c.fuse.stackOn i.val = true → bit failed i.val = false ∧ (tget [] c.nor.retired i.val).length ≤ 256) :
    c.failedStacks failed = [] := by
  refine List.filter_eq_nil_iff.mpr (fun i hi => ?_)
  have hon := Fuse.mem_stackList.mp hi
  obtain ⟨hbit, hlen⟩ := hs i hon
  obtain ⟨-, -, hret⟩ := Chip.stack_bringUpStacks h hon
  rw [hbit, Bool.false_or, Chip.tooRetired, hret, decide_eq_true_eq]
  exact Nat.not_lt.mpr hlen

theorem memoryStep_passes (h : c.Canonical)
    (hs : ∀ i : StackId, c.fuse.stackOn i.val = true → bit failed i.val = false ∧ (tget [] c.nor.retired i.val).length ≤ 256) :
    memoryStep failed c = (c.bringUpStacks, bruPass) := by
  rw [memoryStep_eq, Chip.failedStacks_eq_nil h hs]
  rfl

theorem memoryStep_quarantines (h : c.Canonical) {i : StackId} (hi : c.fuse.stackOn i.val = true) (hb : bit failed i.val = true) :
    (memoryStep failed c).2 = bruQuarantine ∧ ((memoryStep failed c).1.stack i).state = .failed := by
  have hmem : i ∈ c.failedStacks failed := List.mem_filter.mpr ⟨Fuse.mem_stackList.mpr hi, by rw [hb, Bool.true_or]⟩
  rw [memoryStep_eq, Chip.failStacks_of_ne_nil (List.ne_nil_of_mem hmem)]
  exact ⟨rfl, Chip.stack_foldl_failStack (Chip.bringUpStacks_canonical h) hmem⟩

end

/-! Step 8: the fabric links (R357). -/

theorem linkStep_passes (h : ∀ l : LinkId, c.fuse.linkOn l.val = true → (c.link l).state = .up ∧ 16 ≤ (c.link l).width) :
    linkStep c = (c, bruPass) := by
  refine if_neg (fun hany => ?_)
  obtain ⟨l, -, hl⟩ := List.any_eq_true.mp hany
  simp only [Bool.and_eq_true, Bool.or_eq_true, bne_iff_ne, decide_eq_true_eq] at hl
  obtain ⟨hon, hdown | hnarrow⟩ := hl
  · exact hdown (h l hon).1
  · exact absurd (h l hon).2 (Nat.not_le.mpr hnarrow)

theorem linkStep_degrades {l : LinkId} (hon : c.fuse.linkOn l.val = true) (h : (c.link l).state ≠ .up ∨ (c.link l).width < 16) :
    linkStep c = (c.bruErr 11, bruDegraded) := by
  refine if_pos (List.any_eq_true.mpr ⟨l, mem_allLinks l, ?_⟩)
  simpa only [hon, Bool.true_and, Bool.or_eq_true, bne_iff_ne, decide_eq_true_eq] using h

theorem Chip.linksTried_iff (c : Chip) :
    c.linksTried = true ↔ ∀ l : LinkId, c.fuse.linkOn l.val = true → (c.link l).attempt = none := by
  have one : ∀ l : LinkId, (!c.fuse.linkOn l.val || (c.link l).attempt.isNone) = true
      ↔ (c.fuse.linkOn l.val = true → (c.link l).attempt = none) := fun l => by
    rw [← Option.isNone_iff_eq_none]
    cases c.fuse.linkOn l.val <;> simp
  exact List.all_eq_true.trans ⟨fun h l => (one l).mp (h l (mem_allLinks l)), fun h l _ => (one l).mpr (h l)⟩

/-! Step 9: the frame clock. -/

theorem frameLockStep_eq (c : Chip) :
    passOr (c.frm.state == .locked) 12 c = if c.frm.state = .locked then (c, bruPass) else (c.bruErr 12, bruFail) :=
  ite_congr_iff beq_iff_eq

/-! The sequence. -/

/-- Settles O55: each command of the sequence through what its step does, then the steps' own results and how a step ends. -/
theorem bringUpSequence : Obligations.BringUpSequence := by
  intro ok ms failed bad s c b intime waits simple does trained
  refine ⟨?rails, ?clock, ?d2d, ?fuseNor, ?memory, ?fuseNorPasses, ?fuseNorFails, ?memoryPasses, ?memoryQuarantines, ?linksPass,
    ?linksDegrade, ?links, ?linksWait, ?linksTried, ?frameLock, ?ready, ?readyWaits, ?timeout, ?noTimeout, ?passes, ?fails, ?failsThird⟩
  case rails =>
    obtain ⟨hw, hd⟩ := Gives.runStep (i := .bruRails ok ms) (s := s) (f := passOr ok 1) rfl rfl
    exact ⟨hw, fun hk ho => by subst ho; exact hd hk, fun hk ho => by subst ho; exact hd hk⟩
  case clock => exact Gives.runStep (f := clockStep ok) rfl (by cases ok <;> rfl)
  case d2d => exact Gives.runStep (f := d2dStep ok) rfl (d2dStep_eq ok c)
  case fuseNor => exact Gives.runStep rfl rfl
  case memory => exact Gives.runStep rfl rfl
  case fuseNorPasses => exact fuseNorStep_passes
  case fuseNorFails =>
    intro h
    rw [fuseNorStep_fails h]
    exact ⟨rfl, rfl⟩
  case memoryPasses =>
    intro hc hs
    rw [memoryStep_passes hc hs]
    refine ⟨rfl, fun i hi => ?_⟩
    obtain ⟨hup, hscrub, -⟩ := Chip.stack_bringUpStacks hc hi
    exact ⟨hup, hscrub⟩
  case memoryQuarantines => exact fun i hc hi hb => memoryStep_quarantines hc hi hb
  case linksPass => exact linkStep_passes
  case linksDegrade => exact fun l hon h => linkStep_degrades hon h
  case links => exact fun h => Gives.runStep (.of_lift rfl (if_pos h)) rfl
  case linksWait => exact fun h => .of_lift rfl (if_neg (Bool.eq_false_iff.mp h))
  case linksTried => exact c.linksTried_iff
  case frameLock => exact Gives.runStep rfl (frameLockStep_eq c)
  case ready => exact fun h => Gives.runStep (.of_lift rfl (if_pos (beq_iff_eq.mpr h))) rfl
  case readyWaits => exact fun h => .of_lift rfl (if_neg (mt beq_iff_eq.mp h))
  case timeout => exact fun hb hr hw => .of_lift rfl (bruTimeoutEffect_running hb hr hw)
  case noTimeout => exact fun h => .of_lift rfl (bruTimeoutEffect_idle h)
  case passes => exact fun _ hr h6 h => Chip.endStep_passes hr h6 h _
  case fails => exact fun _ _ _ h => Chip.endStep_fails h _
  case failsThird => exact fun h2 h8 h9 h => Chip.endStep_fails_third h2 h8 h9 h _

end Sys2Proof.Machine
end

section
/-! SUPPORT. The head of the completion ring as the host moves it (R423, Tables 16-2 and 16-4b). -/
namespace Sys2Proof.Machine

variable {c : Chip} {a : RegAlias} {d : Word}

/-- The head that a write of MBX_RING_HEAD asks for. -/
def Mbx.headAsked (m : Mbx) (a : RegAlias) (d : Word) : BitVec 11 := (rwWord a 0x7FF (m.ringHead.setWidth 32) d).1.setWidth 11

/-- The write changes its RV bits. -/
def Mbx.headRv (m : Mbx) (a : RegAlias) (d : Word) : Bool := (rwWord a 0x7FF (m.ringHead.setWidth 32) d).2

theorem Chip.aliasWrite_ringHead (hu : c.hostUp = true) :
    c.aliasWrite a 0x10001C d = c.writeRingHead a d (aliasOffset a 0x10001C) :=
  Chip.aliasWrite_rw (o := 0x10001C) hu (by decide) rfl rfl rfl

theorem Chip.writeRingHead_takes
    (h : (c.mbx.headAsked a d - c.mbx.ringHead).toNat ≤ (c.mbx.ringTail - c.mbx.ringHead).toNat) (off : Nat) :
    c.writeRingHead a d off =
      ({ c with mbx := { c.mbx with ringHead := c.mbx.headAsked a d } }).refuse off (causeIf (c.mbx.headRv a d) cRv) := by
  rw [Mbx.headAsked] at h
  simp only [Chip.writeRingHead, h, decide_true, if_true, Bool.not_true, causeIf, Bool.false_eq_true, if_false, List.append_nil]
  rfl

theorem Chip.writeRingHead_refused
    (h : (c.mbx.ringTail - c.mbx.ringHead).toNat < (c.mbx.headAsked a d - c.mbx.ringHead).toNat) (off : Nat) :
    c.writeRingHead a d off = c.refuse off (causeIf (c.mbx.headRv a d) cRv ++ [cHead]) := by
  rw [Mbx.headAsked] at h
  simp only [Chip.writeRingHead, not_le.mpr h, decide_false, Bool.false_eq_true, if_false, Bool.not_false, causeIf, if_true]
  rfl

/-- MBX_RING_HEAD has its RW bits at 0 to 10. -/
theorem getElem_headMask : ∀ (i : Nat) (hi : i < 32), (0x7FF : Word)[i] = decide (i < 11) := by decide

/-- A number of 11 bits lies in the RW bits of the register. -/
theorem setWidth_and_headMask (x : BitVec 11) : x.setWidth 32 &&& (0x7FF : Word) = x.setWidth 32 := by
  ext i hi
  rw [BitVec.getElem_and, getElem_headMask i hi, BitVec.getElem_setWidth]
  by_cases h : i < 11
  · simp [h]
  · simp [BitVec.getLsbD_of_ge x i (by omega)]

theorem setWidth_and_not_headMask (x : BitVec 11) : x.setWidth 32 &&& ~~~(0x7FF : Word) = 0 := by
  rw [← setWidth_and_headMask x, BitVec.and_assoc, BitVec.and_not_self]
  exact BitVec.and_zero

theorem Mbx.headAsked_eleven_bits (m : Mbx) (x : BitVec 11) : m.headAsked .normal (x.setWidth 32) = x := by
  simp only [Mbx.headAsked, rwWord, setWidth_and_not_headMask, aliasRw, setWidth_and_headMask]
  simp

theorem Mbx.headRv_eleven_bits (m : Mbx) (x : BitVec 11) : m.headRv .normal (x.setWidth 32) = false := by
  simp only [Mbx.headRv, rwWord, setWidth_and_not_headMask, bne_self_eq_false, Bool.and_false]

theorem hostGives_mbxRingHeadWrite (a : RegAlias) (d : Word) (s : State) :
    HostGives (.mbxRingHeadWrite a d) s (s.chip.writeRingHead a d (aliasOffset a 0x10001C)) := fun hu =>
  .of_lift (f := fun c => c.aliasWrite a 0x10001C d) rfl (Chip.aliasWrite_ringHead hu)

/-- Settles O33: a head up to the tail, a head beyond it, and the tail itself. -/
theorem ringHeadMovesUpToTheTail : Obligations.RingHeadMovesUpToTheTail := by
  intro a d s c m r h off rv
  refine ⟨fun hle => (hostGives_mbxRingHeadWrite a d s).of_eq (Chip.writeRingHead_takes hle _),
    fun hlt => (hostGives_mbxRingHeadWrite a d s).of_eq (Chip.writeRingHead_refused hlt _),
    (hostGives_mbxRingHeadWrite _ _ s).of_eq ?_⟩
  have htail : c.mbx.headAsked .normal (m.ringTail.setWidth 32) = m.ringTail := c.mbx.headAsked_eleven_bits _
  have hle : (c.mbx.headAsked .normal (m.ringTail.setWidth 32) - m.ringHead).toNat ≤ (m.ringTail - m.ringHead).toNat := by
    rw [htail]
  rw [Chip.writeRingHead_takes hle, htail, Mbx.headRv_eleven_bits]
  rfl

end Sys2Proof.Machine
end

section
/-! SUPPORT. Error bits, interrupts and beacons (R338, R388, R394): all that they leave of the package. -/
namespace Sys2Proof.Machine

/-- Package `t` is package `c` after error bits of FLT_ERR, interrupts and beacons have been raised: FLT_ERR, what the fault unit
keeps of beacons, the state of the MSI-X messages and what went out apart, all is as before. -/
structure Chip.Reports (c t : Chip) : Prop where
  rest : t = { c with flt := t.flt, pkg := t.pkg, out := t.out }
  flt : t.flt = { c.flt with
    err := t.flt.err, lastTime := t.flt.lastTime, lastCode := t.flt.lastCode, cntBeacon := t.flt.cntBeacon, cntSuppr := t.flt.cntSuppr
    beacons := t.flt.beacons, beaconSeq := t.flt.beaconSeq, thisSecond := t.flt.thisSecond, suppressed := t.flt.suppressed }
  pkg : t.pkg = { c.pkg with
    irqStatus := t.pkg.irqStatus, pba := t.pkg.pba, merge := t.pkg.merge, sentAt := t.pkg.sentAt }

variable {c d t : Chip}

theorem Chip.Reports.refl (c : Chip) : c.Reports c := ⟨rfl, rfl, rfl⟩

theorem Chip.Reports.trans (h : c.Reports d) (hd : d.Reports t) : c.Reports t where
  rest := hd.rest.trans (congrArg (fun d : Chip => { d with flt := t.flt, pkg := t.pkg, out := t.out }) h.rest)
  flt := hd.flt.trans (congrArg (fun f : Flt => { f with
    err := t.flt.err, lastTime := t.flt.lastTime, lastCode := t.flt.lastCode, cntBeacon := t.flt.cntBeacon, cntSuppr := t.flt.cntSuppr
    beacons := t.flt.beacons, beaconSeq := t.flt.beaconSeq, thisSecond := t.flt.thisSecond, suppressed := t.flt.suppressed }) h.flt)
  pkg := hd.pkg.trans (congrArg (fun p : Pkg => { p with
    irqStatus := t.pkg.irqStatus, pba := t.pkg.pba, merge := t.pkg.merge, sentAt := t.pkg.sentAt }) h.pkg)

theorem Chip.sendVector_reports (c : Chip) (v : Nat) : c.Reports (c.sendVector v) := by
  unfold Chip.sendVector
  split <;> exact ⟨rfl, rfl, rfl⟩

theorem Chip.vectorEvent_reports (c : Chip) (v : Nat) : c.Reports (c.vectorEvent v) := by
  unfold Chip.vectorEvent
  split
  · exact ⟨rfl, rfl, rfl⟩
  · exact c.sendVector_reports v

theorem Chip.irqCause_reports (c : Chip) (b : Nat) : c.Reports (c.irqCause b) := by
  unfold Chip.irqCause
  split
  · refine Chip.Reports.trans ?_ (Chip.vectorEvent_reports _ _)
    exact ⟨rfl, rfl, rfl⟩
  · exact .refl c

theorem Chip.fltErr_reports (c : Chip) (b : Nat) : c.Reports (c.fltErr b) := by
  have h : c.Reports { c with flt := { c.flt with err := setBit c.flt.err b } } := ⟨rfl, rfl, rfl⟩
  unfold Chip.fltErr
  dsimp only
  split
  · exact h
  · exact h.trans (Chip.irqCause_reports _ _)

theorem Chip.sendBeacon_reports (c : Chip) (b : Beacon) (copy : Nat) : c.Reports (c.sendBeacon b copy) := by
  unfold Chip.sendBeacon
  dsimp only
  split
  · exact .refl c
  · exact ⟨rfl, rfl, rfl⟩

theorem Chip.event_reports (c : Chip) (e : Event) : c.Reports (c.event e) := by
  unfold Chip.event
  dsimp only
  split
  · refine Chip.Reports.trans ?_ (Chip.fltErr_reports _ _)
    exact ⟨rfl, rfl, rfl⟩
  · split
    · refine Chip.Reports.trans ?_ (Chip.sendBeacon_reports _ _ _)
      exact ⟨rfl, rfl, rfl⟩
    · exact ⟨rfl, rfl, rfl⟩

theorem Chip.powerBeacon_reports (c : Chip) (cause severity arg : Nat) (unit : BitVec 16) :
    c.Reports (c.powerBeacon cause severity arg unit) := c.event_reports _

theorem Chip.pwrErr_reports (c : Chip) (b : Nat) :
    Chip.Reports { c with pwr := { c.pwr with err := setBit c.pwr.err b } } (c.pwrErr b) := by
  unfold Chip.pwrErr
  dsimp only
  split
  · exact .refl _
  · exact Chip.irqCause_reports _ _

theorem Chip.thmErr_reports (c : Chip) (b : Nat) :
    Chip.Reports { c with thm := { c.thm with err := setBit c.thm.err b } } (c.thmErr b) := by
  unfold Chip.thmErr
  dsimp only
  split
  · exact .refl _
  · exact Chip.irqCause_reports _ _

/-! Field by field. -/

section
variable (h : c.Reports t)
include h

theorem Chip.Reports.cores : t.cores = c.cores := (congrArg Chip.cores h.rest :)

theorem Chip.Reports.core (n : CoreId) : t.core n = c.core n := by rw [Chip.core, h.cores, Chip.core]

theorem Chip.Reports.engines : t.engines = c.engines := (congrArg Chip.engines h.rest :)

theorem Chip.Reports.stks : t.stks = c.stks := (congrArg Chip.stks h.rest :)

theorem Chip.Reports.links : t.links = c.links := (congrArg Chip.links h.rest :)

theorem Chip.Reports.frm : t.frm = c.frm := (congrArg Chip.frm h.rest :)

theorem Chip.Reports.rte : t.rte = c.rte := (congrArg Chip.rte h.rest :)

theorem Chip.Reports.mbx : t.mbx = c.mbx := (congrArg Chip.mbx h.rest :)

theorem Chip.Reports.bru : t.bru = c.bru := (congrArg Chip.bru h.rest :)

theorem Chip.Reports.pwr : t.pwr = c.pwr := (congrArg Chip.pwr h.rest :)

theorem Chip.Reports.thm : t.thm = c.thm := (congrArg Chip.thm h.rest :)

theorem Chip.Reports.fuse : t.fuse = c.fuse := (congrArg Chip.fuse h.rest :)

/-- No reset is ordered, begun or ended by a report. -/
theorem Chip.Reports.resets : t.flt.resetPending = c.flt.resetPending ∧ t.flt.rdomain = c.flt.rdomain
    ∧ t.flt.rphase = c.flt.rphase ∧ t.flt.resetDue = c.flt.resetDue ∧ t.flt.regFault = c.flt.regFault :=
  ⟨(congrArg Flt.resetPending h.flt :), (congrArg Flt.rdomain h.flt :), (congrArg Flt.rphase h.flt :), (congrArg Flt.resetDue h.flt :),
    (congrArg Flt.regFault h.flt :)⟩

/-- No refused write is recorded by a report. -/
theorem Chip.Reports.refusals : t.pkg.err = c.pkg.err ∧ t.pkg.cntRefused = c.pkg.cntRefused :=
  ⟨(congrArg Pkg.err h.pkg :), (congrArg Pkg.cntRefused h.pkg :)⟩

end

end Sys2Proof.Machine
end

section
/-! SUPPORT. Reads of BAR0 and the shadows of the 64-bit registers (R418, R420). -/
namespace Sys2Proof.Machine

variable {c : Chip} {b : RegBlock} {o r : Nat}

theorem exec_reg64LowRead (x : Bar0Access) (s : State) : exec (.reg64LowRead x) s =
    s.lift (fun c => c.host (fun c => if oneDw x then c.regRead x.off.toNat else c.unsupported)) := rfl

theorem Chip.readReg_low {v : Dword} (hr : regAt o = some (b, r)) (hg : c.gone b = false) (hv : c.readDword b r = some v) :
    c.readReg o = (v.setWidth 32, { c with pkg := { c.pkg with shadow := tset 0 c.pkg.shadow o (v.extractLsb' 32 32) } }) := by
  simp only [Chip.readReg, hr, hg, hv, Bool.false_eq_true, if_false]
  rfl

theorem Chip.readReg_high {v : Dword} (hr : regAt o = some (b, r)) (hg : c.gone b = false) (hn : c.readDword b r = none) (h4 : 4 ≤ r)
    (hv : c.readDword b (r - 4) = some v) : c.readReg o = (tget 0 c.pkg.shadow (o - 4), c) := by
  simp only [Chip.readReg, hr, hg, hn, hv, h4, Option.isSome_some, and_self, Bool.false_eq_true, if_false, if_true]

theorem hostGives_reg64LowRead_of_not_oneDw {x : Bar0Access} {s : State} (hx : ¬ oneDw x = true) :
    HostGives (.reg64LowRead x) s s.chip.unsupported := fun hu =>
  .of_lift (exec_reg64LowRead x s) (by rw [Chip.host_of_hostUp hu, if_neg hx])

theorem hostGives_reg64LowRead_of_oneDw {x : Bar0Access} {s : State} {w : Word} {t : Chip} (hx : oneDw x = true)
    (hr : s.chip.readReg (x.off.toNat % 0x4000000) = (w, t)) : HostGives (.reg64LowRead x) s (t.emit (.bar0Data w)) := fun hu =>
  .of_lift (exec_reg64LowRead x s) (by rw [Chip.host_of_hostUp hu, if_pos hx, Chip.regRead, hr])

end Sys2Proof.Machine
end

section
/-! SUPPORT. The parity bit of a configuration word, and what flipped bits make of the word (R424, R425). -/
namespace Sys2Proof.Machine

/-- The exclusive or of the first `n` bits. -/
def xorBits (n : Nat) (f : Nat → Bool) : Bool := (List.range n).foldl (fun p i => p ^^ f i) false

theorem foldl_xor_init (f : Nat → Bool) (l : List Nat) (b : Bool) :
    l.foldl (fun p i => p ^^ f i) b = (b ^^ l.foldl (fun p i => p ^^ f i) false) := by
  induction l generalizing b with
  | nil => simp
  | cons i l ih => rw [List.foldl_cons, ih, List.foldl_cons, ih (false ^^ f i), Bool.false_xor, Bool.xor_assoc]

theorem xorBits_succ (n : Nat) (f : Nat → Bool) : xorBits (n + 1) f = (xorBits n f ^^ f n) := by
  rw [xorBits, List.range_succ, List.foldl_append]
  rfl

theorem xorBits_succ_low (n : Nat) (f : Nat → Bool) : xorBits (n + 1) f = (f 0 ^^ xorBits n (fun i => f (i + 1))) := by
  rw [xorBits, List.range_succ_eq_map, List.foldl_cons, foldl_xor_init, List.foldl_map, Bool.false_xor]
  rfl

theorem xorBits_xor (n : Nat) (f g : Nat → Bool) : xorBits n (fun i => f i ^^ g i) = (xorBits n f ^^ xorBits n g) := by
  induction n with
  | zero => rfl
  | succ n ih =>
    simp only [xorBits_succ, ih]
    cases xorBits n f <;> cases xorBits n g <;> cases f n <;> cases g n <;> rfl

theorem xorBits_congr {n : Nat} {f g : Nat → Bool} (h : ∀ i < n, f i = g i) : xorBits n f = xorBits n g := by
  induction n with
  | zero => rfl
  | succ n ih => rw [xorBits_succ, xorBits_succ, ih (fun i hi => h i (by omega)), h n (by omega)]

/-- The number of one bits is odd where their exclusive or is one. -/
theorem popCount_odd_iff (n v : Nat) : popCount n v % 2 = 1 ↔ xorBits n v.testBit = true := by
  induction n generalizing v with
  | zero => simp [popCount, xorBits]
  | succ n ih =>
    have hrest : xorBits n (fun i => v.testBit (i + 1)) = xorBits n (v / 2).testBit :=
      xorBits_congr (fun i _ => Nat.testBit_succ v i)
    rw [xorBits_succ_low, hrest, popCount, Nat.testBit_zero]
    have := ih (v / 2)
    cases hx : xorBits n (v / 2).testBit <;> rcases Nat.mod_two_eq_zero_or_one v with hv | hv <;> simp [hx, hv] at this ⊢ <;> omega

theorem parityOf_xor (v w : Word) : parityOf (v ^^^ w) = (parityOf v ^^ parityOf w) := by
  refine (xorBits_congr (fun i _ => ?_)).trans (xorBits_xor 32 v.getLsbD w.getLsbD)
  exact BitVec.getLsbD_xor

/-- 32 flipped bits and a flipped parity bit, together. -/
theorem parityOf_flips (m : BitVec 33) : (parityOf (m.setWidth 32) ^^ m.getLsbD 32) = xorBits 33 m.toNat.testBit := by
  rw [xorBits_succ]
  congr 1
  refine xorBits_congr (fun i hi => ?_)
  rw [BitVec.getLsbD_setWidth, decide_eq_true hi, Bool.true_and]
  rfl

section
variable {k : CfgWord} {m : BitVec 33} (hk : k = CfgWord.of k.stored)
include hk

/-- The check finds an odd number of flips of a word as a write has left it, and no even number. -/
theorem CfgWord.bad_upset : (k.upset m).bad = xorBits 33 m.toNat.testBit := by
  have hp : k.parity = parityOf k.stored := congrArg CfgWord.parity hk
  rw [← parityOf_flips, CfgWord.bad, CfgWord.upset, hp]
  simp only [parityOf_xor]
  cases parityOf k.stored <;> cases parityOf (m.setWidth 32) <;> cases m.getLsbD 32 <;> rfl

theorem CfgWord.bad_upset_of_odd (h : popCount 33 m.toNat % 2 = 1) : (k.upset m).bad = true := by
  rw [CfgWord.bad_upset hk, (popCount_odd_iff 33 m.toNat).mp h]

theorem CfgWord.bad_upset_of_even (h : popCount 33 m.toNat % 2 = 0) : (k.upset m).bad = false := by
  rw [CfgWord.bad_upset hk, ← Bool.not_eq_true, ← popCount_odd_iff]
  omega

theorem CfgWord.check_upset_of_odd (h : popCount 33 m.toNat % 2 = 1) : (k.upset m).check = { k.upset m with held := true } :=
  if_pos (CfgWord.bad_upset_of_odd hk h)

theorem CfgWord.check_upset_of_even (h : popCount 33 m.toNat % 2 = 0) :
    (k.upset m).check = CfgWord.of (k.stored ^^^ m.setWidth 32) := by
  have hh : (k.upset m).held = false := congrArg CfgWord.held hk
  rw [CfgWord.check, CfgWord.bad_upset_of_even hk h, hh]
  rfl

end

theorem CfgWord.bad_of (w : Word) : (CfgWord.of w).bad = false := bne_self_eq_false _

theorem CfgWord.check_of (w : Word) : (CfgWord.of w).check = CfgWord.of w := by
  rw [CfgWord.check, CfgWord.bad_of]
  rfl

end Sys2Proof.Machine
end

section
/-! SUPPORT. The parity sweep over the configuration words (R424, R425, Table 16-5). -/
namespace Sys2Proof.Machine

/-! Tables written back. -/

section
variable {α : Type} [DecidableEq α] {d : α}

theorem tset_tget_selfAbove {b : Nat} {t : Tab α} (h : twfAbove d b t = true) (i : Nat) : tset d t i (tget d t i) = t := by
  induction t generalizing b with
  | nil => simp [tget, tset]
  | cons p t ih =>
    obtain ⟨k, x⟩ := p
    simp only [twfAbove, Bool.and_eq_true, decide_eq_true_eq] at h
    obtain ⟨hb, hx, ht⟩ := h
    rcases Nat.lt_trichotomy k i with hk | hk | hk
    · simp only [tget, tset, if_neg (Nat.ne_of_lt hk), if_neg (Nat.lt_asymm hk), if_pos hk, ih ht]
    · simp [tget, tset, hk, hx]
    · simp [tget, tset, Nat.lt_asymm hk, Nat.ne_of_gt hk, hk]

/-- Writing back what an entry holds changes nothing. -/
theorem tset_tget_self {t : Tab α} (h : twf d t = true) (i : Nat) : tset d t i (tget d t i) = t := tset_tget_selfAbove h i

theorem tset_append {t : Tab α} {k : Nat} (h : ∀ q ∈ t, q.1 < k) (v : α) :
    tset d t k v = t ++ if v = d then [] else [(k, v)] := by
  induction t with
  | nil => rfl
  | cons p t ih =>
    rw [tset, if_pos (h p List.mem_cons_self), ih (fun q hq => h q (List.mem_cons_of_mem p hq))]
    rfl

omit [DecidableEq α] in
theorem tget_of_lt {t : Tab α} {i : Nat} (h : ∀ q ∈ t, i < q.1) : tget d t i = d := by
  cases t with
  | nil => rfl
  | cons p t =>
    have hp := h p List.mem_cons_self
    rw [tget, if_neg (Nat.ne_of_gt hp), if_pos hp]

end

/-- A table with a default of its own for each key, written anew entry by entry, keeps the entries that are not their default. -/
theorem foldl_tset_sorted {α : Type} [DecidableEq α] (D : Nat → α) (l acc : Tab α) (hl : ((acc ++ l).map (·.1)).Pairwise (· < ·)) :
    l.foldl (fun t p => tset (D p.1) t p.1 p.2) acc = acc ++ l.filter (fun p => p.2 ≠ D p.1) := by
  induction l generalizing acc with
  | nil => simp
  | cons p l ih =>
    have hp : ∀ q ∈ acc, q.1 < p.1 := fun q hq => by
      rw [List.map_append, List.pairwise_append] at hl
      exact hl.2.2 _ (List.mem_map_of_mem hq) _ (List.mem_map_of_mem List.mem_cons_self)
    rw [List.foldl_cons, tset_append hp]
    by_cases hv : p.2 = D p.1
    · have hl' : ((acc ++ l).map (·.1)).Pairwise (· < ·) :=
        hl.sublist (((List.sublist_cons_self p l).append_left acc).map _)
      rw [if_pos hv, List.append_nil, ih acc hl', List.filter_cons_of_neg (by simpa using hv)]
    · rw [if_neg hv, ih _ (by rwa [List.append_assoc]), List.filter_cons_of_pos (by simpa using hv), List.append_assoc]
      rfl

/-- Entries that hold their default can be left out. -/
theorem tget_filter_default {α : Type} [DecidableEq α] (D : Nat → α) (l : Tab α) (hl : (l.map (·.1)).Pairwise (· < ·)) (i : Nat) :
    tget (D i) (l.filter (fun p => p.2 ≠ D p.1)) i = tget (D i) l i := by
  induction l with
  | nil => rfl
  | cons p l ih =>
    obtain ⟨k, v⟩ := p
    obtain ⟨hk, hl⟩ := List.pairwise_cons.mp hl
    have hrest : ∀ q ∈ l, k < q.1 := fun q hq => hk _ (List.mem_map_of_mem hq)
    by_cases hv : v = D k
    · rw [List.filter_cons_of_neg (by simpa using hv), ih hl, tget]
      split
      case isTrue hki =>
        subst hki
        rw [hv, tget_of_lt hrest]
      case isFalse =>
        split
        case isTrue hlt => exact tget_of_lt (fun q hq => Nat.lt_trans hlt (hrest q hq))
        case isFalse => rfl
    · rw [List.filter_cons_of_pos (by simpa using hv), tget, tget, ih hl]

/-! The words of each kind. -/

theorem bit_flag (b : Bool) {i j : Nat} (hj : j < 32) : bit (flag b i) j = (b && decide (i = j)) := by
  cases b
  · simp [flag, bit]
  · simp only [flag, bit, if_true, BitVec.getLsbD_ofNat, hj, decide_true, Nat.testBit_two_pow, Bool.true_and]

variable {c : Chip}

/-- No configuration word is of a kind. -/
theorem Chip.cfgBits_eq_zero_iff (f : CfgWord → Bool) : c.cfgBits f = 0 ↔
    f c.pkg.irqEn = false ∧ f c.mbx.ctl = false ∧ (∀ l, f (c.link l).ctl = false) ∧ f c.pwr.ctl = false
      ∧ (f c.frm.ctl = false ∧ ∀ p ∈ c.frm.slipMap, f p.2 = false) ∧ f c.flt.ctl = false ∧ f c.bru.ctl = false
      ∧ (f c.rte.id = false ∧ f c.rte.ctl = false) := by
  constructor
  · intro h
    have hbit : ∀ i < 8, bit (c.cfgBits f) i = false := fun i _ => by rw [h]; exact BitVec.getLsbD_zero
    have hlinks : ∀ l ∈ allLinks, f (c.link l).ctl = false := by simpa [Chip.cfgBits, bit_flag] using hbit 2 (by omega)
    have hfrm : f c.frm.ctl = false ∧ ∀ i w, (i, w) ∈ c.frm.slipMap → f w = false := by
      simpa [Chip.cfgBits, bit_flag] using hbit 4 (by omega)
    refine ⟨?_, ?_, fun l => hlinks l (mem_allLinks l), ?_, ⟨hfrm.1, fun p hp => hfrm.2 p.1 p.2 hp⟩, ?_, ?_, ?_⟩
    · simpa [Chip.cfgBits, bit_flag] using hbit 0 (by omega)
    · simpa [Chip.cfgBits, bit_flag] using hbit 1 (by omega)
    · simpa [Chip.cfgBits, bit_flag] using hbit 3 (by omega)
    · simpa [Chip.cfgBits, bit_flag] using hbit 5 (by omega)
    · simpa [Chip.cfgBits, bit_flag] using hbit 6 (by omega)
    · simpa [Chip.cfgBits, bit_flag] using hbit 7 (by omega)
  · rintro ⟨h0, h1, h2, h3, ⟨h4, h4'⟩, h5, h6, h7, h7'⟩
    have hlinks : allLinks.any (fun l => f (c.link l).ctl) = false := by simp [h2]
    have hmap : c.frm.slipMap.any (fun p => f p.2) = false := List.any_eq_false.mpr (fun p hp => Bool.eq_false_iff.mp (h4' p hp))
    rw [Chip.cfgBits, h0, h1, hlinks, h3, h4, hmap, h5, h6, h7, h7']
    rfl

/-! One sweep. -/

/-- A fold that changes links alone. -/
theorem Chip.foldl_links_eq {α : Type} {g : Chip → α → Chip} (hg : ∀ c x, ∃ links, g c x = { c with links := links })
    (l : List α) (c : Chip) : ∃ links : Tab Link, l.foldl g c = { c with links := links } := by
  induction l generalizing c with
  | nil => exact ⟨c.links, rfl⟩
  | cons x l ih =>
    obtain ⟨links, h⟩ := hg c x
    obtain ⟨links', h'⟩ := ih (g c x)
    exact ⟨links', by rw [List.foldl_cons, h', h]⟩

/-- What `f` makes of LNK_CTL of a link that is there. -/
def Chip.mapLinkCtl (f : CfgWord → CfgWord) (c : Chip) (l : LinkId) : Chip :=
  if c.fuse.linkOn l.val then c.modLink l (fun k => { k with ctl := f k.ctl }) else c

theorem Chip.mapLinkCtl_eq (f : CfgWord → CfgWord) (c : Chip) (l : LinkId) :
    ∃ links, c.mapLinkCtl f l = { c with links := links } := by
  unfold Chip.mapLinkCtl
  split
  · exact ⟨_, rfl⟩
  · exact ⟨c.links, rfl⟩

theorem Chip.mapLinkCtl_fixed {f : CfgWord → CfgWord} (hc : twf Link.zero c.links = true) {l : LinkId}
    (h : f (c.link l).ctl = (c.link l).ctl) : c.mapLinkCtl f l = c := by
  unfold Chip.mapLinkCtl
  split
  · have hk : ({ c.link l with ctl := f (c.link l).ctl } : Link) = c.link l := by rw [h]
    rw [Chip.modLink, hk, Chip.setLink, Chip.link, tset_tget_self hc]
  · rfl

/-- The package with every configuration word but those of the links and of the slip map changed. -/
def Chip.mapSingles (c : Chip) (f : CfgWord → CfgWord) : Chip := { c with
  pkg := { c.pkg with irqEn := f c.pkg.irqEn }, mbx := { c.mbx with ctl := f c.mbx.ctl }
  pwr := { c.pwr with ctl := f c.pwr.ctl }, frm := { c.frm with ctl := f c.frm.ctl }
  flt := { c.flt with ctl := f c.flt.ctl }, bru := { c.bru with ctl := f c.bru.ctl }
  rte := { c.rte with id := f c.rte.id, ctl := f c.rte.ctl } }

/-- The slip map with its words changed. -/
def Frm.mappedSlips (r : Frm) (f : CfgWord → CfgWord) : Tab CfgWord :=
  r.slipMap.foldl (fun t p => tset (CfgWord.of (slipMapReset p.1)) t p.1 (f p.2)) []

/-- The check of all words changes words alone; of the links it makes what `mapLinkCtl` does, one by one. -/
theorem Chip.mapCfg_eq {f : CfgWord → CfgWord} {links : Tab Link}
    (h : allLinks.foldl (Chip.mapLinkCtl f) ((c.modPkg (fun p => { p with irqEn := f p.irqEn })).modMbx (fun m => { m with ctl := f m.ctl }))
      = { c with pkg := { c.pkg with irqEn := f c.pkg.irqEn }, mbx := { c.mbx with ctl := f c.mbx.ctl }, links := links }) :
    c.mapCfg f = { c.mapSingles f with links := links, frm := { (c.mapSingles f).frm with slipMap := c.frm.mappedSlips f } } := by
  unfold Chip.mapCfg
  extract_lets c1 c2 c3
  have h2 : c2 = { c with pkg := { c.pkg with irqEn := f c.pkg.irqEn }, mbx := { c.mbx with ctl := f c.mbx.ctl }, links := links } := h
  simp only [c3, h2]
  rfl

theorem Chip.mapCfg_rte (c : Chip) (f : CfgWord → CfgWord) :
    (c.mapCfg f).rte = { c.rte with id := f c.rte.id, ctl := f c.rte.ctl } := by
  obtain ⟨links, h⟩ := Chip.foldl_links_eq (Chip.mapLinkCtl_eq f) allLinks
    ((c.modPkg (fun p => { p with irqEn := f p.irqEn })).modMbx (fun m => { m with ctl := f m.ctl }))
  rw [Chip.mapCfg_eq h]
  rfl

/-- Where `f` leaves every word, the slip map apart all is as before. -/
theorem Chip.mapCfg_fixed {f : CfgWord → CfgWord} (hc : twf Link.zero c.links = true) (hl : ∀ l, f (c.link l).ctl = (c.link l).ctl)
    (hs : c.mapSingles f = c) : c.mapCfg f = { c with frm := { c.frm with slipMap := c.frm.mappedSlips f } } := by
  have hpkg : ({ c.pkg with irqEn := f c.pkg.irqEn } : Pkg) = c.pkg := congrArg Chip.pkg hs
  have hmbx : ({ c.mbx with ctl := f c.mbx.ctl } : Mbx) = c.mbx := congrArg Chip.mbx hs
  have h := Chip.foldl_fixed (g := Chip.mapLinkCtl f) (c := c) (fun l => Chip.mapLinkCtl_fixed hc (hl l)) allLinks
  rw [Chip.mapCfg_eq (links := c.links) (by rw [hpkg, hmbx, Chip.modPkg, hpkg, Chip.modMbx, hmbx]; exact h), hs]

section
variable {r : Frm} {f : CfgWord → CfgWord} (hl : (r.slipMap.map (·.1)).Pairwise (· < ·)) (hf : ∀ p ∈ r.slipMap, f p.2 = p.2)
include hl hf

theorem Frm.mappedSlips_eq_filter : r.mappedSlips f = r.slipMap.filter (fun p => p.2 ≠ CfgWord.of (slipMapReset p.1)) := by
  rw [Frm.mappedSlips, List.foldl_ext (g := fun t p => tset (CfgWord.of (slipMapReset p.1)) t p.1 p.2)]
  · exact foldl_tset_sorted (fun k => CfgWord.of (slipMapReset k)) r.slipMap [] hl
  · intro t p hp
    rw [hf p hp]

/-- The slip map written anew shows what it showed. -/
theorem Frm.mapWord_mappedSlips (i : Nat) : Frm.mapWord { r with slipMap := r.mappedSlips f } i = r.mapWord i := by
  rw [Frm.mapWord, Frm.mappedSlips_eq_filter hl hf, tget_filter_default (fun k => CfgWord.of (slipMapReset k)) r.slipMap hl, Frm.mapWord]

end

/-! What is raised. -/

theorem Chip.Tells.rte {t : Chip} (h : c.Tells t) : t.rte = c.rte := by
  obtain ⟨_, _, _, _, _, _, rfl⟩ := h
  rfl

/-- The report `f` of the blocks of bit `i` of PKG_CFGSUM, where `s` has the bit. -/
def Chip.raiseWhere (s : Word) (i : Nat) (f : Chip → Chip) (c : Chip) : Chip := if bit s i then f c else c

/-- CFG_PARITY of every block but routing. -/
def Chip.raiseOthers (s : Word) (c : Chip) : Chip :=
  let lnk := fun (c : Chip) => allLinks.foldl (fun c l => if (c.link l).ctl.bad then c.modLink l (fun k => k.raise 12) else c) c
  let c1 := Chip.raiseWhere s 1 (·.mbxErr 7) (Chip.raiseWhere s 0 (·.modPkg (fun p => { p with err := setBit p.err 0 })) c)
  let c2 := Chip.raiseWhere s 4 (·.modFrm (·.raise 11)) (Chip.raiseWhere s 3 (·.pwrErr 9) (Chip.raiseWhere s 2 lnk c1))
  Chip.raiseWhere s 6 (·.bruErr 14) (Chip.raiseWhere s 5 (·.fltErr 13) c2)

theorem Chip.raiseParity_eq (c : Chip) : c.raiseParity =
    Chip.raiseWhere (c.cfgBits (·.bad)) 7 (·.modRte (·.raise 12)) (Chip.raiseOthers (c.cfgBits (·.bad)) c) := rfl

theorem Chip.raiseWhere_rte {f : Chip → Chip} (hf : ∀ d, (f d).rte = d.rte) (s : Word) (i : Nat) (d : Chip) :
    (Chip.raiseWhere s i f d).rte = d.rte := by
  unfold Chip.raiseWhere
  split
  · exact hf d
  · rfl

theorem Chip.raiseOthers_rte (s : Word) (c : Chip) : (Chip.raiseOthers s c).rte = c.rte := by
  unfold Chip.raiseOthers
  extract_lets lnk
  have hlnk : ∀ d, (lnk d).rte = d.rte := fun d => Chip.foldl_proj (·.rte) _ (fun d l => by split <;> rfl) allLinks d
  rw [Chip.raiseWhere_rte (f := (·.bruErr 14)) (fun _ => rfl), Chip.raiseWhere_rte (fun d => (d.fltErr_reports 13).rte),
    Chip.raiseWhere_rte (f := (·.modFrm (·.raise 11))) (fun _ => rfl), Chip.raiseWhere_rte (fun d => (d.pwrErr_reports 9).rte),
    Chip.raiseWhere_rte hlnk, Chip.raiseWhere_rte (fun d => (d.mbxErr_tells 7).rte),
    Chip.raiseWhere_rte (f := (·.modPkg (fun p => { p with err := setBit p.err 0 }))) (fun _ => rfl)]

theorem Chip.raiseParity_rte (c : Chip) :
    c.raiseParity.rte = if bit (c.cfgBits (·.bad)) 7 then c.rte.raise 12 else c.rte := by
  rw [Chip.raiseParity_eq, Chip.raiseWhere, apply_ite Chip.rte]
  simp only [Chip.modRte_rte, Chip.raiseOthers_rte]

theorem Chip.raiseParity_of_none (h : c.cfgBits (·.bad) = 0) : c.raiseParity = c := by
  have hbit : ∀ i, bit (c.cfgBits (·.bad)) i = false := fun i => by rw [h]; exact BitVec.getLsbD_zero
  simp only [Chip.raiseParity, hbit, Bool.false_eq_true, if_false]

theorem Chip.bit_cfgBits_routing (f : CfgWord → Bool) : bit (c.cfgBits f) 7 = (f c.rte.id || f c.rte.ctl) := by
  simp [Chip.cfgBits, bit_flag]

/-- The report leaves RTE_ID, and raises CFG_PARITY of the routing block where RTE_ID is at fault. -/
theorem Chip.raiseParity_routing (c : Chip) :
    c.raiseParity.rte.id = c.rte.id ∧ (c.rte.id.bad = true → bit c.raiseParity.rte.err 12 = true) := by
  rw [Chip.raiseParity_rte]
  refine ⟨(apply_ite Rte.id _ _ _).trans (ite_self _), fun hb => ?_⟩
  rw [Chip.bit_cfgBits_routing, hb, Bool.true_or, if_pos rfl]
  exact bit_setBit_same _ (by decide)

/-! The sweep as a command. -/

theorem exec_cfgParitySweep (ups : List (Nat × BitVec 33)) (s : State) :
    exec (.cfgParitySweep ups) s = s.lift (paritySweepEffect ups) := rfl

/-- A word as a write leaves it passes the check. -/
theorem CfgWord.sound {w : CfgWord} (h : (w != CfgWord.of w.stored) = false) : w.check = w ∧ w.bad = false := by
  rw [bne_eq_false_iff_eq.mp h, CfgWord.check_of, CfgWord.bad_of]
  exact ⟨rfl, rfl⟩

theorem Chip.slips_checked (hw : c.cfgBits (fun w => w != CfgWord.of w.stored) = 0) :
    ∀ p ∈ c.frm.slipMap, p.2.check = p.2 := by
  obtain ⟨-, -, -, -, ⟨-, hmap⟩, -⟩ := (Chip.cfgBits_eq_zero_iff _).mp hw
  exact fun p hp => (CfgWord.sound (hmap p hp)).1

/-- Every word as a write leaves it: the sweep without flips leaves the package but for the canonical form of the slip map. -/
theorem paritySweepEffect_quiet (hd : c.mbx.dstate ≠ .off) (hc : twf Link.zero c.links = true)
    (hl : (c.frm.slipMap.map (·.1)).Pairwise (· < ·)) (hw : c.cfgBits (fun w => w != CfgWord.of w.stored) = 0) :
    paritySweepEffect [] c = { c with frm := { c.frm with slipMap := c.frm.mappedSlips CfgWord.check } } := by
  obtain ⟨hirq, hmbx, hlnk, hpwr, ⟨hfrm, hmap⟩, hflt, hbru, hid, hrte⟩ := (Chip.cfgBits_eq_zero_iff _).mp hw
  have hslips : c.frm.mappedSlips CfgWord.check = c.frm.slipMap.filter (fun p => p.2 ≠ CfgWord.of (slipMapReset p.1)) :=
    Frm.mappedSlips_eq_filter hl (Chip.slips_checked hw)
  have hsingles : c.mapSingles CfgWord.check = c := by
    simp only [Chip.mapSingles, CfgWord.sound hirq, CfgWord.sound hmbx, CfgWord.sound hpwr, CfgWord.sound hfrm, CfgWord.sound hflt, CfgWord.sound hbru,
      CfgWord.sound hid, CfgWord.sound hrte]
  rw [paritySweepEffect, if_neg hd, List.foldl_nil, Chip.mapCfg_fixed hc (fun l => (CfgWord.sound (hlnk l)).1) hsingles]
  refine Chip.raiseParity_of_none ((Chip.cfgBits_eq_zero_iff _).mpr ⟨(CfgWord.sound hirq).2, (CfgWord.sound hmbx).2, fun l => (CfgWord.sound (hlnk l)).2,
    (CfgWord.sound hpwr).2, ⟨(CfgWord.sound hfrm).2, fun p hp => ?_⟩, (CfgWord.sound hflt).2, (CfgWord.sound hbru).2, (CfgWord.sound hid).2, (CfgWord.sound hrte).2⟩)
  rw [hslips] at hp
  exact (CfgWord.sound (hmap p (List.mem_of_mem_filter hp))).2

theorem Chip.upsetCfg_rteId (c : Chip) (m : BitVec 33) :
    c.upsetCfg 0x2F00000 m = c.modRte (fun r => { r with id := r.id.upset m }) := by
  have hr : regAt 0x2F00000 = some (.rte, 0) := rfl
  simp only [Chip.upsetCfg, hr]

/-- Flips of RTE_ID: the word as the check leaves it, and CFG_PARITY of the routing block where it is found. -/
theorem paritySweepEffect_rteId (hd : c.mbx.dstate ≠ .off) (m : BitVec 33) :
    (paritySweepEffect [(0x2F00000, m)] c).rte.id = (c.rte.id.upset m).check
      ∧ ((c.rte.id.upset m).check.bad = true → bit (paritySweepEffect [(0x2F00000, m)] c).rte.err 12 = true) := by
  have hid : ((c.modRte (fun r => { r with id := r.id.upset m })).mapCfg CfgWord.check).rte.id = (c.rte.id.upset m).check :=
    (congrArg Rte.id (Chip.mapCfg_rte _ CfgWord.check) :)
  rw [paritySweepEffect, if_neg hd, List.foldl_cons, List.foldl_nil, Chip.upsetCfg_rteId, ← hid]
  exact Chip.raiseParity_routing _

/-- Settles O32: reads word by word, then the sweep when it is off, with nothing flipped, and with RTE_ID flipped. -/
theorem registerReadsAndParity : Obligations.RegisterReadsAndParity := by
  intro x s c o p one
  have hone : one → oneDw x = true := (oneDw_iff x).mpr
  refine ⟨fun h => hostGives_reg64LowRead_of_not_oneDw (mt (oneDw_iff x).mp h),
    fun h => hostGives_reg64LowRead_of_oneDw (hone h) rfl,
    fun b r v h hr hg hv => hostGives_reg64LowRead_of_oneDw (hone h) (Chip.readReg_low hr hg hv),
    fun b r v y h hr hg hn h4 hv hy => ?high, fun ups hd => ?off, fun hc hl hw => ?quiet, fun m hd hid => ?flips⟩
  case high =>
    subst hy
    exact hostGives_reg64LowRead_of_oneDw (hone h) (Chip.readReg_high hr hg hn h4 hv)
  case off => exact .of_lift (exec_cfgParitySweep ups s) (if_pos hd)
  case quiet =>
    refine .of_lift (exec_cfgParitySweep [] s) ?_
    by_cases hd : c.mbx.dstate = .off
    · rw [show paritySweepEffect [] s.chip = c from if_pos hd]
      exact ⟨rfl, rfl, rfl, rfl, rfl, rfl, rfl, rfl, rfl, rfl, rfl, fun _ => rfl⟩
    · rw [paritySweepEffect_quiet hd hc.links hl hw]
      exact ⟨rfl, rfl, rfl, rfl, rfl, rfl, rfl, rfl, rfl, rfl, rfl, Frm.mapWord_mappedSlips hl (Chip.slips_checked hw)⟩
  case flips =>
    obtain ⟨hword, herr⟩ := paritySweepEffect_rteId hd m
    refine ⟨fun hodd => .of_lift (exec_cfgParitySweep _ s) ?_, fun heven => .of_lift (exec_cfgParitySweep _ s) ?_⟩
    · have hheld := hword.trans (CfgWord.check_upset_of_odd hid hodd)
      refine ⟨hheld, (congrArg CfgWord.val hheld :), herr ?_⟩
      rw [CfgWord.check_upset_of_odd hid hodd]
      exact CfgWord.bad_upset_of_odd hid hodd
    · exact hword.trans (CfgWord.check_upset_of_even hid heven)

end Sys2Proof.Machine
end

section
/-! SUPPORT. The cap in force, ballast work and the alert, as the operations of the power manager leave them (R363 to R366, R375, R383). -/
namespace Sys2Proof.Machine

variable {c : Chip}

/-! All units changed. -/

theorem Chip.mapUnits_eq (c : Chip) (f : Core → Core) (g : Engine → Engine) :
    ∃ cores engines, c.mapUnits f g = { c with cores := cores, engines := engines } := by
  have hcores : ∀ (l : Tab Core) (c : Chip), ∃ cores,
      l.foldl (fun c p => c.modCore (Fin.ofNat 2448 p.1) f) c = { c with cores := cores } := fun l => by
    induction l with
    | nil => exact fun c => ⟨c.cores, rfl⟩
    | cons p l ih => exact fun c => ih (c.modCore (Fin.ofNat 2448 p.1) f)
  have hengines : ∀ (l : Tab Engine) (c : Chip), ∃ engines,
      l.foldl (fun c p => c.modEngine (Fin.ofNat 1632 p.1) g) c = { c with engines := engines } := fun l => by
    induction l with
    | nil => exact fun c => ⟨c.engines, rfl⟩
    | cons p l ih => exact fun c => ih (c.modEngine (Fin.ofNat 1632 p.1) g)
  obtain ⟨cores, h1⟩ := hcores c.cores c
  obtain ⟨engines, h2⟩ := hengines c.engines { c with cores := cores }
  refine ⟨cores, engines, ?_⟩
  unfold Chip.mapUnits
  rw [h1]
  exact h2

/-! Ballast work suspended (R383). -/

theorem Chip.stopBallast_eq (c : Chip) : ∃ cores engines, c.stopBallast =
    { c with cores := cores, engines := engines, pwr := { c.pwr with ballastOn := false, windows := 0 } } := by
  obtain ⟨cores, engines, h⟩ := c.mapUnits_eq (fun k => k.setBallast 0) id
  refine ⟨cores, engines, ?_⟩
  rw [Chip.stopBallast, Chip.noBallast, h]
  rfl

@[simp] theorem Chip.stopBallast_pwr (c : Chip) : c.stopBallast.pwr = { c.pwr with ballastOn := false, windows := 0 } := by
  obtain ⟨_, _, h⟩ := c.stopBallast_eq
  rw [h]

@[simp] theorem Chip.stopBallast_pkg (c : Chip) : c.stopBallast.pkg = c.pkg := by
  obtain ⟨_, _, h⟩ := c.stopBallast_eq
  rw [h]

/-! The cap in force (R365). -/

theorem Pwr.fitted_eq (p : Pwr) : ∃ budget, p.fitted = { p with budget := budget } := by
  unfold Pwr.fitted
  split <;> exact ⟨_, rfl⟩

theorem Chip.recap_eq (c : Chip) : ∃ hardAt budget, c.recap =
    { c with pwr := { c.pwr with force := c.capNow.1, limit := BitVec.ofNat 4 c.capNow.2, hardAt := hardAt, budget := budget } } := by
  obtain ⟨budget, h⟩ := Pwr.fitted_eq { c.pwr with
    force := c.capNow.1, limit := BitVec.ofNat 4 c.capNow.2
    hardAt := if c.capNow.2 == 2 || c.capNow.2 == 3 then (if c.pwr.hardAt.isNone then some c.uptime else c.pwr.hardAt) else none }
  exact ⟨_, budget, congrArg (fun p => { c with pwr := p }) h⟩

theorem foldl_min_le (l : List (Nat × Nat)) (b : Nat × Nat) : (l.foldl (fun (b : Nat × Nat) t => if t.1 < b.1 then t else b) b).1 ≤ b.1
    ∧ ∀ t ∈ l, (l.foldl (fun (b : Nat × Nat) t => if t.1 < b.1 then t else b) b).1 ≤ t.1 := by
  induction l generalizing b with
  | nil => exact ⟨Nat.le_refl _, fun t ht => absurd ht List.not_mem_nil⟩
  | cons x l ih =>
    obtain ⟨hb, hl⟩ := ih (if x.1 < b.1 then x else b)
    have hx : (if x.1 < b.1 then x else b).1 ≤ x.1 ∧ (if x.1 < b.1 then x else b).1 ≤ b.1 := by
      split <;> omega
    refine ⟨Nat.le_trans hb hx.2, fun t ht => ?_⟩
    obtain rfl | ht := List.mem_cons.mp ht
    · exact Nat.le_trans hb hx.1
    · exact hl t ht

/-- E is at most each term in force. -/
theorem Chip.capNow_le {v k : Nat} (h : (v, k) ∈ c.capTerms) : c.capNow.1 ≤ v := (foldl_min_le c.capTerms (65536, 0)).2 (v, k) h

theorem Chip.capNow_le_of_airFail (h : c.pwr.airFail = true) : c.capNow.1 ≤ 400 :=
  Chip.capNow_le (k := 3) (by simp [Chip.capTerms, h])

theorem Chip.capNow_le_of_storeLow (h : c.pwr.storeLow = true) : c.capNow.1 ≤ c.hardCap :=
  Chip.capNow_le (k := 2) (by simp [Chip.capTerms, h])

theorem Chip.capNow_le_of_hsFault (h : c.thm.hsFault = true) : c.capNow.1 ≤ 1100 :=
  Chip.capNow_le (k := 5) (by simp [Chip.capTerms, h])

/-- The codes of the terms in force beside R. -/
theorem Chip.mem_termCodes {k : Nat} : k ∈ c.termCodes ↔ (k = 2 ∧ c.pwr.storeLow = true) ∨ (k = 3 ∧ c.pwr.airFail = true)
    ∨ (k = 4 ∧ c.pwr.derateNow.isSome = true) ∨ (k = 5 ∧ c.thm.hsFault = true) ∨ (k = 6 ∧ c.capBringup = true) := by
  have one : ∀ (b : Bool) (v j : Nat), k ∈ (if b then [(v, j)] else []).map (·.2) ↔ k = j ∧ b = true := fun b v j => by
    cases b <;> simp
  have hr : 2 ≤ k → k ≠ if c.pwr.ramp = c.pwr.setCap then 0 else 1 := fun h2 => by split <;> omega
  simp only [Chip.termCodes, Chip.capTerms, List.mem_filter, List.map_append, List.mem_append, one, List.map_cons, List.map_nil,
    List.mem_singleton, decide_eq_true_eq]
  grind

/-- A change with which a term lifts sets R to the E of that moment, if R is higher. -/
theorem Chip.liftTerm_of_lifts {f : Chip → Chip} {k : Nat} (hk : k ∈ c.termCodes) (hf : k ∉ (f c).termCodes) :
    c.liftTerm f = ((f c).modPwr (fun p => { p with ramp := min p.ramp c.pwr.force })).recap := by
  have hany : c.termCodes.any (fun k => !(f c).termCodes.contains k) = true := List.any_eq_true.mpr ⟨k, hk, by simpa using hf⟩
  simp only [Chip.liftTerm, hany, if_true]

theorem Chip.liftTerm_of_kept {f : Chip → Chip} (h : ∀ k ∈ c.termCodes, k ∈ (f c).termCodes) : c.liftTerm f = (f c).recap := by
  have hany : c.termCodes.any (fun k => !(f c).termCodes.contains k) = false := List.any_eq_false.mpr (fun k hk => by simpa using h k hk)
  simp only [Chip.liftTerm, hany, Bool.false_eq_true, if_false]

/-- Whether a term lifts or not: R, E and what follows E apart, the change alone is made. -/
theorem Chip.liftTerm_pwr_eq (c : Chip) (f : Chip → Chip) : ∃ ramp hardAt budget, c.liftTerm f = { f c with pwr := { (f c).pwr with
    ramp := ramp, force := (c.liftTerm f).pwr.force, limit := (c.liftTerm f).pwr.limit, hardAt := hardAt, budget := budget } } := by
  have hcap : ∀ d : Chip, ∃ hardAt budget, d.recap = { d with pwr := { d.pwr with
      force := d.recap.pwr.force, limit := d.recap.pwr.limit, hardAt := hardAt, budget := budget } } := fun d => by
    obtain ⟨hardAt, budget, h⟩ := d.recap_eq
    exact ⟨hardAt, budget, by rw [h]⟩
  unfold Chip.liftTerm
  dsimp only
  split
  · obtain ⟨hardAt, budget, h⟩ := hcap ((f c).modPwr (fun p => { p with ramp := min p.ramp c.pwr.force }))
    exact ⟨_, hardAt, budget, h⟩
  · obtain ⟨hardAt, budget, h⟩ := hcap (f c)
    exact ⟨_, hardAt, budget, h⟩

/-! The alert (R375). -/

theorem Chip.realert_reports (c : Chip) :
    ∃ err, Chip.Reports { c with thm := { c.thm with alert := c.alertNow, err := err } } c.realert := by
  unfold Chip.realert
  dsimp only
  split
  · exact ⟨setBit c.thm.err 0, Chip.thmErr_reports (c.modThm (fun t => { t with alert := c.alertNow })) 0⟩
  · exact ⟨c.thm.err, .refl _⟩

end Sys2Proof.Machine
end

section
/-! SUPPORT. What a fault charged to a context, or a notice of it, leaves of the links (R198, R251, R255). -/
namespace Sys2Proof.Machine

variable {c : Chip}

@[simp] theorem Chip.digErr_links (c : Chip) (b : Nat) : (c.digErr b).links = c.links := by
  unfold Chip.digErr
  dsimp only
  split
  · rfl
  · exact (Chip.irqCause_reports _ _).links

theorem Chip.checkReplica_links (c : Chip) (x : CtxId) (lfn : BitVec 16) (p : BitVec 16 × Word) :
    (c.checkReplica x lfn p).1.links = c.links := by
  unfold Chip.checkReplica Chip.checkMissing Chip.checkUnequal
  dsimp only
  split
  · rfl
  · split
    · exact Chip.digErr_links _ _
    · split
      · exact Chip.digErr_links _ _
      · rfl

theorem Chip.checkTransfer_links (c : Chip) (x : CtxId) (lfn : BitVec 16) (g : CheckGroup) :
    (c.checkTransfer x lfn g).1.links = c.links := by
  unfold Chip.checkTransfer Chip.checkMissing Chip.checkUnequal
  dsimp only
  split
  · rfl
  · split
    · exact Chip.digErr_links _ _
    · split
      · rfl
      · exact Chip.digErr_links _ _

/-- What every step of a fold with a result beside the package leaves, the fold leaves. -/
theorem Chip.foldl_fst_proj {α β γ : Type} (p : Chip → γ) (g : Chip × β → α → Chip × β) (hg : ∀ d x, p (g d x).1 = p d.1)
    (l : List α) (r : Chip × β) : p (l.foldl g r).1 = p r.1 := by
  induction l generalizing r with
  | nil => rfl
  | cons x l ih => exact (ih (g r x)).trans (hg r x)

theorem Chip.runChecks_links (c : Chip) (x : CtxId) (lfn : BitVec 16) : (c.runChecks x lfn).1.links = c.links := by
  unfold Chip.runChecks
  split
  · rfl
  · extract_lets ps r1 r2
    have h1 : r1.1.links = c.links := by
      refine (Chip.foldl_fst_proj Chip.links _ (fun d p => ?_) ps _).trans ?_
      · exact Chip.checkReplica_links _ _ _ _
      · split <;> rfl
    have h2 : r2.1.links = c.links := by
      refine (Chip.foldl_fst_proj Chip.links _ (fun d g => ?_) _ r1).trans h1
      exact Chip.checkTransfer_links _ _ _ _
    split
    · exact (Chip.digErr_links _ _).trans h2
    · exact h2

theorem Chip.verdictCtx_links (c : Chip) (x : CtxId) : (c.verdictCtx x).links = c.links := by
  unfold Chip.verdictCtx
  dsimp only
  split
  · rfl
  · show (if _ then (c, none) else c.runChecks x c.frm.lfn : Chip × Option Nat).1.links = c.links
    split
    · rfl
    · exact c.runChecks_links x _

theorem Chip.decideLate_links (c : Chip) (x : CtxId) : (c.decideLate x).links = c.links := by
  unfold Chip.decideLate
  split
  · exact c.verdictCtx_links x
  · rfl

theorem Chip.noticeLate_links (c : Chip) (x : CtxId) : (c.noticeLate x).links = c.links :=
  (Chip.event_reports _ _).links.trans (c.digErr_links 3)

theorem Chip.sendNotices_links (c : Chip) (x : CtxId) (lfn restart at_ : BitVec 16) (cause : Nat) (hold : Bool) :
    (c.sendNotices x lfn restart at_ cause hold).links = c.links := by
  refine Chip.foldl_proj Chip.links _ (fun d p => ?_) _ c
  unfold Chip.queueRecord
  split <;> rfl

theorem Chip.chargePrev_links (c : Chip) (x : CtxId) (lfn : BitVec 16) (kind : Nat) : (c.chargePrev x lfn kind).links = c.links := by
  unfold Chip.chargePrev
  dsimp only
  split
  · rfl
  · exact Chip.sendNotices_links _ _ _ _ _ _ _

theorem Chip.charge_links (c : Chip) (x : CtxId) (lfn : BitVec 16) (kind : Nat) : (c.charge x lfn kind).links = c.links := by
  rw [← c.decideLate_links x]
  unfold Chip.charge
  dsimp only
  split
  · rfl
  · split
    · rfl
    · split
      · rfl
      · split
        · exact Chip.chargePrev_links _ _ _ _
        · exact Chip.noticeLate_links _ _

theorem Chip.chargeLoss_links (c : Chip) (w : Dword) : (c.chargeLoss w).links = c.links := by
  unfold Chip.chargeLoss
  dsimp only
  split
  · exact Chip.charge_links _ _ _ _
  · rfl

theorem Chip.putNotice_links (c : Chip) (dst : Nat) (w : Dword) : (c.putNotice dst w).links = c.links := by
  unfold Chip.putNotice
  split
  · exact c.chargeLoss_links w
  · split <;> rfl

end Sys2Proof.Machine
end

section
/-! SUPPORT. LOOPBACK of a link after a write of LNK_CTL (R206, R207, R210, R425): what follows the write does not change it. -/
namespace Sys2Proof.Machine

/-- LNK_CTL of link `l` is a word as a write leaves it, with LOOPBACK `b`. -/
def Chip.LoopbackIs (c : Chip) (l : LinkId) (b : Bool) : Prop :=
  twf Link.zero c.links = true ∧ ∃ w, (c.link l).ctl = CfgWord.of w ∧ bit w 0 = b

variable {c t : Chip} {l : LinkId} {b : Bool}

theorem Chip.LoopbackIs.of_links (h : c.LoopbackIs l b) (ht : t.links = c.links) : t.LoopbackIs l b := by
  unfold Chip.LoopbackIs Chip.link at h ⊢
  rwa [ht]

/-- REQUAL is another bit of the word. -/
theorem CfgWord.requalBit_of (w : Word) (on : Bool) : ∃ v, (CfgWord.of w).requalBit on = CfgWord.of v ∧ bit v 0 = bit w 0 := by
  unfold CfgWord.requalBit
  split
  · exact ⟨w, rfl, rfl⟩
  · refine ⟨_, rfl, ?_⟩
    cases on
    · show bit (w &&& ~~~BitVec.ofNat 32 (2 ^ 2)) 0 = bit w 0
      rw [bit_and, bit_not _ (by decide)]
      exact Bool.and_true _
    · show bit (w ||| BitVec.ofNat 32 (2 ^ 2)) 0 = bit w 0
      rw [bit_or]
      exact Bool.or_false _

/-- A change of links that writes REQUAL at most. -/
theorem Chip.LoopbackIs.modLink (h : c.LoopbackIs l b) (m : LinkId) {f : Link → Link}
    (hf : ∀ k, (f k).ctl = k.ctl ∨ ∃ on, (f k).ctl = k.ctl.requalBit on) : (c.modLink m f).LoopbackIs l b := by
  obtain ⟨hw, w, hk, hb⟩ := h
  refine ⟨twf_tset hw _ _, ?_⟩
  by_cases hm : l = m
  · subst hm
    rw [Chip.link_modLink_same hw]
    obtain h | ⟨on, h⟩ := hf (c.link l)
    · exact ⟨w, h.trans hk, hb⟩
    · obtain ⟨v, hv, hvb⟩ := CfgWord.requalBit_of w on
      exact ⟨v, by rw [h, hk, hv], hvb.trans hb⟩
  · rw [Chip.link_modLink_other hw hm]
    exact ⟨w, hk, hb⟩

theorem Chip.LoopbackIs.foldl {α : Type} {g : Chip → α → Chip} (hg : ∀ d x, d.LoopbackIs l b → (g d x).LoopbackIs l b)
    (xs : List α) (h : c.LoopbackIs l b) : (xs.foldl g c).LoopbackIs l b := by
  induction xs generalizing c with
  | nil => exact h
  | cons x xs ih => exact ih (hg c x h)

theorem Chip.LoopbackIs.notifyOnce (h : c.LoopbackIs l b) (m : LinkId) (key : LossKey) (lfn : BitVec 16) :
    (c.notifyOnce m key lfn).LoopbackIs l b := by
  unfold Chip.notifyOnce
  split
  · exact h
  · refine Chip.LoopbackIs.of_links ?_ (Chip.putNotice_links _ _ _)
    refine Chip.LoopbackIs.modLink (h.of_links ?_) m ?_
    · rfl
    · exact fun _ => .inl rfl

theorem Chip.LoopbackIs.loseEntry (h : c.LoopbackIs l b) (m : LinkId) (e : PlanEntry) : (c.loseEntry m e).LoopbackIs l b := by
  unfold Chip.loseEntry
  split
  · exact h.notifyOnce m _ _
  · exact (h.modLink m (f := fun k => k.raise 1) (fun _ => .inl rfl)).of_links (Chip.charge_links _ _ _ _)

theorem Chip.LoopbackIs.loseData (h : c.LoopbackIs l b) (m : LinkId) : (c.loseData m).LoopbackIs l b := by
  unfold Chip.loseData
  split
  · exact Chip.LoopbackIs.foldl (fun d e hd => hd.loseEntry m e) _ h
  · exact h

theorem Chip.LoopbackIs.linkDown (h : c.LoopbackIs l b) (m : LinkId) (cause : Nat) : (c.linkDown m cause).LoopbackIs l b := by
  unfold Chip.linkDown
  extract_lets up was c1 c2
  have h1 : c1.LoopbackIs l b := by
    refine Chip.LoopbackIs.modLink ?_ m (fun k => .inr ⟨false, ?_⟩)
    · split
      · exact h.loseData m
      · exact h
    · split <;> rfl
  have h2 : c2.LoopbackIs l b := by
    simp only [c2]
    split
    · exact h1.of_links (Chip.event_reports _ _).links
    · exact h1
  exact h2.of_links (Chip.refresh_cf (n := 0) (CFr.refl 0 c2)).links

theorem Chip.LoopbackIs.startTraining (h : c.LoopbackIs l b) (m : LinkId) (cold : Bool) (more : Nat) (retry : Bool) :
    (c.startTraining m cold more retry).LoopbackIs l b := by
  unfold Chip.startTraining
  dsimp only
  split
  · exact h.modLink m (fun _ => .inl rfl)
  · exact h

/-- LOOPBACK as a write of `w` leaves it: written 1 it is set in BRINGUP, or where it is set already (R210). -/
theorem Chip.writeLnkCtl_loopback (hc : twf Link.zero c.links = true) (l : LinkId) (w : Word) :
    (c.writeLnkCtl l w).LoopbackIs l (bit w 0 && (c.mbx.dstate == .bringup || bit (c.link l).ctl.val 0)) := by
  unfold Chip.writeLnkCtl
  extract_lets k old loop start v width c1 c2
  have hv : bit v 0 = loop := by
    have hmask : bit (0xFFFFFFFA : Word) 0 = false := rfl
    simp only [v, bit_or, bit_and, hmask, bit_flag _ (show 0 < 32 by decide)]
    simp
  have h1 : c1.LoopbackIs l loop := by
    refine ⟨twf_tset hc _ _, ?_⟩
    rw [Chip.link_modLink_same hc]
    obtain ⟨u, hu, hub⟩ := CfgWord.requalBit_of v true
    split
    · exact ⟨u, hu, hub.trans hv⟩
    · exact ⟨v, rfl, hv⟩
  have h2 : c2.LoopbackIs l loop := by
    simp only [c2]
    split
    · exact h1
    · split
      · exact h1.modLink l (fun _ => .inl rfl)
      · exact h1.modLink l (fun _ => .inl rfl)
  split
  · refine Chip.LoopbackIs.linkDown ?_ l 5
    split
    · exact (h2.modLink l (f := fun k => k.addMgmt _) (fun _ => .inl rfl)).of_links rfl
    · exact h2
  · split
    · exact h2.startTraining l true 0 true
    · exact h2

/-- A write of the value in force starts no training and ends none: the package registers stay. -/
theorem Chip.writeLnkCtl_good_pkg (l : LinkId) : (c.writeLnkCtl l (c.link l).ctl.good).pkg = c.pkg := by
  have hl : ∀ x : Bool, (x && !x) = false := by decide
  have hr : ∀ x : Bool, (!x && x) = false := by decide
  unfold Chip.writeLnkCtl
  extract_lets k old loop start v width c1 c2
  have hold : old = k.ctl.good := rfl
  have h2 : c2 = c1 := if_pos rfl
  rw [hold, hl, hr, h2]
  rfl

end Sys2Proof.Machine
end

section
/-! SUPPORT. What writes of FRM_CTL and PWR_CTL leave (R168 to R170, R377, R383, Table 14-11). -/
namespace Sys2Proof.Machine

variable {c : Chip}

/-- Package `t` records the refused writes that `c` records, and its FRM_CTL is that of `c`. -/
def Chip.KeepsFrmCtl (c t : Chip) : Prop :=
  t.frm.ctl = c.frm.ctl ∧ t.pkg.err = c.pkg.err ∧ t.pkg.cntRefused = c.pkg.cntRefused

theorem Chip.KeepsFrmCtl.trans {d t : Chip} (h : c.KeepsFrmCtl d) (ht : d.KeepsFrmCtl t) : c.KeepsFrmCtl t :=
  ⟨ht.1.trans h.1, ht.2.1.trans h.2.1, ht.2.2.trans h.2.2⟩

/-- The frame clock changed, FRM_CTL apart, before `t`. -/
theorem Chip.KeepsFrmCtl.of_frm {f : Frm} {t : Chip} (hf : f.ctl = c.frm.ctl) (h : Chip.KeepsFrmCtl { c with frm := f } t) :
    c.KeepsFrmCtl t :=
  ⟨h.1.trans hf, h.2⟩

theorem Chip.realign_keepsFrmCtl (c : Chip) (next : BitVec 16 × Nat) : c.KeepsFrmCtl (c.realign next) := by
  refine ⟨(congrArg Frm.ctl (c.realign_frm next) :), ?_⟩
  unfold Chip.realign
  extract_lets f c1
  have hpkg : (allCtxs.foldl (fun c x => if (c.ctx x).judged then c.modDig x DigCtx.breakFrame else c) c1).pkg = c.pkg :=
    Chip.foldl_proj Chip.pkg _ (fun d x => by split <;> rfl) allCtxs c1
  rw [← hpkg]
  exact (Chip.event_reports _ _).refusals

theorem Frm.setInput_ctl (f : Frm) (i : RefInput) (r : RefIn) : (f.setInput i r).ctl = f.ctl := by
  cases i <;> rfl

theorem Chip.takeMark_keepsFrmCtl (c : Chip) (i : RefInput) (m : Mark) (n : Nat) : c.KeepsFrmCtl (c.takeMark i m n) := by
  unfold Chip.takeMark
  extract_lets f extra r f1
  have hf : f1.ctl = c.frm.ctl := Frm.setInput_ctl _ _ _
  split
  · exact ⟨hf, rfl, rfl⟩
  · refine .of_frm (f := f1.raise 7) hf (Chip.realign_keepsFrmCtl _ _)

theorem Chip.failover_keepsFrmCtl (c : Chip) : c.KeepsFrmCtl c.failover := by
  unfold Chip.failover
  dsimp only
  split
  · exact .of_frm (f := c.frm.failover) rfl (Chip.takeMark_keepsFrmCtl _ _ _ _)
  · exact ⟨rfl, rfl, rfl⟩

theorem Chip.inputBad_keepsFrmCtl (c : Chip) (i : RefInput) : c.KeepsFrmCtl (c.inputBad i) := by
  unfold Chip.inputBad
  extract_lets f r f0 f1
  have hf : f1.ctl = c.frm.ctl := by
    simp only [f1]
    split <;> exact Frm.setInput_ctl _ _ _
  split
  · split
    · exact .of_frm (f := f1) hf (Chip.failover_keepsFrmCtl _)
    · exact ⟨hf, rfl, rfl⟩
  · exact ⟨hf, rfl, rfl⟩

theorem Chip.writeFrmCtl_keeps (c : Chip) (w : Word) :
    Chip.KeepsFrmCtl { c with frm := { c.frm with ctl := CfgWord.of w } } (c.writeFrmCtl w) := by
  unfold Chip.writeFrmCtl
  extract_lets r c1 i c2
  have h2 : c1.KeepsFrmCtl c2 := by
    simp only [c2]
    split
    · exact c1.inputBad_keepsFrmCtl _
    · exact ⟨rfl, rfl, rfl⟩
  split
  · exact h2.trans (c2.inputBad_keepsFrmCtl i)
  · exact h2

theorem Chip.writeRteCtl_pkg (c : Chip) (w : Word) : (c.writeRteCtl w).pkg = c.pkg :=
  Chip.foldl_proj (·.pkg) (fun c l => c.modLink l (Link.routedBy w l)) (fun _ _ => rfl) allLinks _

theorem Chip.putDerate_none_eq (c : Chip) : ∃ pwr : Pwr, c.putDerate none = { c with pwr := pwr } ∧ pwr.ctl = c.pwr.ctl := by
  unfold Chip.putDerate
  split
  · exact ⟨c.pwr, rfl, rfl⟩
  · obtain ⟨ramp, hardAt, budget, h⟩ := c.liftTerm_pwr_eq (·.modPwr (fun p => { p with derate := none, derateNow := none }))
    exact ⟨_, h, rfl⟩
  · simp at *
  · simp at *

theorem Chip.writePwrCtl_keeps (c : Chip) (w : Word) : (c.writePwrCtl w).pwr.ctl = CfgWord.of w ∧ (c.writePwrCtl w).pkg = c.pkg := by
  unfold Chip.writePwrCtl
  extract_lets c1 c2
  have h2 : c2.pwr.ctl = CfgWord.of w ∧ c2.pkg = c.pkg := by
    simp only [c2]
    split
    · exact ⟨rfl, rfl⟩
    · rw [Chip.stopBallast_pwr, Chip.stopBallast_pkg]
      exact ⟨rfl, rfl⟩
  split
  · exact h2
  · obtain ⟨pwr, h, hctl⟩ := c2.putDerate_none_eq
    rw [h]
    exact ⟨hctl.trans h2.1, h2.2⟩

end Sys2Proof.Machine
end

section
/-! SUPPORT. Held configuration words: what a normal write makes of them, register by register (R425, R426, Table 16-4b). -/
namespace Sys2Proof.Machine

variable {c : Chip} {d : Word} {s : State}

/-! The hold of a word. -/

section
variable {k : CfgWord} (h : k.held = true)
include h

/-- A normal write of a held word replaces all its bits, RV bits too. -/
theorem CfgWord.put_held (rw d : Word) : k.put .normal rw d = (d, false) := by
  simp [CfgWord.put, h]

theorem CfgWord.endsHold_good : k.endsHold .normal k.good = true := by
  simp [CfgWord.endsHold, h]

end

theorem CfgWord.endsHold_other {k : CfgWord} (hd : d ≠ k.good) : k.endsHold .normal d = false := by
  simp [CfgWord.endsHold, hd]

/-! The words with a state rule. -/

section
variable (h : c.rte.id.held = true) (off : Nat)
include h

theorem Chip.hostRteId_good : c.hostRteId .normal c.rte.id.good off = c.writeRteId c.rte.id.good := by
  simp only [Chip.hostRteId, CfgWord.put_held h, CfgWord.endsHold_good h, Bool.or_true, if_true]
  rfl

theorem Chip.hostRteId_held_other (hd : d ≠ c.rte.id.good) (hb : c.mbx.dstate ≠ .bringup) :
    c.hostRteId .normal d off = c.refuse off [cState] := by
  simp only [Chip.hostRteId, CfgWord.put_held h, CfgWord.endsHold_other hd, beq_eq_false_iff_ne.mpr hb, Bool.or_false,
    Bool.false_eq_true, if_false]
  rfl

end

section
variable {i : Nat} (h : (tget (CfgWord.of (slipMapReset i)) c.frm.slipMap i).held = true) (off : Nat)
include h

theorem Chip.hostSlipMap_good :
    c.hostSlipMap i .normal (tget (CfgWord.of (slipMapReset i)) c.frm.slipMap i).good off
      = c.writeSlipMap i (tget (CfgWord.of (slipMapReset i)) c.frm.slipMap i).good true := by
  simp only [Chip.hostSlipMap, CfgWord.put_held h, CfgWord.endsHold_good h, Bool.or_true]
  rfl

theorem Chip.hostSlipMap_held_other (hd : d ≠ (tget (CfgWord.of (slipMapReset i)) c.frm.slipMap i).good)
    (hb : c.mbx.dstate ≠ .bringup) (hr : c.mbx.dstate ≠ .ready) :
    c.hostSlipMap i .normal d off = (c.writeSlipMap i d false).refuse off [cState] := by
  simp only [Chip.hostSlipMap, CfgWord.put_held h, CfgWord.endsHold_other hd, Chip.slipMapOpen, beq_eq_false_iff_ne.mpr hb,
    beq_eq_false_iff_ne.mpr hr, Bool.or_false]
  rfl

end

section
variable (h : c.bru.ctl.held = true)
include h

theorem Chip.writeBruCtl_good :
    c.writeBruCtl .normal c.bru.ctl.good = ({ c with bru := { c.bru with ctl := CfgWord.of c.bru.ctl.good } }).bruNext := by
  simp only [Chip.writeBruCtl, CfgWord.put_held h, CfgWord.endsHold_good h, Bool.or_true, if_true]
  rfl

theorem Chip.writeBruCtl_held_other (hd : d ≠ c.bru.ctl.good) (hb : c.mbx.dstate ≠ .bringup) :
    c.writeBruCtl .normal d = (c.bruErr 0).refuse 0x2E00008 [cState] := by
  simp only [Chip.writeBruCtl, CfgWord.put_held h, CfgWord.endsHold_other hd, beq_eq_false_iff_ne.mpr hb, Bool.or_false,
    Bool.false_eq_true, if_false]
  rfl

end

section
variable {l : LinkId} (h : (c.link l).ctl.held = true) (off : Nat)
include h

theorem Chip.hostLnkCtl_good :
    c.hostLnkCtl l .normal (c.link l).ctl.good off = c.writeLnkCtl l (c.link l).ctl.good := by
  simp only [Chip.hostLnkCtl, CfgWord.put_held h, CfgWord.endsHold_good h, Bool.not_true, Bool.and_false]
  rfl

theorem Chip.hostLnkCtl_held_loopback (hd : d ≠ (c.link l).ctl.good) (h1 : bit d 0 = true) (hb : c.mbx.dstate ≠ .bringup) :
    c.hostLnkCtl l .normal d off = (c.writeLnkCtl l d).refuse off [cState] := by
  simp only [Chip.hostLnkCtl, CfgWord.put_held h, CfgWord.endsHold_other hd, h1, bne_iff_ne.mpr hb, Bool.not_false, Bool.and_true]
  rfl

end

/-! Where the words lie. -/

theorem regAt_slipMap (i : Fin 128) : regAt (0x2C00400 + 4 * i.val) = some (.frm, 0x400 + 4 * i.val) := by
  revert i
  decide

theorem frmKind_slipMap (i : Fin 128) : RegBlock.frm.kind (0x400 + 4 * i.val) = .rw := by
  revert i
  decide

theorem hostGives_frmSlipmapWrite (i : Fin 128) (a : RegAlias) (d : Word) (s : State) :
    HostGives (.frmSlipmapWrite i a d) s (s.chip.hostSlipMap i.val a d (aliasOffset a (0x2C00400 + 4 * i.val))) := fun hu => by
  refine .of_lift (f := fun c => c.aliasWrite a (0x2C00400 + 4 * i.val) d) rfl ?_
  have hi : (0x400 + 4 * i.val - 0x400) / 4 = i.val := by omega
  rw [Chip.aliasWrite_rw hu (by omega) (regAt_slipMap i) rfl (frmKind_slipMap i), Chip.writeRw, if_neg (by omega), hi]

theorem hostGives_runTo (a : RegAlias) (d : Word) (s : State) : HostGives (.runTo a d) s (s.chip.writeBruCtl a d) := fun hu =>
  .of_lift (f := fun c => c.host (fun c => c.writeBruCtl a d)) rfl (Chip.host_of_hostUp hu _)

/-- A write of an aligned DW of BAR0 that is an RW register, where its block is there. -/
theorem hostGives_registerWrite_rw {off : BitVec 28} {b : RegBlock} {r : Nat} (ho : off.toNat % 4 = 0)
    (hr : regAt (off.toNat % 0x4000000) = some (b, r)) (hg : s.chip.gone b = false) (hk : b.kind r = .rw) :
    HostGives (.registerWrite { off := off } d) s (s.chip.writeRw b r (aliasOf off.toNat) d off.toNat) := fun hu =>
  gives_registerWrite_of_oneDw hu ((oneDw_iff _).mpr ⟨rfl, rfl, ho⟩) (Chip.regWrite_rw hr hg hk)

theorem lnkCtlOff_spec (l : LinkId) : (BitVec.ofNat 28 (lnkCtlOff l)).toNat = lnkCtlOff l ∧ lnkCtlOff l % 4 = 0
    ∧ regAt (lnkCtlOff l % 0x4000000) = some (.lnk l, 8) ∧ aliasOf (lnkCtlOff l) = .normal := by
  revert l
  decide

theorem hostGives_lnkCtl {l : LinkId} (hl : s.chip.fuse.linkOn l.val = true) (d : Word) :
    HostGives (.registerWrite { off := BitVec.ofNat 28 (lnkCtlOff l) } d) s (s.chip.hostLnkCtl l .normal d (lnkCtlOff l)) := by
  obtain ⟨ho, h4, hr, ha⟩ := lnkCtlOff_spec l
  have h := hostGives_registerWrite_rw (s := s) (d := d) (off := BitVec.ofNat 28 (lnkCtlOff l)) (b := .lnk l) (r := 8)
    (by rw [ho, h4]) (by rw [ho, hr]) (by simp [Chip.gone, hl]) rfl
  rw [ho, ha] at h
  exact h

theorem HostCompletes.of_gives {i : Instr} {t : Chip} {P : Chip → Prop} (h : HostGives i s t) (hP : P t) : HostCompletes i s P :=
  fun hu => ⟨t, h hu, hP⟩

/-! The words without a state rule. -/

/-- A word that a normal write through `f` takes as it is: written with its last good value it is held no longer, and nothing is
refused, where `f` leaves the record of refused writes. -/
theorem hostCompletes_endsHold {off : BitVec 28} (w : Chip → CfgWord) (b : RegBlock) (r : Nat) (rw : Word) (f : Word → Chip)
    (ho : off.toNat % 4 = 0 ∧ aliasOf off.toNat = .normal) (hr : regAt (off.toNat % 0x4000000) = some (b, r))
    (hg : s.chip.gone b = false) (hk : b.kind r = .rw)
    (hf : ∀ d, s.chip.writeRw b r .normal d off.toNat =
      (f ((w s.chip).put .normal rw d).1).refuse off.toNat (causeIf ((w s.chip).put .normal rw d).2 cRv))
    (hw : w (f (w s.chip).good) = CfgWord.of (w s.chip).good)
    (hp : (f (w s.chip).good).pkg.err = s.chip.pkg.err ∧ (f (w s.chip).good).pkg.cntRefused = s.chip.pkg.cntRefused)
    (h : (w s.chip).held = true) :
    HostCompletes (.registerWrite { off := off } (w s.chip).good) s (fun t =>
      w t = CfgWord.of (w s.chip).good ∧ t.pkg.err = s.chip.pkg.err ∧ t.pkg.cntRefused = s.chip.pkg.cntRefused) := by
  refine .of_gives ((hostGives_registerWrite_rw ho.1 hr hg hk).of_eq (t' := f (w s.chip).good) ?_) ⟨hw, hp⟩
  rw [ho.2, hf, CfgWord.put_held h]
  rfl

/-- Settles O34: each word with a state rule at its good value and at another one, then the words without. -/
theorem heldWordsEndByTheirGoodValue : Obligations.HeldWordsEndByTheirGoodValue := by
  intro i l d s hc c id map run k lnk ends
  refine ⟨?idGood, ?idOther, ?mapGood, ?mapOther, ?runGood, ?runOther, ?lnkGood, ?lnkOther, ?irqEn, ?mbxCtl, ?pwrCtl, ?frmCtl,
    ?fltCtl, ?rteCtl⟩
  case idGood => exact fun h => (hostGives_rteIdWrite _ _ s).of_eq (Chip.hostRteId_good h _)
  case idOther => exact fun h hd hb => (hostGives_rteIdWrite _ _ s).of_eq (Chip.hostRteId_held_other h _ hd hb)
  case mapGood =>
    exact fun h => .of_gives ((hostGives_frmSlipmapWrite i _ _ s).of_eq (Chip.hostSlipMap_good h _)) ⟨rfl, rfl⟩
  case mapOther =>
    exact fun h hd hb hr => (hostGives_frmSlipmapWrite i _ _ s).of_eq
      ((Chip.hostSlipMap_held_other h _ hd hb hr).trans (by rw [aliasOffset, aliasCode, Nat.zero_mul, Nat.zero_add]; rfl))
  case runGood => exact fun h => (hostGives_runTo _ _ s).of_eq (Chip.writeBruCtl_good h)
  case runOther => exact fun h hd hb => (hostGives_runTo _ _ s).of_eq (Chip.writeBruCtl_held_other h hd hb)
  case lnkGood =>
    intro h hl
    refine .of_gives ((hostGives_lnkCtl hl _).of_eq (Chip.hostLnkCtl_good h _)) ?_
    obtain ⟨-, w, hw, hb⟩ := Chip.writeLnkCtl_loopback hc.links l k.good
    refine ⟨by rw [hw]; rfl, ?_, Chip.writeLnkCtl_good_pkg l⟩
    rw [hw]
    refine hb.trans ?_
    show (bit k.good 0 && (_ || bit k.good 0)) = _
    cases bit k.good 0 <;> simp
  case lnkOther =>
    intro h hl hd h1 hb
    refine .of_gives ((hostGives_lnkCtl hl _).of_eq (Chip.hostLnkCtl_held_loopback h _ hd h1 hb)) ?_
    obtain ⟨-, w, hw, hbit⟩ := Chip.writeLnkCtl_loopback hc.links l d
    obtain ⟨pkg, hp⟩ := Chip.refuse_eq (c.writeLnkCtl l d) (lnkCtlOff l) [cState]
    obtain ⟨herr, -⟩ := Chip.refuse_records (c := c.writeLnkCtl l d) (off := lnkCtlOff l) (k := cState) (by decide) List.mem_cons_self
    have hlink : ((c.writeLnkCtl l d).refuse (lnkCtlOff l) [cState]).link l = (c.writeLnkCtl l d).link l := by rw [hp]; rfl
    refine ⟨by rw [hlink, hw]; rfl, ?_, herr⟩
    rw [hlink, hw]
    refine hbit.trans ?_
    rw [h1, beq_eq_false_iff_ne.mpr hb]
    rfl
  case irqEn =>
    exact hostCompletes_endsHold (·.pkg.irqEn) .pkg 0x20 7 (fun v => c.modPkg (fun p => { p with irqEn := CfgWord.of v }))
      ⟨rfl, rfl⟩ rfl rfl rfl (fun _ => rfl) rfl ⟨rfl, rfl⟩
  case mbxCtl =>
    exact hostCompletes_endsHold (·.mbx.ctl) .mbx 8 0x1F (fun v => c.modMbx (fun m => { m with ctl := CfgWord.of v }))
      ⟨rfl, rfl⟩ rfl rfl rfl (fun _ => rfl) rfl ⟨rfl, rfl⟩
  case pwrCtl =>
    obtain ⟨hctl, hpkg⟩ := c.writePwrCtl_keeps c.pwr.ctl.good
    exact hostCompletes_endsHold (·.pwr.ctl) .pwr 8 0x1E (fun v => c.writePwrCtl v) ⟨rfl, rfl⟩ rfl rfl rfl (fun _ => rfl) hctl
      ⟨congrArg Pkg.err hpkg, congrArg Pkg.cntRefused hpkg⟩
  case frmCtl =>
    obtain ⟨hctl, hpkg⟩ := c.writeFrmCtl_keeps c.frm.ctl.good
    exact hostCompletes_endsHold (·.frm.ctl) .frm 8 7 (fun v => c.writeFrmCtl v) ⟨rfl, rfl⟩ rfl rfl rfl (fun _ => rfl) hctl hpkg
  case fltCtl =>
    exact hostCompletes_endsHold (·.flt.ctl) .flt 8 0x1FFF (fun v => c.modFlt (fun f => { f with ctl := CfgWord.of v }))
      ⟨rfl, rfl⟩ rfl rfl rfl (fun _ => rfl) rfl ⟨rfl, rfl⟩
  case rteCtl =>
    have hctl : (c.writeRteCtl c.rte.ctl.good).rte.ctl = CfgWord.of c.rte.ctl.good := (congrArg Rte.ctl (c.writeRteCtl_rte _) :)
    have hpkg : (c.writeRteCtl c.rte.ctl.good).pkg = c.pkg := c.writeRteCtl_pkg _
    exact hostCompletes_endsHold (·.rte.ctl) .rte 0xC 0x3F (fun v => c.writeRteCtl v) ⟨rfl, rfl⟩ rfl rfl rfl (fun _ => rfl) hctl
      ⟨congrArg Pkg.err hpkg, congrArg Pkg.cntRefused hpkg⟩

end Sys2Proof.Machine
end

section
/-! SUPPORT. What reports, ballast work and the alert leave of the power manager and of the thermal state. -/
namespace Sys2Proof.Machine

variable {c : Chip}

@[simp] theorem Chip.pwrErr_pwr (c : Chip) (b : Nat) : (c.pwrErr b).pwr = { c.pwr with err := setBit c.pwr.err b } :=
  (c.pwrErr_reports b).pwr

@[simp] theorem Chip.thmErr_pwr (c : Chip) (b : Nat) : (c.thmErr b).pwr = c.pwr := (c.thmErr_reports b).pwr

@[simp] theorem Chip.powerBeacon_pwr (c : Chip) (cause severity arg : Nat) (unit : BitVec 16) :
    (c.powerBeacon cause severity arg unit).pwr = c.pwr :=
  (c.powerBeacon_reports cause severity arg unit).pwr

@[simp] theorem Chip.thmErr_thm (c : Chip) (b : Nat) : (c.thmErr b).thm = { c.thm with err := setBit c.thm.err b } :=
  (c.thmErr_reports b).thm

@[simp] theorem Chip.powerBeacon_thm (c : Chip) (cause severity arg : Nat) (unit : BitVec 16) :
    (c.powerBeacon cause severity arg unit).thm = c.thm :=
  (c.powerBeacon_reports cause severity arg unit).thm

@[simp] theorem Chip.realert_pwr (c : Chip) : c.realert.pwr = c.pwr := by
  obtain ⟨_, h⟩ := c.realert_reports
  exact h.pwr

@[simp] theorem Chip.realert_mbx (c : Chip) : c.realert.mbx = c.mbx := by
  obtain ⟨_, h⟩ := c.realert_reports
  exact h.mbx

theorem Chip.realert_thm (c : Chip) : ∃ err, c.realert.thm = { c.thm with alert := c.alertNow, err := err } := by
  obtain ⟨err, h⟩ := c.realert_reports
  exact ⟨err, h.thm⟩

@[simp] theorem Chip.realert_alert (c : Chip) : c.realert.thm.alert = c.alertNow := by
  obtain ⟨_, h⟩ := c.realert_thm
  rw [h]

theorem Chip.alertNow_of_airPin (h : c.pwr.airPin = true) : c.alertNow = true := by
  simp [Chip.alertNow, h]

theorem Chip.recap_pwr (c : Chip) : ∃ hardAt budget, c.recap.pwr =
    { c.pwr with force := c.capNow.1, limit := BitVec.ofNat 4 c.capNow.2, hardAt := hardAt, budget := budget } := by
  obtain ⟨hardAt, budget, h⟩ := c.recap_eq
  exact ⟨hardAt, budget, by rw [h]⟩

end Sys2Proof.Machine
end

section
/-! SUPPORT. Power samples and power windows (R361, R366, R369, R370, R382, R383). -/
namespace Sys2Proof.Machine

variable {c : Chip}

/-! Samples (R361, R366). -/

theorem lowerCeiling_bounds (old : Byte) (free : Word) :
    70 ≤ (lowerCeiling old free).toNat ∧ (lowerCeiling old free).toNat ≤ max 70 old.toNat := by
  have hmod : free.toNat % (old.toNat - 70 + 1) < old.toNat - 70 + 1 := Nat.mod_lt _ (by omega)
  have hold : old.toNat < 256 := old.isLt
  have hv : (lowerCeiling old free).toNat = 70 + free.toNat % (old.toNat - 70 + 1) := by
    rw [lowerCeiling, BitVec.toNat_ofNat]
    omega
  omega

theorem Chip.cutExcursion_pwr (c : Chip) : ∃ a b : Word, c.cutExcursion.pwr = { c.pwr with
    cut := true, ceil0 := lowerCeiling c.pwr.ceil0 a, ceil1 := lowerCeiling c.pwr.ceil1 b
    cntExcursion := satInc c.pwr.cntExcursion 1, err := setBit c.pwr.err 7 } :=
  ⟨_, _, Chip.pwrErr_pwr _ 7⟩

/-- The package with a sample taken, before an excursion is cut. -/
def Chip.sampled (c : Chip) (v a : BitVec 16) : Chip :=
  let w := v.toNat * a.toNat
  let beyond := decide (10000 * c.pwr.force < w)
  c.modPwr (fun p => { p with
    voltage := v, current := a, excursion := beyond, cut := p.cut && beyond, samples := ((w, p.force) :: p.samples).take 10000 })

/-- The sample is one at which an excursion is cut (R366). -/
def Chip.sampleCuts (c : Chip) (v a : BitVec 16) : Prop :=
  let kept := ((v.toNat * a.toNat, c.pwr.force) :: c.pwr.samples).take 10000
  10000 * c.pwr.force < v.toNat * a.toNat ∧ c.pwr.cut = false ∧ (19000000 < v.toNat * a.toNat
    ∨ 2000 < kept.countP (fun q => decide (10000 * q.2 < q.1))
    ∨ (kept.length = 10000 ∧ 10000 * (kept.map (fun q => q.2)).sum < (kept.map (fun q => q.1)).sum)
    ∨ ∃ h, c.pwr.hardAt = some h ∧ h + 40960 ≤ c.uptime)

theorem Chip.noTransient_iff : c.noTransient = true ↔ ∃ h, c.pwr.hardAt = some h ∧ h + 40960 ≤ c.uptime := by
  simp [Chip.noTransient, Option.any_eq_true]

section
variable {v a : BitVec 16}

theorem sampleEffect_cuts (h : c.sampleCuts v a) : sampleEffect v a c = (c.sampled v a).cutExcursion := by
  obtain ⟨hb, hc, hw⟩ := h
  refine if_pos ?_
  simp only [Chip.modPwr, Pwr.overMicros, Pwr.meanOver, Bool.and_eq_true, Bool.or_eq_true, decide_eq_true_eq, hb, hc,
    Chip.noTransient_iff, beq_iff_eq, Bool.false_and, Bool.not_false, and_self, true_and]
  tauto

theorem sampleEffect_keeps (h : ¬ c.sampleCuts v a) : sampleEffect v a c = c.sampled v a := by
  refine if_neg (fun hc => h ?_)
  simp only [Pwr.meanOver, Bool.and_eq_true, Bool.or_eq_true, decide_eq_true_eq, Chip.noTransient_iff, beq_iff_eq,
    Bool.not_eq_true'] at hc
  dsimp only [Chip.modPwr, Pwr.overMicros] at hc
  obtain ⟨⟨hb, hcut⟩, hw⟩ := hc
  refine ⟨hb, by simpa [hb] using hcut, ?_⟩
  tauto

end

/-! Windows (R369, R370, R382, R383). -/

theorem clampCeiling_bounds (b : Byte) : 70 ≤ (clampCeiling b).toNat ∧ (clampCeiling b).toNat ≤ 164 := by
  unfold clampCeiling
  split
  · decide
  · split
    · decide
    · omega

theorem dieDuty_of_above {f : Byte} (h : 70 < f.toNat) (duty : Fin 16) : dieDuty f duty = 15 := by
  refine if_neg (fun hf => ?_)
  rw [hf] at h
  exact absurd h (by decide)

theorem Chip.putPace_pwr (c : Chip) (p : BitVec 16) :
    ∃ err, (c.putPace p).pwr = { c.pwr with pace := p, pacing := decide (1 < p.toNat), err := err } := by
  unfold Chip.putPace
  dsimp only
  split
  · exact ⟨_, by rw [Chip.powerBeacon_pwr, Chip.pwrErr_pwr]; rfl⟩
  · exact ⟨_, rfl⟩

theorem Chip.ballastAllowed_congr {d : Chip} (hc : d.pwr.ctl = c.pwr.ctl) (hl : d.pwr.limit = c.pwr.limit)
    (hr : d.flt.rphase = c.flt.rphase) (hp : d.flt.resetPending = c.flt.resetPending) : d.ballastAllowed = c.ballastAllowed := by
  rw [Chip.ballastAllowed, hc, hl, hr, hp, Chip.ballastAllowed]

theorem Chip.putPace_resets (c : Chip) (p : BitVec 16) :
    (c.putPace p).flt.rphase = c.flt.rphase ∧ (c.putPace p).flt.resetPending = c.flt.resetPending := by
  unfold Chip.putPace
  dsimp only
  split
  · obtain ⟨hb, -, hbp, -⟩ := (Chip.powerBeacon_reports
      ((c.modPwr (fun q => { q with pace := p, pacing := decide (1 < p.toNat) })).pwrErr 5) 11 1 p.toNat 0xFFFF).resets
    obtain ⟨he, -, hep, -⟩ := (Chip.pwrErr_reports
      (c.modPwr (fun q => { q with pace := p, pacing := decide (1 < p.toNat) })) 5).resets
    exact ⟨hbp.trans hep, hb.trans he⟩
  · exact ⟨rfl, rfl⟩

theorem Chip.spreadBallast_pwr (c : Chip) (total : Nat) : (c.spreadBallast total).pwr = c.pwr := by
  unfold Chip.spreadBallast
  dsimp only
  obtain ⟨_, _, h⟩ := c.mapUnits_eq (fun k => k.setBallast 0) id
  have h0 : c.noBallast.pwr = c.pwr := (congrArg Chip.pwr h :)
  refine (Chip.foldl_fst_proj Chip.pwr _ ?_ _ (c.noBallast, 0)).trans h0
  exact fun _ _ => rfl

/-- What a power window makes of the power manager beside its ballast: nothing of the ceilings, duties and pace. -/
theorem Chip.ballastWindow_pwr (c : Chip) (own room : Nat) : ∃ floorStart windows currents short err, (c.ballastWindow own room).pwr =
    { c.pwr with
      floor := c.pwr.floorNow, floorStart := floorStart, windows := windows, currents := currents, cntBallastShort := short, err := err
      ballastOn := c.ballastAllowed && decide (own < c.pwr.floorNow) } := by
  unfold Chip.ballastWindow
  extract_lets p floor n total c1 shed c2
  split
  case isTrue h =>
    have h1 : c1.pwr = { c.pwr with
        floor := c.pwr.floorNow, floorStart := c1.pwr.floorStart, windows := c1.pwr.windows, currents := c1.pwr.currents
        ballastOn := true } := by
      simp only [c1, Chip.modPwr, Chip.spreadBallast_pwr]
      rfl
    rw [h]
    split
    · exact ⟨_, _, _, _, _, by rw [Chip.pwrErr_pwr, Chip.modPwr, h1]⟩
    · exact ⟨_, _, _, _, _, h1⟩
  case isFalse h =>
    have h2 : c2.pwr = { c.pwr with
        floor := c.pwr.floorNow, windows := 0, currents := c2.pwr.currents, ballastOn := false } := by
      simp only [c2, Chip.modPwr, Chip.stopBallast_pwr]
      rfl
    rw [Bool.eq_false_iff.mpr h]
    split
    · exact ⟨_, _, _, _, _, by rw [Chip.pwrErr_pwr, h2]⟩
    · exact ⟨_, _, _, _, _, h2⟩

end Sys2Proof.Machine
end

section
/-! SUPPORT. The pins, the heat sink's theta and the regulators (R365, R377 to R379, R387). -/
namespace Sys2Proof.Machine

variable {c : Chip}

/-! Airflow (R378). -/

/-- Ballast work is suspended and E follows its terms. -/
theorem Chip.stopBallast_recap_pwr (c : Chip) : ∃ hardAt budget, c.stopBallast.recap.pwr = { c.pwr with
    ballastOn := false, windows := 0, force := c.stopBallast.capNow.1, limit := BitVec.ofNat 4 c.stopBallast.capNow.2
    hardAt := hardAt, budget := budget } := by
  obtain ⟨hardAt, budget, h⟩ := c.stopBallast.recap_pwr
  exact ⟨hardAt, budget, by rw [h, Chip.stopBallast_pwr]⟩

theorem Chip.airflowFailure_pwr (c : Chip) (declared : Bool) : ∃ force limit hardAt budget, (c.airflowFailure declared).pwr = { c.pwr with
    ckptReq := true, cntAirflow := satInc c.pwr.cntAirflow 1, err := setBit c.pwr.err 3, ballastOn := false, windows := 0
    force := force, limit := limit, hardAt := hardAt, budget := budget } ∧ (c.pwr.airFail = true → force ≤ 400) := by
  unfold Chip.airflowFailure
  extract_lets c1
  obtain ⟨hardAt, budget, h⟩ := Chip.stopBallast_recap_pwr ((c1.pwrErr 3).powerBeacon 2 2 (b2n declared))
  have hp : ((c1.pwrErr 3).powerBeacon 2 2 (b2n declared)).pwr = { c.pwr with
      ckptReq := true, cntAirflow := satInc c.pwr.cntAirflow 1, err := setBit c.pwr.err 3 } := by
    rw [Chip.powerBeacon_pwr, Chip.pwrErr_pwr]
    rfl
  rw [Chip.realert_pwr, h, hp]
  refine ⟨_, _, hardAt, budget, rfl, fun hf => Chip.capNow_le_of_airFail ?_⟩
  rw [Chip.stopBallast_pwr, hp]
  exact hf

theorem Chip.airflowFailure_alert (h : c.pwr.airPin = true) (declared : Bool) : (c.airflowFailure declared).thm.alert = true := by
  unfold Chip.airflowFailure
  extract_lets c1
  rw [Chip.realert_alert]
  refine Chip.alertNow_of_airPin ?_
  obtain ⟨_, _, hp⟩ := Chip.recap_pwr ((c1.pwrErr 3).powerBeacon 2 2 (b2n declared)).stopBallast
  rw [hp, Chip.stopBallast_pwr, Chip.powerBeacon_pwr, Chip.pwrErr_pwr]
  exact h

theorem airAssertEffect_pwr_thm (h : c.pwr.airPin = false) (d : Chip)
    (hd : (c.modPwr (fun p => { p with airPin := true })).whenOn (fun c => c.airflowFailure false) = d) :
    (airAssertEffect c).pwr = d.pwr ∧ (airAssertEffect c).thm = d.thm := by
  subst hd
  simp only [airAssertEffect, h, Bool.false_eq_true, if_false]
  split <;> exact ⟨rfl, rfl⟩

theorem Chip.airflowEnd_pwr (c : Chip) (f : Pwr → Pwr) : (c.airflowEnd f).pwr =
    (c.liftTerm (fun c => c.modPwr (fun p => { f p with ckptReq := (f p).airFail }))).pwr :=
  Chip.realert_pwr _

theorem Chip.airflowEnd_mbx (c : Chip) (f : Pwr → Pwr) : (c.airflowEnd f).mbx = c.mbx := by
  obtain ⟨_, _, _, h⟩ := c.liftTerm_pwr_eq (fun c => c.modPwr (fun p => { f p with ckptReq := (f p).airFail }))
  exact (Chip.realert_mbx _).trans (congrArg Chip.mbx h :)

/-- Outside BRINGUP no step waits. -/
theorem Chip.endAirWait_pwr (h : c.mbx.dstate ≠ .bringup) : c.endAirWait.pwr = c.pwr := by
  unfold Chip.endAirWait
  split
  · have hn := Chip.bruNext_of_reached (c := c.modBru (fun b => { b with waitAir := false })) (fun hb => absurd hb h)
    exact (congrArg Chip.pwr hn :)
  · rfl

/-- R after a recap. -/
theorem Chip.recap_ramp (c : Chip) : c.recap.pwr.ramp = c.pwr.ramp := by
  obtain ⟨_, _, h⟩ := c.recap_pwr
  rw [h]

/-- AIRFLOW_FAIL is released: the pin, CKPT_REQ and R. -/
theorem Chip.airflowEnd_pin (h : c.pwr.airPin = true) : let t := c.airflowEnd (fun p => { p with airPin := false })
    t.pwr.airPin = false ∧ t.pwr.ckptReq = c.pwr.airDeclared
      ∧ t.pwr.ramp = if c.pwr.airDeclared then c.pwr.ramp else min c.pwr.ramp c.pwr.force := by
  intro t
  have ht : t.pwr = _ := c.airflowEnd_pwr _
  obtain ⟨_, _, _, heq⟩ := c.liftTerm_pwr_eq
    (fun c => c.modPwr (fun p => { p with airPin := false, ckptReq := Pwr.airFail { p with airPin := false } }))
  refine ⟨?_, ?_, ?_⟩
  · rw [ht, heq]
    rfl
  · rw [ht, heq]
    exact Bool.false_or _
  · rw [ht]
    cases hd : c.pwr.airDeclared
    · rw [Chip.liftTerm_of_lifts (k := 3), Chip.recap_ramp]
      · rfl
      · simp [Chip.mem_termCodes, Pwr.airFail, h]
      · simp [Chip.mem_termCodes, Pwr.airFail, Chip.modPwr, hd]
    · rw [Chip.liftTerm_of_kept, Chip.recap_ramp]
      · rfl
      · intro k hk
        rw [Chip.mem_termCodes] at hk ⊢
        have hf : Pwr.airFail { c.pwr with airPin := false, ckptReq := Pwr.airFail { c.pwr with airPin := false } } = true := hd
        exact hk.imp id (Or.imp (fun h3 => ⟨h3.1, hf⟩) id)

/-! Stored energy (R379). -/

theorem Chip.hardCap_of_pwr {d : Chip} (hf : d.fuse = c.fuse) (hp : d.pwr.hardcap = c.pwr.hardcap) : d.hardCap = c.hardCap := by
  rw [Chip.hardCap, hf, hp, Chip.hardCap]

theorem Chip.storeLowOn_pwr (c : Chip) : ∃ force limit hardAt budget, c.storeLowOn.pwr = { c.pwr with
    cntStoreLow := satInc c.pwr.cntStoreLow 1, err := setBit c.pwr.err 2, ballastOn := false, windows := 0
    force := force, limit := limit, hardAt := hardAt, budget := budget } ∧ (c.pwr.storeLow = true → force ≤ c.hardCap) := by
  unfold Chip.storeLowOn
  extract_lets c1
  obtain ⟨hardAt, budget, h⟩ := Chip.stopBallast_recap_pwr (c1.powerBeacon 1 1 c.hardCap)
  have hp : (c1.powerBeacon 1 1 c.hardCap).pwr = { c.pwr with
      cntStoreLow := satInc c.pwr.cntStoreLow 1, err := setBit c.pwr.err 2 } := by
    rw [Chip.powerBeacon_pwr]
    exact Chip.pwrErr_pwr _ 2
  have hfuse : (c1.powerBeacon 1 1 c.hardCap).stopBallast.fuse = c.fuse := by
    obtain ⟨_, _, hs⟩ := (c1.powerBeacon 1 1 c.hardCap).stopBallast_eq
    rw [hs]
    exact (Chip.powerBeacon_reports c1 1 1 c.hardCap 0xFFFF).fuse.trans (Chip.pwrErr_reports _ 2).fuse
  rw [h, hp]
  refine ⟨_, _, hardAt, budget, rfl, fun hs => ?_⟩
  have hcap := Chip.hardCap_of_pwr hfuse (by rw [Chip.stopBallast_pwr, hp])
  refine Nat.le_trans (Chip.capNow_le_of_storeLow ?_) (Nat.le_of_eq hcap)
  rw [Chip.stopBallast_pwr, hp]
  exact hs

/-- PWR_STORE_LOW is released: R rises no higher than the E of that moment. -/
theorem Chip.storeLowOff_pwr (h : c.pwr.storeLow = true) :
    let t := c.liftTerm (·.modPwr (fun p => { p with storeLow := false }))
    t.pwr.storeLow = false ∧ t.pwr.ramp = min c.pwr.ramp c.pwr.force := by
  intro t
  have ht : t = _ := Chip.liftTerm_of_lifts (c := c) (f := (·.modPwr (fun p => { p with storeLow := false }))) (k := 2)
    (by simp [Chip.mem_termCodes, h]) (by simp [Chip.mem_termCodes, Chip.modPwr])
  obtain ⟨_, _, hp⟩ := Chip.recap_pwr ((c.modPwr (fun p => { p with storeLow := false })).modPwr
    (fun p => { p with ramp := min p.ramp c.pwr.force }))
  rw [ht, hp]
  exact ⟨rfl, rfl⟩

/-! Theta (R377). -/

theorem Chip.thetaAt_of_low {p : Nat} (h : p < 300) : c.thetaAt p = c.pwr.theta.toNat := by
  unfold Chip.thetaAt
  split
  · exact if_neg (by omega)
  · rfl

theorem Chip.recap_theta (c : Chip) : c.recap.pwr.theta = c.pwr.theta := by
  obtain ⟨_, _, h⟩ := c.recap_pwr
  rw [h]

theorem Chip.putDerate_theta (c : Chip) (d : Option Nat) : (c.putDerate d).pwr.theta = c.pwr.theta := by
  unfold Chip.putDerate
  split
  · rfl
  · obtain ⟨_, _, _, h⟩ := c.liftTerm_pwr_eq (·.modPwr (fun p => { p with derate := none, derateNow := none }))
    rw [h]
    rfl
  · rw [Chip.recap_theta, Chip.powerBeacon_pwr, Chip.pwrErr_pwr]
    rfl
  · rw [Chip.recap_theta]
    rfl

theorem thetaEffect_theta (p : Nat) : (thetaEffect p c).pwr.theta = BitVec.ofNat 16 (c.thetaAt p) := by
  unfold thetaEffect
  extract_lets th c1 d c2
  have h2 : c2.pwr.theta = BitVec.ofNat 16 (c.thetaAt p) := c1.putDerate_theta d
  split
  · obtain ⟨_, _, _, _, h, -⟩ := (c2.modPwr (fun p => { p with airDeclared := true })).airflowFailure_pwr true
    rw [h]
    exact h2
  · split
    · obtain ⟨_, _, _, h⟩ := c2.liftTerm_pwr_eq
        (fun c => c.modPwr (fun p => { p with airDeclared := false, ckptReq := Pwr.airFail { p with airDeclared := false } }))
      refine (congrArg Pwr.theta (c2.airflowEnd_pwr _)).trans ?_
      exact (congrArg (fun d : Chip => d.pwr.theta) h).trans h2
    · exact h2

/-! Regulators (R387). -/

theorem Chip.orderPackage_of_none (hp : c.flt.resetPending = false) (h5 : c.flt.rdomain ≠ 5) (reason : Nat) :
    c.orderPackage reason = c.modFlt (fun f => { f with resetPending := true, pkgReason := reason }.escalate 5 c.now) :=
  if_neg (fun h => h5 (by simpa [Flt.inPackage, hp] using h))

theorem Chip.orderCompute_of_none (hd : c.flt.resetDue = false) (h0 : c.flt.rphase = 0) (hp : c.flt.resetPending = false)
    (h5 : c.flt.rdomain ≠ 5) (h4 : c.flt.rdomain ≠ 4) (reason : Nat) :
    c.orderCompute reason = { c with flt := { c.flt with resetDue := true, reason := reason }.escalate 3 c.now } :=
  if_neg (fun h => (show c.flt.rdomain = 5 ∨ c.flt.rdomain = 4 by
    simpa [Flt.aboveCompute, Flt.inPackage, hd, h0, hp] using h).elim h5 h4)

theorem regFault_resets (c : Chip) (r : Regulator) : let d := (c.pwrErr 8).powerBeacon 8 2 (regulatorArg r)
    d.flt.resetPending = c.flt.resetPending ∧ d.flt.rdomain = c.flt.rdomain ∧ d.flt.rphase = c.flt.rphase
      ∧ d.flt.resetDue = c.flt.resetDue ∧ d.flt.regFault = c.flt.regFault :=
  ((c.pwrErr_reports 8).trans (Chip.powerBeacon_reports _ 8 2 (regulatorArg r) 0xFFFF)).resets

theorem regFault_pwrErr (c : Chip) (r : Regulator) : bit ((c.pwrErr 8).powerBeacon 8 2 (regulatorArg r)).pwr.err 8 = true := by
  rw [Chip.powerBeacon_pwr, Chip.pwrErr_pwr]
  exact bit_setBit_same _ (by decide)

section
variable {r : Regulator}

theorem regFaultEffect_compute (hr : coreRegulator r = true) (hf : c.flt.regFault = false) (hd : c.flt.resetDue = false)
    (h0 : c.flt.rphase = 0) (hp : c.flt.resetPending = false) (h5 : c.flt.rdomain ≠ 5) (h4 : c.flt.rdomain ≠ 4) : let t := regFaultEffect r c
    t.flt.regFault = true ∧ t.flt.resetDue = true ∧ t.flt.reason = 5 ∧ bit t.pwr.err 8 = true := by
  obtain ⟨ep, edom, ephase, edue, -⟩ := regFault_resets c r
  let d := (c.pwrErr 8).powerBeacon 8 2 (regulatorArg r)
  have ht : regFaultEffect r c = _ := (if_pos (by simp [hr, hf])).trans
    (Chip.orderCompute_of_none (c := d.modFlt (fun f => { f with regFault := true })) (edue.trans hd) (ephase.trans h0) (ep.trans hp)
      (edom.trans_ne h5) (edom.trans_ne h4) 5)
  rw [ht]
  exact ⟨rfl, rfl, rfl, regFault_pwrErr c r⟩

theorem regFaultEffect_package (hr : coreRegulator r = false ∨ c.flt.regFault = true) (hp : c.flt.resetPending = false)
    (h5 : c.flt.rdomain ≠ 5) : let t := regFaultEffect r c
    t.flt.resetPending = true ∧ t.flt.pkgReason = 1 ∧ bit t.pwr.err 8 = true := by
  obtain ⟨ep, edom, -⟩ := regFault_resets c r
  have ht : regFaultEffect r c = _ := (if_neg (by obtain h | h := hr <;> simp [h])).trans
    (Chip.orderPackage_of_none (ep.trans hp) (edom.trans_ne h5) 1)
  rw [ht]
  exact ⟨rfl, rfl, regFault_pwrErr c r⟩

end

end Sys2Proof.Machine
end

section
/-! SUPPORT. O57: power samples and windows, the pins, theta and the regulators, with the entry in range and not. -/
namespace Sys2Proof.Machine

variable {c : Chip}

variable {v a p : BitVec 16} {m : WindowMeasure} {r : Regulator} {s : State}

/-- What PWR_STORE_LOW_RELEASE makes of the package. -/
def storeReleaseEffect (c : Chip) : Chip :=
  if !c.pwr.storeLow then c
  else if c.pkg.entryIn then c.liftTerm (·.modPwr (fun p => { p with storeLow := false }))
  else c.modPwr (fun p => { p with storeLow := false })

theorem exec_pwrStoreLowRelease (s : State) : exec .pwrStoreLowRelease s = s.lift storeReleaseEffect := rfl

/-! A package that is not powered on. -/

theorem gives_of_entryOff (h : s.chip.pkg.entryIn = false) {i : Instr} {f : Chip → Chip} (hi : exec i s = s.lift (fun c => c.whenOn f)) :
    Gives i s s.chip :=
  Gives.of_lift hi (if_neg (by simp [h]))

theorem completes_of_entryIn (h : s.chip.pkg.entryIn = true) {i : Instr} {f : Chip → Chip} {P : Chip → Prop}
    (hi : exec i s = s.lift (fun c => c.whenOn f)) (hP : P (f s.chip)) : Completes i s P :=
  Completes.of_lift hi (by rwa [Chip.whenOn, if_pos h])

theorem airAssert_entryOff (h : s.chip.pkg.entryIn = false) (ha : s.chip.pwr.airPin = false) :
    Completes .airflowFailAssert s (fun t => t.pwr = { s.chip.pwr with airPin := true } ∧ t.thm = s.chip.thm) :=
  Completes.of_lift rfl (airAssertEffect_pwr_thm ha _ (if_neg (by simp [Chip.modPwr, h])))

theorem airRelease_entryOff (h : s.chip.pkg.entryIn = false) (ha : s.chip.pwr.airPin = true) :
    Gives .airflowFailRelease s { s.chip with pwr := { s.chip.pwr with airPin := false } } :=
  Gives.of_lift rfl (by simp [airReleaseEffect, ha, h, Chip.modPwr])

theorem storeAssert_entryOff (h : s.chip.pkg.entryIn = false) (hl : s.chip.pwr.storeLow = false) :
    Gives .pwrStoreLowAssert s { s.chip with pwr := { s.chip.pwr with storeLow := true } } :=
  Gives.of_lift rfl (by simp [storeAssertEffect, Chip.whenOn, hl, h, Chip.modPwr])

theorem storeRelease_entryOff (h : s.chip.pkg.entryIn = false) (hl : s.chip.pwr.storeLow = true) :
    Gives .pwrStoreLowRelease s { s.chip with pwr := { s.chip.pwr with storeLow := false } } :=
  Gives.of_lift (exec_pwrStoreLowRelease s) (by simp [storeReleaseEffect, hl, h, Chip.modPwr])

/-! A package that is powered on. -/

theorem airAssert_entryIn (h : s.chip.pkg.entryIn = true) (ha : s.chip.pwr.airPin = false) : Completes .airflowFailAssert s (fun t =>
    t.pwr.airPin = true ∧ t.pwr.ckptReq = true ∧ t.pwr.force ≤ 400 ∧ t.pwr.cntAirflow = satInc s.chip.pwr.cntAirflow 1
      ∧ bit t.pwr.err 3 = true ∧ t.pwr.ballastOn = false ∧ t.thm.alert = true) := by
  let d := s.chip.modPwr (fun p => { p with airPin := true })
  obtain ⟨hp, ht⟩ := airAssertEffect_pwr_thm ha (d.airflowFailure false) (if_pos h)
  obtain ⟨force, limit, hardAt, budget, hf, hle⟩ := d.airflowFailure_pwr false
  refine Completes.of_lift rfl ?_
  rw [hp, ht, hf]
  exact ⟨rfl, rfl, hle rfl, rfl, bit_setBit_same _ (by decide), rfl, Chip.airflowFailure_alert rfl false⟩

theorem airRelease_entryIn (h : s.chip.pkg.entryIn = true) (ha : s.chip.pwr.airPin = true) (hb : s.chip.mbx.dstate ≠ .bringup) :
    Completes .airflowFailRelease s (fun t => t.pwr.airPin = false ∧ t.pwr.ckptReq = s.chip.pwr.airDeclared
      ∧ t.pwr.ramp = if s.chip.pwr.airDeclared then s.chip.pwr.ramp else min s.chip.pwr.ramp s.chip.pwr.force) := by
  refine Completes.of_lift rfl ?_
  have he : airReleaseEffect s.chip = (s.chip.airflowEnd (fun p => { p with airPin := false })).endAirWait := by
    simp [airReleaseEffect, ha, h]
  rw [he, Chip.endAirWait_pwr (by rwa [Chip.airflowEnd_mbx])]
  exact Chip.airflowEnd_pin ha

theorem storeAssert_entryIn (h : s.chip.pkg.entryIn = true) (hl : s.chip.pwr.storeLow = false) : Completes .pwrStoreLowAssert s (fun t =>
    t.pwr.storeLow = true ∧ t.pwr.force ≤ s.chip.hardCap ∧ t.pwr.cntStoreLow = satInc s.chip.pwr.cntStoreLow 1
      ∧ bit t.pwr.err 2 = true ∧ t.pwr.ballastOn = false) := by
  let d := s.chip.modPwr (fun p => { p with storeLow := true })
  have he : storeAssertEffect s.chip = d.storeLowOn := (if_neg (by simp [hl])).trans (if_pos h)
  obtain ⟨force, limit, hardAt, budget, hf, hle⟩ := d.storeLowOn_pwr
  refine Completes.of_lift rfl ?_
  rw [he, hf]
  exact ⟨rfl, hle rfl, rfl, bit_setBit_same _ (by decide), rfl⟩

theorem storeRelease_entryIn (h : s.chip.pkg.entryIn = true) (hl : s.chip.pwr.storeLow = true) : Completes .pwrStoreLowRelease s (fun t =>
    t.pwr.storeLow = false ∧ t.pwr.ramp = min s.chip.pwr.ramp s.chip.pwr.force) := by
  refine Completes.of_lift (exec_pwrStoreLowRelease s) ?_
  simp only [storeReleaseEffect, hl, h, Bool.not_true, Bool.false_eq_true, if_false, if_true]
  exact Chip.storeLowOff_pwr hl

theorem powerSample_entryIn (h : s.chip.pkg.entryIn = true) (v a : BitVec 16) :
    Completes (.powerSample v a) s (fun t => t.pwr.voltage = v ∧ t.pwr.current = a
      ∧ (t.pwr.excursion = true ↔ 10000 * s.chip.pwr.force < v.toNat * a.toNat)
      ∧ t.pwr.samples = ((v.toNat * a.toNat, s.chip.pwr.force) :: s.chip.pwr.samples).take 10000
      ∧ (s.chip.sampleCuts v a → t.pwr.cut = true ∧ t.pwr.cntExcursion = satInc s.chip.pwr.cntExcursion 1 ∧ bit t.pwr.err 7 = true
          ∧ 70 ≤ t.pwr.ceil0.toNat ∧ t.pwr.ceil0.toNat ≤ max 70 s.chip.pwr.ceil0.toNat)
      ∧ (¬ s.chip.sampleCuts v a → t.pwr.ceil0 = s.chip.pwr.ceil0 ∧ t.pwr.ceil1 = s.chip.pwr.ceil1
          ∧ t.pwr.cntExcursion = s.chip.pwr.cntExcursion)) := by
  refine completes_of_entryIn h rfl ?_
  by_cases hc : s.chip.sampleCuts v a
  · rw [sampleEffect_cuts hc]
    obtain ⟨x, y, hp⟩ := (s.chip.sampled v a).cutExcursion_pwr
    rw [hp]
    obtain ⟨hlow, hhigh⟩ := lowerCeiling_bounds s.chip.pwr.ceil0 x
    exact ⟨rfl, rfl, decide_eq_true_iff, rfl, fun _ => ⟨rfl, rfl, bit_setBit_same _ (by decide), hlow, hhigh⟩, fun hn => absurd hc hn⟩
  · rw [sampleEffect_keeps hc]
    exact ⟨rfl, rfl, decide_eq_true_iff, rfl, fun hy => absurd hy hc, fun _ => ⟨rfl, rfl, rfl⟩⟩

theorem powerWindow_entryIn (h : s.chip.pkg.entryIn = true) (m : WindowMeasure) : Completes (.powerWindow m) s (fun t =>
    t.pwr.ceil0 = clampCeiling m.ceiling0 ∧ t.pwr.ceil1 = clampCeiling m.ceiling1 ∧ 70 ≤ t.pwr.ceil0.toNat ∧ t.pwr.ceil0.toNat ≤ 164
      ∧ (70 < t.pwr.ceil0.toNat → t.pwr.duty0 = 15) ∧ (70 < t.pwr.ceil1.toNat → t.pwr.duty1 = 15) ∧ t.pwr.pace = m.pace
      ∧ (t.pwr.pacing = true ↔ 1 < m.pace.toNat) ∧ t.pwr.floor = s.chip.pwr.floorNow
      ∧ (t.pwr.ballastOn = true ↔ s.chip.ballastAllowed = true ∧ m.ownCurrent < s.chip.pwr.floorNow)) := by
  refine completes_of_entryIn h rfl ?_
  unfold windowEffect
  extract_lets f0 f1 c1
  obtain ⟨err, hpace⟩ := c1.putPace_pwr m.pace
  obtain ⟨hphase, hpending⟩ := c1.putPace_resets m.pace
  obtain ⟨floorStart, windows, currents, short, err', hw⟩ := (c1.putPace m.pace).ballastWindow_pwr m.ownCurrent m.ballastRoom
  have hfloor : (c1.putPace m.pace).pwr.floorNow = s.chip.pwr.floorNow := by
    rw [hpace]
    rfl
  have hallowed : (c1.putPace m.pace).ballastAllowed = s.chip.ballastAllowed :=
    Chip.ballastAllowed_congr (by rw [hpace]; rfl) (by rw [hpace]; rfl) hphase hpending
  obtain ⟨hlow, hhigh⟩ := clampCeiling_bounds m.ceiling0
  rw [hfloor, hallowed, hpace] at hw
  rw [hw]
  refine ⟨rfl, rfl, hlow, hhigh, fun h70 => dieDuty_of_above h70 _, fun h70 => dieDuty_of_above h70 _, rfl, decide_eq_true_iff, rfl, ?_⟩
  simp

theorem inletStale_entryIn (h : s.chip.pkg.entryIn = true) : Completes .inletStale s (fun t =>
    t.thm.inletValid = false ∧ t.thm.inlet = 560 ∧ bit t.thm.err 7 = true) := by
  refine completes_of_entryIn h rfl ?_
  rw [inletStaleEffect, Chip.powerBeacon_thm, Chip.thmErr_thm]
  exact ⟨rfl, rfl, bit_setBit_same _ (by decide)⟩

end Sys2Proof.Machine
end

namespace Sys2Proof.Machine

/-- Settles O57: off, nothing but the pins is known; on, each command by what it leaves of the power manager. -/
theorem powerAndAirflow : Obligations.PowerAndAirflow := by
  unfold Obligations.PowerAndAirflow
  refine ⟨fun v a p m r s h => ?_, fun v a p m r s h => ?_⟩
  · refine ⟨?_, airAssert_entryOff h, airRelease_entryOff h, storeAssert_entryOff h, storeRelease_entryOff h⟩
    simp only [List.forall_mem_cons, List.not_mem_nil, false_implies, implies_true, and_true]
    exact ⟨gives_of_entryOff h rfl, gives_of_entryOff h rfl, gives_of_entryOff h rfl, gives_of_entryOff h rfl, gives_of_entryOff h rfl⟩
  · exact ⟨powerSample_entryIn h v a, powerWindow_entryIn h m, airAssert_entryIn h,
      fun ha => Gives.of_lift rfl (if_pos ha), airRelease_entryIn h, fun ha => Gives.of_lift rfl (if_pos (by simp [ha])),
      storeAssert_entryIn h, fun hl => Gives.of_lift rfl (if_pos hl), storeRelease_entryIn h,
      fun hl => Gives.of_lift (exec_pwrStoreLowRelease s) (if_pos (by simp [hl])), completes_of_entryIn h rfl (thetaEffect_theta p.toNat), Chip.thetaAt_of_low,
      inletStale_entryIn h,
      fun hr hf hd h0 hp h5 h4 => completes_of_entryIn h rfl (regFaultEffect_compute hr hf hd h0 hp h5 h4),
      fun hr hp h5 => completes_of_entryIn h rfl (regFaultEffect_package hr hp h5)⟩

end Sys2Proof.Machine

section
/-! SUPPORT. The alert, a counted throttle step and the shutdown, as the thermal state and the units see them (R371 to R375). -/
namespace Sys2Proof.Machine

variable {c d : Chip}

/-! What reports and counts leave of the units and of the resets. -/

@[simp] theorem Chip.thmErr_cores (c : Chip) (b : Nat) : (c.thmErr b).cores = c.cores := (c.thmErr_reports b).cores

@[simp] theorem Chip.thmErr_stks (c : Chip) (b : Nat) : (c.thmErr b).stks = c.stks := (c.thmErr_reports b).stks

@[simp] theorem Chip.powerBeacon_cores (c : Chip) (cause severity arg : Nat) (unit : BitVec 16) :
    (c.powerBeacon cause severity arg unit).cores = c.cores :=
  (c.powerBeacon_reports cause severity arg unit).cores

@[simp] theorem Chip.powerBeacon_stks (c : Chip) (cause severity arg : Nat) (unit : BitVec 16) :
    (c.powerBeacon cause severity arg unit).stks = c.stks :=
  (c.powerBeacon_reports cause severity arg unit).stks

@[simp] theorem Chip.realert_cores (c : Chip) : c.realert.cores = c.cores := by
  obtain ⟨_, h⟩ := c.realert_reports
  exact h.cores

@[simp] theorem Chip.realert_stks (c : Chip) : c.realert.stks = c.stks := by
  obtain ⟨_, h⟩ := c.realert_reports
  exact h.stks

@[simp] theorem Chip.countThrottle_cores (c : Chip) : c.countThrottle.cores = c.cores := Chip.thmErr_cores _ 1

@[simp] theorem Chip.countThrottle_engines (c : Chip) : c.countThrottle.engines = c.engines := (Chip.thmErr_reports _ 1).engines

@[simp] theorem Chip.countThrottle_thm (c : Chip) :
    c.countThrottle.thm = { c.thm with cntThrot := satInc c.thm.cntThrot 1, err := setBit c.thm.err 1 } :=
  Chip.thmErr_thm _ 1

/-- A bit of THM_ERR stays set when the alert follows R375. -/
theorem Chip.realert_bit {i : Nat} (h : bit c.thm.err i = true) : bit c.realert.thm.err i = true := by
  unfold Chip.realert
  dsimp only
  split
  · rw [Chip.thmErr_thm]
    exact bit_setBit_of_bit h 0
  · exact h

/-! The alert (R375). -/

theorem Chip.alertNow_iff : c.alertNow = true ↔ (∃ q ∈ c.cores, q.2.clock.gated = true) ∨ (∃ q ∈ c.stks, 1520 ≤ q.2.dram.toInt)
    ∨ c.thm.hsHigh = true ∨ c.pwr.airPin = true ∨ c.thm.shutdown = true := by
  simp only [Chip.alertNow, Chip.dramHot, Bool.or_eq_true, List.any_eq_true, decide_eq_true_eq, or_assoc]

theorem tget_mem {α : Type} {z : α} {t : Tab α} {i : Nat} (h : tget z t i ≠ z) : (i, tget z t i) ∈ t := by
  induction t with
  | nil => exact absurd rfl h
  | cons p t ih =>
    obtain ⟨k, x⟩ := p
    rw [tget] at h ⊢
    split at h
    · next hk => simp [hk]
    · next hk =>
      split at h
      · exact absurd rfl h
      · next hi =>
        rw [if_neg hk, if_neg hi]
        exact List.mem_cons_of_mem _ (ih h)

theorem Chip.alertNow_of_gated (n : CoreId) (h : (c.core n).clock.gated = true) : c.alertNow = true := by
  refine Chip.alertNow_iff.mpr (.inl ⟨_, tget_mem (i := n.val) (z := Core.zero) (fun hz => ?_), h⟩)
  rw [Chip.core, hz] at h
  exact absurd h (by decide)

theorem Chip.alertNow_of_dram (st : StackId) (h : 1520 ≤ (c.stack st).dram.toInt) : c.alertNow = true := by
  refine Chip.alertNow_iff.mpr (.inr (.inl ⟨_, tget_mem (i := st.val) (z := Stack.zero) (fun hz => ?_), h⟩))
  rw [Chip.stack, hz] at h
  exact absurd h (by decide)

/-! The shutdown (R374). -/

/-- The effects of a thermal shutdown of package `c`. -/
def Chip.ShutDown (c t : Chip) : Prop :=
  t.thm.shutdown = true ∧ t.thm.cntShutdown = satInc c.thm.cntShutdown 1 ∧ t.thm.alert = true ∧ t.flt.resetPending = true ∧ t.flt.pkgReason = 1

theorem Chip.thermalShutdown_shutDown (h : c.thm.shutdown = false) (hp : c.flt.resetPending = false) (h5 : c.flt.rdomain ≠ 5) (row : Nat) :
    c.ShutDown (c.thermalShutdown row) := by
  unfold Chip.thermalShutdown
  extract_lets c1 c2
  rw [if_neg (by simp [h])]
  obtain ⟨_, _, h1⟩ := c.mapUnits_eq (fun k => { k with clock := { k.clock with gated := true, gatedFrame := true } }) (fun k => { k with gated := true })
  let on := c1.modThm (fun t => { t with shutdown := true, cntShutdown := satInc t.cntShutdown 1 })
  have hthm : c1.thm = c.thm := (congrArg Chip.thm h1 :)
  have hflt : on.flt = c.flt := (congrArg Chip.flt h1 :)
  obtain ⟨err, hr⟩ := on.realert_reports
  obtain ⟨ep, edom, -⟩ := (hr.trans (c2.powerBeacon_reports 7 2 row 0xFFFF)).resets
  have ht : (c2.powerBeacon 7 2 row).thm = { on.thm with alert := on.alertNow, err := err } := (c2.powerBeacon_thm 7 2 row 0xFFFF).trans hr.thm
  rw [Chip.orderPackage_of_none (ep.trans (hflt ▸ hp)) (edom.trans_ne (hflt ▸ h5))]
  refine ⟨?_, ?_, ?_, rfl, rfl⟩
  · exact congrArg Thm.shutdown ht
  · exact (congrArg Thm.cntShutdown ht).trans (congrArg (fun t : Thm => satInc t.cntShutdown 1) hthm)
  · exact (congrArg Thm.alert ht).trans (Chip.alertNow_iff.mpr (.inr (.inr (.inr (.inr rfl)))))

theorem Chip.ShutDown.of_thm {t : Chip} (h : c.ShutDown t) (hd : c.thm.cntShutdown = d.thm.cntShutdown) : d.ShutDown t := by
  rw [Chip.ShutDown, ← hd]
  exact h

theorem Chip.thermalShutdown_again (h : c.thm.shutdown = true) (row : Nat) : c.thermalShutdown row = c := if_pos h

end Sys2Proof.Machine
end

section
/-! SUPPORT. A core's temperature (R371, R372): the core, the counts and the alert after it. -/
namespace Sys2Proof.Machine

variable {c : Chip} {n : CoreId} {x : Int}

/-- Core `n` of a package with a canonical core table stands at temperature `e` with clock `k`. -/
def Chip.HasClock (c : Chip) (n : CoreId) (e : BitVec 16) (k : CoreClock) : Prop :=
  twf Core.zero c.cores = true ∧ (c.core n).therm.eff = e ∧ (c.core n).clock = k

theorem Chip.HasClock.modCore {e e' : BitVec 16} {k k' : CoreClock} (h : c.HasClock n e k) {f : Core → Core}
    (he : ∀ q : Core, q.therm.eff = e → (f q).therm.eff = e') (hk : ∀ q : Core, q.clock = k → (f q).clock = k') :
    (c.modCore n f).HasClock n e' k' := by
  obtain ⟨hw, hq, hp⟩ := h
  have hcore : (c.modCore n f).core n = f (c.core n) := tget_tset_same hw n.val _
  exact ⟨twf_tset hw n.val _, by rw [hcore]; exact he _ hq, by rw [hcore]; exact hk _ hp⟩

theorem Chip.HasClock.of_cores {d : Chip} {e : BitVec 16} {k : CoreClock} (h : c.HasClock n e k) (hd : d.cores = c.cores) :
    d.HasClock n e k := by
  rw [Chip.HasClock, Chip.core, hd]
  exact h

/-- The limit of a core that comes to `x` (R372). -/
def Chip.limitAt (c : Chip) (n : CoreId) (x : Int) : Byte :=
  if 1680 ≤ x ∧ (c.core n).therm.eff.toInt < 1680 then throttledTo (min (c.coreFree n) (c.core n).clock.limit.toNat)
  else (c.core n).clock.limit

/-- A core that comes to `x` is gated (R372, R374). -/
def Chip.gatedAt (c : Chip) (n : CoreId) (x : Int) : Bool :=
  if 1840 ≤ x ∧ !(c.core n).clock.gated then true
  else if x ≤ 1728 ∧ !c.thm.shutdown then false else (c.core n).clock.gated

/-- The core whose temperature became `x`, below 125 degrees C. -/
theorem Chip.coreTemp_core (hc : c.Canonical) (n : CoreId) (hx : x < 2000) :
    ((c.coreTemp n x).core n).therm.eff = BitVec.ofInt 16 x
      ∧ ∃ gatedFrame, (x < 1840 → gatedFrame = (c.core n).clock.gatedFrame) ∧ ((c.coreTemp n x).core n).clock =
        { (c.core n).clock with limit := c.limitAt n x, gated := c.gatedAt n x, gatedFrame := gatedFrame } := by
  unfold Chip.coreTemp
  extract_lets k old c1 c2 c3 c4
  rw [if_neg (by omega)]
  have h1 : c1.HasClock n (BitVec.ofInt 16 x) k.clock :=
    Chip.HasClock.modCore (e := k.therm.eff) ⟨hc.cores, rfl, rfl⟩ (fun _ _ => rfl) (fun _ h => h)
  have h2 : c2.HasClock n (BitVec.ofInt 16 x) { k.clock with limit := c.limitAt n x } ∧ c2.thm.shutdown = c.thm.shutdown := by
    unfold c2 Chip.limitAt
    by_cases hl : 1680 ≤ x ∧ old < 1680
    · rw [if_pos hl, if_pos hl, Chip.countThrottle_thm]
      let put := fun q : Core => { q with clock := { q.clock with limit := throttledTo (min (c.coreFree n) q.clock.limit.toNat) } }
      have hput := h1.modCore (f := put) (fun _ h => h) (fun q h => congrArg
        (fun p : CoreClock => { p with limit := throttledTo (min (c.coreFree n) p.limit.toNat) }) h)
      exact ⟨hput.of_cores (Chip.countThrottle_cores _), rfl⟩
    · rw [if_neg hl, if_neg hl]
      exact ⟨h1, rfl⟩
  obtain ⟨h2, hs⟩ := h2
  have h3 : ∃ gatedFrame, (x < 1840 → gatedFrame = k.clock.gatedFrame)
      ∧ c3.HasClock n (BitVec.ofInt 16 x) { k.clock with limit := c.limitAt n x, gated := c.gatedAt n x, gatedFrame := gatedFrame } := by
    unfold c3 Chip.gatedAt
    rw [hs]
    by_cases hg : 1840 ≤ x ∧ !k.clock.gated
    · rw [if_pos hg, if_pos hg]
      let put := fun q : Core => { q with clock := { q.clock with gated := true, gatedFrame := true } }
      have hput := h2.modCore (f := put) (fun _ h => h) (fun q h => congrArg
        (fun p : CoreClock => { p with gated := true, gatedFrame := true }) h)
      exact ⟨true, fun h => absurd h (by omega), hput.of_cores ((Chip.powerBeacon_cores _ 4 1 0 _).trans (Chip.thmErr_cores _ 2))⟩
    · rw [if_neg hg, if_neg hg]
      by_cases hu : x ≤ 1728 ∧ !c.thm.shutdown
      · rw [if_pos hu, if_pos hu]
        exact ⟨k.clock.gatedFrame, fun _ => rfl, h2.modCore (fun _ h => h) (fun q h => by rw [h])⟩
      · rw [if_neg hu, if_neg hu]
        exact ⟨k.clock.gatedFrame, fun _ => rfl, h2⟩
  obtain ⟨gatedFrame, hframe, h3⟩ := h3
  have h4 : c4.HasClock n (BitVec.ofInt 16 x) { k.clock with limit := c.limitAt n x, gated := c.gatedAt n x, gatedFrame := gatedFrame } := by
    unfold c4
    split
    · exact h3.modCore (fun _ h => h) (fun _ h => h)
    · exact h3
  obtain ⟨-, he, hk⟩ := h4.of_cores (Chip.realert_cores _)
  exact ⟨he, gatedFrame, hframe, hk⟩

/-- The counts of the thermal state after core `n` has come to `x`, below 125 degrees C. -/
theorem Chip.coreTemp_thm (n : CoreId) (hx : x < 2000) : ∃ alert err, (c.coreTemp n x).thm = { c.thm with
    alert := alert, err := err
    cntThrot := if 1680 ≤ x ∧ (c.core n).therm.eff.toInt < 1680 then satInc c.thm.cntThrot 1 else c.thm.cntThrot
    cntGate := if 1840 ≤ x ∧ !(c.core n).clock.gated then satInc c.thm.cntGate 1 else c.thm.cntGate } := by
  unfold Chip.coreTemp
  extract_lets k old c1 c2 c3 c4
  rw [if_neg (by omega)]
  have h2 : ∃ err, c2.thm = { c.thm with
      err := err, cntThrot := if 1680 ≤ x ∧ old < 1680 then satInc c.thm.cntThrot 1 else c.thm.cntThrot } := by
    unfold c2
    split
    · exact ⟨_, Chip.countThrottle_thm _⟩
    · exact ⟨_, rfl⟩
  obtain ⟨err2, h2⟩ := h2
  have h3 : ∃ err, c3.thm = { c2.thm with
      err := err, cntGate := if 1840 ≤ x ∧ !k.clock.gated then satInc c2.thm.cntGate 1 else c2.thm.cntGate } := by
    unfold c3
    split
    · exact ⟨_, (Chip.powerBeacon_thm _ 4 1 0 _).trans (Chip.thmErr_thm _ 2)⟩
    · split <;> exact ⟨_, rfl⟩
  obtain ⟨err3, h3⟩ := h3
  have h4 : c4.thm = c3.thm := by
    unfold c4
    split <;> rfl
  obtain ⟨err, hr⟩ := c4.realert_thm
  exact ⟨c4.alertNow, err, by rw [hr, h4, h3, h2]⟩

theorem Chip.coreTemp_realert (n : CoreId) (hx : x < 2000) : ∃ d : Chip, c.coreTemp n x = d.realert := ⟨_, if_neg (by omega)⟩

theorem Chip.coreTemp_alert (n : CoreId) (hx : x < 2000) (hg : ((c.coreTemp n x).core n).clock.gated = true) :
    (c.coreTemp n x).thm.alert = true := by
  obtain ⟨d, hd⟩ := c.coreTemp_realert n hx
  rw [hd] at hg ⊢
  rw [Chip.realert_alert]
  rw [Chip.core, Chip.realert_cores] at hg
  exact Chip.alertNow_of_gated n hg

/-- Below 100 degrees C a core's temperature leaves its clock. -/
theorem Chip.coreTemp_of_cool (hc : c.Canonical) (n : CoreId) (hlow : -32768 ≤ x) (hx : x < 1600) (hg : (c.core n).clock.gated = false) :
    ((c.coreTemp n x).core n).therm.eff.toInt = x ∧ ((c.coreTemp n x).core n).clock = (c.core n).clock := by
  obtain ⟨he, gatedFrame, hframe, hk⟩ := Chip.coreTemp_core hc n (x := x) (by omega)
  have hl : c.limitAt n x = (c.core n).clock.limit := if_neg (by omega)
  have hgated : c.gatedAt n x = (c.core n).clock.gated := by
    simp [Chip.gatedAt, hg]
    omega
  refine ⟨?_, ?_⟩
  · rw [he, BitVec.toInt_ofInt]
    exact Int.bmod_eq_of_le (by omega) (by omega)
  · rw [hk, hl, hgated, hframe (by omega)]

theorem Chip.coreTemp_throttles (hc : c.Canonical) (n : CoreId) (hlow : 1680 ≤ x) (hx : x < 1840) (ho : (c.core n).therm.eff.toInt < 1680) :
    ((c.coreTemp n x).core n).clock.limit = throttledTo (min (c.coreFree n) (c.core n).clock.limit.toNat)
      ∧ (c.coreTemp n x).thm.cntThrot = satInc c.thm.cntThrot 1 := by
  obtain ⟨-, _, -, hk⟩ := Chip.coreTemp_core hc n (x := x) (by omega)
  obtain ⟨_, _, ht⟩ := c.coreTemp_thm n (x := x) (by omega)
  rw [hk, ht]
  exact ⟨if_pos ⟨hlow, ho⟩, if_pos ⟨hlow, ho⟩⟩

theorem Chip.coreTemp_gates (hc : c.Canonical) (n : CoreId) (hlow : 1840 ≤ x) (hx : x < 2000) (hg : (c.core n).clock.gated = false) :
    ((c.coreTemp n x).core n).clock.gated = true ∧ (c.coreTemp n x).thm.cntGate = satInc c.thm.cntGate 1 ∧ (c.coreTemp n x).thm.alert = true := by
  obtain ⟨-, _, -, hk⟩ := Chip.coreTemp_core hc n hx
  obtain ⟨_, _, ht⟩ := c.coreTemp_thm n hx
  have hgated : ((c.coreTemp n x).core n).clock.gated = true := by
    rw [hk]
    exact if_pos ⟨hlow, by rw [hg]; rfl⟩
  exact ⟨hgated, by rw [ht]; exact if_pos ⟨hlow, by rw [hg]; rfl⟩, Chip.coreTemp_alert n hx hgated⟩

/-- What a shutdown gated stays gated (R374). -/
theorem Chip.coreTemp_keeps_gated (hc : c.Canonical) (n : CoreId) (x : Int) (hg : (c.core n).clock.gated = true) (hs : c.thm.shutdown = true) :
    ((c.coreTemp n x).core n).clock.gated = true := by
  by_cases hx : 2000 ≤ x
  · let c1 := c.modCore n (fun k => { k with therm := { k.therm with eff := BitVec.ofInt 16 x } })
    have he : c.coreTemp n x = c1 := (if_pos hx).trans (Chip.thermalShutdown_again (c := c1) hs 1)
    obtain ⟨-, -, hk⟩ : c1.HasClock n (BitVec.ofInt 16 x) (c.core n).clock :=
      Chip.HasClock.modCore (e := (c.core n).therm.eff) ⟨hc.cores, rfl, rfl⟩ (fun _ _ => rfl) (fun _ h => h)
    rw [he, hk]
    exact hg
  · obtain ⟨-, _, -, hk⟩ := Chip.coreTemp_core hc n (x := x) (by omega)
    rw [hk]
    simp [Chip.gatedAt, hg, hs]

theorem Chip.coreTemp_ungates (hc : c.Canonical) (n : CoreId) (hx : x ≤ 1728) (hs : c.thm.shutdown = false) :
    ((c.coreTemp n x).core n).clock.gated = false := by
  obtain ⟨-, _, -, hk⟩ := Chip.coreTemp_core hc n (x := x) (by omega)
  rw [hk]
  exact (if_neg (by omega)).trans (if_pos ⟨hx, by rw [hs]; rfl⟩)

end Sys2Proof.Machine
end

section
/-! SUPPORT. Readings of engines and stacks, and throttle steps (R372 to R375). -/
namespace Sys2Proof.Machine

variable {c : Chip} {n : CoreId} {e : EngineId} {st : StackId} {t0 t1 : BitVec 16}

/-! Readings. -/

theorem Chip.setEngine_self (hc : c.Canonical) (e : EngineId) : c.setEngine e (c.engine e) = c :=
  congrArg (fun t => { c with engines := t }) (tset_tget_self hc.engines e.val)

theorem sensorEffect_engine_hot (hu : (c.engine e).state.usable = true) (ht : 2000 ≤ t0.toInt) :
    sensorEffect (.engine e t0) c = (c.setEngine e { c.engine e with temp := t0 }).thermalShutdown 2 := by
  simp only [sensorEffect, Chip.modEngine, hu, ht, decide_true, Bool.and_self, if_true]

theorem sensorEffect_engine_cool (hu : (c.engine e).state.usable = true) (ht : t0.toInt < 2000) :
    sensorEffect (.engine e t0) c = c.setEngine e { c.engine e with temp := t0 } := by
  simp [sensorEffect, Chip.modEngine, hu, Int.not_le.mpr ht]

theorem sensorEffect_engine_unusable (hc : c.Canonical) (hu : (c.engine e).state.usable = false) : sensorEffect (.engine e t0) c = c := by
  simp [sensorEffect, Chip.modEngine, hu, Chip.setEngine_self hc]

/-- The stack as it is read. -/
def Chip.stackRead (c : Chip) (st : StackId) (base dram : BitVec 16) : Chip := c.setStack st { c.stack st with base := base, dram := dram }

theorem Chip.stack_of_stackRead (hc : c.Canonical) {f : Stack → Stack} {d : Chip}
    (hd : d.stks = ((c.stackRead st t0 t1).modStack st f).stks) : d.stack st = f { c.stack st with base := t0, dram := t1 } := by
  have hread : (c.stackRead st t0 t1).stack st = { c.stack st with base := t0, dram := t1 } := Chip.stack_setStack hc st _
  rw [Chip.stack, hd, ← hread]
  exact tget_tset_same (twf_tset hc.stks st.val _) st.val _

section
variable (hs : (c.stack st).state ≠ .none)
include hs

theorem Chip.readStack_shutDown (h : 2000 ≤ t0.toInt ∨ 1680 ≤ t1.toInt) : ∃ row, c.readStack st t0 t1 = (c.stackRead st t0 t1).thermalShutdown row := by
  rw [Chip.readStack, if_neg hs]
  by_cases h0 : 2000 ≤ t0.toInt
  · exact ⟨2, if_pos h0⟩
  · exact ⟨3, (if_neg h0).trans (if_pos (h.resolve_left h0))⟩

theorem Chip.readStack_below (h0 : t0.toInt < 2000) (h1 : t1.toInt < 1680) : c.readStack st t0 t1 =
    if 1520 ≤ t1.toInt ∧ !(c.stack st).dramHot then
      ((((c.stackRead st t0 t1).modStack st (fun k => { k with dramHot := true })).thmErr 4).powerBeacon 5 1 st.val).realert
    else if t1.toInt ≤ 1440 then ((c.stackRead st t0 t1).modStack st (fun k => { k with dramHot := false })).realert
    else (c.stackRead st t0 t1).realert := by
  rw [Chip.readStack, if_neg hs]
  exact (if_neg (by omega)).trans (if_neg (by omega))

theorem Chip.readStack_alarm (hc : c.Canonical) (h0 : t0.toInt < 2000) (hlow : 1520 ≤ t1.toInt) (h1 : t1.toInt < 1680) (hh : (c.stack st).dramHot = false) :
    (c.readStack st t0 t1).stack st = { c.stack st with base := t0, dram := t1, dramHot := true } ∧ bit (c.readStack st t0 t1).thm.err 4 = true
      ∧ (c.readStack st t0 t1).thm.alert = true := by
  rw [Chip.readStack_below hs h0 h1, if_pos ⟨hlow, by rw [hh]; rfl⟩]
  have hst := Chip.stack_of_stackRead (st := st) (t0 := t0) (t1 := t1) hc (f := fun k => { k with dramHot := true })
    ((Chip.powerBeacon_stks _ 5 1 st.val 0xFFFF).trans (Chip.thmErr_stks _ 4))
  refine ⟨?_, Chip.realert_bit ?_, ?_⟩
  · rw [Chip.stack, Chip.realert_stks]
    exact hst
  · rw [Chip.powerBeacon_thm, Chip.thmErr_thm]
    exact bit_setBit_same _ (by decide)
  · rw [Chip.realert_alert]
    refine Chip.alertNow_of_dram st ?_
    rw [hst]
    exact hlow

theorem Chip.readStack_cooled (hc : c.Canonical) (h0 : t0.toInt < 2000) (h1 : t1.toInt ≤ 1440) :
    (c.readStack st t0 t1).stack st = { c.stack st with base := t0, dram := t1, dramHot := false } := by
  rw [Chip.readStack_below hs h0 (by omega), if_neg (by omega), if_pos h1]
  exact Chip.stack_of_stackRead hc (f := fun k => { k with dramHot := false }) (Chip.realert_stks _)

/-- Between its limits a reading of a stack changes the temperatures alone, and the alert. -/
theorem Chip.readStack_between (h0 : t0.toInt < 2000) (hlow : 1440 < t1.toInt) (h1 : t1.toInt < 1680)
    (hh : t1.toInt < 1520 ∨ (c.stack st).dramHot = true) : c.readStack st t0 t1 = (c.stackRead st t0 t1).realert := by
  rw [Chip.readStack_below hs h0 h1, if_neg, if_neg (by omega)]
  obtain hh | hh := hh
  · omega
  · simp [hh]

end

/-! Throttle steps (R372). -/

section
variable (hu : (c.core n).state.usable = true)
include hu

theorem throttleEffect_core_lower (hc : c.Canonical) (ht : 1680 ≤ (c.core n).therm.eff.toInt) (hl : 70 < (c.core n).clock.limit.toNat) :
    ((throttleEffect (.core n) c).core n).clock.limit = throttledTo (c.core n).clock.limit.toNat
      ∧ (throttleEffect (.core n) c).thm.cntThrot = satInc c.thm.cntThrot 1 := by
  let put := fun q : Core => { q with clock := { q.clock with limit := throttledTo (c.core n).clock.limit.toNat } }
  have hput : (c.modCore n put).core n = put (c.core n) := Chip.core_setCore hc n _
  have he : throttleEffect (.core n) c = (c.modCore n put).countThrottle := (if_pos hu).trans ((if_pos ht).trans (if_pos hl))
  rw [he, Chip.core, Chip.countThrottle_cores, Chip.countThrottle_thm]
  exact ⟨congrArg (fun q : Core => q.clock.limit) hput, rfl⟩

theorem throttleEffect_core_rise (hc : c.Canonical) (ht : (c.core n).therm.eff.toInt ≤ 1600) :
    ((throttleEffect (.core n) c).core n).clock.limit
      = if c.coreFree n ≤ (c.core n).clock.limit.toNat + 5 then 164 else (c.core n).clock.limit + 5 := by
  let put := fun q : Core => { q with clock := { q.clock with
    limit := if c.coreFree n ≤ (c.core n).clock.limit.toNat + 5 then 164 else (c.core n).clock.limit + 5 } }
  have he : throttleEffect (.core n) c = c.modCore n put := (if_pos hu).trans ((if_neg (by omega)).trans (if_pos ht))
  have hput : (c.modCore n put).core n = put (c.core n) := Chip.core_setCore hc n _
  rw [he, hput]

theorem throttleEffect_core_between (h0 : 1600 < (c.core n).therm.eff.toInt) (h1 : (c.core n).therm.eff.toInt < 1680) :
    throttleEffect (.core n) c = c :=
  (if_pos hu).trans ((if_neg (by omega)).trans (if_neg (by omega)))

end

section
variable (hu : (c.engine e).state.usable = true)
include hu

theorem throttleEffect_engine_between (h0 : 1600 < (c.engine e).temp.toInt) (h1 : (c.engine e).temp.toInt < 1680) :
    throttleEffect (.engine e) c = c :=
  (if_neg (by simp [hu])).trans ((if_neg (by omega)).trans (if_neg (by omega)))

theorem throttleEffect_engine_lower (hc : c.Canonical) (ht : 1680 ≤ (c.engine e).temp.toInt)
    (hd : (c.engine e).down < (tget 16 c.pwr.sgaDuty (engStack e.val)).toNat - 1) :
    ((throttleEffect (.engine e) c).engine e).down = (c.engine e).down + 1 := by
  let put := fun q : Engine => { q with down := q.down + 1 }
  have hput : (c.modEngine e put).engine e = put (c.engine e) := Chip.engine_setEngine hc e _
  have hstep : c.stepEngine e true = (c.modEngine e put).countThrottle := by
    unfold Chip.stepEngine
    exact (if_pos rfl).trans (if_pos hd)
  have he : throttleEffect (.engine e) c = _ := (if_neg (by simp [hu])).trans ((if_pos ht).trans hstep)
  rw [he, Chip.engine, Chip.countThrottle_engines]
  exact congrArg Engine.down hput

end

theorem throttleEffect_stack_between (h0 : 1440 < (c.stack st).dram.toInt) (h1 : (c.stack st).dram.toInt < 1520) :
    throttleEffect (.stack st) c = c :=
  (if_neg (by omega)).trans (if_neg (by omega))

end Sys2Proof.Machine
end

section
/-! SUPPORT. The heat sink and the release of a shutdown (R374, R376). -/
namespace Sys2Proof.Machine

variable {c : Chip} {t0 t1 : BitVec 16}

/-- The package with the readings of the two thermistors taken, E with them. -/
def Chip.hsRead (c : Chip) (t0 t1 : Option (BitVec 16)) : Chip := c.liftTerm (fun c => c.modThm (fun t => { t with hs0 := t0, hs1 := t1 }))

theorem Chip.hsRead_eq (c : Chip) (t0 t1 : Option (BitVec 16)) : ∃ pwr : Pwr, c.hsRead t0 t1 =
    { c with pwr := pwr, thm := { c.thm with hs0 := t0, hs1 := t1 } } :=
  c.liftTerm_eq _

@[simp] theorem Chip.hsRead_thm (c : Chip) (t0 t1 : Option (BitVec 16)) : (c.hsRead t0 t1).thm = { c.thm with hs0 := t0, hs1 := t1 } := by
  obtain ⟨_, h⟩ := c.hsRead_eq t0 t1
  rw [h]

/-- Two readings of thermistors that work, by the hotter. -/
theorem hsReadEffect_both (c : Chip) (t0 t1 : BitVec 16) : hsReadEffect (some t0) (some t1) c =
    let d := c.hsRead (some t0) (some t1)
    if 1600 ≤ max t0.toInt t1.toInt then d.thermalShutdown 5
    else if 1440 ≤ max t0.toInt t1.toInt ∧ !c.thm.hsHigh then
      (((d.modThm (fun t => { t with hsHigh := true })).thmErr 5).powerBeacon 6 1 (max t0.toInt t1.toInt / 16).toNat).realert
    else if max t0.toInt t1.toInt ≤ 1360 then (d.modThm (fun t => { t with hsHigh := false })).realert
    else d.realert := by
  unfold hsReadEffect
  extract_lets old put c1 c2 c3 d
  have h2 : c2 = d := if_neg (by simp)
  have h3 : c3 = d := by
    refine (if_neg ?_).trans h2
    rw [h2, Chip.hsRead_thm]
    simp [Thm.hsFault]
  have hh : c3.thm.hs = some (max t0.toInt t1.toInt) := by
    rw [h3, Chip.hsRead_thm]
    rfl
  rw [hh, h3]

theorem hsReadEffect_shutDown (ht : 1600 ≤ t0.toInt ∨ 1600 ≤ t1.toInt) :
    hsReadEffect (some t0) (some t1) c = (c.hsRead (some t0) (some t1)).thermalShutdown 5 := by
  rw [hsReadEffect_both]
  exact if_pos (by omega)

theorem hsReadEffect_high (h0 : t0.toInt < 1600) (h1 : t1.toInt < 1600) (hm : 1440 ≤ max t0.toInt t1.toInt) (hh : c.thm.hsHigh = false) :
    let t := hsReadEffect (some t0) (some t1) c
    t.thm.hsHigh = true ∧ bit t.thm.err 5 = true ∧ t.thm.alert = true := by
  intro t
  let on := ((c.hsRead (some t0) (some t1)).modThm (fun t => { t with hsHigh := true })).thmErr 5
  have ht : t = (on.powerBeacon 6 1 (max t0.toInt t1.toInt / 16).toNat).realert :=
    (hsReadEffect_both c t0 t1).trans ((if_neg (by omega)).trans (if_pos ⟨hm, by rw [hh]; rfl⟩))
  have hon : (on.powerBeacon 6 1 (max t0.toInt t1.toInt / 16).toNat).thm = on.thm := Chip.powerBeacon_thm _ _ _ _ _
  have hhigh : on.thm.hsHigh = true := congrArg Thm.hsHigh (Chip.thmErr_thm _ 5)
  obtain ⟨_, hr⟩ := (on.powerBeacon 6 1 (max t0.toInt t1.toInt / 16).toNat).realert_thm
  rw [ht]
  refine ⟨?_, Chip.realert_bit ?_, ?_⟩
  · rw [hr, hon]
    exact hhigh
  · rw [hon, Chip.thmErr_thm]
    exact bit_setBit_same _ (by decide)
  · rw [Chip.realert_alert, Chip.alertNow_iff, hon]
    exact .inr (.inr (.inl hhigh))

theorem hsReadEffect_cool (h0 : t0.toInt ≤ 1360) (h1 : t1.toInt ≤ 1360) : let t := hsReadEffect (some t0) (some t1) c
    t.thm.hs0 = some t0 ∧ t.thm.hs1 = some t1 ∧ t.thm.hsHigh = false ∧ t.thm.hs = some (max t0.toInt t1.toInt) := by
  intro t
  let off := (c.hsRead (some t0) (some t1)).modThm (fun t => { t with hsHigh := false })
  have ht : t = off.realert :=
    (hsReadEffect_both c t0 t1).trans ((if_neg (by omega)).trans ((if_neg (by omega)).trans (if_pos (by omega))))
  obtain ⟨_, hr⟩ := off.realert_thm
  rw [ht, hr, show off.thm = { c.thm with hs0 := some t0, hs1 := some t1, hsHigh := false } by
    simp only [off, Chip.modThm, Chip.hsRead_thm]]
  exact ⟨rfl, rfl, rfl, rfl⟩

theorem Chip.hsRead_force_of_fault (c : Chip) : (c.hsRead none none).pwr.force ≤ 1100 := by
  have hcap : ∀ d : Chip, d.thm.hsFault = true → d.recap.pwr.force ≤ 1100 := fun d hd => by
    obtain ⟨_, _, h⟩ := d.recap_pwr
    rw [h]
    exact Chip.capNow_le_of_hsFault hd
  unfold Chip.hsRead Chip.liftTerm
  dsimp only
  split <;> exact hcap _ rfl

/-- Two thermistors that are faulty, one of them anew. -/
theorem hsReadEffect_none (h : c.thm.hs0.isSome = true) : ∃ d : Chip, hsReadEffect none none c = d.realert
    ∧ d.thm = { c.thm with hs0 := none, hs1 := none, err := setBit c.thm.err 6 } ∧ d.pwr = (c.hsRead none none).pwr := by
  unfold hsReadEffect
  extract_lets old put c1 c2 c3
  have h2 : c2 = (c.hsRead none none).thmErr 6 := if_pos (by simp [old, h])
  have h3 : c3.thm = c2.thm ∧ c3.pwr = c2.pwr := by
    unfold c3
    split
    · exact ⟨Chip.powerBeacon_thm _ _ _ _ _, Chip.powerBeacon_pwr _ _ _ _ _⟩
    · exact ⟨rfl, rfl⟩
  obtain ⟨hthm, hpwr⟩ := h3
  rw [h2, Chip.thmErr_thm, Chip.hsRead_thm] at hthm
  rw [h2, Chip.thmErr_pwr] at hpwr
  have hh : c3.thm.hs = none := by
    rw [hthm]
    rfl
  rw [hh]
  exact ⟨c3, rfl, hthm, hpwr⟩

/-- With both thermistors faulty E falls to 1,100 W (R376). -/
theorem hsReadEffect_faulty (h : c.thm.hs0.isSome = true) : let t := hsReadEffect none none c
    t.thm.hsFault = true ∧ bit t.thm.err 6 = true ∧ t.pwr.force ≤ 1100 := by
  obtain ⟨d, he, hthm, hpwr⟩ := hsReadEffect_none h
  obtain ⟨_, hr⟩ := d.realert_thm
  rw [he]
  refine ⟨?_, Chip.realert_bit ?_, ?_⟩
  · rw [hr, hthm]
    rfl
  · rw [hthm]
    exact bit_setBit_same _ (by decide)
  · rw [Chip.realert_pwr, hpwr]
    exact c.hsRead_force_of_fault

/-! The release of a shutdown (R374). -/

theorem Chip.setDState_reports (c : Chip) (d : DState) : Chip.Reports { c with mbx := { c.mbx with dstate := d } } (c.setDState d) := by
  unfold Chip.setDState
  split
  case isTrue h => rw [← h]; exact .refl c
  case isFalse => exact (Chip.event_reports _ _).trans (Chip.irqCause_reports _ 0)

theorem Chip.releaseReset_of_no_quarantine (h : c.flt.quarCause = 0) :
    c.releaseReset.thm = c.thm ∧ c.releaseReset.mbx.dstate = .bringup ∧ c.releaseReset.flt.rdomain = 0 := by
  unfold Chip.releaseReset
  extract_lets why c1
  rw [if_pos h]
  obtain ⟨_, _, hr⟩ := c1.recap_eq
  have h1 := Chip.setDState_reports ((c.modFlt (fun f => { f with rdomain := 0, quarCause := 0 })).modPkg (fun p => { p with pcieUp := true })) .bringup
  obtain ⟨-, hdom, -⟩ := h1.resets
  rw [hr]
  exact ⟨h1.thm, congrArg Mbx.dstate h1.mbx, hdom⟩

theorem shutdownReleaseEffect_releases {sec : Nat} (hr : c.canRelease = true) (hs : c.thm.shutdown = true) (hcool : c.cooled sec = true)
    (hq : c.flt.quarCause = 0) : let t := shutdownReleaseEffect sec c
    t.thm.shutdown = false ∧ t.mbx.dstate = .bringup ∧ t.flt.rdomain = 0 := by
  intro t
  let off := c.modThm (fun t => { t with shutdown := false })
  have ht : t = off.realert.releaseReset := if_pos (by simp [hr, hs, hcool])
  obtain ⟨_, hrep⟩ := off.realert_reports
  have hq' : off.realert.flt.quarCause = 0 := (congrArg Flt.quarCause hrep.flt : _).trans hq
  obtain ⟨hthm, hrest⟩ := Chip.releaseReset_of_no_quarantine hq'
  rw [ht, hthm]
  exact ⟨congrArg Thm.shutdown hrep.thm, hrest⟩

theorem shutdownReleaseEffect_hot {sec : Nat} (h : c.cooled sec = false) : shutdownReleaseEffect sec c = c :=
  if_neg (by simp [h])

end Sys2Proof.Machine
end

namespace Sys2Proof.Machine

/-- Settles O58: each reading, throttle step and release by the lemma on its effect. -/
theorem thermalActions : Obligations.ThermalActions := by
  unfold Obligations.ThermalActions
  intro n e st t0 t1 sec s hc
  refine ⟨fun h r u a b => ?_, fun h => ?_⟩
  · simp only [List.forall_mem_cons, List.not_mem_nil, false_implies, implies_true, and_true]
    exact ⟨gives_of_entryOff h rfl, gives_of_entryOff h rfl, gives_of_entryOff h rfl⟩
  have on : ∀ {i : Instr} {f : Chip → Chip} {t : Chip}, exec i s = s.lift (fun c => c.whenOn f) → f s.chip = t → Gives i s t :=
    fun hi ht => Gives.of_lift hi ((if_pos h).trans ht)
  have does : ∀ {i : Instr} {f : Chip → Chip} {P : Chip → Prop}, exec i s = s.lift (fun c => c.whenOn f) → P (f s.chip) → Completes i s P :=
    fun hi hP => completes_of_entryIn h hi hP
  intro c k c1 usable shuts
  have shutsBy : ∀ {i : Instr} {f : Chip → Chip} {d : Chip} (row : Nat), exec i s = s.lift (fun c => c.whenOn f) →
      f c = d.thermalShutdown row → d.thm.shutdown = c.thm.shutdown → d.thm.cntShutdown = c.thm.cntShutdown → d.flt = c.flt → shuts i :=
    fun row hi hf hs hn hd h0 hp h5 => does hi (by
      rw [hf]
      exact (Chip.thermalShutdown_shutDown (hs.trans h0) (hd ▸ hp) (hd ▸ h5) row).of_thm hn)
  have reading : ∀ {a b : Chip}, usable → (∀ x, pairTemp t0.toInt t1.toInt = some x → (if k.therm.bad then c1 else c1.coreTemp n x) = a) →
      (pairTemp t0.toInt t1.toInt = none → (if k.therm.bad then c1 else c1.sensorFault n) = a) → a.resubstitute = b →
      Gives (.sensorRead (.core n t0 t1)) s b := fun hu hsome hnone hb => on rfl (by
    refine (if_pos hu).trans (Eq.trans ?_ hb)
    split
    · next hp => exact congrArg Chip.resubstitute (hnone hp)
    · next x hp => exact congrArg Chip.resubstitute (hsome x hp))
  refine ⟨fun hu => on rfl (if_neg hu), fun hu hbad => ?_, fun hu hbad x hp => ?_, fun hu hbad hp => ?_,
    fun x hlow hx hg => Chip.coreTemp_of_cool hc n hlow hx hg, fun x hlow hx ho => Chip.coreTemp_throttles hc n hlow hx ho,
    fun x hlow hx hg => Chip.coreTemp_gates hc n hlow hx hg, fun ht => shutsBy 4 rfl (if_pos ht) rfl rfl rfl,
    fun ht => on rfl (if_neg (by omega)), fun hu ht => shutsBy 2 rfl (sensorEffect_engine_hot hu ht) rfl rfl rfl,
    fun hu ht => on rfl (sensorEffect_engine_cool hu ht), fun hu => on rfl (sensorEffect_engine_unusable hc hu),
    fun hst => on rfl (if_pos hst), fun hst h0 hlow h1 hh => does rfl (Chip.readStack_alarm hst hc h0 hlow h1 hh),
    fun hst h0 h1 => does rfl (Chip.readStack_cooled hst hc h0 h1), fun hst ht => ?_,
    fun hst h0 hlow h1 => on rfl (Chip.readStack_between hst h0 hlow (by omega) (.inl h1)),
    fun hst h0 hlow h1 hh => on rfl (Chip.readStack_between hst h0 (by omega) h1 (.inr hh)),
    fun d => ⟨d.realert_alert, Chip.alertNow_iff⟩, fun x hg hs => Chip.coreTemp_keeps_gated hc n x hg hs,
    fun x hx hs => Chip.coreTemp_ungates hc n hx hs, fun hu ht hl => does rfl (throttleEffect_core_lower hu hc ht hl),
    fun hu h0 h1 => on rfl (throttleEffect_core_between hu h0 h1), fun hu ht => does rfl (throttleEffect_core_rise hu hc ht),
    fun hu => on rfl (if_neg hu), fun hu h0 h1 => on rfl (throttleEffect_engine_between hu h0 h1),
    fun h0 h1 => on rfl (throttleEffect_stack_between h0 h1), fun hu ht hd => does rfl (throttleEffect_engine_lower hu hc ht hd),
    fun ht => ?_, fun h0 h1 hm hh => does rfl (hsReadEffect_high h0 h1 hm hh), fun h0 h1 => does rfl (hsReadEffect_cool h0 h1),
    fun hf => does rfl (hsReadEffect_faulty hf), fun hr hs hcool hq => Completes.of_lift rfl (shutdownReleaseEffect_releases hr hs hcool hq),
    fun hcool => Gives.of_lift rfl (shutdownReleaseEffect_hot hcool)⟩
  case refine_1 => exact reading hu (fun x _ => if_pos hbad) (fun _ => if_pos hbad) rfl
  case refine_2 =>
    refine reading hu (fun y hy => ?_) (fun hn => absurd (hp.symm.trans hn) (by simp)) rfl
    rw [hbad, Option.some.inj (hp.symm.trans hy)]
    rfl
  case refine_3 =>
    refine reading hu (fun y hy => absurd (hp.symm.trans hy) (by simp)) (fun _ => ?_) rfl
    rw [hbad]
    rfl
  case refine_4 =>
    obtain ⟨row, hrow⟩ := Chip.readStack_shutDown hst ht
    exact shutsBy row rfl hrow rfl rfl rfl
  case refine_5 =>
    obtain ⟨_, hd⟩ := c.hsRead_eq (some t0) (some t1)
    refine shutsBy 5 rfl (hsReadEffect_shutDown ht) ?_ ?_ ?_ <;> rw [hd]

end Sys2Proof.Machine

section
/-! SUPPORT. The management port and the host side (R394 to R400): datagrams by what they ask, the port's link, the vectors. -/
namespace Sys2Proof.Machine

variable {c : Chip} {s : State} {src : Peer} {q : List Byte}

/-! Datagrams (R399, R400). -/

theorem Chip.datagram_of_unheard (h : ¬ (c.portUp = true ∧ c.ownAddress src.sentTo = true)) (q : List Byte) : c.datagram src q = c :=
  if_pos (by
    rw [Bool.or_eq_true, Bool.not_eq_true', Bool.not_eq_true', ← Bool.not_eq_true, ← Bool.not_eq_true]
    exact not_and_or.mp h)

section
variable (h : c.portUp = true ∧ c.ownAddress src.sentTo = true)
include h

theorem Chip.datagram_of_heard (q : List Byte) : c.datagram src q = match c.request q with
    | none => c.dropDatagram
    | some (seq, op, index, off) =>
      if 256 ≤ c.pkg.served then c.dropDatagram
      else if op = 1 then c.respondPage src seq ((c.flt.dossierAt index).map (·.bytes)) off
      else if op = 2 then c.respondPage src seq (some c.telemetryBytes) off
      else c.dropDatagram :=
  if_neg (by simp [h])

theorem Chip.datagram_dropped (hq : c.request q = none ∨ 256 ≤ c.pkg.served) : c.datagram src q = c.dropDatagram := by
  rw [Chip.datagram_of_heard h]
  split
  · rfl
  · next hr => exact if_pos (hq.resolve_left (by simp [hr]))

theorem Chip.datagram_served {seq : Word} {op index off : Nat} (hr : c.request q = some (seq, op, index, off)) (hs : c.pkg.served < 256) :
    c.datagram src q = if op = 1 then c.respondPage src seq ((c.flt.dossierAt index).map (·.bytes)) off
      else if op = 2 then c.respondPage src seq (some c.telemetryBytes) off
      else c.dropDatagram := by
  rw [Chip.datagram_of_heard h, hr]
  exact if_neg (by omega)

end

theorem Chip.respondPage_of_le {obj : List Byte} {off : Nat} (seq : Word) (h : off ≤ obj.length) :
    c.respondPage src seq (some obj) off = c.mgmtRespond src seq stOk ((obj.drop off).take 1024) := by
  simp only [Chip.respondPage, paged, h, if_true]

theorem Chip.respondPage_of_lt {obj : List Byte} {off : Nat} (seq : Word) (h : obj.length < off) :
    c.respondPage src seq (some obj) off = c.mgmtRespond src seq stRange [] := by
  simp only [Chip.respondPage, paged, Nat.not_le.mpr h, if_false]

/-- What a datagram on one of the three commands does, for a package that hears it. -/
theorem gives_of_datagram {i : Instr} (hi : exec i s = s.lift (fun c => c.datagram src q)) (seq : Word) (op index off : Nat) :
    let c := s.chip
    (c.portUp = true ∧ c.ownAddress src.sentTo = true) →
      (c.request q = none ∨ 256 ≤ c.pkg.served → Gives i s { c with pkg := { c.pkg with mgmtDrop := satInc c.pkg.mgmtDrop 1 } })
      ∧ (c.request q = some (seq, op, index, off) → c.pkg.served < 256 →
        (op = 1 → Gives i s (c.respondPage src seq ((c.flt.dossierAt index).map (·.bytes)) off))
        ∧ (op = 2 → Gives i s (c.respondPage src seq (some c.telemetryBytes) off))
        ∧ (op ≠ 1 → op ≠ 2 → Gives i s { c with pkg := { c.pkg with mgmtDrop := satInc c.pkg.mgmtDrop 1 } })) := by
  intro c h
  refine ⟨fun hq => Gives.of_lift hi (Chip.datagram_dropped h hq), fun hr hs => ⟨fun h1 => ?_, fun h2 => ?_, fun h1 h2 => ?_⟩⟩
  · exact Gives.of_lift hi ((Chip.datagram_served h hr hs).trans (if_pos h1))
  · exact Gives.of_lift hi ((Chip.datagram_served h hr hs).trans ((if_neg (by omega)).trans (if_pos h2)))
  · exact Gives.of_lift hi ((Chip.datagram_served h hr hs).trans ((if_neg h1).trans (if_neg h2)))

/-! Addresses and the port's link (R397). -/

theorem Chip.portUp_iff : c.portUp = true ↔ c.pkg.entryIn = true ∧ c.pkg.mgmtUp = true ∧ c.pkg.dupLocal = false := by
  simp [Chip.portUp, and_assoc]

theorem Chip.ownAddress_iff {a : BitVec 128} : c.ownAddress a = true ↔
    a = linkLocal ∨ (a = c.nor.beacon.unicast ∧ a ≠ 0 ∧ c.pkg.dupUnicast = false) := by
  simp only [Chip.ownAddress, Chip.unicastUsed, Bool.or_eq_true, Bool.and_eq_true, beq_iff_eq, bne_iff_ne, Bool.not_eq_true']
  refine or_congr Iff.rfl ⟨fun ⟨⟨h0, hd⟩, ha⟩ => ⟨ha, ha ▸ h0, hd⟩, fun ⟨ha, h0, hd⟩ => ⟨⟨ha ▸ h0, hd⟩, ha⟩⟩

theorem portLinkEffect_off {l : PortLink} (h : c.pkg.entryIn = false ∨ l.up = false) : portLinkEffect l c =
    { c with pkg := { c.pkg with mgmtUp := false, mgmtAuto := false, dupLocal := false, dupUnicast := false } } := by
  have hon : (l.up && c.pkg.entryIn) = false := by
    obtain h | h := h <;> simp [h]
  simp only [portLinkEffect, hon, Bool.false_and, Bool.false_eq_true, if_false]
  rfl

theorem portLinkEffect_on {l : PortLink} (h : c.pkg.entryIn = true) (hup : l.up = true) (h0 : c.nor.beacon.unicast = 0) : portLinkEffect l c =
    { c with pkg := { c.pkg with mgmtUp := true, mgmtAuto := true, dupLocal := l.dupLocal, dupUnicast := false } }.emit (.probe linkLocal) := by
  have hon : (l.up && c.pkg.entryIn) = true := by simp [h, hup]
  simp only [portLinkEffect, hon, h0, bne_self_eq_false, Bool.and_false, Bool.true_and, Bool.false_and, Bool.false_eq_true, if_true, if_false]
  rfl

theorem portLinkEffect_on_unicast {l : PortLink} (h : c.pkg.entryIn = true) (hup : l.up = true) (h0 : c.nor.beacon.unicast ≠ 0) :
    portLinkEffect l c = ({ c with pkg := { c.pkg with mgmtUp := true, mgmtAuto := true, dupLocal := l.dupLocal, dupUnicast := l.dupUnicast } }.emit
      (.probe linkLocal)).emit (.probe c.nor.beacon.unicast) := by
  have hu : (c.nor.beacon.unicast != 0) = true := bne_iff_ne.mpr h0
  have hon : (l.up && c.pkg.entryIn) = true := by simp [h, hup]
  simp only [portLinkEffect, hon, hu, Bool.and_true, Bool.true_and, if_true]
  rfl

/-! Vectors (R394). -/

theorem bit_setPba_clear (w : BitVec 8) (v : Fin 8) : bit (setPba w v.val false) v.val = false := by
  have hone : (BitVec.ofNat 8 (2 ^ v.val)).getLsbD v.val = true := by
    rw [BitVec.getLsbD_ofNat, Nat.testBit_two_pow_self, Bool.and_true]
    exact decide_eq_true v.isLt
  rw [bit, setPba, if_neg Bool.false_ne_true, BitVec.getLsbD_and, BitVec.getLsbD_not, hone, Bool.not_true, Bool.and_false, Bool.and_false]

theorem msixEffect_sends {v : Fin 8} (hp : bit c.pkg.pba v.val = true ∨ bit c.pkg.merge v.val = true) (hs : c.pkg.canSend v.val = true)
    (hb : c.vectorBusy v.val = false) : let t := msixEffect v c
    t.out = c.out ++ [.msix (tget 0 c.pkg.msix (4 * v.val + 1) ++ tget 0 c.pkg.msix (4 * v.val)) (tget 0 c.pkg.msix (4 * v.val + 2))]
      ∧ bit t.pkg.pba v.val = false ∧ bit t.pkg.merge v.val = false := by
  have hor : (bit c.pkg.pba v.val || bit c.pkg.merge v.val) = true := Bool.or_eq_true _ _ ▸ hp
  have he : msixEffect v c = _ := (if_pos (by simp [hor, hs, hb])).trans (if_pos hs)
  rw [he]
  exact ⟨rfl, bit_setPba_clear _ v, bit_setPba_clear _ v⟩

theorem msixEffect_keeps {v : Fin 8} (h : (bit c.pkg.pba v.val = false ∧ bit c.pkg.merge v.val = false) ∨ c.pkg.canSend v.val = false
    ∨ c.vectorBusy v.val = true) : msixEffect v c = c := by
  refine if_neg ?_
  obtain ⟨hp, hm⟩ | hs | hb := h
  · simp [hp, hm]
  · simp [hs]
  · simp [hb]

end Sys2Proof.Machine
end

namespace Sys2Proof.Machine

/-- Settles O59: the endpoint, the vectors, datagrams by what they ask, the addresses and the port's link. -/
theorem hostAndManagementPort : Obligations.HostAndManagementPort := by
  unfold Obligations.HostAndManagementPort
  intro v src a q seq op index off up s c p heard asks vec
  refine ⟨Completes.of_lift rfl ⟨rfl, rfl, rfl, rfl, rfl, rfl, rfl, rfl, rfl⟩, fun hp hs hb => Completes.of_lift rfl (msixEffect_sends hp hs hb),
    fun h => Gives.of_lift rfl (msixEffect_keeps h), gives_of_datagram rfl seq op index off, gives_of_datagram rfl seq op index off,
    gives_of_datagram rfl seq op index off, fun st data => ⟨rfl, rfl⟩, fun obj => ⟨Chip.respondPage_of_le seq, Chip.respondPage_of_lt seq⟩, rfl,
    fun h => ?_, fun hu ho => ?_, fun h => ?_, Chip.portUp_iff, Chip.ownAddress_iff, fun h => Gives.of_lift rfl (portLinkEffect_off h),
    fun h hup h0 => Gives.of_lift rfl (portLinkEffect_on h hup h0), fun h hup h0 => Gives.of_lift rfl (portLinkEffect_on_unicast h hup h0)⟩
  · have hq := Chip.datagram_of_unheard h q
    have keeps : ∀ {i : Instr}, exec i s = s.lift (fun c => c.datagram src q) → Gives i s c := fun hi => Gives.of_lift hi hq
    exact ⟨keeps rfl, keeps rfl, keeps rfl⟩
  · have hboth : (c.portUp && c.ownAddress a) = true := by simp [hu, ho]
    exact ⟨Gives.of_lift rfl (if_pos hboth), Gives.of_lift rfl (if_pos hboth)⟩
  · have hnot : ¬ (c.portUp && c.ownAddress a) = true := by
      obtain h | h := h <;> simp [h]
    exact ⟨Gives.of_lift rfl (if_neg hnot), Gives.of_lift rfl (if_neg hnot)⟩

end Sys2Proof.Machine

section
/-! SUPPORT. MCTP over I3C (R401 to R413): identifiers, attestation pages, staging, activation and BEACON_CFG by their cases. -/
namespace Sys2Proof.Machine

variable {c : Chip}

/-! Identifiers (R401). -/

theorem setEidEffect_sets {e : SetEid} (h : e.eid ≠ 0 ∧ e.eid ≠ 0xFF ∧ e.op.toNat < 2) :
    setEidEffect e c = { c with pkg := { c.pkg with eid := some e.eid } }.emit (.mctp [0, 1, 0, 0, e.eid, 0]) := by
  obtain ⟨h0, h1, h2⟩ := h
  refine if_neg ?_
  rintro (h | h | h)
  · exact h0 h
  · exact h1 h
  · omega

theorem setEidEffect_refuses {e : SetEid} (h : ¬ (e.eid ≠ 0 ∧ e.eid ≠ 0xFF ∧ e.op.toNat < 2)) :
    setEidEffect e c = c.emit (.mctp [0, 1, 2]) := by
  refine if_pos ?_
  by_contra hn
  obtain ⟨h0, h1, h2⟩ : e.eid ≠ 0 ∧ e.eid ≠ 0xFF ∧ ¬ 2 ≤ e.op.toNat := by simpa only [not_or] using hn
  exact h ⟨h0, h1, by omega⟩

/-! The telemetry record (Table 15-5). -/

theorem tempBytes_length (t : Option Int) : (tempBytes t).length = 2 := by
  cases t <;> exact leBytes_length 2 _

theorem wordBytes_length (w : Word) : (wordBytes w).length = 4 := leBytes_length 4 _

theorem flatMap_wordBytes_length {α : Type} (f : α → Word) (l : List α) : (l.flatMap (fun x => wordBytes (f x))).length = 4 * l.length := by
  induction l with
  | nil => rfl
  | cons x l ih => rw [List.flatMap_cons, List.length_append, ih, wordBytes_length, List.length_cons]; omega

theorem Chip.telemetryBytes_length (c : Chip) : c.telemetryBytes.length = 128 := by
  have hctx : allCtxs.length = 16 := List.length_finRange
  simp only [Chip.telemetryBytes, List.length_append, leBytes_length, tempBytes_length, flatMap_wordBytes_length, List.length_replicate,
    List.length_cons, List.length_nil, hctx]

/-! Attestation (R412). -/

theorem padTo_padTo (l : List Byte) (n : Nat) : padTo (padTo l n) n = padTo l n := padTo_of_length (by simp [padTo, slice])

/-- A page of the report that the interface keeps, where the nonce is that report's. -/
def reportPage (last : Option (List Byte)) (nonce : List Byte) (off : Nat) : Option (List Byte) :=
  last.bind (fun b => if slice b 16 32 = padTo nonce 32 then paged b off 1024 else none)

theorem Chip.attestWith_page (c : Chip) (last : Option (List Byte)) (nonce : List Byte) {off : Nat} (ho : off ≠ 0) :
    ∃ field, c.attestWith last (padTo nonce 32) off 1024 = (reportPage last nonce off, field, last) := by
  unfold Chip.attestWith
  rw [if_neg ho]
  cases last with
  | none => exact ⟨_, rfl⟩
  | some b =>
    dsimp only
    rw [padTo_padTo]
    by_cases hb : slice b 16 32 = padTo nonce 32
    · rw [if_neg (by simp [hb])]
      exact ⟨_, congrArg (·, _, _) (if_pos hb).symm⟩
    · rw [if_pos (bne_iff_ne.mpr hb)]
      exact ⟨_, congrArg (·, _, _) (if_neg hb).symm⟩

section
variable {tag : BitVec 16} {nonce : List Byte} {off : Word}

theorem mctpAttestEffect_first : let t := mctpAttestEffect tag nonce 0 c
    t.pkg = { c.pkg with reportMctp := some (c.report (padTo nonce 32)) }
      ∧ t.out = (c.vendor 3 tag stOk ((c.report (padTo nonce 32)).take 1024)).out := ⟨rfl, rfl⟩

/-- A later page leaves the report that the interface keeps. -/
theorem mctpAttestEffect_page (ho : off ≠ 0) : mctpAttestEffect tag nonce off c = match reportPage c.pkg.reportMctp nonce off.toNat with
    | some d => c.vendor 3 tag stOk d
    | none => c.vendor 3 tag stRange [] := by
  obtain ⟨_, h⟩ := c.attestWith_page c.pkg.reportMctp nonce (off := off.toNat) (fun h => ho (BitVec.eq_of_toNat_eq h))
  unfold mctpAttestEffect
  rw [h]
  rfl

theorem mctpAttestEffect_none (ho : off ≠ 0) (hr : reportPage c.pkg.reportMctp nonce off.toNat = none) :
    mctpAttestEffect tag nonce off c = c.vendor 3 tag stRange [] := by
  rw [mctpAttestEffect_page ho, hr]

theorem mctpAttestEffect_some (ho : off ≠ 0) {d : List Byte} (hr : reportPage c.pkg.reportMctp nonce off.toNat = some d) :
    mctpAttestEffect tag nonce off c = c.vendor 3 tag stOk d := by
  rw [mctpAttestEffect_page ho, hr]

end

section
variable {b nonce : List Byte} {off : Nat}

theorem reportPage_other (h : slice b 16 32 ≠ padTo nonce 32) : reportPage (some b) nonce off = none := if_neg h

theorem reportPage_of_le (h : slice b 16 32 = padTo nonce 32) (ho : off ≤ b.length) :
    reportPage (some b) nonce off = some ((b.drop off).take 1024) := (if_pos h).trans (if_pos ho)

theorem reportPage_of_lt (h : slice b 16 32 = padTo nonce 32) (ho : b.length < off) : reportPage (some b) nonce off = none :=
  (if_pos h).trans (if_neg (by omega))

end

/-! Firmware and dossiers (R403, R408, R409). -/

section
variable {tag index : BitVec 16} {off len : Word} {chunk : List Byte}

theorem mctpStageEffect_taken (hl : chunk.length ≤ 1024) (hr : c.stageRefusal true off.toNat len.toNat chunk.length = none) :
    mctpStageEffect tag off len chunk c =
      (c.stageChunk true off.toNat len.toNat chunk).1.vendor 4 tag (c.stageChunk true off.toNat len.toNat chunk).2 [] := by
  rw [mctpStageEffect, if_neg (by omega), hr]

theorem mctpStageEffect_refused (hl : chunk.length ≤ 1024) (hr : c.stageRefusal true off.toNat len.toNat chunk.length ≠ none) :
    mctpStageEffect tag off len chunk c = c.vendor 4 tag stRange [] := by
  obtain ⟨_, hr⟩ := Option.ne_none_iff_exists'.mp hr
  rw [mctpStageEffect, if_neg (by omega), hr]

theorem mctpActivateEffect_legal (hl : c.fwLegal = true) : mctpActivateEffect tag c =
    if c.canActivate then (c.activate true (tag.setWidth 32) none).vendor 5 tag stOk [] else c.vendor 5 tag stAuth [] :=
  if_neg (by simp [hl])

theorem mctpActivateEffect_conflict (hl : c.fwLegal = false) : mctpActivateEffect tag c = c.vendor 5 tag stConflict [] :=
  if_pos (by simp [hl])

theorem mctpDossierEffect_some {b : List Byte} (h : (c.flt.dossierAt index.toNat).bind (fun d => paged d.bytes off.toNat 1024) = some b) :
    mctpDossierEffect tag index off c = c.vendor 6 tag stOk b := by
  rw [mctpDossierEffect, h]

theorem mctpDossierEffect_none (h : (c.flt.dossierAt index.toNat).bind (fun d => paged d.bytes off.toNat 1024) = none) :
    mctpDossierEffect tag index off c = c.vendor 6 tag stRange [] := by
  rw [mctpDossierEffect, h]

end

/-! BEACON_CFG (R397, Table 15-4). -/

section
variable {tag : BitVec 16} {b : BeaconCfg} {dup : Bool}

theorem beaconCfgEffect_unasked (hh : b.hop ≠ 0) (ha : ¬ (c.portUp = true ∧ b.unicast ≠ 0)) : beaconCfgEffect tag b dup c =
    { c with nor := { c.nor with beacon := b }, pkg := { c.pkg with dupUnicast := false } }.vendor 7 tag stOk [] := by
  have hasks : (c.portUp && b.unicast != 0) = false := by
    rw [← Bool.not_eq_true, Bool.and_eq_true, bne_iff_ne]
    exact ha
  simp only [beaconCfgEffect, hh, hasks, Bool.false_and, Bool.false_eq_true, if_false]
  rfl

theorem beaconCfgEffect_asked (hh : b.hop ≠ 0) (ha : c.portUp = true ∧ b.unicast ≠ 0) : beaconCfgEffect tag b dup c =
    ({ c with nor := { c.nor with beacon := b }, pkg := { c.pkg with dupUnicast := dup } }.emit (.probe b.unicast)).vendor 7 tag stOk [] := by
  have hasks : (c.portUp && b.unicast != 0) = true := by
    rw [Bool.and_eq_true, bne_iff_ne]
    exact ha
  simp only [beaconCfgEffect, hh, hasks, Bool.true_and, if_false, if_true]
  rfl

end

end Sys2Proof.Machine
end

namespace Sys2Proof.Machine

/-- Settles O60: off, nothing is answered; on, each message by the lemma on its case. -/
theorem mctpMessages : Obligations.MctpMessages := by
  unfold Obligations.MctpMessages
  intro addr eid hop tag x y index off len chunk nonce d1 d2 u key s
  refine ⟨fun h => ?_, fun h => ?_⟩
  · simp only [List.forall_mem_cons, List.not_mem_nil, false_implies, implies_true, and_true]
    exact ⟨gives_of_entryOff h rfl, gives_of_entryOff h rfl, gives_of_entryOff h rfl, gives_of_entryOff h rfl, gives_of_entryOff h rfl,
      gives_of_entryOff h rfl, gives_of_entryOff h rfl, gives_of_entryOff h rfl, gives_of_entryOff h rfl, gives_of_entryOff h rfl,
      gives_of_entryOff h rfl, gives_of_entryOff h rfl⟩
  have on : ∀ {i : Instr} {f : Chip → Chip} {t : Chip}, exec i s = s.lift (fun c => c.whenOn f) → f s.chip = t → Gives i s t :=
    fun hi ht => Gives.of_lift hi ((if_pos h).trans ht)
  intro c p tells sets asked vid cfg page chunks
  refine ⟨on rfl rfl, fun hs => on rfl (setEidEffect_sets hs), fun hs => on rfl (setEidEffect_refuses hs), on rfl rfl, on rfl rfl,
    completes_of_entryIn h rfl ⟨wordBytes c.freeWord.1, wordBytes_length _, rfl, rfl⟩, fun _ _ _ _ => rfl, on rfl rfl, c.telemetryBytes_length,
    on rfl rfl, completes_of_entryIn h rfl mctpAttestEffect_first,
    fun ho hr => on rfl (mctpAttestEffect_none ho (congrArg (reportPage · nonce off.toNat) hr)), fun b ho hr => ?_,
    fun hl => on rfl (if_pos hl), fun hl hr => on rfl (mctpStageEffect_taken hl hr), fun hl hr => on rfl (mctpStageEffect_refused hl hr),
    fun hl ha => on rfl ((mctpActivateEffect_legal hl).trans (if_pos ha)),
    fun hl ha => on rfl ((mctpActivateEffect_legal hl).trans (if_neg (Bool.eq_false_iff.mp ha))),
    fun hl => on rfl (mctpActivateEffect_conflict hl), fun b hb => on rfl (mctpDossierEffect_some hb), fun hb => on rfl (mctpDossierEffect_none hb),
    fun hh ha => on rfl (beaconCfgEffect_unasked hh ha), fun hh ha => on rfl (beaconCfgEffect_asked hh ha), fun hh => on rfl (if_pos hh)⟩
  have hpage : ∀ {r}, reportPage (some b) nonce off.toNat = r → reportPage c.pkg.reportMctp nonce off.toNat = r := fun h =>
    (congrArg (reportPage · nonce off.toNat) hr).trans h
  exact ⟨fun hn => on rfl (mctpAttestEffect_none ho (hpage (reportPage_other hn))),
    fun hn hle => on rfl (mctpAttestEffect_some ho (hpage (reportPage_of_le hn hle))),
    fun hn hlt => on rfl (mctpAttestEffect_none ho (hpage (reportPage_of_lt hn hlt)))⟩

end Sys2Proof.Machine
